-- ==== Sys2Proof/Word.lean ====
section
/-! DEFINITION. The words of the machine: bytes, 32-bit registers, and the plainest arithmetic on them. -/

namespace Sys2Proof

/-- One byte of a memory structure (R6: multi-byte fields are little-endian). -/
abbrev Byte := BitVec 8

/-- A register occupies 32 bits (R6). -/
abbrev Word := BitVec 32

/-- A 64-bit quantity: a pair of registers, a stamp, an event argument (R6, R516). -/
abbrev DWord := BitVec 64

/-- Bits [hi:lo] of a number, as R6 writes a field. -/
def bitsOf (n hi lo : Nat) : Nat := (n >>> lo) % 2 ^ (hi + 1 - lo)

/-- Bit i of a number. -/
def bitOf (n i : Nat) : Bool := (n >>> i) % 2 == 1

end Sys2Proof
end

