-- ==== Sys2Proof/Syntax.lean ====
section
/-! DEFINITION. The commands of the block: one constructor of Instr for each row of spec/opcode_table.json, in the
table's order, with the operands the row's rules name. What the outside world decides (the verdict of a tag check,
the status a NAND die reports, a measured quantity) is an operand. -/

namespace Sys2Proof

/-- The three paths by which a register access arrives (R523). -/
inductive Requester where
  | host | sideband | jtag
  deriving DecidableEq, Repr

/-- A glade s.g (R5). -/
structure GladePath where
  stand : Nat
  glade : Nat
  deriving DecidableEq, Repr

/-- A copse s.g.c (R5). -/
structure CopsePath where
  stand : Nat
  glade : Nat
  copse : Nat
  deriving DecidableEq, Repr

/-- A flash channel s.k and its ranger (R5). -/
structure ChanPath where
  stand : Nat
  chan : Nat
  deriving DecidableEq, Repr

/-- A NAND die of a channel (R201). -/
structure DiePath where
  stand : Nat
  chan : Nat
  die : Nat
  deriving DecidableEq, Repr

/-- A block of a NAND die (R201). -/
structure BlockPath where
  stand : Nat
  chan : Nat
  die : Nat
  block : Nat
  deriving DecidableEq, Repr

/-- A stack s.p and its port (R5). -/
structure StackPath where
  stand : Nat
  port : Nat
  deriving DecidableEq, Repr

/-- One calendar of a running job: the job number and the calendar's index in the almanac's directory (R122). -/
structure UnitRef where
  job : Nat
  cal : Nat
  deriving DecidableEq, Repr

/-- A command as the queue engine fetched it: where it came from, the namespace ID, CDW10 to CDW15 (R378) and the
bytes of its data buffer as the host holds them. -/
structure Cmd where
  sqid : Nat
  cid : Nat
  nsid : Nat
  cdw10 : Word
  cdw11 : Word
  cdw12 : Word
  cdw13 : Word
  cdw14 : Word
  cdw15 : Word
  buf : List Byte
  deriving DecidableEq, Repr

/-- What opening a sealed message gave: whether its tag (and any signature) verified, and the plaintext. -/
structure Opened where
  tagOk : Bool
  plain : List Byte
  deriving DecidableEq, Repr

/-- How a read of a stored line decoded (R488, R495). -/
inductive EccResult where
  | clean | corrected (syndrome : BitVec 16) | uncorrectable (syndrome : BitVec 16)
  deriving DecidableEq, Repr

/-- How one attempt of a NAND codeword read passed the ranger's stages 1 and 2 (R221): the corrected bits when it
passed. -/
inductive CodewordResult where
  | passed (bits : Nat) | failed
  deriving DecidableEq, Repr

/-- Where a control parity error struck (R503). -/
inductive Sequencer where
  | copse (p : CopsePath)
  | gladeUnit (g : GladePath)
  | channel (c : ChanPath)
  | standControl (s : Nat)
  | hub (index : Nat)
  deriving DecidableEq, Repr

/-- Why a day ended uncommitted and restarts (R146, R147, R503, R163). -/
inductive DayFault where
  | tagMismatch | ringOwnership | addressFault | poison | unitReset | sealFail | standLost
  deriving DecidableEq, Repr

/-- Why a stand is declared failed (R507). -/
inductive StandFailCause where
  | watchdog | rail | stack | hubLink | puf
  deriving DecidableEq, Repr

/-- What a cold start found (R472 to R480). -/
structure ColdReport where
  bankUf : Nat
  pufOk : List Bool
  blobOk : List Bool
  trngOk : Bool
  recordOk : List Bool
  standRailOk : List Bool
  stackOk : List Bool
  packageOk : List Bool
  channelRate : List Nat
  bbtOk : List Bool
  mapOk : Bool
  inBound : Bool
  failStep : Nat
  durationMs : Nat
  mgmtSel : Bool
  deriving DecidableEq, Repr

/-- What a warm start found (R476). -/
structure WarmReport where
  stacksHeld : Bool
  mapSumsOk : Bool
  durationMs : Nat
  deriving DecidableEq, Repr

/-- A Chowen frame as it reached a port, with the verdicts of its CRC and its tag (R443, R444). -/
structure Frame where
  crcOk : Bool
  tagOk : Bool
  kind : Nat
  channel : Nat
  generation : Nat
  seq : Nat
  epoch : Nat
  ack : Nat
  src : Nat
  dst : Nat
  msgNo : Nat
  msgOff : Nat
  last : Bool
  payload : List Byte
  deriving DecidableEq, Repr

/-- A handshake message as it was checked (R448, R449). -/
structure Handshake where
  generations : BitVec 16
  forestId : DWord
  chainOk : Bool
  certOk : Bool
  sigOk : Bool
  deriving DecidableEq, Repr

/-- One answer of a peer to a fan-out search (R461). -/
structure PeerEntry where
  node : Nat
  object : Nat
  chunk : Nat
  key : BitVec 32
  attrs : List Byte
  deriving DecidableEq, Repr

/-- The counts a peer's answer header carries (R301, R461). -/
structure PeerCounts where
  hops : Nat
  scored : Nat
  scanned : Nat
  badEdges : Nat
  unreadable : Nat
  deriving DecidableEq, Repr

inductive Instr where
  -- partitions, sessions, almanacs, operator administration
  | partitionCreate (c : Cmd)
  | partitionRelease (c : Cmd)
  | openSession (c : Cmd) (pointOk : Bool)
  | finish (c : Cmd) (proofOk tagOk : Bool)
  | sealPartition (c : Cmd) (o : Opened)
  | key (c : Cmd) (o : Opened)
  | close (c : Cmd) (o : Opened)
  | almanacLoad (c : Cmd)
  | almanacUnload (c : Cmd)
  | retireStackPage (c : Cmd)
  | retireGladeBank (c : Cmd)
  | retireCopseScratchBank (c : Cmd)
  | bankRetirement (g : GladePath)
  | quotaSet (c : Cmd)
  | forestConfigLoad (c : Cmd)
  | forestConfigStatus (c : Cmd)
  | forestConfigRestore (c : Cmd)
  | evidence (c : Cmd)
  -- NVMe admin commands
  | identify (c : Cmd)
  | getFeatures (c : Cmd)
  | setFeatures (c : Cmd)
  | getLogPage (c : Cmd)
  | createIoSubmissionQueue (c : Cmd)
  | createIoCompletionQueue (c : Cmd)
  | deleteIoSubmissionQueue (c : Cmd)
  | deleteIoCompletionQueue (c : Cmd)
  | abort (c : Cmd)
  | asynchronousEventRequest (c : Cmd)
  | formatNvm (c : Cmd)
  | sanitize (c : Cmd)
  -- NVM commands
  | nvmRead (c : Cmd)
  | nvmWrite (c : Cmd)
  | flush (c : Cmd)
  | writeZeroes (c : Cmd)
  | datasetManagement (c : Cmd)
  | bufferSlotGranted (sqid cid : Nat)
  -- vendor I/O commands
  | vzIngestAppend (c : Cmd) (o : Opened)
  | vzIngestDelete (c : Cmd) (o : Opened)
  | vzSearch (c : Cmd) (o : Opened)
  | vzRun (c : Cmd) (o : Opened)
  | vzProgress (c : Cmd)
  | vzLookup (c : Cmd) (o : Opened)
  | vzSeason (c : Cmd)
  | seasonTakesEffect (partition : Nat)
  | versionFlip (partition : Nat)
  | versionFreeing (partition : Nat)
  | extentAdd (c : Cmd) (o : Opened)
  | extentRemove (c : Cmd) (o : Opened)
  | tableCreate (c : Cmd) (o : Opened)
  | tableLoad (c : Cmd) (o : Opened)
  | tableInstall (c : Cmd) (o : Opened)
  | tableDelete (c : Cmd) (o : Opened)
  | tableDiscard (c : Cmd) (o : Opened)
  | adapterCreate (c : Cmd) (o : Opened)
  | adapterLoad (c : Cmd) (o : Opened)
  | adapterExport (c : Cmd) (o : Opened)
  | adapterDelete (c : Cmd) (o : Opened)
  | reside (c : Cmd) (o : Opened) (unitsOk : Bool)
  | evict (c : Cmd) (o : Opened)
  | rowsetCreate (c : Cmd) (o : Opened)
  | rowsetLoad (c : Cmd) (o : Opened)
  | rowsetRead (c : Cmd) (o : Opened)
  | rowsetDelete (c : Cmd) (o : Opened)
  | step (c : Cmd) (tickets : List Opened)
  -- sideband, SPDM, IDE, TDISP
  | nvmeMiRegisterRead (offset count : Nat)
  | nvmeMiRegisterWrite (offset : Nat) (values : List Word)
  | getMeasurements (index : Nat) (nonce : BitVec 256)
  | getCertificate (slot offset length : Nat)
  | challenge (slot : Nat) (nonce : BitVec 256)
  | keyExchange (slot : Nat)
  | heartbeat (session : Nat)
  | keyUpdate (session : Nat)
  | ideKmKeyProg (session stream : Nat)
  | ideIntegrityFailure (stream : Nat)
  | lockInterfaceRequest (session : Nat)
  | stopInterfaceRequest (session : Nat)
  | tdispError
  -- register accesses
  | bar2RegisterWrite (r : Requester) (offset : Nat) (value : Word)
  | pairedLoRead (r : Requester) (offset : Nat)
  | doorbellWrite (queue tail : Nat)
  | commandFetch (queue : Nat) (opcode : Nat) (c : Cmd)
  | copseHealthRelease (r : Requester) (p : CopsePath)
  | copseChkInjectArm (r : Requester) (p : CopsePath) (value : Word)
  | tmoLimitWrite (r : Requester) (offset : Nat) (value : Word)
  | chSuspCfgWrite (r : Requester) (ch : ChanPath) (value : Word)
  | rawRead (r : Requester) (ch : ChanPath) (value : Word) (maxBits : Nat)
  | rawProgram (r : Requester) (ch : ChanPath) (value : Word) (data : List Byte) (statusFail : Bool)
  | rawErase (r : Requester) (ch : ChanPath) (value : Word) (statusFail : Bool)
  | migWinReqWrite (r : Requester) (g : GladePath) (value : Word)
  | migWinChange (g : GladePath)
  | commonsMeasure (r : Requester)
  | measurementComplete (readOk : Bool)
  | commonsUnseal (r : Requester)
  | commonsIdxAlmWrite (r : Requester) (value : Word)
  | commonsQryAlmWrite (r : Requester) (value : Word)
  | commonsIdxCfgWrite (r : Requester) (value : Word)
  | commonsQryCfgWrite (r : Requester) (value : Word)
  | tblHotApply (r : Requester)
  | tblHotClear (r : Requester)
  | tblHotRowWrite (r : Requester) (row : Word)
  | warmReq (r : Requester)
  | coldReq (r : Requester)
  | safeExit (r : Requester)
  | scanEn (r : Requester)
  | pwrCapWrite (r : Requester) (value : Word) (nonCoreWatts : Nat)
  | ecctRawWrite (r : Requester)
  | ecctRawRead (r : Requester)
  | ecctCheckedRead (r : Requester) (found : EccResult)
  | dbgMemRead (r : Requester) (byLocation : Bool)
  | quotaSelWrite (r : Requester) (value : Word)
  | quotaSnap (r : Requester)
  | quotaPeakClr (r : Requester)
  | errClr (r : Requester) (page : Nat)
  | evtCauseClear (r : Requester) (page : Nat) (value : Word)
  | evtForce (r : Requester) (page : Nat) (value : Word)
  | dspReserveWrite (r : Requester) (n : Nat) (value : Word)
  | dumpWinWrite (r : Requester) (offset : Nat) (value : Word)
  | smbAddrWrite (r : Requester) (value : Word)
  | partCfgWrite (r : Requester) (value : Word)
  | dbgReqCfgWrite (r : Requester) (value : Word)
  -- input, pins, resets
  | inputLow
  | inputLowClear
  | inputHigh
  | inputOvervoltage
  | holdup
  | holdupComplete (inputOk alwaysOnKept : Bool)
  | perstAssert
  | nvmSubsystemReset
  | pwrdisAssert
  | pwrdisRelease
  | refclkLoss
  | controllerReset
  | controllerEnable
  | shutdownNormal
  | shutdownAbrupt
  | cableAttach (port : Nat) (healthyLanes : List Bool)
  | cableRemove (port : Nat)
  | linkRetrain (port : Nat) (uncorrectable : Nat) (healthyLanes : List Bool)
  | brownOut (ch : ChanPath)
  | brownOutExit (ch : ChanPath)
  -- timeouts and periodic events
  | nandOpTimeout (d : DiePath) (eraseAgainOk : Bool)
  | mediaAccessTimeout (access : Nat)
  | blockCommandTimeout (sqid cid : Nat)
  | dayLimitExpiry (job : Nat) (accessRetrying : Bool)
  | copsePassTimeout (p : CopsePath)
  | cancellationStop (access : Nat) (success : Bool)
  | waitBudgetExpiry (u : UnitRef)
  | srmWindowEnd (stand : Nat)
  | pendingSessionExpiry (partition session : Nat)
  | watchdogFire (index : Nat)
  | trngRetest (healthy : Bool)
  | zqCalibration (ch : ChanPath)
  | patrolRead (p : StackPath) (found : EccResult) (segmentReads : Bool)
  | backgroundScan (b : BlockPath) (overThreshold : Bool)
  | suspendHoldExpiry (d : DiePath)
  | apstTransition
  | powerStateEntry (ps : Nat)
  | ackFrameSend (port peer : Nat)
  | resendTimeout (port peer : Nat)
  | handshakeRetry (port peer : Nat)
  | fanoutWaitExpiry (search : Nat)
  | queryBatchStart
  | hotRefreshInterval (partition table : Nat)
  | thermalThrottleTick (stand tj : Nat)
  | thermalTrip (stand tj : Nat)
  | powerSample (watts : Nat) (underForOneMs : Bool)
  | startLogClear
  | idleRetentionEntry (g : GladePath) (bank : Nat)
  | checkpoint
  -- copse
  | copseStep (p : CopsePath)
  | pass (u : UnitRef)
  | ctx (u : UnitRef)
  | dawnRelease (p : CopsePath)
  | harv (u : UnitRef)
  | harvComplete (p : CopsePath)
  -- movers, sorter, vector unit
  | move (u : UnitRef)
  | moveComplete (u : UnitRef)
  | offloadSlotPrefetch (job buffer slot : Nat) (tagOk : Bool) (plain : List Byte) (seq : Nat)
  | gather (u : UnitRef)
  | scatter (u : UnitRef)
  | permute (u : UnitRef)
  | returnColumns (u : UnitRef)
  | routeSelect (u : UnitRef)
  | regroup (u : UnitRef)
  | slotTranspose (u : UnitRef)
  | vec (u : UnitRef)
  | rng (u : UnitRef)
  -- tokens, waits, days, jobs
  | put (u : UnitRef)
  | take (u : UnitRef)
  | wait (u : UnitRef)
  | fillComplete (job buffer : Nat)
  | fence (u : UnitRef)
  | day (u : UnitRef)
  | dayCommit (job : Nat)
  | dayFaultRestart (job : Nat) (cause : DayFault)
  | jobBind (job : Nat)
  | lendCopse (p : CopsePath) (job logical : Nat)
  | borrowerYield (p : CopsePath)
  -- flash and translation layer
  | nandReadComplete (access : Nat) (results : List CodewordResult) (gcmOk : Bool)
  | mediaAccessComplete (access : Nat) (channelParityOk crossParityOk : Bool)
  | wordlineProgram (ch : ChanPath) (die group : Nat)
  | nandProgramComplete (d : DiePath) (statusFail relocatedFails : Bool)
  | flagLogProgramComplete (d : DiePath)
  | nandEraseComplete (d : DiePath) (statusFail : Bool)
  | clearRecordDurable (d : DiePath)
  | reclaim
  | relocation (index : Nat)
  | wearLevel
  | refresh (b : BlockPath)
  | standFailure (stand : Nat) (cause : StandFailCause)
  | mapShareReload
  | rebuildComplete
  -- search and season
  | searchDispatch (search : Nat)
  | expansionRound (search : Nat) (unreadable : List Nat)
  | exhaustiveScan (search : Nat) (unreadable : List Nat)
  | searchComplete (search : Nat)
  | objectAuthentication (partition object : Nat) (tagOk : Bool) (content : List Byte)
  | batchFormation
  | objectEntry (partition object : Nat)
  -- tables, reduction, update
  | hotRowCopyLanded (job table row : Nat)
  | hotRowWritebackLanded (job table row : Nat)
  | reductionMessage (peer : Nat) (level : Nat) (tagMatches : Bool) (values : List Word) (maxima : List Word)
  | updatePhase (step : Nat)
  -- forest links
  | dataFrameReceive (port : Nat) (f : Frame) (room : Bool)
  | ackFrameReceive (port : Nat) (f : Frame)
  | nakFrameReceive (port : Nat) (f : Frame)
  | hello (port peer : Nat) (h : Handshake)
  | reply (port peer : Nat) (h : Handshake)
  | confirm (port peer : Nat) (h : Handshake)
  | keyUpdateFrame (port peer : Nat)
  | parityDelta (origin : Nat) (ident : Nat) (stripe role index : Nat) (delta : List Byte)
  | deltaAck (ident slot : Nat)
  | staleStripeRecompute (stripe : Nat) (units : List (List Byte))
  | fanoutRequest (origin originPartition peerPartition : Nat) (ownerDigest : BitVec 512) (descriptor query : List Byte)
      (graphDescriptor : List Byte)
  | fanoutAnswer (search peer : Nat) (refusal : Nat) (counts : PeerCounts) (entries : List PeerEntry)
  -- faults and starts
  | controlParityFault (q : Sequencer) (group : Nat)
  | fatalError
  | dumpCopyComplete
  | coldStart (r : ColdReport)
  | warmStart (r : WarmReport)
  | safeStart (r : ColdReport)
  -- migration
  | prefetch (job : Nat)
  | deferredEviction (page : Nat)
  -- host link
  | cqHeadDoorbellWrite (queue head : Nat)
  | configurationRequest
  | perstDeassert (refclkPresent : Bool)
  | pcieLinkDown
  | startInterfaceRequest (session : Nat)
  | getDeviceInterfaceReport (session : Nat)
  | ideKmKSetGo (session stream : Nat)
  | ideKmKSetStop (session stream : Nat)
  | getVersion
  | getCapabilities
  | negotiateAlgorithms (asymOk hashOk dheOk aeadOk : Bool)
  | getDigests
  | spdmFinish (session : Nat) (verifyOk : Bool)
  | endSession (session : Nat)
  | heartbeatTimeout (session : Nat)
  | mctpSetEndpointId (eid : Nat)
  | trngTestFailure
  | mapRangeZeroingComplete (partition : Nat)
  | fragmentRequest (peer : Nat) (stripe role : Nat)
  | inputHighClear
  | interruptCoalescingTimeout (vector : Nat)
  deriving DecidableEq, Repr

end Sys2Proof
end

