-- ==== Sys2Proof/WellFormed.lean ====
section
/-! DEFINITION. Which commands are well formed: paths within the module (R5), queue, port and state numbers within the
ranges the spec gives, register offsets aligned and inside BAR2. A command that is not well formed still has its
meaning: the spec's own checks turn it away. -/

namespace Sys2Proof

def GladePath.wf (g : GladePath) : Bool := g.stand < 8 && g.glade < 4
def CopsePath.wf (c : CopsePath) : Bool := c.stand < 8 && c.glade < 4 && c.copse < 4
def ChanPath.wf (c : ChanPath) : Bool := c.stand < 8 && c.chan < 16
def DiePath.wf (d : DiePath) : Bool := d.stand < 8 && d.chan < 16 && d.die < 8
def BlockPath.wf (b : BlockPath) : Bool := b.stand < 8 && b.chan < 16 && b.die < 8 && b.block < 2 ^ 14
def StackPath.wf (p : StackPath) : Bool := p.stand < 8 && p.port < 3

/-- A queue engine's command: queue, command and namespace numbers fit their fields (R372, R397), and the buffer is no
longer than CDW10 can say (R378). -/
def Cmd.wf (c : Cmd) : Bool := c.sqid < 65536 && c.cid < 65536 && c.nsid < 2 ^ 32

/-- An offset that names a register of BAR2 (R522, R546). -/
def regOffset (a : Nat) : Bool := a < 2 ^ 26 && a % 4 == 0

/-- The address of a page of BAR2 (R525). -/
def pageOffset (a : Nat) : Bool := a < 2 ^ 26 && a % 4096 == 0

def Sequencer.wf : Sequencer → Bool
  | .copse p => p.wf
  | .gladeUnit g => g.wf
  | .channel c => c.wf
  | .standControl s => s < 8
  | .hub i => i < 10

/-- The well-formedness of a command. -/
def Instr.wf : Instr → Bool
  | .partitionCreate c | .partitionRelease c | .openSession c _ | .finish c _ _ | .sealPartition c _ | .key c _
  | .close c _ | .almanacLoad c | .almanacUnload c | .retireStackPage c | .retireGladeBank c
  | .retireCopseScratchBank c | .quotaSet c | .forestConfigLoad c | .forestConfigStatus c | .forestConfigRestore c
  | .evidence c | .identify c | .getFeatures c | .setFeatures c | .getLogPage c | .createIoSubmissionQueue c
  | .createIoCompletionQueue c | .deleteIoSubmissionQueue c | .deleteIoCompletionQueue c | .abort c
  | .asynchronousEventRequest c | .formatNvm c | .sanitize c | .nvmRead c | .nvmWrite c | .flush c | .writeZeroes c
  | .datasetManagement c | .vzIngestAppend c _ | .vzIngestDelete c _ | .vzSearch c _ | .vzRun c _ | .vzProgress c
  | .vzLookup c _ | .vzSeason c | .extentAdd c _ | .extentRemove c _ | .tableCreate c _ | .tableLoad c _
  | .tableInstall c _ | .tableDelete c _ | .tableDiscard c _ | .adapterCreate c _ | .adapterLoad c _
  | .adapterExport c _ | .adapterDelete c _ | .reside c _ _ | .evict c _ | .rowsetCreate c _ | .rowsetLoad c _
  | .rowsetRead c _ | .rowsetDelete c _ | .step c _ => c.wf
  | .commandFetch q op c => c.wf && q == c.sqid && op < 256
  | .bufferSlotGranted q i | .blockCommandTimeout q i => q < 65536 && i < 65536
  | .doorbellWrite q t | .cqHeadDoorbellWrite q t => q < 65536 && t < 4096
  | .nvmeMiRegisterRead a n => regOffset a && 1 ≤ n && n ≤ 64
  | .nvmeMiRegisterWrite a v => regOffset a && 1 ≤ v.length && v.length ≤ 64
  | .bar2RegisterWrite _ a _ | .pairedLoRead _ a | .tmoLimitWrite _ a _ | .dumpWinWrite _ a _ => regOffset a
  | .errClr _ a | .evtCauseClear _ a _ | .evtForce _ a _ => pageOffset a
  | .bankRetirement g | .migWinChange g | .idleRetentionEntry g _ | .migWinReqWrite _ g _ => g.wf
  | .copseHealthRelease _ p | .copseChkInjectArm _ p _ | .copsePassTimeout p | .copseStep p | .dawnRelease p
  | .harvComplete p | .lendCopse p _ _ | .borrowerYield p => p.wf
  | .chSuspCfgWrite _ c _ | .rawRead _ c _ _ | .rawProgram _ c _ _ _ | .rawErase _ c _ _ | .brownOut c | .brownOutExit c
  | .zqCalibration c => c.wf
  | .wordlineProgram c d g => c.wf && d < 8 && g < 512
  | .nandOpTimeout d _ | .suspendHoldExpiry d | .nandProgramComplete d _ _ | .flagLogProgramComplete d
  | .nandEraseComplete d _ | .clearRecordDurable d => d.wf
  | .backgroundScan b _ | .refresh b => b.wf
  | .patrolRead p _ _ => p.wf
  | .controlParityFault q _ => q.wf
  | .srmWindowEnd s | .standFailure s _ | .thermalThrottleTick s _ | .thermalTrip s _ => s < 8
  | .cableAttach p h | .linkRetrain p _ h => p < 4 && h.length == 4
  | .cableRemove p | .dataFrameReceive p _ _ | .ackFrameReceive p _ | .nakFrameReceive p _ => p < 4
  | .ackFrameSend p q | .resendTimeout p q | .handshakeRetry p q | .hello p q _ | .reply p q _ | .confirm p q _
  | .keyUpdateFrame p q => p < 4 && q < 256
  | .dspReserveWrite _ n _ => n < 4
  | .powerStateEntry ps => ps < 5
  | .watchdogFire i => i < 10 || (16 ≤ i && i < 24)
  | .seasonTakesEffect p | .versionFlip p | .versionFreeing p | .pendingSessionExpiry p _ | .mapRangeZeroingComplete p
  | .hotRefreshInterval p _ | .objectAuthentication p _ _ _ | .objectEntry p _ => p < 4096
  | .mctpSetEndpointId e => e < 256
  | .reductionMessage p _ _ _ _ | .fragmentRequest p _ _ | .fanoutAnswer _ p _ _ _ => p < 256
  | .parityDelta p _ _ _ _ _ | .fanoutRequest p _ _ _ _ _ _ => p < 256
  | .interruptCoalescingTimeout v => v < 2048
  | .getMeasurements i _ => i < 256
  | .getCertificate k _ _ | .challenge k _ | .keyExchange k => k < 8
  | .heartbeat _ | .keyUpdate _ | .lockInterfaceRequest _ | .stopInterfaceRequest _ | .tdispError
  | .startInterfaceRequest _ | .getDeviceInterfaceReport _ | .getVersion | .getCapabilities
  | .negotiateAlgorithms _ _ _ _ | .getDigests | .spdmFinish _ _ | .endSession _ | .heartbeatTimeout _ => true
  | .ideKmKeyProg _ k | .ideKmKSetGo _ k | .ideKmKSetStop _ k | .ideIntegrityFailure k => k ≤ 16
  | .measurementComplete _ | .commonsMeasure _ | .commonsUnseal _ | .commonsIdxAlmWrite _ _ | .commonsQryAlmWrite _ _
  | .commonsIdxCfgWrite _ _ | .commonsQryCfgWrite _ _ | .tblHotApply _ | .tblHotClear _ | .tblHotRowWrite _ _
  | .warmReq _ | .coldReq _ | .safeExit _ | .scanEn _ | .pwrCapWrite _ _ _ | .ecctRawWrite _ | .ecctRawRead _
  | .ecctCheckedRead _ _ | .dbgMemRead _ _ | .quotaSelWrite _ _ | .quotaSnap _ | .quotaPeakClr _ | .smbAddrWrite _ _
  | .partCfgWrite _ _ | .dbgReqCfgWrite _ _ | .inputLow | .inputLowClear | .inputHigh | .inputOvervoltage | .holdup
  | .holdupComplete _ _ | .perstAssert | .nvmSubsystemReset | .pwrdisAssert | .pwrdisRelease | .refclkLoss
  | .controllerReset | .controllerEnable | .shutdownNormal | .shutdownAbrupt | .mediaAccessTimeout _
  | .dayLimitExpiry _ _ | .cancellationStop _ _ | .waitBudgetExpiry _ | .trngRetest _ | .apstTransition
  | .fanoutWaitExpiry _ | .queryBatchStart | .powerSample _ _ | .startLogClear | .checkpoint | .pass _ | .ctx _ | .harv _
  | .move _ | .moveComplete _ | .offloadSlotPrefetch _ _ _ _ _ _ | .gather _ | .scatter _ | .permute _
  | .returnColumns _ | .routeSelect _ | .regroup _ | .slotTranspose _ | .vec _ | .rng _ | .put _ | .take _ | .wait _
  | .fillComplete _ _ | .fence _ | .day _ | .dayCommit _ | .dayFaultRestart _ _ | .jobBind _ | .nandReadComplete _ _ _
  | .mediaAccessComplete _ _ _ | .reclaim | .relocation _ | .wearLevel | .mapShareReload | .rebuildComplete
  | .searchDispatch _ | .expansionRound _ _ | .exhaustiveScan _ _ | .searchComplete _ | .batchFormation
  | .hotRowCopyLanded _ _ _ | .hotRowWritebackLanded _ _ _ | .updatePhase _ | .deltaAck _ _ | .staleStripeRecompute _ _
  | .fatalError | .dumpCopyComplete | .coldStart _ | .warmStart _ | .safeStart _ | .prefetch _ | .deferredEviction _
  | .configurationRequest | .perstDeassert _ | .pcieLinkDown | .trngTestFailure | .inputHighClear => true

end Sys2Proof
end

