-- ==== Sys2Proof/Machine/Assoc.lean ====
section
/-! DEFINITION. Finite maps from numbers as lists of pairs in one canonical form, keys strictly rising, and the sparse
byte stores built on them: a byte equal to what an unlisted address reads as is not listed. -/

namespace Sys2Proof.Machine

/-- A finite map from numbers: pairs with strictly rising keys. -/
abbrev AMap (α : Type) := List (Nat × α)

/-- A sparse byte store: an unlisted address reads zero (R183, R178, R472 step 5: every store is filled with zeros
before its first use). -/
abbrev Bytes := AMap Byte

/-- The value at a key. -/
def aGet? {α : Type} : AMap α → Nat → Option α
  | [], _ => none
  | (j, v) :: r, k => if j = k then some v else aGet? r k

/-- The value at a key, or a given one where the key is not listed. -/
def aGetD {α : Type} (m : AMap α) (k : Nat) (d : α) : α := (aGet? m k).getD d

/-- The key is listed. -/
def aHas {α : Type} (m : AMap α) (k : Nat) : Bool := (aGet? m k).isSome

/-- Set the value at a key. -/
def aPut {α : Type} : AMap α → Nat → α → AMap α
  | [], k, v => [(k, v)]
  | (j, w) :: r, k, v =>
    if k < j then (k, v) :: (j, w) :: r else if k = j then (k, v) :: r else (j, w) :: aPut r k v

/-- Remove a key. -/
def aDel {α : Type} (m : AMap α) (k : Nat) : AMap α := m.filter fun e => e.1 != k

/-- Change the value at a key that is listed. -/
def aUpd {α : Type} (m : AMap α) (k : Nat) (f : α → α) : AMap α :=
  m.map fun e => if e.1 = k then (e.1, f e.2) else e

/-- The keys rise strictly. -/
def aSorted {α : Type} : AMap α → Bool
  | [] => true
  | [_] => true
  | (j, _) :: (k, w) :: r => decide (j < k) && aSorted ((k, w) :: r)

/-- The lowest number from a start on that is not a listed key; the fuel is one more than the map's length. -/
def aLowestFree {α : Type} (m : AMap α) : Nat → Nat → Nat
  | 0, k => k
  | fuel + 1, k => if aHas m k then aLowestFree m fuel (k + 1) else k

/-- A byte store's canonical form: keys rise strictly and no listed byte is zero. -/
def bytesWf (m : Bytes) : Bool := aSorted m && m.all fun e => e.2 != 0

/-- Read one byte. -/
def bGet (m : Bytes) (a : Nat) : Byte := aGetD m a 0

/-- Write one byte, keeping the canonical form. -/
def bPut (m : Bytes) (a : Nat) (b : Byte) : Bytes := if b = 0 then aDel m a else aPut m a b

/-- Read n bytes from an address on. -/
def bRead (m : Bytes) (a n : Nat) : List Byte := (List.range n).map fun i => bGet m (a + i)

/-- Write bytes from an address on. -/
def bWrite (m : Bytes) (a : Nat) : List Byte → Bytes
  | [] => m
  | b :: r => bWrite (bPut m a b) (a + 1) r

/-- Write zeros over n bytes from an address on. -/
def bZero (m : Bytes) (a n : Nat) : Bytes := m.filter fun e => !(a ≤ e.1 && e.1 < a + n)

/-- The listed bytes of a range, counted from its start. -/
def bSlice (m : Bytes) (a n : Nat) : Bytes :=
  (m.filter fun e => a ≤ e.1 && e.1 < a + n).map fun e => (e.1 - a, e.2)

/-- Put a sparse content at an address, every other byte of the n bytes zero. -/
def bPaste (m : Bytes) (a n : Nat) (c : Bytes) : Bytes :=
  c.foldl (fun acc e => if e.1 < n then bPut acc (a + e.1) e.2 else acc) (bZero m a n)

/-- A list of bytes as a sparse content. -/
def bOfList (l : List Byte) : Bytes := bWrite [] 0 l

/-- The little-endian number that bytes spell (R6). -/
def leNat : List Byte → Nat
  | [] => 0
  | b :: r => b.toNat + 256 * leNat r

/-- n bytes of a number, least significant first. -/
def toLe : Nat → Nat → List Byte
  | 0, _ => []
  | n + 1, v => BitVec.ofNat 8 v :: toLe n (v / 256)

/-- n bytes of a list from an offset on; positions past its end read zero. -/
def sub (l : List Byte) (off n : Nat) : List Byte := (List.range n).map fun i => l.getD (off + i) 0

/-- The little-endian number in n bytes of a list from an offset on. -/
def leAt (l : List Byte) (off n : Nat) : Nat := leNat (sub l off n)

/-- n zero bytes. -/
def zeros (n : Nat) : List Byte := List.replicate n 0

/-- Every byte of n from an offset on is zero. -/
def allZero (l : List Byte) (off n : Nat) : Bool := (sub l off n).all (· == 0)

end Sys2Proof.Machine
end

