-- ==== Sys2Proof/Config.lean ====
section
/-! DEFINITION. What an implementation fixes and the spec leaves open: opaque constants, of which nothing in Lean can
evaluate or prove a value. Each is applied to what it depends on, or to the State's counter of free values. -/

namespace Sys2Proof.Config

open Sys2Proof.Machine

/-- Fresh output of the TRNG (R412): free at each draw. -/
opaque trng : Nat → BitVec 256

/-- A byte the spec leaves undefined. -/
opaque freeByte : Nat → Nat → Byte

/-- Whether a location of a buffer whose content is undefined after a restart or a reuse (R146, R165) keeps the byte its
partition wrote there or holds zero: the draw, the location. -/
opaque keepByte : Nat → Nat → Bool

/-- The signature bytes of the identity key over a message (R425, R417; RSA-4096 PSS of PKCS #1). -/
opaque signature : List Byte → List Byte

/-- The stored form of a line under a media key (R179; AES-256-XTS of IEEE 1619): key number, location, plaintext. -/
opaque mediaCipher : Nat → Nat → List Byte → List Byte

/-- The ciphertext of a line under a partition's debug key (R437): data key, location, plaintext. -/
opaque debugCipher : BitVec 256 → Nat → List Byte → List Byte

/-- The check bytes a store keeps with a line (R488; the codes' matrices are not given): location, stored bytes. -/
opaque checkBytes : Nat → List Byte → List Byte

/-- The bytes of the certificate chain of slot 0 (R427, R429). -/
opaque certificateChain : Nat → List Byte

/-- The identity certificate (R425). -/
opaque identityCertificate : List Byte

/-- The stepping of stand s as the configuration record's die table gives it (R425). -/
opaque dieStepping : Nat → Nat

/-- The ciphertext of a unit sealed under an index key (R288, R335; AES-256-GCM): key, nonce, plaintext. -/
opaque sealedUnit : BitVec 256 → Nat → List Byte → List Byte

/-- The rated erase count of QLC blocks in the configuration record (R405). -/
opaque ratedErases : Nat

/-- The digest of the configuration record in use (R475). -/
opaque recordDigest : Nat → List Byte

/-- The die identifier recorded at manufacture (R425): 0 the hub, 1 + s stand s. -/
opaque dieIdentifier : Nat → List Byte

/-- Public exchange values the module draws (R417, R448): which value, the draw. -/
opaque exchangeValue : Nat → Nat → List Byte

/-- The confirm tag the module returns (R418). -/
opaque confirmTag : Nat → List Byte

/-- Order in which a choice the spec leaves open is taken; reads of unspecified NVMe fields. -/
opaque nvmeField : Nat → Nat → List Byte

/-- The ciphertext of a 64-byte line as a raw NAND read returns it (R212): page, plaintext. -/
opaque nandStored : Nat → List Byte → List Byte

/-- The 16 KiB fragment that a peer sends for a stripe (R459): the draw, the stripe, the slot. -/
opaque fragment : Nat → Nat → Nat → List Byte

/-- The replication group key G (R451). -/
opaque groupKey : BitVec 256

/-- The Do Not Retry bit of a status whose bit the spec does not state: status code type, status code. -/
opaque dnr : Nat → Nat → Bool

/-- The non-core power the power manager measures where the command carries no measurement (R485): free at each use. -/
opaque nonCoreWatts : Nat → Nat

/-- Ticks a copse was active in a monitor window (R37): commands take no time here, so the number is free. -/
opaque activeTicks : Nat → Nat

/-- The step, counted from 0, that a start had reached when a hub fault ended it (R506): free at each use. -/
opaque stepReached : Nat → Nat

/-- The plaintext that a stack port decodes from a stored line which an ECC test raw write gave (R501): location, data, check
bytes. -/
opaque mediaPlain : Nat → List Byte → List Byte → List Byte

/-- The stored bytes that a decoder makes of a line whose check bytes a raw write gave (R501; the codes' matrices are not
given): location, data, check bytes. -/
opaque corrected : Nat → List Byte → List Byte → List Byte

/-- Operands of an operation that a register write starts and that the write does not carry: the draw, which. -/
opaque operand : Nat → Nat → Nat

/-- Whether the data transfers of a command fail once a stream is insecure (R431): the draw, the command. -/
opaque transferFails : Nat → Nat → Bool

end Sys2Proof.Config
end

