-- ==== Sys2Proof/Machine/RegNames.lean ====
section
/-! DEFINITION. The names of the registers and of their fields, as the register tables of the spec give them. A hub
register's number is its BAR2 offset; a register of a block page is its offset within the page (R525, R533). The
registers of the common header come first (R527). -/

namespace Sys2Proof.Machine

/-- Bits [hi:lo] of a register (R6). -/
structure BitField where
  hi : Nat
  lo : Nat
  deriving DecidableEq, Repr

namespace Reg

/-! common header (R527) -/

def BLK_ID : Nat := 0x00
def BLK_VER : Nat := 0x04
def BLK_CAP : Nat := 0x08
def BLK_CAP_EXT : Nat := 0x0C
def BLK_CTL : Nat := 0x10
def BLK_STAT : Nat := 0x14
def EVT_CAUSE : Nat := 0x18
def EVT_MASK : Nat := 0x1C
def EVT_FORCE : Nat := 0x20
def ERR_CE_COUNT : Nat := 0x24
def ERR_UE_COUNT : Nat := 0x28
def ERR_LAST_CODE : Nat := 0x2C
def ERR_LAST_ADDR_LO : Nat := 0x30
def ERR_LAST_ADDR_HI : Nat := 0x34
def TMO_LIMIT : Nat := 0x38
def OWNER : Nat := 0x3C

/-! identity page -/

/-- HUB_FAMILY: address (R535). -/
def HUB_FAMILY : Nat := 0x40
/-- HUB_STANDS: address (R535). -/
def HUB_STANDS : Nat := 0x44
/-- HUB_DIE_ID_n: address (R535). -/
def HUB_DIE_ID : Nat := 0x48
/-- HUB_STEPPING: address (R535). -/
def HUB_STEPPING : Nat := 0x58
/-- HUB_GENS: address (R535). -/
def HUB_GENS : Nat := 0x5C

/-! timebase page -/

/-- TB_COUNT_LO: address (R536). -/
def TB_COUNT_LO : Nat := 0x1040
/-- TB_COUNT_HI: address (R536). -/
def TB_COUNT_HI : Nat := 0x1044
/-- TB_WARM_LO: address (R536). -/
def TB_WARM_LO : Nat := 0x1048
/-- TB_WARM_HI: address (R536). -/
def TB_WARM_HI : Nat := 0x104C
/-- TB_FREQ: address (R536). -/
def TB_FREQ : Nat := 0x1050

/-! queue page -/

/-- QE_STAT: address (R537). -/
def QE_STAT : Nat := 0x2040
/-- QE_QUEUES: address (R537). -/
def QE_QUEUES : Nat := 0x2044
/-- QE_LATE: address (R537). -/
def QE_LATE : Nat := 0x2048
/-- QE_FETCH_LO: address (R537). -/
def QE_FETCH_LO : Nat := 0x204C
/-- QE_FETCH_HI: address (R537). -/
def QE_FETCH_HI : Nat := 0x2050
/-- QE_NONCE_WAIT: address (R537). -/
def QE_NONCE_WAIT : Nat := 0x2054

/-! dispatcher page -/

/-- DSP_STAT: address (R538). -/
def DSP_STAT : Nat := 0x3040
/-- DSP_ELIG: address (R538). -/
def DSP_ELIG : Nat := 0x3044
/-- DSP_WP_MAX: address (R538). -/
def DSP_WP_MAX : Nat := 0x3048
/-- DSP_RESERVE_n: address (R538). -/
def DSP_RESERVE : Nat := 0x3050
/-- DSP_LATE: address (R538). -/
def DSP_LATE : Nat := 0x3060
/-- DSP_LATE_TIER: address (R538). -/
def DSP_LATE_TIER : Nat := 0x3064
/-- DSP_RESTARTS: address (R538). -/
def DSP_RESTARTS : Nat := 0x3068
/-- DSP_REMAPS: address (R538). -/
def DSP_REMAPS : Nat := 0x306C
/-- DSP_COMMITS_LO: address (R538). -/
def DSP_COMMITS_LO : Nat := 0x3070
/-- DSP_COMMITS_HI: address (R538). -/
def DSP_COMMITS_HI : Nat := 0x3074

/-! validator page -/

/-- VAL_STAT: address (R540). -/
def VAL_STAT : Nat := 0x4040
/-- VAL_LAST: address (R540). -/
def VAL_LAST : Nat := 0x4044
/-- VAL_LAST_WHERE: address (R540). -/
def VAL_LAST_WHERE : Nat := 0x4048
/-- VAL_LOADS: address (R540). -/
def VAL_LOADS : Nat := 0x404C
/-- VAL_REJECTS: address (R540). -/
def VAL_REJECTS : Nat := 0x4050
/-- VAL_SEL: address (R540). -/
def VAL_SEL : Nat := 0x4054
/-- VAL_SEL_INFO: address (R540). -/
def VAL_SEL_INFO : Nat := 0x4058
/-- VAL_DIGEST_n: address (R540). -/
def VAL_DIGEST : Nat := 0x4060
/-- VAL_RPDIGEST_n: address (R540). -/
def VAL_RPDIGEST : Nat := 0x40A0

/-! migration page -/

/-- MIG_PF_CFG: address (R542). -/
def MIG_PF_CFG : Nat := 0x5040
/-- MIG_PINNED: address (R542). -/
def MIG_PINNED : Nat := 0x5044
/-- MIG_RESIDENT: address (R542). -/
def MIG_RESIDENT : Nat := 0x5048
/-- MIG_FILL: address (R542). -/
def MIG_FILL : Nat := 0x5050
/-- MIG_BYPASS: address (R542). -/
def MIG_BYPASS : Nat := 0x5054
/-- MIG_DEFER: address (R542). -/
def MIG_DEFER : Nat := 0x5058
/-- MIG_EVICT: address (R542). -/
def MIG_EVICT : Nat := 0x505C
/-- MIG_PF_ISSUED: address (R542). -/
def MIG_PF_ISSUED : Nat := 0x5060
/-- MIG_PF_SKIP: address (R542). -/
def MIG_PF_SKIP : Nat := 0x5064

/-! quota page -/

/-- QUOTA_SEL: address (R543). -/
def QUOTA_SEL : Nat := 0x6040
/-- QUOTA_CTL: address (R543). -/
def QUOTA_CTL : Nat := 0x6044
/-- QUOTA_LIMIT_LO: address (R543). -/
def QUOTA_LIMIT_LO : Nat := 0x6048
/-- QUOTA_LIMIT_HI: address (R543). -/
def QUOTA_LIMIT_HI : Nat := 0x604C
/-- QUOTA_CHARGE_LO: address (R543). -/
def QUOTA_CHARGE_LO : Nat := 0x6050
/-- QUOTA_CHARGE_HI: address (R543). -/
def QUOTA_CHARGE_HI : Nat := 0x6054
/-- QUOTA_PEAK_LO: address (R543). -/
def QUOTA_PEAK_LO : Nat := 0x6058
/-- QUOTA_PEAK_HI: address (R543). -/
def QUOTA_PEAK_HI : Nat := 0x605C
/-- QUOTA_OVER: address (R543). -/
def QUOTA_OVER : Nat := 0x6060
/-- QUOTA_NOVER: address (R543). -/
def QUOTA_NOVER : Nat := 0x6064

/-! ftl page -/

/-- FTL_STAT: address (R255). -/
def FTL_STAT : Nat := 0x7040
/-- FTL_SB: address (R255). -/
def FTL_SB : Nat := 0x7044
/-- FTL_GC_CFG: address (R255). -/
def FTL_GC_CFG : Nat := 0x7048
/-- FTL_RD_LIMIT: address (R255). -/
def FTL_RD_LIMIT : Nat := 0x704C
/-- FTL_SCAN_CFG: address (R255). -/
def FTL_SCAN_CFG : Nat := 0x7050
/-- FTL_HOST_UNITS_LO: address (R255). -/
def FTL_HOST_UNITS_LO : Nat := 0x7058
/-- FTL_HOST_UNITS_HI: address (R255). -/
def FTL_HOST_UNITS_HI : Nat := 0x705C
/-- FTL_MEDIA_UNITS_LO: address (R255). -/
def FTL_MEDIA_UNITS_LO : Nat := 0x7060
/-- FTL_MEDIA_UNITS_HI: address (R255). -/
def FTL_MEDIA_UNITS_HI : Nat := 0x7064
/-- FTL_CKPT_SEQ_LO: address (R255). -/
def FTL_CKPT_SEQ_LO : Nat := 0x7068
/-- FTL_CKPT_SEQ_HI: address (R255). -/
def FTL_CKPT_SEQ_HI : Nat := 0x706C
/-- FTL_DEGRADED: address (R255). -/
def FTL_DEGRADED : Nat := 0x7070
/-- FTL_REFRESH: address (R255). -/
def FTL_REFRESH : Nat := 0x7074
/-- FTL_UNDURABLE: address (R255). -/
def FTL_UNDURABLE : Nat := 0x7078
/-- FTL_RELOC_LOST: address (R255). -/
def FTL_RELOC_LOST : Nat := 0x707C
/-- FTL_REBUILD: address (R255). -/
def FTL_REBUILD : Nat := 0x7080
/-- FTL_HOLDUP: address (R255). -/
def FTL_HOLDUP : Nat := 0x7084

/-! recovery page -/

/-- RECOV_STAT: address (R200). -/
def RECOV_STAT : Nat := 0x8040

/-! commons page -/

/-- COMMONS_STAT: address (R285). -/
def COMMONS_STAT : Nat := 0x9040
/-- COMMONS_MODEL_CTL: address (R285). -/
def COMMONS_MODEL_CTL : Nat := 0x9044
/-- COMMONS_MODEL_BYTES_LO: address (R285). -/
def COMMONS_MODEL_BYTES_LO : Nat := 0x9048
/-- COMMONS_MODEL_BYTES_HI: address (R285). -/
def COMMONS_MODEL_BYTES_HI : Nat := 0x904C
/-- COMMONS_MODEL_DIGEST_n: address (R285). -/
def COMMONS_MODEL_DIGEST : Nat := 0x9050
/-- COMMONS_IDX_ALM: address (R285). -/
def COMMONS_IDX_ALM : Nat := 0x9090
/-- COMMONS_QRY_ALM: address (R285). -/
def COMMONS_QRY_ALM : Nat := 0x9094
/-- COMMONS_IDX_CFG: address (R285). -/
def COMMONS_IDX_CFG : Nat := 0x9098
/-- COMMONS_IDX_MAX: address (R285). -/
def COMMONS_IDX_MAX : Nat := 0x909C
/-- COMMONS_QRY_CFG: address (R285). -/
def COMMONS_QRY_CFG : Nat := 0x90A0
/-- COMMONS_STREAM_LO: address (R285). -/
def COMMONS_STREAM_LO : Nat := 0x90A4
/-- COMMONS_STREAM_HI: address (R285). -/
def COMMONS_STREAM_HI : Nat := 0x90A8
/-- COMMONS_CHUNKS_LO: address (R285). -/
def COMMONS_CHUNKS_LO : Nat := 0x90AC
/-- COMMONS_CHUNKS_HI: address (R285). -/
def COMMONS_CHUNKS_HI : Nat := 0x90B0
/-- COMMONS_OBJ_INDEXED: address (R285). -/
def COMMONS_OBJ_INDEXED : Nat := 0x90B4
/-- COMMONS_OBJ_TRUNC: address (R285). -/
def COMMONS_OBJ_TRUNC : Nat := 0x90B8
/-- COMMONS_ROUTE_DROP: address (R285). -/
def COMMONS_ROUTE_DROP : Nat := 0x90BC
/-- COMMONS_CMAP_FAULT: address (R285). -/
def COMMONS_CMAP_FAULT : Nat := 0x90C0
/-- COMMONS_QRY_BATCHES: address (R285). -/
def COMMONS_QRY_BATCHES : Nat := 0x90C4

/-! search page -/

/-- SRCH_CFG: address (R309). -/
def SRCH_CFG : Nat := 0xA040
/-- SRCH_STAT: address (R309). -/
def SRCH_STAT : Nat := 0xA044
/-- SRCH_HOPS_LO: address (R309). -/
def SRCH_HOPS_LO : Nat := 0xA048
/-- SRCH_HOPS_HI: address (R309). -/
def SRCH_HOPS_HI : Nat := 0xA04C
/-- SRCH_SCORED_LO: address (R309). -/
def SRCH_SCORED_LO : Nat := 0xA050
/-- SRCH_SCORED_HI: address (R309). -/
def SRCH_SCORED_HI : Nat := 0xA054
/-- SRCH_DONE: address (R309). -/
def SRCH_DONE : Nat := 0xA058
/-- SRCH_SHORT: address (R309). -/
def SRCH_SHORT : Nat := 0xA05C
/-- SRCH_SCAN: address (R309). -/
def SRCH_SCAN : Nat := 0xA060
/-- SRCH_BAD_EDGE: address (R309). -/
def SRCH_BAD_EDGE : Nat := 0xA064
/-- SRCH_UNREADABLE: address (R309). -/
def SRCH_UNREADABLE : Nat := 0xA068
/-- SRCH_RESTART: address (R309). -/
def SRCH_RESTART : Nat := 0xA06C
/-- SRCH_BAD_ELEM: address (R309). -/
def SRCH_BAD_ELEM : Nat := 0xA070
/-- SEASON_MERGES: address (R309). -/
def SEASON_MERGES : Nat := 0xA074
/-- SEASON_FREED: address (R309). -/
def SEASON_FREED : Nat := 0xA078
/-- SEASON_REPAIRED: address (R309). -/
def SEASON_REPAIRED : Nat := 0xA07C

/-! table page -/

/-- TBL_SEL: address (R331). -/
def TBL_SEL : Nat := 0xB040
/-- TBL_INFO: address (R331). -/
def TBL_INFO : Nat := 0xB044
/-- TBL_EPOCH: address (R331). -/
def TBL_EPOCH : Nat := 0xB048
/-- TBL_HOT_CTL: address (R331). -/
def TBL_HOT_CTL : Nat := 0xB04C
/-- TBL_HOT_ROW: address (R331). -/
def TBL_HOT_ROW : Nat := 0xB050
/-- TBL_HOT_CNT: address (R331). -/
def TBL_HOT_CNT : Nat := 0xB054
/-- TBL_HOT_HIT: address (R331). -/
def TBL_HOT_HIT : Nat := 0xB058
/-- TBL_HOT_MIG: address (R331). -/
def TBL_HOT_MIG : Nat := 0xB05C
/-- TBL_HOT_WB: address (R331). -/
def TBL_HOT_WB : Nat := 0xB060
/-- TBL_LOG_APPLIED: address (R331). -/
def TBL_LOG_APPLIED : Nat := 0xB064
/-- TBL_OOR: address (R331). -/
def TBL_OOR : Nat := 0xB068
/-- TBL_REQ_CLAMP: address (R331). -/
def TBL_REQ_CLAMP : Nat := 0xB06C
/-- TBL_NAN: address (R331). -/
def TBL_NAN : Nat := 0xB070
/-- TBL_EPOCH_REFUSED: address (R331). -/
def TBL_EPOCH_REFUSED : Nat := 0xB074

/-! adapter page -/

/-- ADPT_STAT: address (R370). -/
def ADPT_STAT : Nat := 0xC040
/-- ADPT_OFFLOAD_CFG: address (R370). -/
def ADPT_OFFLOAD_CFG : Nat := 0xC044
/-- ADPT_STEPS_LO: address (R370). -/
def ADPT_STEPS_LO : Nat := 0xC048
/-- ADPT_STEPS_HI: address (R370). -/
def ADPT_STEPS_HI : Nat := 0xC04C
/-- ADPT_UPDATES_LO: address (R370). -/
def ADPT_UPDATES_LO : Nat := 0xC050
/-- ADPT_UPDATES_HI: address (R370). -/
def ADPT_UPDATES_HI : Nat := 0xC054
/-- ADPT_CMP_IN_LO: address (R370). -/
def ADPT_CMP_IN_LO : Nat := 0xC058
/-- ADPT_CMP_IN_HI: address (R370). -/
def ADPT_CMP_IN_HI : Nat := 0xC05C
/-- ADPT_CMP_OUT_LO: address (R370). -/
def ADPT_CMP_OUT_LO : Nat := 0xC060
/-- ADPT_CMP_OUT_HI: address (R370). -/
def ADPT_CMP_OUT_HI : Nat := 0xC064
/-- ADPT_CLAMP: address (R370). -/
def ADPT_CLAMP : Nat := 0xC068
/-- ADPT_NAN_IN: address (R370). -/
def ADPT_NAN_IN : Nat := 0xC06C
/-- ADPT_SKIP: address (R370). -/
def ADPT_SKIP : Nat := 0xC070
/-- ADPT_EXCLUDED: address (R370). -/
def ADPT_EXCLUDED : Nat := 0xC074
/-- ADPT_SEAL_FAIL: address (R370). -/
def ADPT_SEAL_FAIL : Nat := 0xC078
/-- ADPT_RED_LATE: address (R370). -/
def ADPT_RED_LATE : Nat := 0xC07C

/-! security page -/

/-- SEC_STAT: address (R440). -/
def SEC_STAT : Nat := 0xD040
/-- SEC_DEBUG: address (R440). -/
def SEC_DEBUG : Nat := 0xD044
/-- SEC_IDE: address (R440). -/
def SEC_IDE : Nat := 0xD048
/-- SEC_TDISP: address (R440). -/
def SEC_TDISP : Nat := 0xD04C
/-- SEC_SESS_CFG: address (R440). -/
def SEC_SESS_CFG : Nat := 0xD050
/-- SEC_SESS: address (R440). -/
def SEC_SESS : Nat := 0xD054
/-- SEC_SEAL_FAIL: address (R440). -/
def SEC_SEAL_FAIL : Nat := 0xD058
/-- SEC_EVID: address (R440). -/
def SEC_EVID : Nat := 0xD05C
/-- SEC_DBG_READS: address (R440). -/
def SEC_DBG_READS : Nat := 0xD060
/-- PART_SEL: address (R440). -/
def PART_SEL : Nat := 0xD064
/-- PART_STATE: address (R440). -/
def PART_STATE : Nat := 0xD068
/-- PART_CFG: address (R440). -/
def PART_CFG : Nat := 0xD06C

/-! forest page -/

/-- FOREST_STAT: address (R464). -/
def FOREST_STAT : Nat := 0xE040
/-- FOREST_RED_CFG: address (R464). -/
def FOREST_RED_CFG : Nat := 0xE044
/-- FOREST_FAN_CFG: address (R464). -/
def FOREST_FAN_CFG : Nat := 0xE048
/-- FOREST_EC_PENDING: address (R464). -/
def FOREST_EC_PENDING : Nat := 0xE04C
/-- FOREST_RED_STRAY: address (R464). -/
def FOREST_RED_STRAY : Nat := 0xE050
/-- FOREST_FAN_LATE: address (R464). -/
def FOREST_FAN_LATE : Nat := 0xE054
/-- FOREST_FAN_REFUSED: address (R464). -/
def FOREST_FAN_REFUSED : Nat := 0xE058
/-- FOREST_EC_STALE: address (R464). -/
def FOREST_EC_STALE : Nat := 0xE05C
/-- FOREST_EC_READS: address (R464). -/
def FOREST_EC_READS : Nat := 0xE060
/-- FOREST_EC_POISON: address (R464). -/
def FOREST_EC_POISON : Nat := 0xE064

/-! power page -/

/-- PWR_STAT: address (R487). -/
def PWR_STAT : Nat := 0xF040
/-- PWR_CTL: address (R487). -/
def PWR_CTL : Nat := 0xF044
/-- PWR_CAP: address (R487). -/
def PWR_CAP : Nat := 0xF048
/-- PWR_VLIM: address (R487). -/
def PWR_VLIM : Nat := 0xF04C
/-- PWR_TEMP: address (R487). -/
def PWR_TEMP : Nat := 0xF050
/-- PWR_BANK: address (R487). -/
def PWR_BANK : Nat := 0xF054
/-- START_STAT: address (R487). -/
def START_STAT : Nat := 0xF058
/-- START_TIME: address (R487). -/
def START_TIME : Nat := 0xF05C
/-- START_COLD: address (R487). -/
def START_COLD : Nat := 0xF060
/-- START_WARM: address (R487). -/
def START_WARM : Nat := 0xF064
/-- PWR_HOLDUPS: address (R487). -/
def PWR_HOLDUPS : Nat := 0xF068
/-- PWR_THROTTLE: address (R487). -/
def PWR_THROTTLE : Nat := 0xF06C

/-! fault page -/

/-- RAS_CFG: address (R520). -/
def RAS_CFG : Nat := 0x10040
/-- RAS_WDOG_CFG: address (R520). -/
def RAS_WDOG_CFG : Nat := 0x10044
/-- RAS_WDOG_LAST: address (R520). -/
def RAS_WDOG_LAST : Nat := 0x10048
/-- RAS_EVLOG_STAT: address (R520). -/
def RAS_EVLOG_STAT : Nat := 0x1004C
/-- RAS_CE_EVICT: address (R520). -/
def RAS_CE_EVICT : Nat := 0x10050
/-- RAS_EVLOG_LOST: address (R520). -/
def RAS_EVLOG_LOST : Nat := 0x10054
/-- RAS_POISON: address (R520). -/
def RAS_POISON : Nat := 0x10058
/-- RAS_POISON_CONS: address (R520). -/
def RAS_POISON_CONS : Nat := 0x1005C
/-- RAS_CTL_FAULT: address (R520). -/
def RAS_CTL_FAULT : Nat := 0x10060
/-- RAS_WDOG_FIRES: address (R520). -/
def RAS_WDOG_FIRES : Nat := 0x10064
/-- RAS_FATAL: address (R520). -/
def RAS_FATAL : Nat := 0x10068
/-- RAS_ECCT_CTL: address (R520). -/
def RAS_ECCT_CTL : Nat := 0x10070
/-- RAS_ECCT_STAT: address (R520). -/
def RAS_ECCT_STAT : Nat := 0x10074
/-- RAS_ECCT_ADDR_LO: address (R520). -/
def RAS_ECCT_ADDR_LO : Nat := 0x10078
/-- RAS_ECCT_ADDR_HI: address (R520). -/
def RAS_ECCT_ADDR_HI : Nat := 0x1007C
/-- RAS_ECCT_CHK_LO: address (R520). -/
def RAS_ECCT_CHK_LO : Nat := 0x10080
/-- RAS_ECCT_CHK_HI: address (R520). -/
def RAS_ECCT_CHK_HI : Nat := 0x10084
/-- RAS_ECCT_DATA_n: address (R520). -/
def RAS_ECCT_DATA : Nat := 0x10090

/-! dump page -/

/-- DUMP_STAT: address (R544). -/
def DUMP_STAT : Nat := 0x11040
/-- DUMP_SEQ0_LO: address (R544). -/
def DUMP_SEQ0_LO : Nat := 0x11044
/-- DUMP_SEQ0_HI: address (R544). -/
def DUMP_SEQ0_HI : Nat := 0x11048
/-- DUMP_SEQ1_LO: address (R544). -/
def DUMP_SEQ1_LO : Nat := 0x1104C
/-- DUMP_SEQ1_HI: address (R544). -/
def DUMP_SEQ1_HI : Nat := 0x11050
/-- DUMP_WIN_LO: address (R544). -/
def DUMP_WIN_LO : Nat := 0x11054
/-- DUMP_WIN_HI: address (R544). -/
def DUMP_WIN_HI : Nat := 0x11058
/-- DUMP_WIN_LEN: address (R544). -/
def DUMP_WIN_LEN : Nat := 0x1105C

/-! management page -/

/-- MGMT_CFG: address (R547). -/
def MGMT_CFG : Nat := 0x12040
/-- MGMT_STAT: address (R547). -/
def MGMT_STAT : Nat := 0x12044
/-- MGMT_RX: address (R547). -/
def MGMT_RX : Nat := 0x12048
/-- MGMT_TX: address (R547). -/
def MGMT_TX : Nat := 0x1204C
/-- MGMT_ERR: address (R547). -/
def MGMT_ERR : Nat := 0x12050

/-! debug page -/

/-- DBG_REQ_CFG: address (R548). -/
def DBG_REQ_CFG : Nat := 0x13040
/-- DBG_MEM_CTL: address (R548). -/
def DBG_MEM_CTL : Nat := 0x13044
/-- DBG_MEM_ADDR_LO: address (R548). -/
def DBG_MEM_ADDR_LO : Nat := 0x13048
/-- DBG_MEM_ADDR_HI: address (R548). -/
def DBG_MEM_ADDR_HI : Nat := 0x1304C
/-- DBG_MEM_STAT: address (R548). -/
def DBG_MEM_STAT : Nat := 0x13050
/-- DBG_MEM_DATA_n: address (R548). -/
def DBG_MEM_DATA : Nat := 0x13060

/-! trace page -/

/-- TRC_CFG: address (R551). -/
def TRC_CFG : Nat := 0x14040
/-- TRC_FILT: address (R551). -/
def TRC_FILT : Nat := 0x14044
/-- TRC_STAT: address (R551). -/
def TRC_STAT : Nat := 0x14048
/-- TRC_RECORDS_LO: address (R551). -/
def TRC_RECORDS_LO : Nat := 0x1404C
/-- TRC_RECORDS_HI: address (R551). -/
def TRC_RECORDS_HI : Nat := 0x14050
/-- TRC_LOST: address (R551). -/
def TRC_LOST : Nat := 0x14054

/-! chowen page -/

/-- CHW_STAT: offset in its page (R463). -/
def CHW_STAT : Nat := 0x40
/-- CHW_LINK_CFG: offset in its page (R463). -/
def CHW_LINK_CFG : Nat := 0x44
/-- CHW_TX_LO: offset in its page (R463). -/
def CHW_TX_LO : Nat := 0x48
/-- CHW_TX_HI: offset in its page (R463). -/
def CHW_TX_HI : Nat := 0x4C
/-- CHW_RX_LO: offset in its page (R463). -/
def CHW_RX_LO : Nat := 0x50
/-- CHW_RX_HI: offset in its page (R463). -/
def CHW_RX_HI : Nat := 0x54
/-- CHW_RETX: offset in its page (R463). -/
def CHW_RETX : Nat := 0x58
/-- CHW_DUP: offset in its page (R463). -/
def CHW_DUP : Nat := 0x5C
/-- CHW_OOO: offset in its page (R463). -/
def CHW_OOO : Nat := 0x60
/-- CHW_CRC: offset in its page (R463). -/
def CHW_CRC : Nat := 0x64
/-- CHW_BAD: offset in its page (R463). -/
def CHW_BAD : Nat := 0x68
/-- CHW_BADTAG: offset in its page (R463). -/
def CHW_BADTAG : Nat := 0x6C
/-- CHW_DOWN: offset in its page (R463). -/
def CHW_DOWN : Nat := 0x70
/-- CHW_FEC_UNCORR: offset in its page (R463). -/
def CHW_FEC_UNCORR : Nat := 0x74

/-! stand page -/

/-- STAND_VCORE: offset in its page (R39). -/
def STAND_VCORE : Nat := 0x40
/-- STAND_TJ: offset in its page (R39). -/
def STAND_TJ : Nat := 0x44
/-- STAND_SRM_CTL: offset in its page (R39). -/
def STAND_SRM_CTL : Nat := 0x48
/-- STAND_SRM_FLOOR: offset in its page (R39). -/
def STAND_SRM_FLOOR : Nat := 0x4C
/-- STAND_TMO_LATE: offset in its page (R39). -/
def STAND_TMO_LATE : Nat := 0x50
/-- STAND_TMO_DISCARD: offset in its page (R39). -/
def STAND_TMO_DISCARD : Nat := 0x54
/-- STAND_SRM_RATE_n: offset in its page (R39). -/
def STAND_SRM_RATE : Nat := 0x80

/-! glade page -/

/-- GLADE_SCR_CFG: offset in its page (R198). -/
def GLADE_SCR_CFG : Nat := 0x40
/-- GLADE_RET_CTL: offset in its page (R198). -/
def GLADE_RET_CTL : Nat := 0x44
/-- GLADE_RET_STAT: offset in its page (R198). -/
def GLADE_RET_STAT : Nat := 0x48
/-- GLADE_RET_WAKES: offset in its page (R198). -/
def GLADE_RET_WAKES : Nat := 0x4C
/-- GLADE_XB_COLL: offset in its page (R198). -/
def GLADE_XB_COLL : Nat := 0x50
/-- GLADE_XB_LAST: offset in its page (R198). -/
def GLADE_XB_LAST : Nat := 0x54
/-- GLADE_REPAIR: offset in its page (R198). -/
def GLADE_REPAIR : Nat := 0x58
/-- GLADE_VU_SAT: offset in its page (R198). -/
def GLADE_VU_SAT : Nat := 0x5C
/-- GLADE_VU_NAN: offset in its page (R198). -/
def GLADE_VU_NAN : Nat := 0x60
/-- GLADE_MIG_HIT: offset in its page (R198). -/
def GLADE_MIG_HIT : Nat := 0x64
/-- GLADE_MIG_FILL: offset in its page (R198). -/
def GLADE_MIG_FILL : Nat := 0x68

/-! copse0 page -/

/-- COPSE_PASSCTL: offset in its page (R116). -/
def COPSE_PASSCTL : Nat := 0x40
/-- COPSE_RINGVIEW_LO: offset in its page (R116). -/
def COPSE_RINGVIEW_LO : Nat := 0x44
/-- COPSE_RINGVIEW_HI: offset in its page (R116). -/
def COPSE_RINGVIEW_HI : Nat := 0x48
/-- COPSE_VIEWSTAT: offset in its page (R116). -/
def COPSE_VIEWSTAT : Nat := 0x4C
/-- COPSE_STATE: offset in its page (R116). -/
def COPSE_STATE : Nat := 0x50
/-- COPSE_SLOTS: offset in its page (R116). -/
def COPSE_SLOTS : Nat := 0x54
/-- COPSE_RINGOWN: offset in its page (R116). -/
def COPSE_RINGOWN : Nat := 0x58
/-- COPSE_SPLIT: offset in its page (R116). -/
def COPSE_SPLIT : Nat := 0x5C
/-- COPSE_STEPS_LO: offset in its page (R116). -/
def COPSE_STEPS_LO : Nat := 0x60
/-- COPSE_STEPS_HI: offset in its page (R116). -/
def COPSE_STEPS_HI : Nat := 0x64
/-- COPSE_PASSES: offset in its page (R116). -/
def COPSE_PASSES : Nat := 0x68
/-- COPSE_REPAIR: offset in its page (R116). -/
def COPSE_REPAIR : Nat := 0x6C

/-! copse1 page -/

/-- COPSE_SAT_CTL: offset in its page (R77). -/
def COPSE_SAT_CTL : Nat := 0x40
/-- COPSE_SAT_THRESH: offset in its page (R77). -/
def COPSE_SAT_THRESH : Nat := 0x44
/-- COPSE_SAT_SEQ: offset in its page (R77). -/
def COPSE_SAT_SEQ : Nat := 0x48
/-- COPSE_SAT_EDGE: offset in its page (R77). -/
def COPSE_SAT_EDGE : Nat := 0x4C
/-- COPSE_SAT_LUT: offset in its page (R77). -/
def COPSE_SAT_LUT : Nat := 0x50
/-- COPSE_SAT_HARV: offset in its page (R77). -/
def COPSE_SAT_HARV : Nat := 0x54
/-- COPSE_SAT_RING: offset in its page (R77). -/
def COPSE_SAT_RING : Nat := 0x58
/-- COPSE_SAT_NAN: offset in its page (R77). -/
def COPSE_SAT_NAN : Nat := 0x5C
/-- COPSE_SAT_TOTAL_LO: offset in its page (R77). -/
def COPSE_SAT_TOTAL_LO : Nat := 0x60
/-- COPSE_SAT_TOTAL_HI: offset in its page (R77). -/
def COPSE_SAT_TOTAL_HI : Nat := 0x64
/-- COPSE_CHK_OK: offset in its page (R117). -/
def COPSE_CHK_OK : Nat := 0x68
/-- COPSE_CHK_FAIL: offset in its page (R117). -/
def COPSE_CHK_FAIL : Nat := 0x6C
/-- COPSE_CHK_REEXEC: offset in its page (R117). -/
def COPSE_CHK_REEXEC : Nat := 0x70
/-- COPSE_CHK_UNCHECKED: offset in its page (R117). -/
def COPSE_CHK_UNCHECKED : Nat := 0x74
/-- COPSE_CHK_LAST: offset in its page (R117). -/
def COPSE_CHK_LAST : Nat := 0x78
/-- COPSE_HEALTH: offset in its page (R117). -/
def COPSE_HEALTH : Nat := 0x7C
/-- COPSE_HEALTH_CTL: offset in its page (R117). -/
def COPSE_HEALTH_CTL : Nat := 0x80
/-- COPSE_CHK_INJECT: offset in its page (R117). -/
def COPSE_CHK_INJECT : Nat := 0x84

/-! channel page -/

/-- CH_STAT: offset in its page (R229). -/
def CH_STAT : Nat := 0x40
/-- CH_CFG: offset in its page (R229). -/
def CH_CFG : Nat := 0x44
/-- CH_SUSP_CFG: offset in its page (R229). -/
def CH_SUSP_CFG : Nat := 0x48
/-- CH_ECC_WARN: offset in its page (R229). -/
def CH_ECC_WARN : Nat := 0x4C
/-- CH_WARN_COUNT: offset in its page (R229). -/
def CH_WARN_COUNT : Nat := 0x50
/-- CH_RETRY: offset in its page (R229). -/
def CH_RETRY : Nat := 0x54
/-- CH_UNCORR: offset in its page (R229). -/
def CH_UNCORR : Nat := 0x58
/-- CH_BROWNOUT: offset in its page (R229). -/
def CH_BROWNOUT : Nat := 0x5C
/-- CH_REJECT: offset in its page (R229). -/
def CH_REJECT : Nat := 0x60
/-- CH_BBT: offset in its page (R229). -/
def CH_BBT : Nat := 0x64
/-- CH_ERASE_ACTIVE_n: offset in its page (R229). -/
def CH_ERASE_ACTIVE : Nat := 0x80
/-- CH_RAW_CMD: offset in its page (R229). -/
def CH_RAW_CMD : Nat := 0xA0
/-- CH_RAW_ADDR_LO: offset in its page (R229). -/
def CH_RAW_ADDR_LO : Nat := 0xA4
/-- CH_RAW_ADDR_HI: offset in its page (R229). -/
def CH_RAW_ADDR_HI : Nat := 0xA8
/-- CH_RAW_STAT: offset in its page (R229). -/
def CH_RAW_STAT : Nat := 0xAC

/-! ranger page -/

/-- RANGER_CTL: offset in its page (R230). -/
def RANGER_CTL : Nat := 0x40
/-- RANGER_BUF: offset in its page (R230). -/
def RANGER_BUF : Nat := 0x44
/-- RANGER_KEYS: offset in its page (R230). -/
def RANGER_KEYS : Nat := 0x48
/-- RANGER_PF_HIT: offset in its page (R230). -/
def RANGER_PF_HIT : Nat := 0x4C
/-- RANGER_BC_HIT: offset in its page (R230). -/
def RANGER_BC_HIT : Nat := 0x50
/-- RANGER_BC_MISS: offset in its page (R230). -/
def RANGER_BC_MISS : Nat := 0x54
/-- RANGER_MIRROR: offset in its page (R230). -/
def RANGER_MIRROR : Nat := 0x58
/-- RANGER_TAGFAIL: offset in its page (R230). -/
def RANGER_TAGFAIL : Nat := 0x5C

/-! stackPort page -/

/-- STACK_STAT: offset in its page (R199). -/
def STACK_STAT : Nat := 0x40
/-- STACK_LAYOUT: offset in its page (R199). -/
def STACK_LAYOUT : Nat := 0x44
/-- STACK_ALLOC: offset in its page (R199). -/
def STACK_ALLOC : Nat := 0x48
/-- STACK_RETIRED: offset in its page (R199). -/
def STACK_RETIRED : Nat := 0x4C
/-- STACK_RD_LO: offset in its page (R199). -/
def STACK_RD_LO : Nat := 0x50
/-- STACK_RD_HI: offset in its page (R199). -/
def STACK_RD_HI : Nat := 0x54
/-- STACK_WR_LO: offset in its page (R199). -/
def STACK_WR_LO : Nat := 0x58
/-- STACK_WR_HI: offset in its page (R199). -/
def STACK_WR_HI : Nat := 0x5C

end Reg

namespace Fld

/-- BLK_STAT.state (R530). -/
def BLK_STAT_state : BitField := ⟨31, 29⟩
/-- BLK_CTL.err_clr (R530). -/
def BLK_CTL_err_clr : BitField := ⟨1, 1⟩
/-- OWNER.bound (R532). -/
def OWNER_bound : BitField := ⟨31, 31⟩
/-- OWNER.partition (R532). -/
def OWNER_partition : BitField := ⟨11, 0⟩
/-- HUB_FAMILY.member (R535). -/
def HUB_FAMILY_member : BitField := ⟨31, 28⟩
/-- HUB_FAMILY.gen (R535). -/
def HUB_FAMILY_gen : BitField := ⟨27, 24⟩
/-- HUB_FAMILY.stands (R535). -/
def HUB_FAMILY_stands : BitField := ⟨23, 19⟩
/-- HUB_FAMILY.stacks_per_stand (R535). -/
def HUB_FAMILY_stacks_per_stand : BitField := ⟨18, 16⟩
/-- HUB_FAMILY.flash_tb (R535). -/
def HUB_FAMILY_flash_tb : BitField := ⟨9, 0⟩
/-- HUB_STANDS.failed (R535). -/
def HUB_STANDS_failed : BitField := ⟨23, 16⟩
/-- HUB_STANDS.in_service (R535). -/
def HUB_STANDS_in_service : BitField := ⟨15, 8⟩
/-- HUB_STANDS.present (R535). -/
def HUB_STANDS_present : BitField := ⟨7, 0⟩
/-- HUB_STEPPING.stepping (R535). -/
def HUB_STEPPING_stepping : BitField := ⟨15, 0⟩
/-- HUB_GENS.gens (R535). -/
def HUB_GENS_gens : BitField := ⟨15, 0⟩
/-- QE_STAT.outstanding (R537). -/
def QE_STAT_outstanding : BitField := ⟨18, 0⟩
/-- QE_QUEUES.cq (R537). -/
def QE_QUEUES_cq : BitField := ⟨31, 16⟩
/-- QE_QUEUES.sq (R537). -/
def QE_QUEUES_sq : BitField := ⟨15, 0⟩
/-- DSP_STAT.queued (R538). -/
def DSP_STAT_queued : BitField := ⟨26, 16⟩
/-- DSP_STAT.running (R538). -/
def DSP_STAT_running : BitField := ⟨10, 0⟩
/-- DSP_ELIG.glades (R538). -/
def DSP_ELIG_glades : BitField := ⟨15, 8⟩
/-- DSP_ELIG.copses (R538). -/
def DSP_ELIG_copses : BitField := ⟨7, 0⟩
/-- VAL_STAT.busy (R540). -/
def VAL_STAT_busy : BitField := ⟨31, 31⟩
/-- VAL_STAT.loaded (R540). -/
def VAL_STAT_loaded : BitField := ⟨8, 0⟩
/-- VAL_LAST.code (R540). -/
def VAL_LAST_code : BitField := ⟨31, 24⟩
/-- VAL_LAST.index (R540). -/
def VAL_LAST_index : BitField := ⟨23, 0⟩
/-- VAL_LAST_WHERE.kind (R540). -/
def VAL_LAST_WHERE_kind : BitField := ⟨31, 28⟩
/-- VAL_LAST_WHERE.partition (R540). -/
def VAL_LAST_WHERE_partition : BitField := ⟨27, 16⟩
/-- VAL_LAST_WHERE.unit (R540). -/
def VAL_LAST_WHERE_unit : BitField := ⟨15, 0⟩
/-- VAL_SEL.handle (R540). -/
def VAL_SEL_handle : BitField := ⟨15, 0⟩
/-- VAL_SEL_INFO.valid (R540). -/
def VAL_SEL_INFO_valid : BitField := ⟨31, 31⟩
/-- VAL_SEL_INFO.row_plan (R540). -/
def VAL_SEL_INFO_row_plan : BitField := ⟨30, 30⟩
/-- VAL_SEL_INFO.commons (R540). -/
def VAL_SEL_INFO_commons : BitField := ⟨29, 29⟩
/-- VAL_SEL_INFO.owner (R540). -/
def VAL_SEL_INFO_owner : BitField := ⟨27, 16⟩
/-- VAL_SEL_INFO.load (R540). -/
def VAL_SEL_INFO_load : BitField := ⟨15, 0⟩
/-- MIG_PF_CFG.depth_lc (R542). -/
def MIG_PF_CFG_depth_lc : BitField := ⟨31, 16⟩
/-- MIG_PF_CFG.depth_be (R542). -/
def MIG_PF_CFG_depth_be : BitField := ⟨15, 0⟩
/-- QUOTA_SEL.tier (R543). -/
def QUOTA_SEL_tier : BitField := ⟨18, 16⟩
/-- QUOTA_CTL.peak_clr (R543). -/
def QUOTA_CTL_peak_clr : BitField := ⟨1, 1⟩
/-- QUOTA_CTL.snap (R543). -/
def QUOTA_CTL_snap : BitField := ⟨0, 0⟩
/-- FTL_STAT.map (R255). -/
def FTL_STAT_map : BitField := ⟨31, 29⟩
/-- FTL_STAT.redund (R255). -/
def FTL_STAT_redund : BitField := ⟨28, 26⟩
/-- FTL_STAT.lost_stand (R255). -/
def FTL_STAT_lost_stand : BitField := ⟨25, 21⟩
/-- FTL_STAT.write_prot (R255). -/
def FTL_STAT_write_prot : BitField := ⟨20, 20⟩
/-- FTL_SB.free (R255). -/
def FTL_SB_free : BitField := ⟨31, 16⟩
/-- FTL_SB.retired (R255). -/
def FTL_SB_retired : BitField := ⟨15, 0⟩
/-- FTL_GC_CFG.wl_delta (R255). -/
def FTL_GC_CFG_wl_delta : BitField := ⟨31, 20⟩
/-- FTL_GC_CFG.low_wm (R255). -/
def FTL_GC_CFG_low_wm : BitField := ⟨15, 8⟩
/-- FTL_GC_CFG.crit_wm (R255). -/
def FTL_GC_CFG_crit_wm : BitField := ⟨7, 0⟩
/-- FTL_RD_LIMIT.qlc_k (R255). -/
def FTL_RD_LIMIT_qlc_k : BitField := ⟨31, 16⟩
/-- FTL_RD_LIMIT.slc_k (R255). -/
def FTL_RD_LIMIT_slc_k : BitField := ⟨15, 0⟩
/-- FTL_SCAN_CFG.days (R255). -/
def FTL_SCAN_CFG_days : BitField := ⟨7, 0⟩
/-- FTL_REBUILD.sb_left (R255). -/
def FTL_REBUILD_sb_left : BitField := ⟨15, 0⟩
/-- FTL_HOLDUP.result (R255). -/
def FTL_HOLDUP_result : BitField := ⟨31, 30⟩
/-- FTL_HOLDUP.time (R255). -/
def FTL_HOLDUP_time : BitField := ⟨15, 0⟩
/-- RECOV_STAT.use (R200). -/
def RECOV_STAT_use : BitField := ⟨31, 29⟩
/-- RECOV_STAT.pkg_ok (R200). -/
def RECOV_STAT_pkg_ok : BitField := ⟨3, 0⟩
/-- COMMONS_STAT.model (R285). -/
def COMMONS_STAT_model : BitField := ⟨31, 30⟩
/-- COMMONS_STAT.extents (R285). -/
def COMMONS_STAT_extents : BitField := ⟨9, 0⟩
/-- COMMONS_MODEL_CTL.unseal (R285). -/
def COMMONS_MODEL_CTL_unseal : BitField := ⟨1, 1⟩
/-- COMMONS_MODEL_CTL.measure (R285). -/
def COMMONS_MODEL_CTL_measure : BitField := ⟨0, 0⟩
/-- COMMONS_IDX_ALM.valid (R285). -/
def COMMONS_IDX_ALM_valid : BitField := ⟨31, 31⟩
/-- COMMONS_IDX_ALM.handle (R285). -/
def COMMONS_IDX_ALM_handle : BitField := ⟨15, 0⟩
/-- COMMONS_QRY_ALM.valid (R285). -/
def COMMONS_QRY_ALM_valid : BitField := ⟨31, 31⟩
/-- COMMONS_QRY_ALM.handle (R285). -/
def COMMONS_QRY_ALM_handle : BitField := ⟨15, 0⟩
/-- COMMONS_IDX_CFG.overlap (R285). -/
def COMMONS_IDX_CFG_overlap : BitField := ⟨31, 16⟩
/-- COMMONS_IDX_CFG.share (R285). -/
def COMMONS_IDX_CFG_share : BitField := ⟨7, 0⟩
/-- COMMONS_IDX_MAX.max_chunks (R285). -/
def COMMONS_IDX_MAX_max_chunks : BitField := ⟨23, 0⟩
/-- COMMONS_QRY_CFG.gather_us (R285). -/
def COMMONS_QRY_CFG_gather_us : BitField := ⟨31, 16⟩
/-- COMMONS_QRY_CFG.max_rows (R285). -/
def COMMONS_QRY_CFG_max_rows : BitField := ⟨15, 0⟩
/-- SRCH_CFG.max_inflight (R309). -/
def SRCH_CFG_max_inflight : BitField := ⟨12, 0⟩
/-- SRCH_STAT.waiting (R309). -/
def SRCH_STAT_waiting : BitField := ⟨31, 16⟩
/-- SRCH_STAT.inflight (R309). -/
def SRCH_STAT_inflight : BitField := ⟨12, 0⟩
/-- TBL_SEL.partition (R331). -/
def TBL_SEL_partition : BitField := ⟨27, 16⟩
/-- TBL_SEL.handle (R331). -/
def TBL_SEL_handle : BitField := ⟨7, 0⟩
/-- TBL_INFO.live (R331). -/
def TBL_INFO_live : BitField := ⟨31, 29⟩
/-- TBL_INFO.building (R331). -/
def TBL_INFO_building : BitField := ⟨28, 28⟩
/-- TBL_HOT_CTL.apply (R331). -/
def TBL_HOT_CTL_apply : BitField := ⟨31, 31⟩
/-- TBL_HOT_CTL.clear (R331). -/
def TBL_HOT_CTL_clear : BitField := ⟨30, 30⟩
/-- TBL_HOT_CTL.interval_ms (R331). -/
def TBL_HOT_CTL_interval_ms : BitField := ⟨15, 0⟩
/-- TBL_HOT_CNT.target (R331). -/
def TBL_HOT_CNT_target : BitField := ⟨31, 16⟩
/-- TBL_HOT_CNT.staged (R331). -/
def TBL_HOT_CNT_staged : BitField := ⟨15, 0⟩
/-- ADPT_STAT.steps_running (R370). -/
def ADPT_STAT_steps_running : BitField := ⟨23, 16⟩
/-- ADPT_STAT.resident (R370). -/
def ADPT_STAT_resident : BitField := ⟨12, 0⟩
/-- ADPT_OFFLOAD_CFG.pf_depth (R370). -/
def ADPT_OFFLOAD_CFG_pf_depth : BitField := ⟨7, 0⟩
/-- SEC_STAT.safe_start (R440). -/
def SEC_STAT_safe_start : BitField := ⟨31, 31⟩
/-- SEC_STAT.trng (R440). -/
def SEC_STAT_trng : BitField := ⟨30, 29⟩
/-- SEC_STAT.puf_ok (R440). -/
def SEC_STAT_puf_ok : BitField := ⟨24, 16⟩
/-- SEC_STAT.blobs (R440). -/
def SEC_STAT_blobs : BitField := ⟨4, 0⟩
/-- SEC_DEBUG.jtag_active (R440). -/
def SEC_DEBUG_jtag_active : BitField := ⟨31, 31⟩
/-- SEC_DEBUG.trace_en (R440). -/
def SEC_DEBUG_trace_en : BitField := ⟨30, 30⟩
/-- SEC_IDE.link (R440). -/
def SEC_IDE_link : BitField := ⟨31, 30⟩
/-- SEC_IDE.sel_secure (R440). -/
def SEC_IDE_sel_secure : BitField := ⟨20, 16⟩
/-- SEC_IDE.insecure (R440). -/
def SEC_IDE_insecure : BitField := ⟨15, 0⟩
/-- SEC_TDISP.state (R440). -/
def SEC_TDISP_state : BitField := ⟨1, 0⟩
/-- SEC_SESS_CFG.pending_ms (R440). -/
def SEC_SESS_CFG_pending_ms : BitField := ⟨15, 0⟩
/-- SEC_SESS.pending (R440). -/
def SEC_SESS_pending : BitField := ⟨28, 16⟩
/-- SEC_SESS.open (R440). -/
def SEC_SESS_open : BitField := ⟨13, 0⟩
/-- PART_SEL.partition (R440). -/
def PART_SEL_partition : BitField := ⟨11, 0⟩
/-- PART_STATE.state (R440). -/
def PART_STATE_state : BitField := ⟨31, 29⟩
/-- PART_STATE.data_loaded (R440). -/
def PART_STATE_data_loaded : BitField := ⟨28, 28⟩
/-- PART_STATE.index_present (R440). -/
def PART_STATE_index_present : BitField := ⟨27, 27⟩
/-- PART_STATE.sessions (R440). -/
def PART_STATE_sessions : BitField := ⟨20, 16⟩
/-- PART_STATE.loads (R440). -/
def PART_STATE_loads : BitField := ⟨15, 0⟩
/-- PART_CFG.fanout (R440). -/
def PART_CFG_fanout : BitField := ⟨2, 2⟩
/-- PART_CFG.clear_ingest (R440). -/
def PART_CFG_clear_ingest : BitField := ⟨1, 1⟩
/-- PART_CFG.scrub_min (R440). -/
def PART_CFG_scrub_min : BitField := ⟨0, 0⟩
/-- FOREST_STAT.peers_up (R464). -/
def FOREST_STAT_peers_up : BitField := ⟨31, 24⟩
/-- FOREST_STAT.self (R464). -/
def FOREST_STAT_self : BitField := ⟨23, 16⟩
/-- FOREST_STAT.ec (R464). -/
def FOREST_STAT_ec : BitField := ⟨15, 14⟩
/-- FOREST_FAN_CFG.wait_us (R464). -/
def FOREST_FAN_CFG_wait_us : BitField := ⟨15, 0⟩
/-- PWR_STAT.state (R487). -/
def PWR_STAT_state : BitField := ⟨31, 29⟩
/-- PWR_STAT.bank_ok (R487). -/
def PWR_STAT_bank_ok : BitField := ⟨28, 28⟩
/-- PWR_STAT.input_low (R487). -/
def PWR_STAT_input_low : BitField := ⟨27, 27⟩
/-- PWR_STAT.input_high (R487). -/
def PWR_STAT_input_high : BitField := ⟨26, 26⟩
/-- PWR_STAT.vin (R487). -/
def PWR_STAT_vin : BitField := ⟨25, 16⟩
/-- PWR_STAT.pin (R487). -/
def PWR_STAT_pin : BitField := ⟨15, 0⟩
/-- PWR_CTL.warm_req (R487). -/
def PWR_CTL_warm_req : BitField := ⟨31, 31⟩
/-- PWR_CTL.cold_req (R487). -/
def PWR_CTL_cold_req : BitField := ⟨30, 30⟩
/-- PWR_CTL.safe_exit (R487). -/
def PWR_CTL_safe_exit : BitField := ⟨29, 29⟩
/-- PWR_CTL.scan_en (R487). -/
def PWR_CTL_scan_en : BitField := ⟨28, 28⟩
/-- PWR_CAP.hyst_w (R487). -/
def PWR_CAP_hyst_w : BitField := ⟨31, 16⟩
/-- PWR_CAP.cap_w (R487). -/
def PWR_CAP_cap_w : BitField := ⟨15, 0⟩
/-- PWR_VLIM.vmax (R487). -/
def PWR_VLIM_vmax : BitField := ⟨25, 16⟩
/-- PWR_VLIM.vmin (R487). -/
def PWR_VLIM_vmin : BitField := ⟨9, 0⟩
/-- PWR_TEMP.trip (R487). -/
def PWR_TEMP_trip : BitField := ⟨31, 24⟩
/-- PWR_TEMP.throttle (R487). -/
def PWR_TEMP_throttle : BitField := ⟨23, 16⟩
/-- PWR_BANK.cap_uf (R487). -/
def PWR_BANK_cap_uf : BitField := ⟨31, 16⟩
/-- PWR_BANK.vbank (R487). -/
def PWR_BANK_vbank : BitField := ⟨15, 0⟩
/-- START_STAT.kind (R487). -/
def START_STAT_kind : BitField := ⟨31, 30⟩
/-- START_STAT.ok (R487). -/
def START_STAT_ok : BitField := ⟨29, 29⟩
/-- START_STAT.fail_step (R487). -/
def START_STAT_fail_step : BitField := ⟨28, 25⟩
/-- START_STAT.fails (R487). -/
def START_STAT_fails : BitField := ⟨15, 8⟩
/-- START_STAT.reason (R487). -/
def START_STAT_reason : BitField := ⟨7, 0⟩
/-- RAS_CFG.ce_thresh (R520). -/
def RAS_CFG_ce_thresh : BitField := ⟨31, 16⟩
/-- RAS_CFG.patrol_h (R520). -/
def RAS_CFG_patrol_h : BitField := ⟨7, 0⟩
/-- RAS_WDOG_CFG.limit_ms (R520). -/
def RAS_WDOG_CFG_limit_ms : BitField := ⟨15, 0⟩
/-- RAS_WDOG_LAST.which (R520). -/
def RAS_WDOG_LAST_which : BitField := ⟨7, 0⟩
/-- RAS_EVLOG_STAT.unread (R520). -/
def RAS_EVLOG_STAT_unread : BitField := ⟨14, 0⟩
/-- RAS_ECCT_CTL.op (R520). -/
def RAS_ECCT_CTL_op : BitField := ⟨31, 30⟩
/-- RAS_ECCT_CTL.go (R520). -/
def RAS_ECCT_CTL_go : BitField := ⟨29, 29⟩
/-- RAS_ECCT_STAT.result (R520). -/
def RAS_ECCT_STAT_result : BitField := ⟨31, 29⟩
/-- RAS_ECCT_STAT.syndrome (R520). -/
def RAS_ECCT_STAT_syndrome : BitField := ⟨15, 0⟩
/-- DUMP_STAT.slot0 (R544). -/
def DUMP_STAT_slot0 : BitField := ⟨31, 30⟩
/-- DUMP_STAT.slot1 (R544). -/
def DUMP_STAT_slot1 : BitField := ⟨29, 28⟩
/-- DUMP_STAT.held (R544). -/
def DUMP_STAT_held : BitField := ⟨27, 27⟩
/-- MGMT_CFG.i3c (R547). -/
def MGMT_CFG_i3c : BitField := ⟨31, 31⟩
/-- MGMT_CFG.eid (R547). -/
def MGMT_CFG_eid : BitField := ⟨23, 16⟩
/-- MGMT_CFG.smb_addr (R547). -/
def MGMT_CFG_smb_addr : BitField := ⟨6, 0⟩
/-- MGMT_STAT.eid_valid (R547). -/
def MGMT_STAT_eid_valid : BitField := ⟨31, 31⟩
/-- MGMT_STAT.active (R547). -/
def MGMT_STAT_active : BitField := ⟨30, 30⟩
/-- DBG_REQ_CFG.jtag (R548). -/
def DBG_REQ_CFG_jtag : BitField := ⟨2, 2⟩
/-- DBG_REQ_CFG.mgmt (R548). -/
def DBG_REQ_CFG_mgmt : BitField := ⟨1, 1⟩
/-- DBG_REQ_CFG.host (R548). -/
def DBG_REQ_CFG_host : BitField := ⟨0, 0⟩
/-- DBG_MEM_CTL.go (R548). -/
def DBG_MEM_CTL_go : BitField := ⟨31, 31⟩
/-- DBG_MEM_CTL.kind (R548). -/
def DBG_MEM_CTL_kind : BitField := ⟨30, 30⟩
/-- DBG_MEM_STAT.result (R548). -/
def DBG_MEM_STAT_result : BitField := ⟨31, 29⟩
/-- DBG_MEM_STAT.owner (R548). -/
def DBG_MEM_STAT_owner : BitField := ⟨27, 16⟩
/-- TRC_CFG.hub (R551). -/
def TRC_CFG_hub : BitField := ⟨8, 8⟩
/-- TRC_CFG.stands (R551). -/
def TRC_CFG_stands : BitField := ⟨7, 0⟩
/-- TRC_FILT.part_en (R551). -/
def TRC_FILT_part_en : BitField := ⟨31, 31⟩
/-- TRC_FILT.classes (R551). -/
def TRC_FILT_classes : BitField := ⟨13, 1⟩
/-- TRC_STAT.active (R551). -/
def TRC_STAT_active : BitField := ⟨31, 31⟩
/-- TRC_STAT.level (R551). -/
def TRC_STAT_level : BitField := ⟨12, 0⟩
/-- CHW_STAT.state (R463). -/
def CHW_STAT_state : BitField := ⟨31, 29⟩
/-- CHW_STAT.lanes (R463). -/
def CHW_STAT_lanes : BitField := ⟨28, 26⟩
/-- CHW_STAT.switched (R463). -/
def CHW_STAT_switched : BitField := ⟨25, 25⟩
/-- CHW_STAT.assoc (R463). -/
def CHW_STAT_assoc : BitField := ⟨6, 0⟩
/-- CHW_LINK_CFG.retry_max (R463). -/
def CHW_LINK_CFG_retry_max : BitField := ⟨31, 24⟩
/-- CHW_LINK_CFG.ack_us (R463). -/
def CHW_LINK_CFG_ack_us : BitField := ⟨15, 0⟩
/-- STAND_VCORE.vmeas (R39). -/
def STAND_VCORE_vmeas : BitField := ⟨25, 16⟩
/-- STAND_VCORE.vset (R39). -/
def STAND_VCORE_vset : BitField := ⟨9, 0⟩
/-- STAND_TJ.tj_max (R39). -/
def STAND_TJ_tj_max : BitField := ⟨23, 16⟩
/-- STAND_SRM_CTL.floor_evt_en (R39). -/
def STAND_SRM_CTL_floor_evt_en : BitField := ⟨8, 8⟩
/-- STAND_SRM_CTL.window_log2 (R39). -/
def STAND_SRM_CTL_window_log2 : BitField := ⟨4, 0⟩
/-- STAND_SRM_FLOOR.floor_lookup (R39). -/
def STAND_SRM_FLOOR_floor_lookup : BitField := ⟨31, 16⟩
/-- STAND_SRM_FLOOR.floor_mult (R39). -/
def STAND_SRM_FLOOR_floor_mult : BitField := ⟨15, 0⟩
/-- STAND_SRM_RATE_n.mode (R39). -/
def STAND_SRM_RATE_mode : BitField := ⟨31, 30⟩
/-- STAND_SRM_RATE_n.rate (R39). -/
def STAND_SRM_RATE_rate : BitField := ⟨15, 0⟩
/-- GLADE_SCR_CFG.mig_win_req (R198). -/
def GLADE_SCR_CFG_mig_win_req : BitField := ⟨20, 16⟩
/-- GLADE_SCR_CFG.mig_win (R198). -/
def GLADE_SCR_CFG_mig_win : BitField := ⟨4, 0⟩
/-- GLADE_RET_CTL.idle_en (R198). -/
def GLADE_RET_CTL_idle_en : BitField := ⟨31, 31⟩
/-- GLADE_RET_CTL.idle_us (R198). -/
def GLADE_RET_CTL_idle_us : BitField := ⟨15, 0⟩
/-- GLADE_RET_STAT.banks_ret (R198). -/
def GLADE_RET_STAT_banks_ret : BitField := ⟨7, 0⟩
/-- GLADE_XB_LAST.bank (R198). -/
def GLADE_XB_LAST_bank : BitField := ⟨31, 30⟩
/-- GLADE_XB_LAST.word (R198). -/
def GLADE_XB_LAST_word : BitField := ⟨15, 0⟩
/-- GLADE_REPAIR.excluded (R198). -/
def GLADE_REPAIR_excluded : BitField := ⟨31, 31⟩
/-- GLADE_REPAIR.lanes_used (R198). -/
def GLADE_REPAIR_lanes_used : BitField := ⟨20, 16⟩
/-- GLADE_REPAIR.banks_used (R198). -/
def GLADE_REPAIR_banks_used : BitField := ⟨2, 0⟩
/-- COPSE_PASSCTL.ring_sel (R116). -/
def COPSE_PASSCTL_ring_sel : BitField := ⟨26, 24⟩
/-- COPSE_PASSCTL.row_sel (R116). -/
def COPSE_PASSCTL_row_sel : BitField := ⟨14, 7⟩
/-- COPSE_PASSCTL.col_sel (R116). -/
def COPSE_PASSCTL_col_sel : BitField := ⟨6, 0⟩
/-- COPSE_VIEWSTAT.masked (R116). -/
def COPSE_VIEWSTAT_masked : BitField := ⟨0, 0⟩
/-- COPSE_STATE.run (R116). -/
def COPSE_STATE_run : BitField := ⟨31, 29⟩
/-- COPSE_STATE.active_slot (R116). -/
def COPSE_STATE_active_slot : BitField := ⟨28, 28⟩
/-- COPSE_STATE.slot_b_live (R116). -/
def COPSE_STATE_slot_b_live : BitField := ⟨27, 27⟩
/-- COPSE_STATE.slot_a_live (R116). -/
def COPSE_STATE_slot_a_live : BitField := ⟨26, 26⟩
/-- COPSE_STATE.binding (R116). -/
def COPSE_STATE_binding : BitField := ⟨25, 24⟩
/-- COPSE_STATE.ring (R116). -/
def COPSE_STATE_ring : BitField := ⟨23, 21⟩
/-- COPSE_STATE.dwell_len (R116). -/
def COPSE_STATE_dwell_len : BitField := ⟨20, 18⟩
/-- COPSE_STATE.dwell_pos (R116). -/
def COPSE_STATE_dwell_pos : BitField := ⟨17, 15⟩
/-- COPSE_SLOTS.tag_b (R116). -/
def COPSE_SLOTS_tag_b : BitField := ⟨31, 16⟩
/-- COPSE_SLOTS.tag_a (R116). -/
def COPSE_SLOTS_tag_a : BitField := ⟨15, 0⟩
/-- COPSE_RINGOWN.borrower (R116). -/
def COPSE_RINGOWN_borrower : BitField := ⟨31, 20⟩
/-- COPSE_RINGOWN.lend_en (R116). -/
def COPSE_RINGOWN_lend_en : BitField := ⟨16, 16⟩
/-- COPSE_RINGOWN.borrow_mask (R116). -/
def COPSE_RINGOWN_borrow_mask : BitField := ⟨15, 8⟩
/-- COPSE_RINGOWN.owner_mask (R116). -/
def COPSE_RINGOWN_owner_mask : BitField := ⟨7, 0⟩
/-- COPSE_SPLIT.borrow_win (R116). -/
def COPSE_SPLIT_borrow_win : BitField := ⟨5, 0⟩
/-- COPSE_REPAIR.spare_lines (R116). -/
def COPSE_REPAIR_spare_lines : BitField := ⟨31, 24⟩
/-- COPSE_REPAIR.col1 (R116). -/
def COPSE_REPAIR_col1 : BitField := ⟨23, 16⟩
/-- COPSE_REPAIR.col0 (R116). -/
def COPSE_REPAIR_col0 : BitField := ⟨15, 8⟩
/-- COPSE_SAT_CTL.evt_en (R77). -/
def COPSE_SAT_CTL_evt_en : BitField := ⟨0, 0⟩
/-- COPSE_SAT_SEQ.ctx_tag (R77). -/
def COPSE_SAT_SEQ_ctx_tag : BitField := ⟨31, 16⟩
/-- COPSE_SAT_SEQ.seq (R77). -/
def COPSE_SAT_SEQ_seq : BitField := ⟨15, 0⟩
/-- COPSE_CHK_LAST.n_rows (R117). -/
def COPSE_CHK_LAST_n_rows : BitField := ⟨31, 24⟩
/-- COPSE_CHK_LAST.n_cols (R117). -/
def COPSE_CHK_LAST_n_cols : BitField := ⟨23, 16⟩
/-- COPSE_CHK_LAST.first_row (R117). -/
def COPSE_CHK_LAST_first_row : BitField := ⟨15, 8⟩
/-- COPSE_CHK_LAST.corner (R117). -/
def COPSE_CHK_LAST_corner : BitField := ⟨7, 7⟩
/-- COPSE_CHK_LAST.first_col (R117). -/
def COPSE_CHK_LAST_first_col : BitField := ⟨6, 0⟩
/-- COPSE_HEALTH.suspect (R117). -/
def COPSE_HEALTH_suspect : BitField := ⟨31, 31⟩
/-- COPSE_HEALTH.spare_runs (R117). -/
def COPSE_HEALTH_spare_runs : BitField := ⟨15, 8⟩
/-- COPSE_HEALTH.fail_count (R117). -/
def COPSE_HEALTH_fail_count : BitField := ⟨7, 0⟩
/-- COPSE_HEALTH_CTL.release (R117). -/
def COPSE_HEALTH_CTL_release : BitField := ⟨0, 0⟩
/-- COPSE_CHK_INJECT.arm (R117). -/
def COPSE_CHK_INJECT_arm : BitField := ⟨31, 31⟩
/-- COPSE_CHK_INJECT.ring (R117). -/
def COPSE_CHK_INJECT_ring : BitField := ⟨30, 28⟩
/-- COPSE_CHK_INJECT.row (R117). -/
def COPSE_CHK_INJECT_row : BitField := ⟨27, 20⟩
/-- COPSE_CHK_INJECT.col (R117). -/
def COPSE_CHK_INJECT_col : BitField := ⟨19, 13⟩
/-- COPSE_CHK_INJECT.bit (R117). -/
def COPSE_CHK_INJECT_bit : BitField := ⟨6, 0⟩
/-- CH_STAT.state (R229). -/
def CH_STAT_state : BitField := ⟨31, 29⟩
/-- CH_STAT.die_ok (R229). -/
def CH_STAT_die_ok : BitField := ⟨23, 16⟩
/-- CH_STAT.rate_mts (R229). -/
def CH_STAT_rate_mts : BitField := ⟨11, 0⟩
/-- CH_CFG.rate_max (R229). -/
def CH_CFG_rate_max : BitField := ⟨1, 0⟩
/-- CH_SUSP_CFG.max_susp_erase (R229). -/
def CH_SUSP_CFG_max_susp_erase : BitField := ⟨27, 24⟩
/-- CH_SUSP_CFG.max_susp_prog (R229). -/
def CH_SUSP_CFG_max_susp_prog : BitField := ⟨23, 20⟩
/-- CH_SUSP_CFG.hold_us (R229). -/
def CH_SUSP_CFG_hold_us : BitField := ⟨15, 0⟩
/-- CH_ECC_WARN.thresh (R229). -/
def CH_ECC_WARN_thresh : BitField := ⟨8, 0⟩
/-- CH_BBT.grown (R229). -/
def CH_BBT_grown : BitField := ⟨31, 16⟩
/-- CH_BBT.factory (R229). -/
def CH_BBT_factory : BitField := ⟨15, 0⟩
/-- CH_ERASE_ACTIVE_n.valid (R229). -/
def CH_ERASE_ACTIVE_valid : BitField := ⟨31, 31⟩
/-- CH_ERASE_ACTIVE_n.suspended (R229). -/
def CH_ERASE_ACTIVE_suspended : BitField := ⟨30, 30⟩
/-- CH_ERASE_ACTIVE_n.block (R229). -/
def CH_ERASE_ACTIVE_block : BitField := ⟨13, 0⟩
/-- CH_RAW_CMD.op (R229). -/
def CH_RAW_CMD_op : BitField := ⟨31, 30⟩
/-- CH_RAW_CMD.go (R229). -/
def CH_RAW_CMD_go : BitField := ⟨29, 29⟩
/-- CH_RAW_CMD.die (R229). -/
def CH_RAW_CMD_die : BitField := ⟨28, 26⟩
/-- CH_RAW_CMD.block (R229). -/
def CH_RAW_CMD_block : BitField := ⟨25, 12⟩
/-- CH_RAW_CMD.page (R229). -/
def CH_RAW_CMD_page : BitField := ⟨11, 0⟩
/-- CH_RAW_STAT.result (R229). -/
def CH_RAW_STAT_result : BitField := ⟨31, 29⟩
/-- CH_RAW_STAT.max_bits (R229). -/
def CH_RAW_STAT_max_bits : BitField := ⟨8, 0⟩
/-- RANGER_CTL.bc_en (R230). -/
def RANGER_CTL_bc_en : BitField := ⟨0, 0⟩
/-- RANGER_BUF.job_slots (R230). -/
def RANGER_BUF_job_slots : BitField := ⟨7, 4⟩
/-- RANGER_BUF.pf_slots (R230). -/
def RANGER_BUF_pf_slots : BitField := ⟨3, 0⟩
/-- RANGER_KEYS.loads (R230). -/
def RANGER_KEYS_loads : BitField := ⟨31, 16⟩
/-- RANGER_KEYS.loaded (R230). -/
def RANGER_KEYS_loaded : BitField := ⟨15, 0⟩
/-- STACK_STAT.state (R199). -/
def STACK_STAT_state : BitField := ⟨31, 29⟩
/-- STACK_STAT.temp (R199). -/
def STACK_STAT_temp : BitField := ⟨7, 0⟩
/-- STACK_LAYOUT.map_gib (R199). -/
def STACK_LAYOUT_map_gib : BitField := ⟨31, 16⟩
/-- STACK_LAYOUT.wbuf_mib (R199). -/
def STACK_LAYOUT_wbuf_mib : BitField := ⟨15, 0⟩
/-- STACK_ALLOC.pages (R199). -/
def STACK_ALLOC_pages : BitField := ⟨20, 0⟩
/-- STACK_RETIRED.pages (R199). -/
def STACK_RETIRED_pages : BitField := ⟨20, 0⟩

end Fld

end Sys2Proof.Machine
end

