-- ==== Sys2Proof/Machine/RegTable.lean ====
section
/-! DEFINITION. The register field tables of the spec as data: for each kind of page its registers, and for each
register its fields with access code, value after a cold start and value after a warm start (R6, R7, R10). Where the
Reset column says that the value comes from the configuration record, the start log, the flash or a slot header, the
value here is the one that notes/assumptions/3.md names. Reserved fields are not listed: they read zero (R11). -/

namespace Sys2Proof.Machine

/-- The access codes of R7. -/
inductive RegAccess where
  | rw | ro | wo | w1c | w1s | rws | ros | rwl
  deriving DecidableEq, Repr

/-- What a warm start leaves in a field (R10): the Reset column's value, the value it had, or a value the column's
"warm:" entry names. -/
inductive WarmValue where
  | reset | keep | to (v : Nat)
  deriving DecidableEq, Repr

/-- One row of a register field table. -/
structure FieldRow where
  hi : Nat
  lo : Nat
  access : RegAccess
  reset : Nat
  warm : WarmValue
  deriving DecidableEq, Repr

/-- A register, or count registers in steps of 4, at an offset of its page. -/
structure RegRow where
  off : Nat
  count : Nat
  fields : List FieldRow
  deriving DecidableEq, Repr

/-- The kinds of register page (R529). -/
inductive PageKind where
  | identity | timebase | queue | dispatcher | validator | migration | quota | ftl | recovery | commons | search | table | adapter | security | forest | power | fault | dump | management | debug | trace | chowen | stand | glade | copse0 | copse1 | channel | ranger | stackPort
  deriving DecidableEq, Repr

/-- The registers of the common header that hold state of their own (R527); BLK_ID, BLK_VER, BLK_CAP, OWNER and
TMO_LIMIT are given per page. -/
def headerRows : List RegRow := [
  ⟨0x14, 1, [⟨31, 29, .ro, 0, .reset⟩]⟩,
  ⟨0x18, 1, [⟨10, 0, .w1c, 0, .keep⟩]⟩,
  ⟨0x1C, 1, [⟨9, 0, .rws, 0, .keep⟩]⟩,
  ⟨0x20, 1, [⟨10, 0, .wo, 0, .reset⟩]⟩,
  ⟨0x24, 1, [⟨31, 0, .ros, 0, .keep⟩]⟩,
  ⟨0x28, 1, [⟨31, 0, .ros, 0, .keep⟩]⟩,
  ⟨0x2C, 1, [⟨15, 0, .ros, 0, .keep⟩]⟩,
  ⟨0x30, 1, [⟨31, 0, .ros, 0, .keep⟩]⟩,
  ⟨0x34, 1, [⟨31, 0, .ros, 0, .keep⟩]⟩]

/-- The registers of the identity page. -/
def identityRows : List RegRow := [
  ⟨0x40, 1, [⟨31, 28, .ro, 0x3, .reset⟩, ⟨27, 24, .ro, 0x1, .reset⟩, ⟨23, 19, .ro, 0x8, .reset⟩, ⟨18, 16, .ro, 0x3, .reset⟩, ⟨9, 0, .ro, 0x200, .reset⟩]⟩, -- HUB_FAMILY
  ⟨0x44, 1, [⟨23, 16, .ros, 0x0, .keep⟩, ⟨15, 8, .ro, 0x0, .reset⟩, ⟨7, 0, .ro, 0xFF, .reset⟩]⟩, -- HUB_STANDS
  ⟨0x48, 4, [⟨31, 0, .ro, 0x0, .reset⟩]⟩, -- HUB_DIE_ID_n
  ⟨0x58, 1, [⟨15, 0, .ro, 0x0, .reset⟩]⟩, -- HUB_STEPPING
  ⟨0x5C, 1, [⟨15, 0, .ro, 0x2, .reset⟩]⟩ -- HUB_GENS
]

/-- The registers of the timebase page. -/
def timebaseRows : List RegRow := [
  ⟨0x40, 1, [⟨31, 0, .ro, 0x0, .keep⟩]⟩, -- TB_COUNT_LO
  ⟨0x44, 1, [⟨31, 0, .ro, 0x0, .keep⟩]⟩, -- TB_COUNT_HI
  ⟨0x48, 1, [⟨31, 0, .ros, 0x0, .keep⟩]⟩, -- TB_WARM_LO
  ⟨0x4C, 1, [⟨31, 0, .ros, 0x0, .keep⟩]⟩, -- TB_WARM_HI
  ⟨0x50, 1, [⟨31, 0, .ro, 0x5F5E100, .reset⟩]⟩ -- TB_FREQ
]

/-- The registers of the queue page. -/
def queueRows : List RegRow := [
  ⟨0x40, 1, [⟨18, 0, .ro, 0x0, .reset⟩]⟩, -- QE_STAT
  ⟨0x44, 1, [⟨31, 16, .ro, 0x0, .reset⟩, ⟨15, 0, .ro, 0x0, .reset⟩]⟩, -- QE_QUEUES
  ⟨0x48, 1, [⟨31, 0, .ros, 0x0, .keep⟩]⟩, -- QE_LATE
  ⟨0x4C, 1, [⟨31, 0, .ros, 0x0, .keep⟩]⟩, -- QE_FETCH_LO
  ⟨0x50, 1, [⟨31, 0, .ros, 0x0, .keep⟩]⟩, -- QE_FETCH_HI
  ⟨0x54, 1, [⟨31, 0, .ros, 0x0, .keep⟩]⟩ -- QE_NONCE_WAIT
]

/-- The registers of the dispatcher page. -/
def dispatcherRows : List RegRow := [
  ⟨0x40, 1, [⟨26, 16, .ro, 0x0, .reset⟩, ⟨10, 0, .ro, 0x0, .reset⟩]⟩, -- DSP_STAT
  ⟨0x44, 1, [⟨15, 8, .ro, 0x0, .reset⟩, ⟨7, 0, .ro, 0x0, .reset⟩]⟩, -- DSP_ELIG
  ⟨0x48, 1, [⟨31, 0, .ro, 0x0, .reset⟩]⟩, -- DSP_WP_MAX
  ⟨0x50, 4, [⟨31, 0, .rws, 0x0, .keep⟩]⟩, -- DSP_RESERVE_n
  ⟨0x60, 1, [⟨31, 0, .ros, 0x0, .reset⟩]⟩, -- DSP_LATE
  ⟨0x64, 1, [⟨31, 0, .ros, 0x0, .reset⟩]⟩, -- DSP_LATE_TIER
  ⟨0x68, 1, [⟨31, 0, .ros, 0x0, .reset⟩]⟩, -- DSP_RESTARTS
  ⟨0x6C, 1, [⟨31, 0, .ros, 0x0, .reset⟩]⟩, -- DSP_REMAPS
  ⟨0x70, 1, [⟨31, 0, .ros, 0x0, .reset⟩]⟩, -- DSP_COMMITS_LO
  ⟨0x74, 1, [⟨31, 0, .ros, 0x0, .reset⟩]⟩ -- DSP_COMMITS_HI
]

/-- The registers of the validator page. -/
def validatorRows : List RegRow := [
  ⟨0x40, 1, [⟨31, 31, .ro, 0x0, .reset⟩, ⟨8, 0, .ro, 0x0, .keep⟩]⟩, -- VAL_STAT
  ⟨0x44, 1, [⟨31, 24, .ros, 0x0, .keep⟩, ⟨23, 0, .ros, 0x0, .keep⟩]⟩, -- VAL_LAST
  ⟨0x48, 1, [⟨31, 28, .ros, 0x0, .keep⟩, ⟨27, 16, .ros, 0x0, .keep⟩, ⟨15, 0, .ros, 0x0, .keep⟩]⟩, -- VAL_LAST_WHERE
  ⟨0x4C, 1, [⟨31, 0, .ros, 0x0, .keep⟩]⟩, -- VAL_LOADS
  ⟨0x50, 1, [⟨31, 0, .ros, 0x0, .keep⟩]⟩, -- VAL_REJECTS
  ⟨0x54, 1, [⟨15, 0, .rw, 0x0, .reset⟩]⟩, -- VAL_SEL
  ⟨0x58, 1, [⟨31, 31, .ro, 0x0, .reset⟩, ⟨30, 30, .ro, 0x0, .reset⟩, ⟨29, 29, .ro, 0x0, .reset⟩, ⟨27, 16, .ro, 0x0, .reset⟩, ⟨15, 0, .ro, 0x0, .reset⟩]⟩, -- VAL_SEL_INFO
  ⟨0x60, 16, [⟨31, 0, .ro, 0x0, .reset⟩]⟩, -- VAL_DIGEST_n
  ⟨0xA0, 16, [⟨31, 0, .ro, 0x0, .reset⟩]⟩ -- VAL_RPDIGEST_n
]

/-- The registers of the migration page. -/
def migrationRows : List RegRow := [
  ⟨0x40, 1, [⟨31, 16, .rws, 0x100, .keep⟩, ⟨15, 0, .rws, 0x40, .keep⟩]⟩, -- MIG_PF_CFG
  ⟨0x44, 1, [⟨31, 0, .ro, 0x0, .reset⟩]⟩, -- MIG_PINNED
  ⟨0x48, 1, [⟨31, 0, .ro, 0x0, .reset⟩]⟩, -- MIG_RESIDENT
  ⟨0x50, 1, [⟨31, 0, .ros, 0x0, .reset⟩]⟩, -- MIG_FILL
  ⟨0x54, 1, [⟨31, 0, .ros, 0x0, .reset⟩]⟩, -- MIG_BYPASS
  ⟨0x58, 1, [⟨31, 0, .ros, 0x0, .reset⟩]⟩, -- MIG_DEFER
  ⟨0x5C, 1, [⟨31, 0, .ros, 0x0, .reset⟩]⟩, -- MIG_EVICT
  ⟨0x60, 1, [⟨31, 0, .ros, 0x0, .reset⟩]⟩, -- MIG_PF_ISSUED
  ⟨0x64, 1, [⟨31, 0, .ros, 0x0, .reset⟩]⟩ -- MIG_PF_SKIP
]

/-- The registers of the quota page. -/
def quotaRows : List RegRow := [
  ⟨0x40, 1, [⟨18, 16, .rw, 0x0, .reset⟩, ⟨11, 0, .rw, 0x0, .reset⟩]⟩, -- QUOTA_SEL
  ⟨0x44, 1, [⟨1, 1, .w1s, 0x0, .reset⟩, ⟨0, 0, .w1s, 0x0, .reset⟩]⟩, -- QUOTA_CTL
  ⟨0x48, 1, [⟨31, 0, .ro, 0x0, .reset⟩]⟩, -- QUOTA_LIMIT_LO
  ⟨0x4C, 1, [⟨31, 0, .ro, 0x0, .reset⟩]⟩, -- QUOTA_LIMIT_HI
  ⟨0x50, 1, [⟨31, 0, .ro, 0x0, .reset⟩]⟩, -- QUOTA_CHARGE_LO
  ⟨0x54, 1, [⟨31, 0, .ro, 0x0, .reset⟩]⟩, -- QUOTA_CHARGE_HI
  ⟨0x58, 1, [⟨31, 0, .ro, 0x0, .reset⟩]⟩, -- QUOTA_PEAK_LO
  ⟨0x5C, 1, [⟨31, 0, .ro, 0x0, .reset⟩]⟩, -- QUOTA_PEAK_HI
  ⟨0x60, 1, [⟨7, 0, .ro, 0x0, .reset⟩]⟩, -- QUOTA_OVER
  ⟨0x64, 1, [⟨12, 0, .ro, 0x0, .reset⟩]⟩ -- QUOTA_NOVER
]

/-- The registers of the ftl page. -/
def ftlRows : List RegRow := [
  ⟨0x40, 1, [⟨31, 29, .ro, 0x0, .keep⟩, ⟨28, 26, .ros, 0x0, .keep⟩, ⟨25, 21, .ros, 0x1F, .keep⟩, ⟨20, 20, .ros, 0x0, .keep⟩]⟩, -- FTL_STAT
  ⟨0x44, 1, [⟨31, 16, .ro, 0x0, .reset⟩, ⟨15, 0, .ros, 0x0, .keep⟩]⟩, -- FTL_SB
  ⟨0x48, 1, [⟨31, 20, .rw, 0x100, .reset⟩, ⟨15, 8, .rw, 0x40, .reset⟩, ⟨7, 0, .rw, 0x10, .reset⟩]⟩, -- FTL_GC_CFG
  ⟨0x4C, 1, [⟨31, 16, .rw, 0x64, .reset⟩, ⟨15, 0, .rw, 0x3E8, .reset⟩]⟩, -- FTL_RD_LIMIT
  ⟨0x50, 1, [⟨7, 0, .rw, 0xE, .reset⟩]⟩, -- FTL_SCAN_CFG
  ⟨0x58, 1, [⟨31, 0, .ros, 0x0, .keep⟩]⟩, -- FTL_HOST_UNITS_LO
  ⟨0x5C, 1, [⟨31, 0, .ros, 0x0, .keep⟩]⟩, -- FTL_HOST_UNITS_HI
  ⟨0x60, 1, [⟨31, 0, .ros, 0x0, .keep⟩]⟩, -- FTL_MEDIA_UNITS_LO
  ⟨0x64, 1, [⟨31, 0, .ros, 0x0, .keep⟩]⟩, -- FTL_MEDIA_UNITS_HI
  ⟨0x68, 1, [⟨31, 0, .ros, 0x0, .keep⟩]⟩, -- FTL_CKPT_SEQ_LO
  ⟨0x6C, 1, [⟨31, 0, .ros, 0x0, .keep⟩]⟩, -- FTL_CKPT_SEQ_HI
  ⟨0x70, 1, [⟨31, 0, .ros, 0x0, .keep⟩]⟩, -- FTL_DEGRADED
  ⟨0x74, 1, [⟨31, 0, .ros, 0x0, .keep⟩]⟩, -- FTL_REFRESH
  ⟨0x78, 1, [⟨31, 0, .ros, 0x0, .keep⟩]⟩, -- FTL_UNDURABLE
  ⟨0x7C, 1, [⟨31, 0, .ros, 0x0, .keep⟩]⟩, -- FTL_RELOC_LOST
  ⟨0x80, 1, [⟨15, 0, .ro, 0x0, .reset⟩]⟩, -- FTL_REBUILD
  ⟨0x84, 1, [⟨31, 30, .ros, 0x0, .keep⟩, ⟨15, 0, .ros, 0x0, .keep⟩]⟩ -- FTL_HOLDUP
]

/-- The registers of the recovery page. -/
def recoveryRows : List RegRow := [
  ⟨0x40, 1, [⟨31, 29, .ro, 0x0, .keep⟩, ⟨3, 0, .ros, 0x0, .keep⟩]⟩ -- RECOV_STAT
]

/-- The registers of the commons page. -/
def commonsRows : List RegRow := [
  ⟨0x40, 1, [⟨31, 30, .ros, 0x0, .keep⟩, ⟨9, 0, .ro, 0x0, .keep⟩]⟩, -- COMMONS_STAT
  ⟨0x44, 1, [⟨1, 1, .wo, 0x0, .reset⟩, ⟨0, 0, .wo, 0x0, .reset⟩]⟩, -- COMMONS_MODEL_CTL
  ⟨0x48, 1, [⟨31, 0, .ros, 0x0, .keep⟩]⟩, -- COMMONS_MODEL_BYTES_LO
  ⟨0x4C, 1, [⟨31, 0, .ros, 0x0, .keep⟩]⟩, -- COMMONS_MODEL_BYTES_HI
  ⟨0x50, 16, [⟨31, 0, .ros, 0x0, .keep⟩]⟩, -- COMMONS_MODEL_DIGEST_n
  ⟨0x90, 1, [⟨31, 31, .rws, 0x0, .keep⟩, ⟨15, 0, .rws, 0x0, .keep⟩]⟩, -- COMMONS_IDX_ALM
  ⟨0x94, 1, [⟨31, 31, .rws, 0x0, .keep⟩, ⟨15, 0, .rws, 0x0, .keep⟩]⟩, -- COMMONS_QRY_ALM
  ⟨0x98, 1, [⟨31, 16, .rws, 0x200, .keep⟩, ⟨7, 0, .rws, 0x8, .keep⟩]⟩, -- COMMONS_IDX_CFG
  ⟨0x9C, 1, [⟨23, 0, .rws, 0x100000, .keep⟩]⟩, -- COMMONS_IDX_MAX
  ⟨0xA0, 1, [⟨31, 16, .rws, 0x32, .keep⟩, ⟨15, 0, .rws, 0x400, .keep⟩]⟩, -- COMMONS_QRY_CFG
  ⟨0xA4, 1, [⟨31, 0, .ros, 0x0, .keep⟩]⟩, -- COMMONS_STREAM_LO
  ⟨0xA8, 1, [⟨31, 0, .ros, 0x0, .keep⟩]⟩, -- COMMONS_STREAM_HI
  ⟨0xAC, 1, [⟨31, 0, .ros, 0x0, .keep⟩]⟩, -- COMMONS_CHUNKS_LO
  ⟨0xB0, 1, [⟨31, 0, .ros, 0x0, .keep⟩]⟩, -- COMMONS_CHUNKS_HI
  ⟨0xB4, 1, [⟨31, 0, .ros, 0x0, .keep⟩]⟩, -- COMMONS_OBJ_INDEXED
  ⟨0xB8, 1, [⟨31, 0, .ros, 0x0, .keep⟩]⟩, -- COMMONS_OBJ_TRUNC
  ⟨0xBC, 1, [⟨31, 0, .ros, 0x0, .keep⟩]⟩, -- COMMONS_ROUTE_DROP
  ⟨0xC0, 1, [⟨31, 0, .ros, 0x0, .keep⟩]⟩, -- COMMONS_CMAP_FAULT
  ⟨0xC4, 1, [⟨31, 0, .ros, 0x0, .keep⟩]⟩ -- COMMONS_QRY_BATCHES
]

/-- The registers of the search page. -/
def searchRows : List RegRow := [
  ⟨0x40, 1, [⟨12, 0, .rws, 0x1000, .keep⟩]⟩, -- SRCH_CFG
  ⟨0x44, 1, [⟨31, 16, .ro, 0x0, .reset⟩, ⟨12, 0, .ro, 0x0, .reset⟩]⟩, -- SRCH_STAT
  ⟨0x48, 1, [⟨31, 0, .ros, 0x0, .keep⟩]⟩, -- SRCH_HOPS_LO
  ⟨0x4C, 1, [⟨31, 0, .ros, 0x0, .keep⟩]⟩, -- SRCH_HOPS_HI
  ⟨0x50, 1, [⟨31, 0, .ros, 0x0, .keep⟩]⟩, -- SRCH_SCORED_LO
  ⟨0x54, 1, [⟨31, 0, .ros, 0x0, .keep⟩]⟩, -- SRCH_SCORED_HI
  ⟨0x58, 1, [⟨31, 0, .ros, 0x0, .keep⟩]⟩, -- SRCH_DONE
  ⟨0x5C, 1, [⟨31, 0, .ros, 0x0, .keep⟩]⟩, -- SRCH_SHORT
  ⟨0x60, 1, [⟨31, 0, .ros, 0x0, .keep⟩]⟩, -- SRCH_SCAN
  ⟨0x64, 1, [⟨31, 0, .ros, 0x0, .keep⟩]⟩, -- SRCH_BAD_EDGE
  ⟨0x68, 1, [⟨31, 0, .ros, 0x0, .keep⟩]⟩, -- SRCH_UNREADABLE
  ⟨0x6C, 1, [⟨31, 0, .ros, 0x0, .keep⟩]⟩, -- SRCH_RESTART
  ⟨0x70, 1, [⟨31, 0, .ros, 0x0, .keep⟩]⟩, -- SRCH_BAD_ELEM
  ⟨0x74, 1, [⟨31, 0, .ros, 0x0, .keep⟩]⟩, -- SEASON_MERGES
  ⟨0x78, 1, [⟨31, 0, .ros, 0x0, .keep⟩]⟩, -- SEASON_FREED
  ⟨0x7C, 1, [⟨31, 0, .ros, 0x0, .keep⟩]⟩ -- SEASON_REPAIRED
]

/-- The registers of the table page. -/
def tableRows : List RegRow := [
  ⟨0x40, 1, [⟨27, 16, .rw, 0x0, .reset⟩, ⟨7, 0, .rw, 0x0, .reset⟩]⟩, -- TBL_SEL
  ⟨0x44, 1, [⟨31, 29, .ro, 0x0, .reset⟩, ⟨28, 28, .ro, 0x0, .reset⟩]⟩, -- TBL_INFO
  ⟨0x48, 1, [⟨31, 0, .ro, 0x0, .reset⟩]⟩, -- TBL_EPOCH
  ⟨0x4C, 1, [⟨31, 31, .w1s, 0x0, .reset⟩, ⟨30, 30, .w1s, 0x0, .reset⟩, ⟨15, 0, .rw, 0x0, .reset⟩]⟩, -- TBL_HOT_CTL
  ⟨0x50, 1, [⟨31, 0, .wo, 0x0, .reset⟩]⟩, -- TBL_HOT_ROW
  ⟨0x54, 1, [⟨31, 16, .ro, 0x0, .reset⟩, ⟨15, 0, .ro, 0x0, .reset⟩]⟩, -- TBL_HOT_CNT
  ⟨0x58, 1, [⟨31, 0, .ros, 0x0, .keep⟩]⟩, -- TBL_HOT_HIT
  ⟨0x5C, 1, [⟨31, 0, .ros, 0x0, .keep⟩]⟩, -- TBL_HOT_MIG
  ⟨0x60, 1, [⟨31, 0, .ros, 0x0, .keep⟩]⟩, -- TBL_HOT_WB
  ⟨0x64, 1, [⟨31, 0, .ros, 0x0, .keep⟩]⟩, -- TBL_LOG_APPLIED
  ⟨0x68, 1, [⟨31, 0, .ros, 0x0, .keep⟩]⟩, -- TBL_OOR
  ⟨0x6C, 1, [⟨31, 0, .ros, 0x0, .keep⟩]⟩, -- TBL_REQ_CLAMP
  ⟨0x70, 1, [⟨31, 0, .ros, 0x0, .keep⟩]⟩, -- TBL_NAN
  ⟨0x74, 1, [⟨31, 0, .ros, 0x0, .keep⟩]⟩ -- TBL_EPOCH_REFUSED
]

/-- The registers of the adapter page. -/
def adapterRows : List RegRow := [
  ⟨0x40, 1, [⟨23, 16, .ro, 0x0, .reset⟩, ⟨12, 0, .ro, 0x0, .keep⟩]⟩, -- ADPT_STAT
  ⟨0x44, 1, [⟨7, 0, .rws, 0x20, .keep⟩]⟩, -- ADPT_OFFLOAD_CFG
  ⟨0x48, 1, [⟨31, 0, .ros, 0x0, .keep⟩]⟩, -- ADPT_STEPS_LO
  ⟨0x4C, 1, [⟨31, 0, .ros, 0x0, .keep⟩]⟩, -- ADPT_STEPS_HI
  ⟨0x50, 1, [⟨31, 0, .ros, 0x0, .keep⟩]⟩, -- ADPT_UPDATES_LO
  ⟨0x54, 1, [⟨31, 0, .ros, 0x0, .keep⟩]⟩, -- ADPT_UPDATES_HI
  ⟨0x58, 1, [⟨31, 0, .ros, 0x0, .keep⟩]⟩, -- ADPT_CMP_IN_LO
  ⟨0x5C, 1, [⟨31, 0, .ros, 0x0, .keep⟩]⟩, -- ADPT_CMP_IN_HI
  ⟨0x60, 1, [⟨31, 0, .ros, 0x0, .keep⟩]⟩, -- ADPT_CMP_OUT_LO
  ⟨0x64, 1, [⟨31, 0, .ros, 0x0, .keep⟩]⟩, -- ADPT_CMP_OUT_HI
  ⟨0x68, 1, [⟨31, 0, .ros, 0x0, .keep⟩]⟩, -- ADPT_CLAMP
  ⟨0x6C, 1, [⟨31, 0, .ros, 0x0, .keep⟩]⟩, -- ADPT_NAN_IN
  ⟨0x70, 1, [⟨31, 0, .ros, 0x0, .keep⟩]⟩, -- ADPT_SKIP
  ⟨0x74, 1, [⟨31, 0, .ros, 0x0, .keep⟩]⟩, -- ADPT_EXCLUDED
  ⟨0x78, 1, [⟨31, 0, .ros, 0x0, .keep⟩]⟩, -- ADPT_SEAL_FAIL
  ⟨0x7C, 1, [⟨31, 0, .ros, 0x0, .keep⟩]⟩ -- ADPT_RED_LATE
]

/-- The registers of the security page. -/
def securityRows : List RegRow := [
  ⟨0x40, 1, [⟨31, 31, .ros, 0x0, .keep⟩, ⟨30, 29, .ro, 0x0, .reset⟩, ⟨24, 16, .ros, 0x0, .keep⟩, ⟨4, 0, .ros, 0x0, .keep⟩]⟩, -- SEC_STAT
  ⟨0x44, 1, [⟨31, 31, .ro, 0x0, .reset⟩, ⟨30, 30, .rw, 0x0, .reset⟩]⟩, -- SEC_DEBUG
  ⟨0x48, 1, [⟨31, 30, .ro, 0x0, .reset⟩, ⟨20, 16, .ro, 0x0, .reset⟩, ⟨15, 0, .ro, 0x0, .keep⟩]⟩, -- SEC_IDE
  ⟨0x4C, 1, [⟨1, 0, .ro, 0x0, .reset⟩]⟩, -- SEC_TDISP
  ⟨0x50, 1, [⟨15, 0, .rws, 0x2710, .keep⟩]⟩, -- SEC_SESS_CFG
  ⟨0x54, 1, [⟨28, 16, .ro, 0x0, .reset⟩, ⟨13, 0, .ro, 0x0, .keep⟩]⟩, -- SEC_SESS
  ⟨0x58, 1, [⟨31, 0, .ros, 0x0, .keep⟩]⟩, -- SEC_SEAL_FAIL
  ⟨0x5C, 1, [⟨31, 0, .ros, 0x0, .keep⟩]⟩, -- SEC_EVID
  ⟨0x60, 1, [⟨31, 0, .ros, 0x0, .keep⟩]⟩, -- SEC_DBG_READS
  ⟨0x64, 1, [⟨11, 0, .rw, 0x0, .reset⟩]⟩, -- PART_SEL
  ⟨0x68, 1, [⟨31, 29, .ro, 0x0, .reset⟩, ⟨28, 28, .ro, 0x0, .reset⟩, ⟨27, 27, .ro, 0x0, .reset⟩, ⟨20, 16, .ro, 0x0, .reset⟩, ⟨15, 0, .ro, 0x0, .reset⟩]⟩, -- PART_STATE
  ⟨0x6C, 1, [⟨2, 2, .rwl, 0x1, .reset⟩, ⟨1, 1, .rwl, 0x1, .reset⟩, ⟨0, 0, .rwl, 0x0, .reset⟩]⟩ -- PART_CFG
]

/-- The registers of the forest page. -/
def forestRows : List RegRow := [
  ⟨0x40, 1, [⟨31, 24, .ro, 0x0, .reset⟩, ⟨23, 16, .ro, 0x0, .reset⟩, ⟨15, 14, .ro, 0x0, .keep⟩]⟩, -- FOREST_STAT
  ⟨0x44, 1, [⟨31, 0, .rws, 0x186A0, .keep⟩]⟩, -- FOREST_RED_CFG
  ⟨0x48, 1, [⟨15, 0, .rws, 0x7D0, .keep⟩]⟩, -- FOREST_FAN_CFG
  ⟨0x4C, 1, [⟨31, 0, .ro, 0x0, .keep⟩]⟩, -- FOREST_EC_PENDING
  ⟨0x50, 1, [⟨31, 0, .ros, 0x0, .keep⟩]⟩, -- FOREST_RED_STRAY
  ⟨0x54, 1, [⟨31, 0, .ros, 0x0, .keep⟩]⟩, -- FOREST_FAN_LATE
  ⟨0x58, 1, [⟨31, 0, .ros, 0x0, .keep⟩]⟩, -- FOREST_FAN_REFUSED
  ⟨0x5C, 1, [⟨31, 0, .ros, 0x0, .keep⟩]⟩, -- FOREST_EC_STALE
  ⟨0x60, 1, [⟨31, 0, .ros, 0x0, .keep⟩]⟩, -- FOREST_EC_READS
  ⟨0x64, 1, [⟨31, 0, .ros, 0x0, .keep⟩]⟩ -- FOREST_EC_POISON
]

/-- The registers of the power page. -/
def powerRows : List RegRow := [
  ⟨0x40, 1, [⟨31, 29, .ro, 0x0, .reset⟩, ⟨28, 28, .ro, 0x0, .keep⟩, ⟨27, 27, .ro, 0x0, .reset⟩, ⟨26, 26, .ro, 0x0, .reset⟩, ⟨25, 16, .ro, 0x0, .reset⟩, ⟨15, 0, .ro, 0x0, .reset⟩]⟩, -- PWR_STAT
  ⟨0x44, 1, [⟨31, 31, .w1s, 0x0, .reset⟩, ⟨30, 30, .w1s, 0x0, .reset⟩, ⟨29, 29, .w1s, 0x0, .reset⟩, ⟨28, 28, .w1s, 0x0, .reset⟩]⟩, -- PWR_CTL
  ⟨0x48, 1, [⟨31, 16, .rws, 0x32, .keep⟩, ⟨15, 0, .rws, 0x708, .keep⟩]⟩, -- PWR_CAP
  ⟨0x4C, 1, [⟨25, 16, .rws, 0x2BC, .keep⟩, ⟨9, 0, .ro, 0x258, .reset⟩]⟩, -- PWR_VLIM
  ⟨0x50, 1, [⟨31, 24, .ro, 0x73, .reset⟩, ⟨23, 16, .rws, 0x64, .keep⟩]⟩, -- PWR_TEMP
  ⟨0x54, 1, [⟨31, 16, .ros, 0x0, .keep⟩, ⟨15, 0, .ro, 0x0, .reset⟩]⟩, -- PWR_BANK
  ⟨0x58, 1, [⟨31, 30, .ros, 0x0, .to 1⟩, ⟨29, 29, .ros, 0x0, .to 0⟩, ⟨28, 25, .ros, 0x0, .keep⟩, ⟨15, 8, .ros, 0x0, .keep⟩, ⟨7, 0, .ros, 0x0, .keep⟩]⟩, -- START_STAT
  ⟨0x5C, 1, [⟨31, 0, .ros, 0x0, .to 0⟩]⟩, -- START_TIME
  ⟨0x60, 1, [⟨31, 0, .ros, 0x0, .keep⟩]⟩, -- START_COLD
  ⟨0x64, 1, [⟨31, 0, .ros, 0x0, .keep⟩]⟩, -- START_WARM
  ⟨0x68, 1, [⟨31, 0, .ros, 0x0, .keep⟩]⟩, -- PWR_HOLDUPS
  ⟨0x6C, 1, [⟨31, 0, .ros, 0x0, .keep⟩]⟩ -- PWR_THROTTLE
]

/-- The registers of the fault page. -/
def faultRows : List RegRow := [
  ⟨0x40, 1, [⟨31, 16, .rws, 0x10, .keep⟩, ⟨7, 0, .rws, 0x18, .keep⟩]⟩, -- RAS_CFG
  ⟨0x44, 1, [⟨15, 0, .rws, 0x64, .keep⟩]⟩, -- RAS_WDOG_CFG
  ⟨0x48, 1, [⟨7, 0, .ros, 0xFF, .keep⟩]⟩, -- RAS_WDOG_LAST
  ⟨0x4C, 1, [⟨14, 0, .ro, 0x0, .keep⟩]⟩, -- RAS_EVLOG_STAT
  ⟨0x50, 1, [⟨31, 0, .ros, 0x0, .keep⟩]⟩, -- RAS_CE_EVICT
  ⟨0x54, 1, [⟨31, 0, .ros, 0x0, .keep⟩]⟩, -- RAS_EVLOG_LOST
  ⟨0x58, 1, [⟨31, 0, .ros, 0x0, .keep⟩]⟩, -- RAS_POISON
  ⟨0x5C, 1, [⟨31, 0, .ros, 0x0, .keep⟩]⟩, -- RAS_POISON_CONS
  ⟨0x60, 1, [⟨31, 0, .ros, 0x0, .keep⟩]⟩, -- RAS_CTL_FAULT
  ⟨0x64, 1, [⟨31, 0, .ros, 0x0, .keep⟩]⟩, -- RAS_WDOG_FIRES
  ⟨0x68, 1, [⟨31, 0, .ros, 0x0, .keep⟩]⟩, -- RAS_FATAL
  ⟨0x70, 1, [⟨31, 30, .rw, 0x0, .reset⟩, ⟨29, 29, .w1s, 0x0, .reset⟩]⟩, -- RAS_ECCT_CTL
  ⟨0x74, 1, [⟨31, 29, .ro, 0x0, .reset⟩, ⟨15, 0, .ro, 0x0, .reset⟩]⟩, -- RAS_ECCT_STAT
  ⟨0x78, 1, [⟨31, 0, .rw, 0x0, .reset⟩]⟩, -- RAS_ECCT_ADDR_LO
  ⟨0x7C, 1, [⟨31, 0, .rw, 0x0, .reset⟩]⟩, -- RAS_ECCT_ADDR_HI
  ⟨0x80, 1, [⟨31, 0, .rw, 0x0, .reset⟩]⟩, -- RAS_ECCT_CHK_LO
  ⟨0x84, 1, [⟨31, 0, .rw, 0x0, .reset⟩]⟩, -- RAS_ECCT_CHK_HI
  ⟨0x90, 16, [⟨31, 0, .rw, 0x0, .reset⟩]⟩ -- RAS_ECCT_DATA_n
]

/-- The registers of the dump page. -/
def dumpRows : List RegRow := [
  ⟨0x40, 1, [⟨31, 30, .ros, 0x0, .keep⟩, ⟨29, 28, .ros, 0x0, .keep⟩, ⟨27, 27, .ro, 0x0, .reset⟩]⟩, -- DUMP_STAT
  ⟨0x44, 1, [⟨31, 0, .ros, 0x0, .keep⟩]⟩, -- DUMP_SEQ0_LO
  ⟨0x48, 1, [⟨31, 0, .ros, 0x0, .keep⟩]⟩, -- DUMP_SEQ0_HI
  ⟨0x4C, 1, [⟨31, 0, .ros, 0x0, .keep⟩]⟩, -- DUMP_SEQ1_LO
  ⟨0x50, 1, [⟨31, 0, .ros, 0x0, .keep⟩]⟩, -- DUMP_SEQ1_HI
  ⟨0x54, 1, [⟨31, 0, .rws, 0x0, .keep⟩]⟩, -- DUMP_WIN_LO
  ⟨0x58, 1, [⟨31, 0, .rws, 0x0, .keep⟩]⟩, -- DUMP_WIN_HI
  ⟨0x5C, 1, [⟨14, 0, .rws, 0x0, .keep⟩]⟩ -- DUMP_WIN_LEN
]

/-- The registers of the management page. -/
def managementRows : List RegRow := [
  ⟨0x40, 1, [⟨31, 31, .rws, 0x0, .keep⟩, ⟨23, 16, .ro, 0x0, .reset⟩, ⟨6, 0, .rws, 0x1D, .keep⟩]⟩, -- MGMT_CFG
  ⟨0x44, 1, [⟨31, 31, .ro, 0x0, .reset⟩, ⟨30, 30, .ro, 0x0, .reset⟩]⟩, -- MGMT_STAT
  ⟨0x48, 1, [⟨31, 0, .ros, 0x0, .keep⟩]⟩, -- MGMT_RX
  ⟨0x4C, 1, [⟨31, 0, .ros, 0x0, .keep⟩]⟩, -- MGMT_TX
  ⟨0x50, 1, [⟨31, 0, .ros, 0x0, .keep⟩]⟩ -- MGMT_ERR
]

/-- The registers of the debug page. -/
def debugRows : List RegRow := [
  ⟨0x40, 1, [⟨2, 2, .ro, 0x1, .reset⟩, ⟨1, 1, .ro, 0x1, .reset⟩, ⟨0, 0, .rws, 0x1, .keep⟩]⟩, -- DBG_REQ_CFG
  ⟨0x44, 1, [⟨31, 31, .w1s, 0x0, .reset⟩, ⟨30, 30, .rw, 0x0, .reset⟩]⟩, -- DBG_MEM_CTL
  ⟨0x48, 1, [⟨31, 0, .rw, 0x0, .reset⟩]⟩, -- DBG_MEM_ADDR_LO
  ⟨0x4C, 1, [⟨31, 0, .rw, 0x0, .reset⟩]⟩, -- DBG_MEM_ADDR_HI
  ⟨0x50, 1, [⟨31, 29, .ro, 0x0, .reset⟩, ⟨27, 16, .ro, 0x0, .reset⟩]⟩, -- DBG_MEM_STAT
  ⟨0x60, 16, [⟨31, 0, .ro, 0x0, .reset⟩]⟩ -- DBG_MEM_DATA_n
]

/-- The registers of the trace page. -/
def traceRows : List RegRow := [
  ⟨0x40, 1, [⟨8, 8, .rw, 0x0, .reset⟩, ⟨7, 0, .rw, 0x0, .reset⟩]⟩, -- TRC_CFG
  ⟨0x44, 1, [⟨31, 31, .rw, 0x0, .reset⟩, ⟨27, 16, .rw, 0x0, .reset⟩, ⟨13, 1, .rw, 0x1FFF, .reset⟩]⟩, -- TRC_FILT
  ⟨0x48, 1, [⟨31, 31, .ro, 0x0, .reset⟩, ⟨12, 0, .ro, 0x0, .reset⟩]⟩, -- TRC_STAT
  ⟨0x4C, 1, [⟨31, 0, .ro, 0x0, .reset⟩]⟩, -- TRC_RECORDS_LO
  ⟨0x50, 1, [⟨31, 0, .ro, 0x0, .reset⟩]⟩, -- TRC_RECORDS_HI
  ⟨0x54, 1, [⟨31, 0, .ro, 0x0, .reset⟩]⟩ -- TRC_LOST
]

/-- The registers of the chowen page. -/
def chowenRows : List RegRow := [
  ⟨0x40, 1, [⟨31, 29, .ro, 0x0, .reset⟩, ⟨28, 26, .ro, 0x0, .reset⟩, ⟨25, 25, .ro, 0x0, .reset⟩, ⟨6, 0, .ro, 0x0, .reset⟩]⟩, -- CHW_STAT
  ⟨0x44, 1, [⟨31, 24, .rws, 0x10, .keep⟩, ⟨15, 0, .rws, 0x14, .keep⟩]⟩, -- CHW_LINK_CFG
  ⟨0x48, 1, [⟨31, 0, .ros, 0x0, .keep⟩]⟩, -- CHW_TX_LO
  ⟨0x4C, 1, [⟨31, 0, .ros, 0x0, .keep⟩]⟩, -- CHW_TX_HI
  ⟨0x50, 1, [⟨31, 0, .ros, 0x0, .keep⟩]⟩, -- CHW_RX_LO
  ⟨0x54, 1, [⟨31, 0, .ros, 0x0, .keep⟩]⟩, -- CHW_RX_HI
  ⟨0x58, 1, [⟨31, 0, .ros, 0x0, .keep⟩]⟩, -- CHW_RETX
  ⟨0x5C, 1, [⟨31, 0, .ros, 0x0, .keep⟩]⟩, -- CHW_DUP
  ⟨0x60, 1, [⟨31, 0, .ros, 0x0, .keep⟩]⟩, -- CHW_OOO
  ⟨0x64, 1, [⟨31, 0, .ros, 0x0, .keep⟩]⟩, -- CHW_CRC
  ⟨0x68, 1, [⟨31, 0, .ros, 0x0, .keep⟩]⟩, -- CHW_BAD
  ⟨0x6C, 1, [⟨31, 0, .ros, 0x0, .keep⟩]⟩, -- CHW_BADTAG
  ⟨0x70, 1, [⟨31, 0, .ros, 0x0, .keep⟩]⟩, -- CHW_DOWN
  ⟨0x74, 1, [⟨31, 0, .ros, 0x0, .keep⟩]⟩ -- CHW_FEC_UNCORR
]

/-- The registers of the stand page. -/
def standRows : List RegRow := [
  ⟨0x40, 1, [⟨25, 16, .ro, 0x0, .reset⟩, ⟨9, 0, .ro, 0x2BC, .keep⟩]⟩, -- STAND_VCORE
  ⟨0x44, 1, [⟨23, 16, .ro, 0x0, .reset⟩]⟩, -- STAND_TJ
  ⟨0x48, 1, [⟨8, 8, .rw, 0x1, .reset⟩, ⟨4, 0, .rw, 0x11, .reset⟩]⟩, -- STAND_SRM_CTL
  ⟨0x4C, 1, [⟨31, 16, .rw, 0x578, .reset⟩, ⟨15, 0, .rw, 0x44C, .reset⟩]⟩, -- STAND_SRM_FLOOR
  ⟨0x50, 1, [⟨31, 0, .ro, 0x0, .keep⟩]⟩, -- STAND_TMO_LATE
  ⟨0x54, 1, [⟨31, 0, .ro, 0x0, .keep⟩]⟩, -- STAND_TMO_DISCARD
  ⟨0x80, 16, [⟨31, 30, .ro, 0x0, .reset⟩, ⟨15, 0, .ro, 0x0, .reset⟩]⟩ -- STAND_SRM_RATE_n
]

/-- The registers of the glade page. -/
def gladeRows : List RegRow := [
  ⟨0x40, 1, [⟨20, 16, .rw, 0x8, .reset⟩, ⟨4, 0, .ro, 0x8, .reset⟩]⟩, -- GLADE_SCR_CFG
  ⟨0x44, 1, [⟨31, 31, .rw, 0x1, .reset⟩, ⟨15, 0, .rw, 0x64, .reset⟩]⟩, -- GLADE_RET_CTL
  ⟨0x48, 1, [⟨7, 0, .ro, 0x0, .reset⟩]⟩, -- GLADE_RET_STAT
  ⟨0x4C, 1, [⟨31, 0, .ro, 0x0, .reset⟩]⟩, -- GLADE_RET_WAKES
  ⟨0x50, 1, [⟨31, 0, .ro, 0x0, .keep⟩]⟩, -- GLADE_XB_COLL
  ⟨0x54, 1, [⟨31, 30, .ro, 0x0, .reset⟩, ⟨15, 0, .ro, 0x0, .reset⟩]⟩, -- GLADE_XB_LAST
  ⟨0x58, 1, [⟨31, 31, .ros, 0x0, .keep⟩, ⟨20, 16, .ro, 0x0, .reset⟩, ⟨2, 0, .ros, 0x0, .keep⟩]⟩, -- GLADE_REPAIR
  ⟨0x5C, 1, [⟨31, 0, .ro, 0x0, .keep⟩]⟩, -- GLADE_VU_SAT
  ⟨0x60, 1, [⟨31, 0, .ro, 0x0, .keep⟩]⟩, -- GLADE_VU_NAN
  ⟨0x64, 1, [⟨31, 0, .ro, 0x0, .reset⟩]⟩, -- GLADE_MIG_HIT
  ⟨0x68, 1, [⟨31, 0, .ro, 0x0, .reset⟩]⟩ -- GLADE_MIG_FILL
]

/-- The registers of the copse0 page. -/
def copse0Rows : List RegRow := [
  ⟨0x40, 1, [⟨26, 24, .rw, 0x0, .reset⟩, ⟨14, 7, .rw, 0x0, .reset⟩, ⟨6, 0, .rw, 0x0, .reset⟩]⟩, -- COPSE_PASSCTL
  ⟨0x44, 1, [⟨31, 0, .ro, 0x0, .reset⟩]⟩, -- COPSE_RINGVIEW_LO
  ⟨0x48, 1, [⟨31, 0, .ro, 0x0, .reset⟩]⟩, -- COPSE_RINGVIEW_HI
  ⟨0x4C, 1, [⟨0, 0, .ro, 0x0, .reset⟩]⟩, -- COPSE_VIEWSTAT
  ⟨0x50, 1, [⟨31, 29, .ro, 0x0, .reset⟩, ⟨28, 28, .ro, 0x0, .reset⟩, ⟨27, 27, .ro, 0x0, .reset⟩, ⟨26, 26, .ro, 0x0, .reset⟩, ⟨25, 24, .ro, 0x0, .reset⟩, ⟨23, 21, .ro, 0x0, .reset⟩, ⟨20, 18, .ro, 0x0, .reset⟩, ⟨17, 15, .ro, 0x0, .reset⟩]⟩, -- COPSE_STATE
  ⟨0x54, 1, [⟨31, 16, .ro, 0x0, .reset⟩, ⟨15, 0, .ro, 0x0, .reset⟩]⟩, -- COPSE_SLOTS
  ⟨0x58, 1, [⟨31, 20, .ro, 0x0, .reset⟩, ⟨16, 16, .ro, 0x0, .reset⟩, ⟨15, 8, .ro, 0x0, .reset⟩, ⟨7, 0, .ro, 0xFF, .reset⟩]⟩, -- COPSE_RINGOWN
  ⟨0x5C, 1, [⟨5, 0, .ro, 0x0, .reset⟩]⟩, -- COPSE_SPLIT
  ⟨0x60, 1, [⟨31, 0, .ros, 0x0, .keep⟩]⟩, -- COPSE_STEPS_LO
  ⟨0x64, 1, [⟨31, 0, .ros, 0x0, .keep⟩]⟩, -- COPSE_STEPS_HI
  ⟨0x68, 1, [⟨31, 0, .ro, 0x0, .reset⟩]⟩, -- COPSE_PASSES
  ⟨0x6C, 1, [⟨31, 24, .ro, 0x0, .reset⟩, ⟨23, 16, .ro, 0xFF, .reset⟩, ⟨15, 8, .ro, 0xFF, .reset⟩]⟩ -- COPSE_REPAIR
]

/-- The registers of the copse1 page. -/
def copse1Rows : List RegRow := [
  ⟨0x40, 1, [⟨0, 0, .rw, 0x1, .reset⟩]⟩, -- COPSE_SAT_CTL
  ⟨0x44, 1, [⟨31, 0, .rw, 0x100, .reset⟩]⟩, -- COPSE_SAT_THRESH
  ⟨0x48, 1, [⟨31, 16, .ro, 0x0, .reset⟩, ⟨15, 0, .ro, 0x0, .reset⟩]⟩, -- COPSE_SAT_SEQ
  ⟨0x4C, 1, [⟨31, 0, .ro, 0x0, .reset⟩]⟩, -- COPSE_SAT_EDGE
  ⟨0x50, 1, [⟨31, 0, .ro, 0x0, .reset⟩]⟩, -- COPSE_SAT_LUT
  ⟨0x54, 1, [⟨31, 0, .ro, 0x0, .reset⟩]⟩, -- COPSE_SAT_HARV
  ⟨0x58, 1, [⟨31, 0, .ro, 0x0, .reset⟩]⟩, -- COPSE_SAT_RING
  ⟨0x5C, 1, [⟨31, 0, .ro, 0x0, .reset⟩]⟩, -- COPSE_SAT_NAN
  ⟨0x60, 1, [⟨31, 0, .ros, 0x0, .keep⟩]⟩, -- COPSE_SAT_TOTAL_LO
  ⟨0x64, 1, [⟨31, 0, .ros, 0x0, .keep⟩]⟩, -- COPSE_SAT_TOTAL_HI
  ⟨0x68, 1, [⟨31, 0, .ro, 0x0, .keep⟩]⟩, -- COPSE_CHK_OK
  ⟨0x6C, 1, [⟨31, 0, .ros, 0x0, .keep⟩]⟩, -- COPSE_CHK_FAIL
  ⟨0x70, 1, [⟨31, 0, .ros, 0x0, .keep⟩]⟩, -- COPSE_CHK_REEXEC
  ⟨0x74, 1, [⟨31, 0, .ro, 0x0, .keep⟩]⟩, -- COPSE_CHK_UNCHECKED
  ⟨0x78, 1, [⟨31, 24, .ro, 0x0, .reset⟩, ⟨23, 16, .ro, 0x0, .reset⟩, ⟨15, 8, .ro, 0x0, .reset⟩, ⟨7, 7, .ro, 0x0, .reset⟩, ⟨6, 0, .ro, 0x0, .reset⟩]⟩, -- COPSE_CHK_LAST
  ⟨0x7C, 1, [⟨31, 31, .ros, 0x0, .keep⟩, ⟨15, 8, .ros, 0x0, .keep⟩, ⟨7, 0, .ros, 0x0, .keep⟩]⟩, -- COPSE_HEALTH
  ⟨0x80, 1, [⟨0, 0, .wo, 0x0, .reset⟩]⟩, -- COPSE_HEALTH_CTL
  ⟨0x84, 1, [⟨31, 31, .rw, 0x0, .reset⟩, ⟨30, 28, .rw, 0x0, .reset⟩, ⟨27, 20, .rw, 0x0, .reset⟩, ⟨19, 13, .rw, 0x0, .reset⟩, ⟨6, 0, .rw, 0x0, .reset⟩]⟩ -- COPSE_CHK_INJECT
]

/-- The registers of the channel page. -/
def channelRows : List RegRow := [
  ⟨0x40, 1, [⟨31, 29, .ro, 0x0, .reset⟩, ⟨23, 16, .ros, 0x0, .keep⟩, ⟨11, 0, .ros, 0x0, .keep⟩]⟩, -- CH_STAT
  ⟨0x44, 1, [⟨1, 0, .rws, 0x0, .keep⟩]⟩, -- CH_CFG
  ⟨0x48, 1, [⟨27, 24, .rw, 0x4, .reset⟩, ⟨23, 20, .rw, 0x2, .reset⟩, ⟨15, 0, .rw, 0x1F4, .reset⟩]⟩, -- CH_SUSP_CFG
  ⟨0x4C, 1, [⟨8, 0, .rw, 0x40, .reset⟩]⟩, -- CH_ECC_WARN
  ⟨0x50, 1, [⟨31, 0, .ros, 0x0, .keep⟩]⟩, -- CH_WARN_COUNT
  ⟨0x54, 1, [⟨31, 0, .ros, 0x0, .keep⟩]⟩, -- CH_RETRY
  ⟨0x58, 1, [⟨31, 0, .ros, 0x0, .keep⟩]⟩, -- CH_UNCORR
  ⟨0x5C, 1, [⟨31, 0, .ros, 0x0, .keep⟩]⟩, -- CH_BROWNOUT
  ⟨0x60, 1, [⟨31, 0, .ros, 0x0, .keep⟩]⟩, -- CH_REJECT
  ⟨0x64, 1, [⟨31, 16, .ros, 0x0, .keep⟩, ⟨15, 0, .ro, 0x0, .reset⟩]⟩, -- CH_BBT
  ⟨0x80, 8, [⟨31, 31, .ros, 0x0, .keep⟩, ⟨30, 30, .ro, 0x0, .reset⟩, ⟨13, 0, .ros, 0x0, .keep⟩]⟩, -- CH_ERASE_ACTIVE_n
  ⟨0xA0, 1, [⟨31, 30, .rw, 0x0, .reset⟩, ⟨29, 29, .w1s, 0x0, .reset⟩, ⟨28, 26, .rw, 0x0, .reset⟩, ⟨25, 12, .rw, 0x0, .reset⟩, ⟨11, 0, .rw, 0x0, .reset⟩]⟩, -- CH_RAW_CMD
  ⟨0xA4, 1, [⟨31, 0, .rw, 0x0, .reset⟩]⟩, -- CH_RAW_ADDR_LO
  ⟨0xA8, 1, [⟨31, 0, .rw, 0x0, .reset⟩]⟩, -- CH_RAW_ADDR_HI
  ⟨0xAC, 1, [⟨31, 29, .ro, 0x0, .reset⟩, ⟨8, 0, .ro, 0x0, .reset⟩]⟩ -- CH_RAW_STAT
]

/-- The registers of the ranger page. -/
def rangerRows : List RegRow := [
  ⟨0x40, 1, [⟨0, 0, .rw, 0x1, .reset⟩]⟩, -- RANGER_CTL
  ⟨0x44, 1, [⟨7, 4, .ro, 0x0, .reset⟩, ⟨3, 0, .ro, 0x0, .reset⟩]⟩, -- RANGER_BUF
  ⟨0x48, 1, [⟨31, 16, .ro, 0x0, .reset⟩, ⟨15, 0, .ro, 0x0, .reset⟩]⟩, -- RANGER_KEYS
  ⟨0x4C, 1, [⟨31, 0, .ro, 0x0, .keep⟩]⟩, -- RANGER_PF_HIT
  ⟨0x50, 1, [⟨31, 0, .ro, 0x0, .keep⟩]⟩, -- RANGER_BC_HIT
  ⟨0x54, 1, [⟨31, 0, .ro, 0x0, .keep⟩]⟩, -- RANGER_BC_MISS
  ⟨0x58, 1, [⟨31, 0, .ro, 0x0, .keep⟩]⟩, -- RANGER_MIRROR
  ⟨0x5C, 1, [⟨31, 0, .ro, 0x0, .keep⟩]⟩ -- RANGER_TAGFAIL
]

/-- The registers of the stackPort page. -/
def stackPortRows : List RegRow := [
  ⟨0x40, 1, [⟨31, 29, .ro, 0x0, .keep⟩, ⟨7, 0, .ro, 0x0, .reset⟩]⟩, -- STACK_STAT
  ⟨0x44, 1, [⟨31, 16, .ro, 0x0, .reset⟩, ⟨15, 0, .ro, 0x0, .reset⟩]⟩, -- STACK_LAYOUT
  ⟨0x48, 1, [⟨20, 0, .ro, 0x0, .reset⟩]⟩, -- STACK_ALLOC
  ⟨0x4C, 1, [⟨20, 0, .ros, 0x0, .keep⟩]⟩, -- STACK_RETIRED
  ⟨0x50, 1, [⟨31, 0, .ro, 0x0, .reset⟩]⟩, -- STACK_RD_LO
  ⟨0x54, 1, [⟨31, 0, .ro, 0x0, .reset⟩]⟩, -- STACK_RD_HI
  ⟨0x58, 1, [⟨31, 0, .ro, 0x0, .reset⟩]⟩, -- STACK_WR_LO
  ⟨0x5C, 1, [⟨31, 0, .ro, 0x0, .reset⟩]⟩ -- STACK_WR_HI
]

/-- The registers a page of a kind holds beyond the header. -/
def PageKind.rows : PageKind → List RegRow
  | .identity => identityRows
  | .timebase => timebaseRows
  | .queue => queueRows
  | .dispatcher => dispatcherRows
  | .validator => validatorRows
  | .migration => migrationRows
  | .quota => quotaRows
  | .ftl => ftlRows
  | .recovery => recoveryRows
  | .commons => commonsRows
  | .search => searchRows
  | .table => tableRows
  | .adapter => adapterRows
  | .security => securityRows
  | .forest => forestRows
  | .power => powerRows
  | .fault => faultRows
  | .dump => dumpRows
  | .management => managementRows
  | .debug => debugRows
  | .trace => traceRows
  | .chowen => chowenRows
  | .stand => standRows
  | .glade => gladeRows
  | .copse0 => copse0Rows
  | .copse1 => copse1Rows
  | .channel => channelRows
  | .ranger => rangerRows
  | .stackPort => stackPortRows

end Sys2Proof.Machine
end

