-- ==== Sys2Proof/Machine/HostTypes.lean ====
section
/-! DEFINITION. The kinds of data the hub keeps for the host: completions, progress records, sessions, partitions,
queues, the event log, the dump slots, the security and the management state. -/

namespace Sys2Proof.Machine

/-- A partition's state (R409); absent is: not listed. -/
inductive PState where
  | created | sealed | releasing | operator
  deriving DecidableEq, Repr

/-- Which session sealed an answer, and the number its answer counter gave it (R381). -/
structure SealInfo where
  partition : Nat
  session : Nat
  counter : Nat
  deriving DecidableEq, Repr

/-- A completion as the module posts it (R394): status code type and code, Do Not Retry, dwords 0 and 1, and the bytes
written to the data buffer from offset 0. Where sealInfo is given the payload that data shows is what the host receives
as AES-256-GCM ciphertext under that session's result key. -/
structure Completion where
  sqid : Nat
  cid : Nat
  sct : Nat
  sc : Nat
  dnr : Bool
  dw0 : Word
  dw1 : Word
  data : List Byte
  sealInfo : Option SealInfo
  deriving DecidableEq, Repr

/-- A progress record (R397). -/
structure ProgRec where
  opcode : Nat
  fin : Bool
  visible : Bool
  admin : Bool
  partition : Nat
  sct : Nat
  sc : Nat
  sqid : Nat
  cid : Nat
  nonce : Nat
  kind : Nat
  restarts : Nat
  units : Nat
  lastDay : Option Nat
  accepted : Nat
  completed : Nat
  counts : List Nat
  slba : Nat
  deriving DecidableEq, Repr

/-- One nonce of a deduplication window (R391). -/
structure WinEntry where
  nonce : Nat
  inFlight : Bool
  dw0 : Word
  dw1 : Word
  prog : ProgRec
  deriving DecidableEq, Repr

/-- A command that waits for its completion (R372): what it asks for, whether it has started (R389, R391), the session
whose sealed envelope marked it tenant-issued, the duplicates that wait on it (R392) and its progress record. -/
structure Outstanding where
  cmd : Cmd
  opcode : Nat
  admin : Bool
  vendor : Bool
  started : Bool
  sealedBy : Option Nat
  dups : List (Nat × Nat)
  prog : ProgRec
  deriving DecidableEq, Repr

/-- A tenant session (R415 to R424). -/
structure Session where
  num : Nat
  isPending : Bool
  owned : Bool
  opened : Nat
  request : List Byte
  answer : List Byte
  lastMsg : Nat
  answers : Nat
  highNonce : Nat
  tickets : List Nat
  deriving DecidableEq, Repr

/-- One entry of the deferred-write-error log (R396). -/
structure DeferredEntry where
  first : Nat
  count : Nat
  cause : Nat
  stamp : Nat
  deriving DecidableEq, Repr

/-- A registered extent (R187, R388). -/
structure Extent where
  offset : Nat
  length : Nat
  policy : Nat
  deriving DecidableEq, Repr

/-- An object that VZ-INGEST appended (R387): where its container lies, its length, the season it was appended in. -/
structure IngestObj where
  slba : Nat
  length : Nat
  season : Nat
  deriving DecidableEq, Repr

/-- A partition's resources (R410, R196, R391, R395, R407). The lists quota, charge and peak have the eight items of
R196 in order. -/
structure Part where
  quota : List Nat
  charge : List Nat
  peak : List Nat
  desc : List Byte
  lbaFmt : Nat
  creation : Nat
  owner : List Byte
  policy : Nat
  cfg : Nat
  hasIndexKey : Bool
  indexKey : BitVec 256
  dataKey : Option (BitVec 256)
  loads : Nat
  sessions : List Session
  nextSession : Nat
  window : List WinEntry
  windowPages : List Nat
  records : List ProgRec
  deferred : Bool
  undurable : List DeferredEntry
  undurableOver : Bool
  submitted : Nat
  completed : Nat
  failed : Nat
  extents : AMap Extent
  ranges : List (Nat × Nat)
  idxRanges : List (Nat × Nat)
  nextObject : Nat
  deriving DecidableEq, Repr

/-- An I/O queue (R372): for a submission queue its completion queue and its tail and head; for a completion queue its
vector, its tail and the host's head. -/
structure SubQueue where
  size : Nat
  cqid : Nat
  tail : Nat
  head : Nat
  deriving DecidableEq, Repr

structure CompQueue where
  size : Nat
  vector : Nat
  irq : Bool
  tail : Nat
  head : Nat
  deriving DecidableEq, Repr

/-- The NVMe controller and the queue engine (R372 to R408). sanitizeBlocks are the flash blocks whose erase a sanitize
still waits for (R435); an entry of errorLog is its number, the queue and identifier, the status. dma is what raw NAND reads
wrote to host memory: address, bytes (R212). cfgAnswers are the answers to configuration requests: false is retry status
(R474). -/
structure HostIf where
  cfgReady : Bool
  linkUp : Bool
  perst : Bool
  enabled : Bool
  rdy : Bool
  shst : Nat
  sqs : AMap SubQueue
  cqs : AMap CompQueue
  outstanding : List Outstanding
  completions : List Completion
  waitingCq : List Completion
  aers : List (Nat × Nat)
  heldAens : List (Nat × Nat)
  features : AMap Nat
  changedNs : List Nat
  sanitize : Nat
  sanitizing : Bool
  sanitizeBlocks : List Nat
  formatting : List Nat
  errorLog : List (Nat × Nat × Nat)
  mediaErrors : Nat
  msix : List Nat
  aggregating : List Nat
  dma : List (Nat × List Byte)
  cfgAnswers : List Bool
  deriving DecidableEq, Repr

/-- An event record (R516). -/
structure EventRec where
  stamp : Nat
  seq : Nat
  code : Nat
  partition : Nat
  blk : Nat
  flags : Nat
  arg0 : Nat
  arg1 : Nat
  unread : Bool
  deriving DecidableEq, Repr

/-- An entry of the correctable-error address table (R493). -/
structure CeEntry where
  loc : Nat
  count : Nat
  test : Bool
  thresh : Bool
  first : Nat
  latest : Nat
  deriving DecidableEq, Repr

/-- A fatal dump (R512, R513): the header's fields and the six sections;
the lines of the scratch window each with the partition that owned its location last. -/
structure Dump where
  seq : Nat
  code : Nat
  stamp : Nat
  coldStarts : Nat
  regs : List (Nat × Nat)
  log : List EventRec
  records : List ProgRec
  window : List (Nat × List Byte)
  poison : List Nat
  ce : List (Option CeEntry)
  deriving DecidableEq, Repr

structure DumpSlot where
  state : Nat
  dump : Option Dump
  deriving DecidableEq, Repr

/-- The fault page's own state (R493, R503, R505, R511 to R519); patrol holds the line each stack port reads next (R490). -/
structure Ras where
  log : List EventRec
  nextSeq : Nat
  ce : List (Option CeEntry)
  patrol : AMap Nat
  standFires : AMap Nat
  faultTimes : List (Nat × Nat)
  hubFaultWarmEnd : Option Nat
  halted : Bool
  dumpHeld : Option Dump
  slots : List DumpSlot
  dumpSeq : Nat
  deriving DecidableEq, Repr

/-- An SPDM secure session (R429). -/
structure SpdmSession where
  num : Nat
  established : Bool
  epoch : Nat
  lastHeard : Nat
  deriving DecidableEq, Repr

/-- An IDE stream (R431): 0 off, 1 keyed, 2 secure, 3 insecure. Stream 0 is the link stream, 1 to 16 are selective. -/
structure Security where
  negotiated : Nat
  sessions : List SpdmSession
  nextSpdm : Nat
  streams : AMap Nat
  aerInternal : Nat
  spdmAnswers : List (List Byte)
  deriving DecidableEq, Repr

/-- The management endpoint (R546, R547, R558). -/
structure Mgmt where
  lowSpeedSel : Bool
  smbAddrWaiting : Option Nat
  lastMsg : Option Nat
  i3cInForce : Bool
  responses : List (Nat × List Word)
  deriving DecidableEq, Repr

end Sys2Proof.Machine
end

