-- ==== Sys2Proof/Machine/FlashTypes.lean ====
section
/-! DEFINITION. The kinds of data of the flash channels, the rangers and the translation layer. Physical pages and
blocks are named by the address field of a map entry (R232): stand, channel, die, block and page. -/

namespace Sys2Proof.Machine

/-- The content of a 16 KiB unit: its plaintext bytes as the module's engines see them behind the media key; form is
0 for data as the host wrote it, 1 for a page sealed under an index key, 2 for a unit of an adapter home (R288,
R335), 3 for a parity unit sealed under the group key (R458), with the key and the nonce it was sealed under. -/
structure UnitVal where
  bytes : Bytes
  form : Nat
  key : BitVec 256
  nonce : Nat
  deriving DecidableEq, Repr

/-- A map entry (R232): 1 mapped, 2 mapped and mirrored, 3 poisoned; unmapped is: not listed. -/
structure MapEntry where
  state : Nat
  addr : Nat
  deriving DecidableEq, Repr

/-- A unit in the write buffer (R238 to R241): its map index, partition, number in its namespace or page range, kind
(0 data, 1 index page), its version's number in order of arrival, the copies that failed their check bits, the SLC
copies in staging, the super-block slot its program takes, whether that program is done, whether the content was rebuilt from other modules. -/
structure BufUnit where
  idx : Nat
  partition : Nat
  unit : Nat
  kind : Nat
  order : Nat
  val : UnitVal
  homeBad : Bool
  neighbourBad : Bool
  staged : List Nat
  staging : Bool
  slot : Option Nat
  programmed : Bool
  rebuilt : Bool
  deriving DecidableEq, Repr

/-- A programmed page (R202, R233). A raw program leaves rawData. -/
structure NandPage where
  idx : Nat
  partition : Nat
  kind : Nat
  seq : Nat
  val : UnitVal
  rawData : Option (List Byte)
  deriving DecidableEq, Repr

/-- A NAND block (R207, R213, R216, R228, R250). -/
structure Block where
  verified : Bool
  clear : Bool
  wp : Nat
  reads : Nat
  erases : Nat
  warned : Bool
  needErase : Bool
  pendingFlag : Bool
  closed : Bool
  deriving DecidableEq, Repr

/-- What a die does (R206, R209): 0 read, 1 QLC program, 2 erase, 3 SLC program, 4 flag log page with set records,
5 flag log page with clear records. -/
structure DieOp where
  kind : Nat
  block : Nat
  wordline : Nat
  suspended : Bool
  suspensions : Nat
  interrupted : Bool
  retried : Bool
  access : Nat
  deriving DecidableEq, Repr

/-- A partition key slot of a ranger (R222). -/
structure KeySlot where
  partition : Nat
  hasData : Bool
  hasIndex : Bool
  lastUse : Nat
  inUse : Bool
  deriving DecidableEq, Repr

/-- A prefetch slot of a ranger that holds a search or internal read (R223, R226). -/
structure PfSlot where
  slot : Nat
  partition : Nat
  version : Nat
  page : Nat
  lastUse : Nat
  deriving DecidableEq, Repr

/-- A line of a branch cache (R227). -/
structure BranchLine where
  partition : Nat
  version : Nat
  node : Nat
  list : List Byte
  lastUse : Nat
  deriving DecidableEq, Repr

/-- A channel with its ranger (R201 to R228). -/
structure Channel where
  brownOut : Bool
  ops : AMap DieOp
  keys : List KeySlot
  pf : List PfSlot
  branch : List BranchLine
  factory : AMap (List Nat)
  grown : AMap (List Nat)
  deriving DecidableEq, Repr

/-- A media access (R224, R225): whether it is search class, who asks (0 host read, 1 extent page, 2 search, 3 nobody any more), the read, the
MOVE or the search that waits on it, the unit, the physical page, the attempts so far, the codewords that failed the last one, whether an upper limit
cancelled it (R49). -/
structure Access where
  search : Bool
  asker : Nat
  waiter : Nat
  idx : Nat
  addr : Nat
  attempt : Nat
  failed : List Nat
  cancelled : Bool
  deriving DecidableEq, Repr

/-- A host read that waits for media accesses (R232): its command, the bytes it returns, the accesses it waits for and,
for each, the LBAs before its unit; the lowest LBA count before a unit found poisoned. -/
structure ReadWait where
  sqid : Nat
  cid : Nat
  data : List Byte
  waits : List (Nat × Nat)
  poisonedAt : Option Nat
  deriving DecidableEq, Repr

/-- A super-block (R235 to R237): 1 open, 2 closed, 3 retired, 4 being reclaimed, 5 being erased, free being: not
listed. stream is 0 host data, 1 graph node pages, 2 relocated data, 3 mirrors. wordline and the channels of it that
are programmed; slots used in it; whether it was opened after a stand was lost (R252). -/
structure SuperBlock where
  state : Nat
  stream : Nat
  wordline : Nat
  done : List Nat
  nextSlot : Nat
  afterLoss : Bool
  deriving DecidableEq, Repr

/-- A journal record (R243): its number in order of arrival and the stands whose SLC pages hold it. -/
structure JournalRec where
  idx : Nat
  entry : Option MapEntry
  seq : Nat
  no : Nat
  stands : List Nat
  deriving DecidableEq, Repr

/-- A relocation (R248): the unit, the address it was copied from, its content. -/
structure Reloc where
  idx : Nat
  partition : Nat
  kind : Nat
  old : Nat
  val : UnitVal
  deriving DecidableEq, Repr

/-- A write that waits for buffer slots (R238): its command, its partition and the pieces still to enter: unit number
in the namespace, offset in the unit, bytes; whether it is acknowledged only when
durable (R240), and the dwords it completes with. -/
structure WaitingWrite where
  sqid : Nat
  cid : Nat
  partition : Nat
  pieces : List (Nat × Nat × List Byte)
  orders : List Nat
  durable : Bool
  dw0 : Word
  dw1 : Word
  deriving DecidableEq, Repr

/-- A command that waits for durability (R240, R390): the versions it waits for and the completion it then takes. -/
structure FlushWait where
  orders : List Nat
  reply : Completion
  deriving DecidableEq, Repr

/-- The translation layer (R231 to R254). -/
structure Ftl where
  map : AMap MapEntry
  ckpt : AMap MapEntry
  buf : List BufUnit
  nextOrder : Nat
  seq : Nat
  journal : List JournalRec
  ckptNext : Nat
  sinceCkpt : Nat
  sbs : AMap SuperBlock
  opened : AMap Nat
  sbErases : AMap Nat
  members : AMap Nat
  waiting : List WaitingWrite
  reads : AMap ReadWait
  credit : Nat
  flushes : List FlushWait
  cleanRecord : Bool
  holdup : List BufUnit
  holdupComplete : Bool
  zeroing : List (Nat × Nat × Nat)
  relocs : List Reloc
  refreshQueue : List Nat
  shareWaiting : Bool
  pages : AMap NandPage
  blocks : AMap Block
  accesses : AMap Access
  deriving DecidableEq, Repr

end Sys2Proof.Machine
end

