-- ==== Sys2Proof/Machine/JobTypes.lean ====
section
/-! DEFINITION. The kinds of data of almanacs, jobs, copses and glades. -/

namespace Sys2Proof.Machine

/-- A calendar of an almanac (R122): its unit field, its logical glade, its 128-bit entries. -/
structure CalDef where
  unit : Nat
  glade : Nat
  entries : List Nat
  deriving DecidableEq, Repr

/-- A token channel (R123). -/
structure ChanDef where
  producer : Nat
  consumer : Nat
  capacity : Nat
  initial : Nat
  rank : Nat
  deriving DecidableEq, Repr

/-- A buffer (R124). -/
structure BufDef where
  tier : Nat
  kind : Nat
  home : Nat
  owner : Nat
  bank : Nat
  offset : Nat
  size : Nat
  handle : Nat
  deriving DecidableEq, Repr

/-- A wait point (R125). -/
structure WaitDef where
  buf : Nat
  tag : Nat
  budget : Nat
  source : Nat
  deriving DecidableEq, Repr

/-- An item of a row plan (R263). -/
structure RowItem where
  buf : Nat
  role : Nat
  esize : Nat
  lines : Nat
  routeOff : Nat
  groups : Nat
  deriving DecidableEq, Repr

/-- A row plan (R263). -/
structure RowPlan where
  kind : Nat
  maxRows : Nat
  inLen : Nat
  items : List RowItem
  digest : List Byte
  deriving DecidableEq, Repr

/-- A loaded almanac (R120 to R127, R156): its parsed content, its digests and the stack pages that hold it. -/
structure Alm where
  owner : Nat
  loadNo : Nat
  bytes : List Byte
  digest : List Byte
  minStands : Nat
  minStacks : Nat
  ringMask : Nat
  nCopse : Nat
  nGlade : Nat
  nRanger : Nat
  nHub : Nat
  res : List Nat
  cals : List CalDef
  chans : List ChanDef
  bufs : List BufDef
  waits : List WaitDef
  days : List Nat
  plan : Option RowPlan
  pages : List Nat
  deriving DecidableEq, Repr

/-- A draw context of a vector unit (R134, R135). -/
structure Draw where
  seed : Nat
  stream : Nat
  base : Nat
  deriving DecidableEq, Repr

/-- Why a calendar is halted (R140): at a TAKE, a WAIT, a FENCE or a DAY entry. -/
inductive Halt where
  | running | atTake | atWait (since : Nat) | atFence | atDay
  deriving DecidableEq, Repr

/-- The state of one calendar of a job: the index of its next entry and of its dawn entry, why it is halted, whether
the late-tier event of its halt was posted (R151), the entries whose writes are not yet complete (R140), its draw
context. -/
structure CalRun where
  pc : Nat
  dawn : Nat
  halt : Halt
  late : Bool
  inFlight : List Nat
  draw : Option Draw
  deriving DecidableEq, Repr

/-- The state of a staging buffer (R149). -/
inductive Fill where
  | empty | filling | full
  deriving DecidableEq, Repr

structure Staging where
  fill : Fill
  tag : Nat
  deriving DecidableEq, Repr

/-- An entry of a row-tag table (R271), with what the hub holds of the row for kinds 2 and 3: the object or search and
the chunk. -/
structure RowTag where
  valid : Bool
  slot : Nat
  partition : Nat
  base : Nat
  source : Nat
  chunk : Nat
  bytes : List Byte
  deriving DecidableEq, Repr

/-- A prefetched tier-5 slot (R356). -/
structure SlotFetch where
  buf : Nat
  slot : Nat
  ok : Bool
  plain : Bytes
  deriving DecidableEq, Repr

/-- A host slot of a tier-5 buffer (R354): the sequence number recorded, the plaintext it seals and whether it was
written in the current day (R355). -/
structure HostSlot where
  seq : Nat
  thisDay : Bool
  plain : Bytes
  deriving DecidableEq, Repr

/-- A row of a hot region (R325, R326): 0 in transit, 1 draining, 2 hot, 3 write-back token. -/
structure HotRow where
  state : Nat
  dirty : Bool
  copy : List Byte
  log : List (List Byte)
  deriving DecidableEq, Repr

/-- A table version a job pins (R318, R320): the table, the epoch, whether the job scatters into the building
version, the hot rows. -/
structure TablePin where
  table : Nat
  epoch : Nat
  scatters : Bool
  glade : Nat
  target : List Nat
  hot : AMap HotRow
  deriving DecidableEq, Repr

/-- A held write to a flash-backed extent (R145): the namespace's partition, the byte offset in the namespace, the
bytes, whether a poisoned line is among them (R496). -/
structure HeldWrite where
  partition : Nat
  off : Nat
  data : List Byte
  bad : Bool
  deriving DecidableEq, Repr

/-- A MOVE from an extent in flight (R189, R192): the calendar and entry as its media accesses name them, the bytes of
the versions it pinned, its poisoned lines, the resident copies it pins. -/
structure MoveRead where
  waiter : Nat
  plain : Bytes
  bad : List Nat
  pins : List Nat
  deriving DecidableEq, Repr

/-- A job (R157 to R164). key is the submission queue and command identifier of its command; copses and glades are the
physical units of its logical ones; pages are its tier-3 pages in order (R182), work the working pages of the day
(R145), orders the flash versions its committed days wrote, pfDepth the prefetch depth it was dispatched with (R542); the counts of day faults are those of R107, R147, R355 and R497. -/
structure Job where
  partition : Nat
  handle : Nat
  cls : Nat
  kind : Nat
  sqid : Nat
  cid : Nat
  session : Option Nat
  command : Bool
  isBound : Bool
  copses : List Nat
  glades : List Nat
  bases : List Nat
  rangers : List Nat
  rbases : List Nat
  borrower : Bool
  cals : List CalRun
  toks : List Nat
  staging : AMap Staging
  pages : List Nat
  work : AMap Nat
  held : List HeldWrite
  reads : List MoveRead
  input : List Byte
  day : Nat
  dayStart : Nat
  restarts : Nat
  faultRestarts : Nat
  copseRestarts : Nat
  poisonRestarts : Nat
  sealRestarts : Nat
  dropPosted : Bool
  orders : List Nat
  pfDepth : Nat
  pfDone : List (Nat × Nat)
  rows : AMap RowTag
  tables : List TablePin
  jobKey : BitVec 256
  nextSeq : Nat
  slots : AMap HostSlot
  prefetched : List SlotFetch
  regions : List (Nat × Nat × Nat)
  segDir : AMap Nat
  gang : Option Nat
  copy : Nat
  maxima : AMap Nat
  exps : AMap Int
  finished : Bool
  deriving DecidableEq, Repr

/-- A context slot of a copse (R90, R91, R95). -/
structure Ctx where
  entry : Nat
  tag : Nat
  mode : Nat
  wfmt : Nat
  afmt : Nat
  wsel : Nat
  rnd : Nat
  rngSrc : Nat
  preload : Nat
  dwellLen : Nat
  dwellPos : Nat
  exps : List Int
  scales : List Nat
  seed : Nat
  stream : Nat
  base : Nat
  loads : List Nat
  book : List Nat
  nans : Nat
  deriving DecidableEq, Repr

/-- A ring's scale set (R98, R99, R267): the scales of its context, its counts (edge, table, harvest, ring, NaN) and
the column map it latched. -/
structure ScaleSet where
  tag : Nat
  exps : List Int
  scales : List Nat
  seed : Nat
  stream : Nat
  base : Nat
  edge : Nat
  lut : Nat
  harv : Nat
  ring : Nat
  nan : Nat
  cmap : List Nat
  deriving DecidableEq, Repr

/-- A pass of the set now stepping (R85 to R88): its ring, where its operands lie, its context, the exponents of the
sections it reads (R346) and the column map it latches (R267). -/
structure PassMember where
  entry : Nat
  ring : Nat
  wbuf : Nat
  woff : Nat
  abuf : Nat
  aoff : Nat
  ctx : Ctx
  expAdd : Int
  cmap : List Nat
  deriving DecidableEq, Repr

/-- The passes now in the array: who issued them, the members in set order, the steps each takes, how many the set
holds, the steps done in all. -/
structure PassRun where
  job : Nat
  cal : Nat
  borrower : Bool
  members : List PassMember
  steps : Nat
  size : Nat
  done : Nat
  deriving DecidableEq, Repr

/-- A comparison of a harvest (R104): mismatched rows and columns, the corner's, rows and columns uncompared. -/
structure Compare where
  rows : List Nat
  cols : List Nat
  corner : Bool
  unchecked : Nat
  deriving DecidableEq, Repr

/-- A harvest whose rows have drained and whose comparison is not yet acted on (R101, R107): attempt 0 is the first
execution, 1 the replay on the same copse, 2 the replay on a spare copse. -/
structure HarvRun where
  job : Nat
  cal : Nat
  entry : Nat
  borrower : Bool
  attempt : Nat
  cmp : Compare
  timedOut : Bool
  deriving DecidableEq, Repr

/-- A binding of a copse (R110): the job and the calendar. -/
structure CopseBind where
  job : Nat
  cal : Nat
  partition : Nat
  deriving DecidableEq, Repr

/-- A copse (R83, R95 to R115). Rings are keyed ring × 32768 + row × 128 + column, checksum rings of the column by
ring × 256 + row and of the row by ring × 128 + column; a number not listed is 0. -/
structure Copse where
  owner : Option CopseBind
  borrower : Option CopseBind
  lent : Bool
  yielding : Bool
  lendEn : Bool
  borrowWin : Nat
  slotA : Option Ctx
  slotB : Option Ctx
  activeB : Bool
  slotBorrower : Option Ctx
  memberCtx : Option Ctx
  rings : AMap Int
  chkRow : AMap Nat
  chkCol : AMap Nat
  corner : AMap Nat
  sat : List Nat
  held : List Nat
  sets : AMap ScaleSet
  ringOwner : AMap Nat
  pass : Option PassRun
  harv : Option HarvRun
  replays : Nat
  spareFor : Option Nat
  free : AMap DWord
  winSteps : Nat
  winMult : Bool
  winLookup : Bool
  winShort : Bool
  deriving DecidableEq, Repr

/-- A glade (R168 to R175, R504). -/
structure Glade where
  bankMap : AMap Nat
  retired : List Nat
  pendingRetire : List Nat
  retention : List Nat
  ctlExcluded : Bool
  free : AMap DWord
  deriving DecidableEq, Repr

end Sys2Proof.Machine
end

