-- ==== Sys2Proof/Machine/MemTypes.lean ====
section
/-! DEFINITION. The kinds of data that hold memory: the byte stores, the owners of locations, the directory. -/

namespace Sys2Proof.Machine

/-- An on-chip region (R165, R434): its first location code, its length in bytes, the partition that last owned it,
whether it is allocated, whether an external-only scrub marked it released. -/
structure Region where
  start : Nat
  len : Nat
  owner : Nat
  live : Bool
  released : Bool
  deriving DecidableEq, Repr

/-- Who owns a 64 KiB stack page, or owned it last where live is false (R165), and the page's number in its owner's
module address space (R185, R186). -/
structure PageUse where
  owner : Nat
  live : Bool
  place : Nat
  deriving DecidableEq, Repr

/-- A line whose stored form an ECC test raw write gave (R501). -/
structure RawLine where
  data : List Byte
  check : List Byte
  deriving DecidableEq, Repr

/-- A resident copy (R189, R192 to R194): stale where a newer version exists; of an extent page in a stack page, or of a commons page in a migration window. -/
structure Copy where
  place : Nat
  charged : Nat
  pins : Nat
  lastRead : Nat
  deferred : Bool
  stale : Bool
  prefetched : Option Nat
  deriving DecidableEq, Repr

/-- Memory. Bytes are keyed by location code (R492), a byte's place in its line being added to the line's code; stack
bytes are the plaintext that the port encrypts (R179). -/
structure Mem where
  bytes : Bytes
  poison : List Nat
  raw : AMap RawLine
  regions : List Region
  pages : AMap PageUse
  retired : List Nat
  resident : AMap Copy
  window : AMap Copy
  deriving DecidableEq, Repr

/-- Memory is in its canonical form: addresses strictly rising, no listed byte equal to what an unlisted one reads as. -/
def Memory.wf (m : Mem) : Bool := bytesWf m.bytes

end Sys2Proof.Machine
end

