-- ==== Sys2Proof/Machine/ModelTypes.lean ====
section
/-! DEFINITION. The kinds of data of searches, seasons, embedding tables, adapters, gang steps, the forest, the power
manager and the trace port. -/

namespace Sys2Proof.Machine

/-- A node record of a graph (R287); state 1 live, 2 tombstoned, 0 free. -/
structure NodeRec where
  object : Nat
  chunk : Nat
  state : Nat
  vec : List Byte
  attrs : List Byte
  nbrs : List Nat
  deriving DecidableEq, Repr

/-- A graph version on flash (R289). -/
structure GraphVersion where
  nodes : AMap NodeRec
  nodeHw : Nat
  entries : List Nat
  deriving DecidableEq, Repr

/-- An object in an ingest list (R22, R281): the data slot's load count it was authenticated under, its plaintext
attributes and content as the rangers read them, how many of its chunks were put into batches, and the vectors the
season engine holds. -/
structure Listed where
  slba : Nat
  length : Nat
  season : Nat
  auth : Option Nat
  plain : List Byte
  formed : Nat
  vectors : AMap (List Byte)
  deriving DecidableEq, Repr

/-- A VZ-SEASON in progress (R306): phase 0 waits to take effect, 1 merging, 2 waits to flip, 3 flipped and waits to
free. objs holds the objects of the season set until the version flips: the ingest list records them as indexed only
then (R477). -/
structure Closing where
  sqid : Nat
  cid : Nat
  command : Bool
  phase : Nat
  nodes : List Nat
  tombs : List Nat
  unreadable : Bool
  counts : List Nat
  objs : AMap Listed
  next : Option GraphVersion
  deriving DecidableEq, Repr

/-- A partition's index: its graph, its staging graph and its season (R281, R286, R304 to R306). held holds the objects
whose vectors are in staging, as the ingest list has them until the merge (R477). -/
structure Index where
  version : Nat
  flash : AMap GraphVersion
  staging : AMap NodeRec
  tombs : List Nat
  freeIds : List Nat
  nextId : Nat
  season : Nat
  ingest : AMap Listed
  held : AMap Listed
  tagFails : Nat
  fullPosted : Bool
  closing : Option Closing
  stagingPages : List Nat
  deriving DecidableEq, Repr

/-- A candidate or a result (R291): ord orders keys, code is the key as the answer carries it. -/
structure Cand where
  ord : Int
  code : Nat
  node : Nat
  expanded : Bool
  deriving DecidableEq, Repr

/-- An instruction of a filter (R293). -/
structure FilterOp where
  op : Nat
  width : Nat
  isSigned : Bool
  offset : Nat
  value : Nat
  deriving DecidableEq, Repr

/-- An entry of an answer (R301, R461). -/
structure AnsEntry where
  ord : Int
  code : Nat
  modNo : Nat
  node : Nat
  object : Nat
  chunk : Nat
  attrs : List Byte
  deriving DecidableEq, Repr

/-- Where a search stands: it waits for its embedding, waits for a sequencer, runs, has stopped, waits for peers. -/
inductive Phase where
  | embedding | waiting | running | stopped | scanned | peers
  deriving DecidableEq, Repr

/-- A search (R292 to R303, R460). want holds the nodes of the present round, whose scores are awaited, lost the map indices
of the pages whose reads failed. peerOf is the origin's module number where the search serves a peer. -/
structure Search where
  partition : Nat
  sqid : Nat
  cid : Nat
  session : Nat
  k : Nat
  L : Nat
  H : Nat
  w : Nat
  flags : Nat
  budget : Nat
  filter : List FilterOp
  query : List Byte
  selector : List Byte
  phase : Phase
  stand : Nat
  version : Nat
  staging : List Nat
  tombs : List Nat
  cand : List Cand
  res : List Cand
  seen : List Nat
  want : List Nat
  lost : List Nat
  hops : Nat
  scored : Nat
  nscanned : Nat
  badEdges : Nat
  unreadable : Nat
  scanRun : Bool
  limited : Bool
  restarts : Nat
  pages : List Nat
  asked : List (Nat × Nat)
  answered : List Nat
  refused : List Nat
  late : List Nat
  foreign : List AnsEntry
  peerCounts : List Nat
  fanSince : Nat
  peerOf : Option (Nat × Nat)
  deriving DecidableEq, Repr

/-- An indexing batch in progress (R281): its job and its rows. -/
structure Batch where
  job : Nat
  rows : List (Nat × Nat × Nat)
  deriving DecidableEq, Repr

/-- The commons engines: indexing batches, the query batch that gathers, the query jobs with their searches, the
partition taken first in the last batch (R281, R283); and the stack pages of commons objects by page of the commons'
stacked memory, which jobs read as input buffers of partition 4,095 (R185, R386). -/
structure Commons where
  batches : List Batch
  gather : List Nat
  gatherSince : Nat
  queryJobs : List (Nat × List Nat)
  lastFirst : Nat
  resident : AMap Nat
  deriving DecidableEq, Repr

/-- A version of an embedding table (R318): its epoch, its pages, the batches that pin it. -/
structure TabVersion where
  pages : List Nat
  pins : List Nat
  deriving DecidableEq, Repr

/-- The building version of a table (R320): its pages, the pages it copied, and the job it belongs to (none:
VZ-TABLE). -/
structure Building where
  pages : List Nat
  copied : List Nat
  job : Option Nat
  deriving DecidableEq, Repr

/-- An embedding table (R310, R318 to R324). -/
structure Table where
  rows : Nat
  dim : Nat
  fmt : Nat
  hotKib : Nat
  current : Nat
  nextEpoch : Nat
  versions : AMap TabVersion
  building : Option Building
  staged : List Nat
  target : List Nat
  interval : Nat
  deriving DecidableEq, Repr

/-- An adapter (R332 to R338). pages hold its image while it is resident. -/
structure Adapter where
  partition : Nat
  desc : List Byte
  sites : List Byte
  home : Nat
  size : Nat
  pages : Option (List Nat)
  homeWritten : Bool
  pinnedBy : Option Nat
  deriving DecidableEq, Repr

/-- A row set (R339). -/
structure RowSet where
  rows : Nat
  rowBytes : Nat
  pages : List Nat
  deriving DecidableEq, Repr

/-- A member of a STEP (R363, R364). -/
structure Member where
  partition : Nat
  adapter : Nat
  session : Nat
  status : Nat
  active : Bool
  rowset : Nat
  first : Nat
  perStep : Nat
  authorised : Nat
  hyper : List Nat
  run : Nat
  updates : Nat
  deriving DecidableEq, Repr

/-- A binding entry of a STEP (R344). -/
structure Binding where
  cls : Nat
  what : Nat
  site : Nat
  word : Nat
  eInit : Int
  deriving DecidableEq, Repr

/-- A STEP in progress (R357 to R369): phase 0 its copies run, 1 reduction among copies done and waiting for peers,
2 update phase. sums holds G_mod or G by slot, site and element, maxima the running maxima. -/
structure Gang where
  sqid : Nat
  cid : Nat
  alm : Nat
  members : List Member
  binds : List Binding
  bindBytes : List Byte
  copies : Nat
  steps : Nat
  done : Nat
  group : Nat
  rank : Nat
  count : Nat
  phase : Nat
  level : Nat
  jobs : List Nat
  committedJobs : List Nat
  sums : AMap Nat
  maxima : AMap Nat
  remapped : Bool
  deriving DecidableEq, Repr

/-- Forest configuration entries (R452). -/
structure PeerCfg where
  num : Nat
  ports : Nat
  mac : Nat
  digest : List Byte
  deriving DecidableEq, Repr

structure GroupCfg where
  num : Nat
  members : List Nat
  deriving DecidableEq, Repr

structure ReplCfg where
  slots : List Nat
  units : Nat
  storeOff : Nat
  storeLen : Nat
  bitmap : List Byte
  deriving DecidableEq, Repr

structure FanCfg where
  own : Nat
  peer : Nat
  peerPart : Nat
  deriving DecidableEq, Repr

structure ForestCfg where
  self : Nat
  forestId : Nat
  switched : Nat
  mtu : Nat
  tag : Nat
  peers : List PeerCfg
  groups : List GroupCfg
  repl : Option ReplCfg
  fans : List FanCfg
  deriving DecidableEq, Repr

/-- A frame in a replay buffer (R446). -/
structure SentFrame where
  seq : Nat
  kind : Nat
  channel : Nat
  msgNo : Nat
  msgOff : Nat
  last : Bool
  payload : List Byte
  deriving DecidableEq, Repr

/-- An association (R442, R445 to R450): state 0 down, 1 HELLO sent, 2 REPLY sent, 3 up. -/
structure Assoc where
  port : Nat
  peer : Nat
  state : Nat
  generation : Nat
  txSeq : Nat
  expect : Nat
  txEpoch : Nat
  rxEpoch : Nat
  txFrames : Nat
  replay : List SentFrame
  queue : List SentFrame
  timeouts : Nat
  unackedRx : Nat
  nakAt : Option Nat
  tagFails : List Nat
  parts : AMap (List Byte)
  finished : List Nat
  deriving DecidableEq, Repr

/-- A delta in the forest journal (R457, R458). -/
structure Delta where
  ident : Nat
  peer : Nat
  stripe : Nat
  role : Nat
  index : Nat
  bytes : List Byte
  deriving DecidableEq, Repr

/-- A message to a peer that is not wholly acknowledged (R453); delta is the identifier of the delta it carries. -/
structure OutMsg where
  no : Nat
  peer : Nat
  channel : Nat
  bytes : List Byte
  delta : Option Nat
  deriving DecidableEq, Repr

/-- The forest (R441 to R464). cables holds the lanes in use of each port; acks the deltas applied whose parity unit is
not durable yet: origin, identifier, version; inbox holds the messages delivered and not yet taken: peer, channel, bytes. -/
structure Forest where
  cfg : Option ForestCfg
  cfgNo : Nat
  assocs : List Assoc
  cables : AMap Nat
  nextMsg : Nat
  journal : List Delta
  applied : AMap Nat
  stale : List Nat
  outbox : List OutMsg
  acks : List (Nat × Nat × Nat)
  inbox : List (Nat × Nat × List Byte)
  deriving DecidableEq, Repr

/-- The power manager and the starts (R465 to R486). -/
structure Power where
  inputOn : Bool
  rails : Bool
  pwrdis : Bool
  ps : Nat
  wanted : Option Nat
  lastOperational : Nat
  lowCap : Bool
  holdBack : Bool
  setPoint : Nat
  throttled : List Nat
  tripped : Bool
  safe : Bool
  keysErased : Bool
  scan : Bool
  starting : Bool
  holdupSince : Nat
  hubFaultStart : Bool
  logFails : Nat
  logReason : Nat
  coldStarts : Nat
  deriving DecidableEq, Repr

/-- A trace record (R550), its time stamp, unit, entry, class, kind and partition. -/
structure TraceRec where
  stamp : Nat
  unit : Nat
  entry : Nat
  cls : Nat
  kind : Nat
  partition : Nat
  deriving DecidableEq, Repr

structure Trace where
  buf : List TraceRec
  lostNow : Nat
  count : Nat
  sent : List TraceRec
  deriving DecidableEq, Repr

end Sys2Proof.Machine
end

