-- ==== Sys2Proof/Machine/State.lean ====
section
/-! DEFINITION. The state of the module: its registers, memories, queues and engines, the faults and refusals of a
step, and the state after reset. -/

namespace Sys2Proof.Machine

/-- Reasons the module would stop with a fault. No meaning of this model raises one: every command of the table is
given its effect. -/
inductive Fault where
  /-- Kept for a hardware stop the spec does not describe; raised by nothing. Safe. -/
  | hardwareStop
  deriving DecidableEq, Repr

/-- Reasons a command has no meaning here. -/
inductive Refusal where
  /-- A command of the table without a meaning yet; raised by exec's arms only. Safe. -/
  | notModelled (mnemonic : String)
  deriving DecidableEq, Repr

/-- The state of the block. Registers are held sparse: an address (R525) not listed holds its value at a cold start;
many status registers are formed when they are read (see readReg). -/
structure State where
  pending : List Instr
  regs : AMap Word
  shadow : List (Nat × Nat × Word)
  tb : Nat
  fresh : Nat
  seedEpoch : Nat
  mem : Mem
  life : AMap PState
  parts : AMap Part
  creations : AMap Nat
  host : HostIf
  ras : Ras
  sec : Security
  mgmt : Mgmt
  alms : AMap Alm
  loadNo : Nat
  jobs : AMap Job
  nextJob : Nat
  copses : AMap Copse
  glades : AMap Glade
  chans : AMap Channel
  ftl : Ftl
  index : AMap Index
  searches : AMap Search
  nextSearch : Nat
  commons : Commons
  tables : AMap Table
  adapters : AMap Adapter
  evictions : AMap Nat
  rowsets : AMap RowSet
  gangs : AMap Gang
  forest : Forest
  power : Power
  trace : Trace
  deriving DecidableEq, Repr

def Mem.empty : Mem :=
  { bytes := [], poison := [], raw := [], regions := [], pages := [], retired := [], resident := [], window := [] }

/-- APST at cold start (R402): feature 0x0C, enabled. -/
def HostIf.blank : HostIf :=
  { cfgReady := false, linkUp := false, perst := false, enabled := false, rdy := false, shst := 0, sqs := [], cqs := [],
    outstanding := [], completions := [], waitingCq := [], aers := [], heldAens := [], features := [(0x0C, 1)],
    changedNs := [], sanitize := 0, sanitizing := false, sanitizeBlocks := [], formatting := [], errorLog := [], mediaErrors := 0, msix := [],
    aggregating := [], dma := [], cfgAnswers := [] }

def DumpSlot.blank : DumpSlot := { state := 0, dump := none }

def Ras.blank : Ras :=
  { log := [], nextSeq := 1, ce := List.replicate 32 none, patrol := [], standFires := [], faultTimes := [],
    hubFaultWarmEnd := none, halted := false, dumpHeld := none, slots := [DumpSlot.blank, DumpSlot.blank],
    dumpSeq := 0 }

def Ftl.blank : Ftl :=
  { map := [], ckpt := [], buf := [], nextOrder := 0, seq := 0, journal := [], ckptNext := 0, sinceCkpt := 0, sbs := [],
    opened := [], sbErases := [], members := [], waiting := [], reads := [], credit := 0, flushes := [], cleanRecord := false, holdup := [],
    holdupComplete := false, zeroing := [], relocs := [], refreshQueue := [], shareWaiting := false, pages := [],
    blocks := [], accesses := [] }

/-- A partition before anything is charged to it (R196). -/
def Part.blank : Part :=
  { quota := List.replicate 8 0, charge := List.replicate 8 0, peak := List.replicate 8 0, desc := [], lbaFmt := 0,
    creation := 0, owner := [], policy := 0, cfg := 6, hasIndexKey := false, indexKey := 0,
    dataKey := none, loads := 0, sessions := [], nextSession := 1, window := [], windowPages := [], records := [],
    deferred := false, undurable := [], undurableOver := false, submitted := 0, completed := 0, failed := 0,
    extents := [], ranges := [], idxRanges := [], nextObject := 1 }

/-- The module right after reset: every register at the value its Reset column gives, the module starting and the map
not loaded (R10, R487, R255), no partition but 0 and 4,095 (R409), every memory zero. -/
def State.reset : State :=
  { pending := [], regs := [], shadow := [], tb := 0, fresh := 0, seedEpoch := 0, mem := Mem.empty,
    life := [(0, .operator), (4095, .operator)], parts := [(0, Part.blank), (4095, Part.blank)], creations := [],
    host := HostIf.blank, ras := Ras.blank,
    sec := { negotiated := 0, sessions := [], nextSpdm := 1, streams := [], aerInternal := 0,
             spdmAnswers := [] },
    mgmt := { lowSpeedSel := false, smbAddrWaiting := none, lastMsg := none, i3cInForce := false, responses := [] },
    alms := [], loadNo := 0, jobs := [], nextJob := 1, copses := [], glades := [], chans := [], ftl := Ftl.blank,
    index := [], searches := [], nextSearch := 1,
    commons := { batches := [], gather := [], gatherSince := 0, queryJobs := [], lastFirst := 0, resident := [] },
    tables := [], adapters := [], evictions := [], rowsets := [], gangs := [],
    forest := { cfg := none, cfgNo := 0, assocs := [], cables := [], nextMsg := 1, journal := [], applied := [],
                stale := [], outbox := [], acks := [], inbox := [] },
    power := { inputOn := true, rails := false, pwrdis := false, ps := 0, wanted := none, lastOperational := 0,
               lowCap := false, holdBack := false, setPoint := 700, throttled := [], tripped := false, safe := false,
               keysErased := false, scan := false, starting := true, holdupSince := 0, hubFaultStart := false, logFails := 0,
               logReason := 0, coldStarts := 0 },
    trace := { buf := [], lostNow := 0, count := 0, sent := [] } }

end Sys2Proof.Machine
end

