-- ==== Sys2Proof/Machine/Regs.lean ====
section
/-! DEFINITION. Where register pages lie, what their registers hold after a cold start, and the raw read and write of a
register and of its fields (R6, R10, R525 to R534). -/

namespace Sys2Proof.Machine

/-- A register page: what kind it is and the path of its block (R525). -/
structure PageInst where
  kind : PageKind
  stand : Nat
  glade : Nat
  copse : Nat
  chan : Nat
  stack : Nat
  port : Nat
  deriving DecidableEq, Repr

def hubPage (k : PageKind) : PageInst := ⟨k, 0x1F, 0, 0, 0, 0, 0⟩

/-- The page list of the hub (R533), in rising address. -/
def hubKinds : List PageKind :=
  [.identity, .timebase, .queue, .dispatcher, .validator, .migration, .quota, .ftl, .recovery, .commons, .search,
   .table, .adapter, .security, .forest, .power, .fault, .dump, .management, .debug, .trace]

def standBase (s : Nat) : Nat := 0x01000000 + s * 0x00200000
/-- Glade 4s + g. -/
def gladePage (i : Nat) : Nat := standBase (i / 4) + 0x00040000 + i % 4 * 0x00010000
/-- Copse 16s + 4g + c, first page. -/
def copsePage (i : Nat) : Nat := gladePage (i / 4) + 0x8000 + i % 4 * 0x2000
def copsePage1 (i : Nat) : Nat := copsePage i + 0x1000
/-- Channel 16s + k. -/
def chanPage (i : Nat) : Nat := standBase (i / 16) + 0x00100000 + i % 16 * 0x2000
def rangerPage (i : Nat) : Nat := chanPage i + 0x1000
/-- Stack port 3s + p. -/
def stackPage (i : Nat) : Nat := standBase (i / 3) + 0x00180000 + i % 3 * 0x1000
def chowenPage (p : Nat) : Nat := 0x00020000 + p * 0x1000

/-- The page that holds a BAR2 offset (R525, R533, R534); none where no page is assigned (R526). -/
def pageOf (a : Nat) : Option PageInst :=
  let p := a / 4096
  if a < 0x01000000 then
    if p < 21 then (hubKinds[p]?).map hubPage
    else if 0x20 ≤ p ∧ p < 0x24 then some { hubPage .chowen with port := p - 0x20 }
    else none
  else
    let s := (a - 0x01000000) / 0x00200000
    let o := (a - 0x01000000) % 0x00200000
    if s ≥ 8 then none
    else if o < 0x1000 then some ⟨.stand, s, 0, 0, 0, 0, 0⟩
    else if 0x00040000 ≤ o ∧ o < 0x00080000 then
      let g := (o - 0x00040000) / 0x00010000
      let r := (o - 0x00040000) % 0x00010000
      if r < 0x1000 then some ⟨.glade, s, g, 0, 0, 0, 0⟩
      else if r < 0x8000 then none
      else
        let c := (r - 0x8000) / 0x2000
        if (r - 0x8000) % 0x2000 < 0x1000 then some ⟨.copse0, s, g, c, 0, 0, 0⟩ else some ⟨.copse1, s, g, c, 0, 0, 0⟩
    else if 0x00100000 ≤ o ∧ o < 0x00120000 then
      let k := (o - 0x00100000) / 0x2000
      if (o - 0x00100000) % 0x2000 < 0x1000 then some ⟨.channel, s, 0, 0, k, 0, 0⟩ else some ⟨.ranger, s, 0, 0, k, 0, 0⟩
    else if 0x00180000 ≤ o ∧ o < 0x00183000 then some ⟨.stackPort, s, 0, 0, 0, (o - 0x00180000) / 0x1000, 0⟩
    else none

/-- The block type of a page (R529). -/
def PageKind.code : PageKind → Nat
  | .identity => 0x01 | .timebase => 0x02 | .queue => 0x03 | .dispatcher => 0x04 | .validator => 0x05
  | .migration => 0x06 | .quota => 0x07 | .ftl => 0x08 | .recovery => 0x09 | .commons => 0x0A | .search => 0x0B
  | .table => 0x0C | .adapter => 0x0D | .security => 0x0E | .forest => 0x0F | .power => 0x10 | .fault => 0x11
  | .dump => 0x12 | .management => 0x13 | .debug => 0x14 | .trace => 0x15 | .chowen => 0x16 | .stand => 0x20
  | .glade => 0x21 | .copse0 => 0x22 | .copse1 => 0x23 | .channel => 0x24 | .ranger => 0x25 | .stackPort => 0x26

/-- The path code of a page: bits [19:0] of its BLK_ID, the page number apart (R516, R528). -/
def PageInst.path (p : PageInst) : Nat :=
  p.stand * 2 ^ 15 + p.glade * 2 ^ 13 + p.copse * 2 ^ 11 + p.chan * 2 ^ 7 + p.stack * 2 ^ 5 + p.port * 2 ^ 2

/-- BLK_ID (R528). -/
def PageInst.blkId (p : PageInst) : Nat :=
  p.kind.code * 2 ^ 24 + 1 * 2 ^ 20 + p.path + (if p.kind = .copse1 then 1 else 0)

/-- Pages that enforce TMO_LIMIT, and its reset value (R46, R47, R532). -/
def PageKind.tmo : PageKind → Option Nat
  | .channel => some 0x8000000F
  | .copse0 => some 0x80000002
  | .stand => some 0x8000012C
  | .queue => some 0x800007D0
  | .dispatcher => some 0x80002710
  | _ => none

/-- Pages whose block owns a store that is counted (R491). -/
def PageKind.ecc : PageKind → Bool
  | .copse0 | .glade | .ranger | .stackPort | .recovery | .fault => true
  | _ => false

/-- Pages whose OWNER is meaningful (R532; the spec names copses, the others are the model's choice). -/
def PageKind.ownerCap : PageKind → Bool
  | .copse0 | .glade | .ranger => true
  | _ => false

/-- Instances of a page's type on this member (R530). -/
def PageKind.count : PageKind → Nat
  | .chowen => 4 | .stand => 8 | .glade => 32 | .copse0 => 128 | .copse1 => 128 | .channel => 128 | .ranger => 128
  | .stackPort => 24
  | _ => 1

def PageKind.cap (k : PageKind) : Nat :=
  (if k.tmo.isSome then 2 ^ 31 else 0) + (if k.ecc then 2 ^ 30 else 0) + (if k.ownerCap then 2 ^ 29 else 0) + k.count

/-- The register of a page at an offset, and its number where the row holds several. -/
def findReg (rows : List RegRow) (off : Nat) : Option (RegRow × Nat) :=
  match rows with
  | [] => none
  | r :: rest => if r.off ≤ off ∧ off < r.off + 4 * r.count then some (r, (off - r.off) / 4) else findReg rest off

/-- The rows of a page: the header's, the limit's where the page enforces one, and its own. -/
def PageInst.rows (p : PageInst) : List RegRow :=
  headerRows ++ (match p.kind.tmo with | some v => [⟨0x38, 1, [⟨31, 0, .rw, v, .reset⟩]⟩] | none => []) ++ p.kind.rows

/-- The fields of the register at a BAR2 offset. -/
def fieldsAt (a : Nat) : List FieldRow :=
  match pageOf a with
  | none => []
  | some p => match findReg p.rows (a % 4096) with | some (r, _) => r.fields | none => []

/-- Put a value into bits [hi:lo] of a word. -/
def putBits (w hi lo v : Nat) : Nat :=
  w - bitsOf w hi lo * 2 ^ lo + v % 2 ^ (hi + 1 - lo) * 2 ^ lo

/-- The value after a cold start that fields give. -/
def fieldsWord (fs : List FieldRow) : Nat := fs.foldl (fun w f => putBits w f.hi f.lo f.reset) 0

/-- The value of a register after a cold start (R10, R199, R528, R530). -/
def resetWord (a : Nat) : Word :=
  match pageOf a with
  | none => 0
  | some p =>
    let off := a % 4096
    if off = 0x00 then BitVec.ofNat 32 p.blkId
    else if off = 0x04 then 1
    else if off = 0x08 then BitVec.ofNat 32 p.kind.cap
    else if p.kind = .stackPort ∧ off = 0x44 then
      if p.stack = 0 then BitVec.ofNat 32 (16 * 65536) else if p.stack = 1 then 256 else 0
    else BitVec.ofNat 32 (fieldsWord (fieldsAt a))

/-- The word a register holds. -/
def regGet (s : State) (a : Nat) : Word := aGetD s.regs a (resetWord a)

/-- Put a word into the register file in its canonical form: a register that holds its reset value is not listed. -/
def regPut (m : AMap Word) (a : Nat) (w : Word) : AMap Word :=
  (aPut (aDel m a) a w).filter fun e => e.1 != a || e.2 != resetWord a

/-- Write a whole register. -/
def setReg (s : State) (a : Nat) (w : Word) : State := { s with regs := regPut s.regs a w }

/-- The value of a field. -/
def getF (s : State) (a : Nat) (f : BitField) : Nat := bitsOf (regGet s a).toNat f.hi f.lo

/-- Write one field. -/
def setF (s : State) (a : Nat) (f : BitField) (v : Nat) : State :=
  setReg s a (BitVec.ofNat 32 (putBits (regGet s a).toNat f.hi f.lo v))

/-- Add to a counter that stops at 0xFFFF_FFFF. -/
def bumpReg (m : AMap Word) (a n : Nat) : AMap Word :=
  regPut m a (BitVec.ofNat 32 (min ((aGetD m a (resetWord a)).toNat + n) 0xFFFFFFFF))

def bump (s : State) (a n : Nat) : State := { s with regs := bumpReg s.regs a n }

/-- Add to a counter that wraps. -/
def bumpWrap (s : State) (a n : Nat) : State := setReg s a (regGet s a + BitVec.ofNat 32 n)

/-- Add to a field that stops at its greatest value. -/
def bumpF (s : State) (a : Nat) (f : BitField) (n : Nat) : State :=
  setF s a f (min (getF s a f + n) (2 ^ (f.hi + 1 - f.lo) - 1))

/-- The 64-bit value of a pair of registers (R6). -/
def getPair (s : State) (lo : Nat) : Nat := (regGet s lo).toNat + (regGet s (lo + 4)).toNat * 2 ^ 32

/-- Write a pair of registers. -/
def setPair (s : State) (lo v : Nat) : State :=
  setReg (setReg s lo (BitVec.ofNat 32 v)) (lo + 4) (BitVec.ofNat 32 (v / 2 ^ 32))

/-- Add to a 64-bit counter. -/
def bumpPair (s : State) (lo n : Nat) : State := setPair s lo ((getPair s lo + n) % 2 ^ 64)

/-- A stand that is built, powered and not failed (R4, R509). -/
def standPresent (s : State) (i : Nat) : Bool :=
  i < 8 && bitOf (getF s Reg.HUB_STANDS Fld.HUB_STANDS_present) i
    && !bitOf (getF s Reg.HUB_STANDS Fld.HUB_STANDS_failed) i

/-- The page of a BAR2 offset as a requester finds it: the pages of a failed or absent stand, and in a safe start of
every stand, read as absent (R4, R509, R526, R546). -/
def livePage (s : State) (a : Nat) : Option PageInst :=
  match pageOf a with
  | none => none
  | some p => if p.stand = 0x1F ∨ (standPresent s p.stand ∧ ¬ s.power.safe) then some p else none

end Sys2Proof.Machine
end

