-- ==== Sys2Proof/Machine/Ops.lean ====
section
/-! DEFINITION. The operations that every family of commands shares: statuses and completions, events and the event
log, asynchronous events, the quotas, the free values, and memory with its owners, its poison and its error counts. -/

namespace Sys2Proof.Machine

/-- A completion status: status code type and status code (NVMe, R394). -/
structure Status where
  sct : Nat
  sc : Nat
  deriving DecidableEq, Repr

def stSuccess : Status := ⟨0, 0x00⟩
def stInvalidOpcode : Status := ⟨0, 0x01⟩
def stInvalidField : Status := ⟨0, 0x02⟩
def stDataTransfer : Status := ⟨0, 0x04⟩
def stPowerLoss : Status := ⟨0, 0x05⟩
def stInternal : Status := ⟨0, 0x06⟩
def stAborted : Status := ⟨0, 0x07⟩
def stInvalidNs : Status := ⟨0, 0x0B⟩
def stSequence : Status := ⟨0, 0x0C⟩
def stSanitize : Status := ⟨0, 0x1D⟩
def stWriteProtected : Status := ⟨0, 0x20⟩
def stLbaRange : Status := ⟨0, 0x80⟩
def stNotReady : Status := ⟨0, 0x82⟩
def stCqInvalid : Status := ⟨1, 0x00⟩
def stQueueId : Status := ⟨1, 0x01⟩
def stQueueSize : Status := ⟨1, 0x02⟩
def stVector : Status := ⟨1, 0x08⟩
def stLogPage : Status := ⟨1, 0x09⟩
def stFormat : Status := ⟨1, 0x0A⟩
def stQueueDelete : Status := ⟨1, 0x0C⟩
def stFeatureSave : Status := ⟨1, 0x0D⟩
def stFeatureChange : Status := ⟨1, 0x0E⟩
/-- The poisoned status (R497). -/
def stPoisoned : Status := ⟨2, 0x81⟩
def stPartial : Status := ⟨7, 0x80⟩
def stDuplicate : Status := ⟨7, 0x81⟩
def stShort : Status := ⟨7, 0x82⟩
def stSeal : Status := ⟨7, 0x83⟩
def stQuota : Status := ⟨7, 0x84⟩
def stRejected : Status := ⟨7, 0x85⟩
def stTierLate : Status := ⟨7, 0x86⟩
def stNested : Status := ⟨7, 0x87⟩
def stDeferred : Status := ⟨7, 0x88⟩
def stNotSealed : Status := ⟨7, 0x89⟩
def stRemapped : Status := ⟨7, 0x8A⟩
def stKey : Status := ⟨7, 0x8B⟩
def stEpoch : Status := ⟨7, 0x8C⟩

/-- The Do Not Retry bit (R394, R497); where the spec does not state it, it is free. -/
def Status.dnr (st : Status) : Bool :=
  if st = stSuccess then false
  else if st.sct = 7 then st.sc == 0x81 || st.sc == 0x82 || st.sc == 0x83 || st.sc == 0x85 || st.sc == 0x89 || st.sc == 0x8A
  else if st = stPoisoned then true
  else Config.dnr st.sct st.sc

/-- The trace port sends the oldest record that waits (R550, R551). -/
def traceSend (s : State) : State :=
  match s.trace.buf with
  | [] => s
  | r :: rest => bumpPair { s with trace := { s.trace with buf := rest, sent := s.trace.sent ++ [r] } } Reg.TRC_RECORDS_LO 1

/-- One tick of the timebase: 10 ns (R42); the trace port sends one record in it. -/
def tick (s : State) : State := traceSend { s with tb := s.tb + 1 }

/-! Free values -/

/-- A fresh output of the TRNG (R412). -/
def draw (s : State) : BitVec 256 × State := (Config.trng s.fresh, { s with fresh := s.fresh + 1 })

/-- The TRNG passes its tests (R412). -/
def trngOk (s : State) : Bool := getF s Reg.SEC_STAT Fld.SEC_STAT_trng != 2

/-! Completions, interrupts and asynchronous events -/

/-- Write the MSI-X message of a completion queue, at once or after coalescing (R372; NVMe features 08h and 09h). -/
def raiseVector (h : HostIf) (cq : Nat) (q : CompQueue) : HostIf :=
  if !q.irq then h
  else
    let agg := aGetD h.features 0x08 0
    let off := bitOf (aGetD h.features (0x900 + q.vector) 0) 16
    let thr := bitsOf agg 7 0
    let time := bitsOf agg 15 8
    if cq = 0 ∨ off ∨ thr = 0 ∨ time = 0 then { h with msix := h.msix ++ [q.vector] }
    else
      let w := h.aggregating ++ [q.vector]
      if (w.filter (· == q.vector)).length > thr then
        { h with aggregating := w.filter (· != q.vector), msix := h.msix ++ [q.vector] }
      else { h with aggregating := w }

/-- Entries of a completion queue that the host has not yet freed. -/
def CompQueue.level (q : CompQueue) : Nat := (q.tail + q.size - q.head) % q.size

/-- Post a completion to the completion queue of its submission queue; where that queue is full it waits (R521). -/
def postTo (h : HostIf) (c : Completion) : HostIf :=
  let cq := match aGet? h.sqs c.sqid with | some q => q.cqid | none => 0
  match aGet? h.cqs cq with
  | none => h
  | some q =>
    if q.level + 1 ≥ q.size then { h with waitingCq := h.waitingCq ++ [c] }
    else
      let h1 := { h with completions := h.completions ++ [c], cqs := aPut h.cqs cq { q with tail := (q.tail + 1) % q.size } }
      raiseVector h1 cq { q with tail := (q.tail + 1) % q.size }

def postCompletion (s : State) (c : Completion) : State := { s with host := postTo s.host c }

/-- The log page that an asynchronous event names (R395, R408, NVMe). -/
def aenLog (ty info : Nat) : Nat :=
  if ty = 7 then (if info = 0 then 0xC0 else if info = 1 then 0xC3 else 0)
  else if ty = 2 then (if info = 0 then 0x04 else 0) else if ty = 1 then 0x02 else 0x01

/-- Post an asynchronous event: to an outstanding request, or held once per type and information value (R408). -/
def aenTo (h : HostIf) (ty info : Nat) : HostIf :=
  match h.aers with
  | (sq, cid) :: rest =>
    postTo { h with
      aers := rest
      outstanding := h.outstanding.filter fun o => !(o.cmd.sqid == sq && o.cmd.cid == cid) }
      { sqid := sq, cid := cid, sct := 0, sc := 0, dnr := false,
        dw0 := BitVec.ofNat 32 (ty + info * 256 + aenLog ty info * 65536), dw1 := 0, data := [], sealInfo := none }
  | [] => if h.heldAens.contains (ty, info) then h else { h with heldAens := h.heldAens ++ [(ty, info)] }

def aen (s : State) (ty info : Nat) : State := { s with host := aenTo s.host ty info }

/-! Events (R516 to R519) -/

/-- What posting an event touches: the registers, the logs of the fault page, the host interface. -/
structure Panel where
  regs : AMap Word
  ras : Ras
  host : HostIf

/-- Change a state's registers, logs and host interface, and nothing else. -/
def onPanel (s : State) (f : Panel → Panel) : State :=
  { s with regs := (f ⟨s.regs, s.ras, s.host⟩).regs, ras := (f ⟨s.regs, s.ras, s.host⟩).ras
           host := (f ⟨s.regs, s.ras, s.host⟩).host }

def unreadCount (r : Ras) : Nat := (r.log.filter (·.unread)).length

/-- Add a record to the event log (R519). -/
def logTo (p : Panel) (e : EventRec) : Panel :=
  let full := decide (p.ras.log.length ≥ 16384)
  let lost := full && (match p.ras.log with | o :: _ => o.unread | [] => false)
  let kept := if full then p.ras.log.drop 1 else p.ras.log
  let none0 := decide (unreadCount { p.ras with log := kept } = 0)
  let e1 := { e with seq := p.ras.nextSeq, flags := if lost then e.flags + 4 else e.flags }
  { regs := if lost then bumpReg p.regs Reg.RAS_EVLOG_LOST 1 else p.regs
    ras := { p.ras with log := kept ++ [e1], nextSeq := p.ras.nextSeq + 1 }
    host := if none0 then aenTo p.host 7 1 else p.host }

def logAdd (s : State) (e : EventRec) : State := onPanel s fun p => logTo p e

/-- Post an event from a block's page: its cause bit is set, and unless the category is masked a record enters the log
(R516, R517). -/
def eventTo (p : Panel) (tb page code part a0 a1 flags : Nat) : Panel :=
  let cat := code / 256
  let cause := aGetD p.regs (page + Reg.EVT_CAUSE) (resetWord (page + Reg.EVT_CAUSE))
  let p1 := { p with regs := regPut p.regs (page + Reg.EVT_CAUSE) (cause ||| BitVec.ofNat 32 (2 ^ cat)) }
  let mask := aGetD p1.regs (page + Reg.EVT_MASK) (resetWord (page + Reg.EVT_MASK))
  if cat ≠ 0x0A ∧ bitOf mask.toNat cat then p1
  else logTo p1 { stamp := tb, seq := 0, code := code, partition := part, blk := (resetWord page).toNat,
                  flags := flags, arg0 := a0 % 2 ^ 64, arg1 := a1 % 2 ^ 64, unread := true }

def postFlags (s : State) (page code part a0 a1 flags : Nat) : State :=
  onPanel s fun p => eventTo p s.tb page code part a0 a1 flags

def post (s : State) (page code part a0 a1 : Nat) : State := postFlags s page code part a0 a1 0

/-- A pair of 32-bit values in one argument, the first in bits [63:32] (R516). -/
def argPair (a b : Nat) : Nat := a % 2 ^ 32 * 2 ^ 32 + b % 2 ^ 32

/-- A refused register write: the page posts a write-refused event (R516, R518). -/
def refuse (s : State) (addr : Nat) (v : Word) : State := post s (addr / 4096 * 4096) 0x0001 0 addr v.toNat

/-- Hub pages, named by the address of their first register's page. -/
def pgQueue : Nat := 0x2000
def pgDispatcher : Nat := 0x3000
def pgValidator : Nat := 0x4000
def pgMigration : Nat := 0x5000
def pgFtl : Nat := 0x7000
def pgCommons : Nat := 0x9000
def pgSearch : Nat := 0xA000
def pgTable : Nat := 0xB000
def pgAdapter : Nat := 0xC000
def pgSecurity : Nat := 0xD000
def pgForest : Nat := 0xE000
def pgPower : Nat := 0xF000
def pgFault : Nat := 0x10000

/-! Paths -/

end Sys2Proof.Machine

namespace Sys2Proof

def GladePath.index (g : GladePath) : Nat := 4 * g.stand + g.glade
def CopsePath.index (c : CopsePath) : Nat := 16 * c.stand + 4 * c.glade + c.copse
def ChanPath.index (c : ChanPath) : Nat := 16 * c.stand + c.chan
def StackPath.index (p : StackPath) : Nat := 3 * p.stand + p.port

def GladePath.ok (g : GladePath) : Bool := g.stand < 8 && g.glade < 4
def CopsePath.ok (c : CopsePath) : Bool := c.stand < 8 && c.glade < 4 && c.copse < 4
def ChanPath.ok (c : ChanPath) : Bool := c.stand < 8 && c.chan < 16
def StackPath.ok (p : StackPath) : Bool := p.stand < 8 && p.port < 3

end Sys2Proof

namespace Sys2Proof.Machine

/-- The path code of a page in an event argument (R516). -/
def pathCode (page : Nat) : Nat := match pageOf page with | some p => p.path | none => 0

/-! Partitions and quotas (R196) -/

def partState (s : State) (p : Nat) : Option PState := aGet? s.life p

def isSealed (s : State) (p : Nat) : Bool := partState s p == some .sealed

def getPart (s : State) (p : Nat) : Part := aGetD s.parts p Part.blank

def updPart (s : State) (p : Nat) (f : Part → Part) : State := { s with parts := aUpd s.parts p f }

def listAt (l : List Nat) (i : Nat) : Nat := l.getD i 0

/-- The charge of a partition in a tier fits its quota when n more is charged. -/
def fits (s : State) (p tier n : Nat) : Bool :=
  let q := getPart s p
  n == 0 || listAt q.charge tier + n ≤ listAt q.quota tier

/-- Charge n to a partition in a tier; the peak follows (R543). -/
def charge (s : State) (p tier n : Nat) : State :=
  updPart s p fun q =>
    let c := listAt q.charge tier + n
    { q with charge := q.charge.set tier c, peak := q.peak.set tier (max (listAt q.peak tier) c) }

/-- Credit n to a partition in a tier. -/
def credit (s : State) (p tier n : Nat) : State :=
  updPart s p fun q => { q with charge := q.charge.set tier (listAt q.charge tier - n) }

/-- The namespace ID of a partition (R374). -/
def nsidOf (p : Nat) : Nat := p + 1

/-- The LBA size of a partition's namespace (R372). -/
def lbaSize (q : Part) : Nat := if q.lbaFmt = 1 then 16384 else 4096

/-- The data slot of a partition is loaded (R23). -/
def dataLoaded (s : State) (p : Nat) : Bool := (getPart s p).dataKey.isSome

/-! Locations (R492). Memory is keyed by location code, with one difference: a byte of tier 1 is keyed by its offset in
the glade's interleaved region (R168), so that a tier-1 buffer is contiguous. -/

def locBase (store stand glade copse chan stack : Nat) : Nat :=
  store * 2 ^ 58 + stand * 2 ^ 53 + glade * 2 ^ 51 + copse * 2 ^ 49 + chan * 2 ^ 45 + stack * 2 ^ 43

def locCopse (i : Nat) : Nat := locBase 0 (i / 16) (i / 4 % 4) (i % 4) 0 0
def locGlade (i : Nat) : Nat := locBase 1 (i / 4) (i % 4) 0 0 0
/-- Exchange bank b of a glade: logical bank 60 + b. -/
def locBank (i b : Nat) : Nat := locBase 2 (i / 4) (i % 4) 0 0 0 + (60 + b) * 524288
def locRanger (i : Nat) : Nat := locBase 6 (i / 16) 0 0 (i % 16) 0
/-- Byte offset 0 of a stack page: page code (3 × stand + stack) × 2^20 + page. -/
def locPage (p : Nat) : Nat := locBase 3 (p / 2 ^ 20 / 3) 0 0 0 (p / 2 ^ 20 % 3) + p % 2 ^ 20 * 65536

def locStore (a : Nat) : Nat := bitsOf a 63 58
def locStand (a : Nat) : Nat := bitsOf a 57 53
def locGladeNo (a : Nat) : Nat := 4 * locStand a + bitsOf a 52 51
def locCopseNo (a : Nat) : Nat := 4 * locGladeNo a + bitsOf a 50 49
def locChanNo (a : Nat) : Nat := 16 * locStand a + bitsOf a 48 45
def locStackNo (a : Nat) : Nat := 3 * locStand a + bitsOf a 44 43
def locOff (a : Nat) : Nat := bitsOf a 39 0
/-- The stack page of a stack location. -/
def locPageNo (a : Nat) : Nat := locStackNo a * 2 ^ 20 + locOff a / 65536

/-- The location code that names a key's byte (R168, R492). -/
def codeOfKey (a : Nat) : Nat :=
  if locStore a = 1 then
    let o := locOff a
    a - o + (o / 4096 % 60 * 524288 + o / 4096 / 60 * 4096 + o % 4096)
  else a

/-- The key of a location code. -/
def keyOfCode (c : Nat) : Nat :=
  if locStore c = 1 then
    let o := locOff c
    let b := o / 524288
    let r := o % 524288
    if b < 60 then c - o + ((r / 4096 * 60 + b) * 4096 + r % 4096) else c
  else c

/-- The page that owns a store (R491). -/
def ownerPage (a : Nat) : Nat :=
  let st := locStore a
  if st = 0 then copsePage (locCopseNo a)
  else if st = 1 ∨ st = 2 then gladePage (locGladeNo a)
  else if st = 3 then stackPage (locStackNo a)
  else if st = 6 then rangerPage (locChanNo a)
  else if st = 8 then Reg.RECOV_STAT / 4096 * 4096
  else pgFault

/-- The partition that owns a location now, or owned it last: none where it was never allocated. -/
def locOwner (m : Mem) (a : Nat) : Option (Nat × Bool × Bool) :=
  if locStore a = 3 then
    match aGet? m.pages (locPageNo a) with
    | some u => some (u.owner, u.live, false)
    | none => none
  else
    match m.regions.find? fun r => r.start ≤ a && a < r.start + r.len with
    | some r => some (r.owner, r.live, r.released)
    | none => none

def locOwnerPart (m : Mem) (a : Nat) : Nat := match locOwner m a with | some (p, _, _) => p | none => 0

/-! Poison and errors (R489 to R497) -/

def lineOf (a : Nat) : Nat := a / 64 * 64

def isPoisoned (m : Mem) (line : Nat) : Bool := m.poison.contains line

/-- A line of a range is poisoned. -/
def rangePoisoned (m : Mem) (a n : Nat) : Bool := m.poison.any fun l => l < a + n && a < l + 64

/-- Insert into a sorted list without repeats. -/
def insertNat (n : Nat) : List Nat → List Nat
  | [] => [n]
  | x :: r => if n < x then n :: x :: r else if n = x then x :: r else x :: insertNat n r

/-- Mark a line poisoned: its data read zero (R495). -/
def markPoison (m : Mem) (line : Nat) : Mem :=
  { m with bytes := bZero m.bytes line 64, poison := insertNat line m.poison, raw := aDel m.raw line }

/-- Record an error in the page that owns the store (R491). -/
def noteError (s : State) (page code loc : Nat) (ue : Bool) : State :=
  let s1 := bump s (page + if ue then Reg.ERR_UE_COUNT else Reg.ERR_CE_COUNT) 1
  let s2 := setReg s1 (page + Reg.ERR_LAST_CODE) (BitVec.ofNat 32 code)
  setReg (setReg s2 (page + Reg.ERR_LAST_ADDR_LO) (BitVec.ofNat 32 loc)) (page + Reg.ERR_LAST_ADDR_HI)
    (BitVec.ofNat 32 (loc / 2 ^ 32))

/-- The index of the entry that a correction at a line takes: its own, else the lowest free, else the one with the
oldest latest stamp, the lower index on a tie (R493); and whether that replaces another line's entry. -/
def cePick (ce : List (Option CeEntry)) (loc : Nat) : Nat × Bool :=
  match ce.findIdx? fun e => match e with | some x => x.loc == loc | none => false with
  | some i => (i, false)
  | none =>
    match ce.findIdx? (·.isNone) with
    | some i => (i, false)
    | none =>
      let oldest := (ce.filterMap id).foldl (fun b x => match b with | none => some x.latest | some m => some (min m x.latest)) none
      match oldest with
      | none => (0, true)
      | some m => ((ce.findIdx? fun e => match e with | some x => x.latest == m | none => false).getD 0, true)

/-- A correction at a line (R491, R493, R494); test marks an ECC test access (R502). -/
def correctable (s : State) (key : Nat) (test : Bool) : State :=
  let loc := codeOfKey (lineOf key)
  let s1 := noteError s (ownerPage key) 0x0101 loc false
  let pick := cePick s1.ras.ce loc
  let old := match s1.ras.ce.getD pick.1 none with | some x => if x.loc = loc then some x else none | none => none
  let e : CeEntry := match old with
    | some x => { x with count := min (x.count + 1) 0xFFFFFFFF, latest := s.tb, test := x.test || test }
    | none => { loc := loc, count := 1, test := test, thresh := false, first := s.tb, latest := s.tb }
  let due := decide (e.count = getF s Reg.RAS_CFG Fld.RAS_CFG_ce_thresh) && !e.thresh
  onPanel s1 fun p =>
    let p1 := { p with
      regs := if pick.2 then bumpReg p.regs Reg.RAS_CE_EVICT 1 else p.regs
      ras := { p.ras with ce := p.ras.ce.set pick.1 (some { e with thresh := e.thresh || due }) } }
    if due then eventTo p1 s.tb pgFault 0x0101 0 loc e.count (if test then 2 else 0) else p1

/-- An uncorrectable error at a line: it is poisoned, counted and posted (R491, R495). -/
def uncorrectable (s : State) (key : Nat) (test : Bool) : State :=
  let loc := codeOfKey (lineOf key)
  let s1 := noteError { s with mem := markPoison s.mem (lineOf key) } (ownerPage key) 0x0201 loc true
  let s2 := bump s1 Reg.RAS_POISON 1
  postFlags s2 (ownerPage key) 0x0201 (locOwnerPart s.mem key) loc 0 (if test then 2 else 0)

/-! Reading and writing memory -/

/-- The lines that a range touches. -/
def linesOf (a n : Nat) : Nat := if n = 0 then 0 else (a + n - 1) / 64 - a / 64 + 1

/-- Read a range of memory; stack lines are counted (R199). -/
def memRead (m : Mem) (a n : Nat) : List Byte := bRead m.bytes a n

def countRead (s : State) (a n : Nat) : State :=
  { s with regs := if locStore a = 3 then (bumpPair s (stackPage (locStackNo a) + Reg.STACK_RD_LO) (linesOf a n)).regs else s.regs }

def countWrite (s : State) (a n : Nat) : State :=
  { s with regs := if locStore a = 3 then (bumpPair s (stackPage (locStackNo a) + Reg.STACK_WR_LO) (linesOf a n)).regs else s.regs }

/-- Lines wholly inside a range lose their poison and any raw form (R496). -/
def clearWhole (m : Mem) (a n : Nat) : Mem :=
  { m with poison := m.poison.filter fun l => !(a ≤ l && l + 64 ≤ a + n)
           raw := m.raw.filter fun e => !(a ≤ e.1 && e.1 + 64 ≤ a + n) }

/-- Write bytes to memory; a line that stays poisoned keeps its zeros. -/
def memWrite (s : State) (a : Nat) (l : List Byte) : State :=
  let m1 := clearWhole s.mem a l.length
  let m2 := { m1 with bytes := bWrite m1.bytes a l }
  let m3 := if m1.poison.isEmpty then m2
    else { m2 with bytes := m1.poison.foldl (fun b x => if x < a + l.length ∧ a < x + 64 then bZero b x 64 else b) m2.bytes }
  countWrite { s with mem := m3 } a l.length

/-- Write zeros to a range (R165): poison in it is cleared (R496). -/
def memZero (s : State) (a n : Nat) : State :=
  let m1 := { s.mem with poison := s.mem.poison.filter fun l => !(l < a + n && a < l + 64)
                         raw := s.mem.raw.filter fun e => !(e.1 < a + n && a < e.1 + 64) }
  countWrite { s with mem := { m1 with bytes := bZero m1.bytes a n } } a n

/-- Copy a range with its poison marks (R496); both ends start at the same place in a line. -/
def memCopy (s : State) (src dst n : Nat) : State :=
  let bad := s.mem.poison.filter fun l => l < src + n && src < l + 64
  let s1 := memWrite (countRead s src n) dst (memRead s.mem src n)
  { s1 with mem := bad.foldl (fun m l => markPoison m (lineOf (l + dst - src))) s1.mem }

/-! Stack pages (R165, R181, R384) -/

/-- Pages of a stack that may be allocated (R181). -/
def stackPages (stack : Nat) : Nat :=
  if stack % 3 = 0 then 786432 else if stack % 3 = 1 then 1044480 else 1048576

/-- A page may be given out. -/
def pageFree (m : Mem) (p : Nat) : Bool :=
  !m.retired.contains p && (match aGet? m.pages p with | some u => !u.live | none => true)

/-- The lowest free page of a stack. -/
def lowestPage (m : Mem) (stack : Nat) : Nat → Nat → Option Nat
  | 0, _ => none
  | fuel + 1, p =>
    if p ≥ stackPages stack then none
    else if pageFree m (stack * 2 ^ 20 + p) then some (stack * 2 ^ 20 + p) else lowestPage m stack fuel (p + 1)

/-- Stacks that serve: of stands present. -/
def liveStacks (s : State) : List Nat := (List.range 24).filter fun k => standPresent s (k / 3)

/-- The free page that an allocation takes: the lowest of the first stack, among those given, that has one. -/
def firstPage (s : State) : List Nat → Option Nat
  | [] => none
  | k :: r =>
    match lowestPage s.mem k (s.mem.pages.length + s.mem.retired.length + 1) 0 with
    | some p => some p
    | none => firstPage s r

/-- The lowest page number free in a partition's module address space; the fuel is one more than the pages listed. -/
def freePlace (l : List Nat) : Nat → Nat → Nat
  | 0, n => n
  | fuel + 1, n => if l.contains n then freePlace l fuel (n + 1) else n

/-- Give a page to a partition; it is zeroed unless the partition was its last owner (R165). Its module address is the
lowest free one of the partition (R186). -/
def takePage (s : State) (part p : Nat) : State :=
  let same := match aGet? s.mem.pages p with | some u => u.owner == part | none => false
  let s1 := { s with mem := if same then s.mem else (memZero s (locPage p) 65536).mem
                     regs := if same then s.regs else (memZero s (locPage p) 65536).regs }
  let l := (s1.mem.pages.filter fun e => e.2.live && e.2.owner == part && e.1 != p).map (·.2.place)
  let u : PageUse := { owner := part, live := true, place := freePlace l (l.length + 1) 0 }
  { s1 with mem := { s1.mem with pages := aPut s1.mem.pages p u } }

/-- Two pages exchange their module addresses: the content of one now lies in the other (R145, R186). -/
def swapPlaces (s : State) (p q : Nat) : State :=
  match aGet? s.mem.pages p, aGet? s.mem.pages q with
  | some u, some v =>
    { s with mem := { s.mem with pages := aPut (aPut s.mem.pages p { u with place := v.place }) q { v with place := u.place } } }
  | _, _ => s

/-- Allocate n pages over the stacks given; none where they do not suffice. -/
def takePages (part : Nat) (ks : List Nat) : Nat → State → Option (State × List Nat)
  | 0, s => some (s, [])
  | n + 1, s =>
    match firstPage s ks with
    | none => none
    | some p =>
      match takePages part ks n (takePage s part p) with
      | none => none
      | some (s', l) => some (s', p :: l)

/-- Free pages; they keep their last owner (R434). -/
def freePages (s : State) (l : List Nat) : State :=
  { s with mem := { s.mem with pages := l.foldl (fun m p => aUpd m p fun u => { u with live := false }) s.mem.pages } }

/-- Pages that n bytes take. -/
def pagesFor (n : Nat) : Nat := (n + 65535) / 65536

/-- Allocate n pages for a partition, charged to its stack quota (R196); none where the charge does not fit or no page
is left. -/
def allocPages (s : State) (part n : Nat) : Option (State × List Nat) :=
  if fits s part 3 (n * 65536) then
    match takePages part (liveStacks s) n s with
    | some (s', l) => some (charge s' part 3 (n * 65536), l)
    | none => none
  else none

def releasePages (s : State) (part : Nat) (l : List Nat) : State :=
  credit (freePages s l) part 3 (l.length * 65536)

/-- Read n bytes of an object that lies in pages, from a byte offset on. -/
def pagesRead (m : Mem) (pages : List Nat) (off n : Nat) : List Byte :=
  (List.range n).map fun i => bGet m.bytes (locPage (pages.getD ((off + i) / 65536) 0) + (off + i) % 65536)

/-- Write bytes into an object that lies in pages, from a byte offset on. The fuel is the number of pages reached. -/
def pagesWriteAux (pages : List Nat) : Nat → State → Nat → List Byte → State
  | 0, s, _, _ => s
  | fuel + 1, s, off, l =>
    if l.isEmpty then s
    else
      let room := 65536 - off % 65536
      pagesWriteAux pages fuel (memWrite s (locPage (pages.getD (off / 65536) 0) + off % 65536) (l.take room)) (off + room) (l.drop room)

def pagesWrite (s : State) (pages : List Nat) (off : Nat) (l : List Byte) : State :=
  pagesWriteAux pages (pages.length + 1) s off l

def pagesPoisoned (m : Mem) (pages : List Nat) (off n : Nat) : Bool :=
  (List.range (linesOf off n)).any fun i =>
    let o := off / 64 * 64 + i * 64
    isPoisoned m (locPage (pages.getD (o / 65536) 0) + o % 65536)

/-! On-chip regions (R165, R434) -/

/-- What is left of a region when a range is taken from it. -/
def cutRegion (a b : Nat) (r : Region) : List Region :=
  let e := r.start + r.len
  if e ≤ a ∨ b ≤ r.start then [r]
  else
    (if r.start < a then [{ r with len := a - r.start }] else [])
      ++ (if b < e then [{ r with start := b, len := e - b }] else [])

/-- Give a range of on-chip memory to a partition: parts whose last owner is another, or that a release marked, are
zeroed first (R165, R434). -/
def takeRegion (s : State) (part a n : Nat) : State :=
  if n = 0 then s
  else
    let alien := s.mem.regions.filter fun r => r.start < a + n && a < r.start + r.len && (r.owner != part || r.released)
    let s1 := alien.foldl (fun s r => memZero s (max a r.start) (min (a + n) (r.start + r.len) - max a r.start)) s
    { s1 with mem := { s1.mem with
        regions := (s1.mem.regions.flatMap (cutRegion a (a + n))) ++ [⟨a, n, part, true, false⟩] } }

/-- A range of on-chip memory is no longer allocated; its last owner stays. -/
def freeRegion (s : State) (a n : Nat) : State :=
  { s with mem := { s.mem with
      regions := s.mem.regions.map fun r => if a ≤ r.start ∧ r.start + r.len ≤ a + n then { r with live := false } else r } }

end Sys2Proof.Machine
end

