-- ==== Sys2Proof/Machine/PowerOps.lean ====
section
/-! DEFINITION. What the power manager does that several commands share: the cap in force, the row voltage that fits it
(R485), the exit from a low-power state (R483). -/

namespace Sys2Proof.Machine

/-- The rows of the stand power table: core voltage in mV, watts a stand at full lookup load (R485). -/
def powerRowsTable : List (Nat × Nat) := [(600, 58), (620, 62), (650, 69), (700, 80), (750, 92), (800, 105)]

def standsInService (s : State) : List Nat := if s.power.rails then (List.range 8).filter (standPresent s) else []

/-- The cap in force: PWR_CAP.cap_w, 900 W in PS1 and while the input is low (R465, R483). -/
def capInForce (s : State) : Nat :=
  let c := getF s Reg.PWR_CAP Fld.PWR_CAP_cap_w
  let c1 := if s.power.ps = 1 then min c 900 else c
  if s.power.lowCap then min c1 900 else c1

/-- The highest row voltage at or below vmax whose table power, times the stands in service, fits the budget; the
lowest row where none does (R485). -/
def fitVoltage (vmax n budget : Nat) : Nat :=
  powerRowsTable.foldl (fun v r => if r.1 ≤ vmax ∧ r.2 * n ≤ budget then max v r.1 else v) 600

def setVset (s : State) (st v : Nat) : State := setF s (standBase st + Reg.STAND_VCORE) Fld.STAND_VCORE_vset v

/-- A set point for every stand; one lowered further for its temperature stays below it (R485, R486). -/
def setAllVset (s0 : State) (v : Nat) : State :=
  let s := { s0 with power := { s0.power with setPoint := v } }
  (standsInService s).foldl (fun s st =>
    if s.power.throttled.contains st then setVset s st (min v (getF s (standBase st + Reg.STAND_VCORE) Fld.STAND_VCORE_vset))
    else setVset s st v) s

/-- A cap change: every stand to the voltage that fits the cap less the non-core power (R485). -/
def applyCap (s : State) (nonCore : Nat) : State :=
  let n := (standsInService s).length
  let s1 := setAllVset s (fitVoltage (getF s Reg.PWR_VLIM Fld.PWR_VLIM_vmax) n (capInForce s - nonCore))
  { s1 with power := { s1.power with holdBack := false } }

/-- The non-core power where no measurement is an operand (R485): free. -/
def nonCorePower (s : State) : Nat × State := (Config.nonCoreWatts s.fresh, { s with fresh := s.fresh + 1 })

def applyCapMeasured (s : State) : State := let (w, s1) := nonCorePower s; applyCap s1 w

/-- The row below a voltage (R485). -/
def rowBelow (v : Nat) : Nat := powerRowsTable.foldl (fun b r => if r.1 < v then max b r.1 else b) 600

/-- The row above a voltage, up to vmax. -/
def rowAbove (vmax v : Nat) : Nat :=
  powerRowsTable.foldr (fun r b => if v < r.1 ∧ r.1 ≤ vmax then r.1 else b) v

/-- Every on-chip byte is lost and reads zero (R178, R476): copse and glade scratch, exchange banks, ranger buffers. -/
def zeroOnChip (m : Mem) : Mem :=
  { m with bytes := m.bytes.filter fun e => locStore e.1 == 3 || locStore e.1 == 8
           poison := m.poison.filter fun l => locStore l == 3 || locStore l == 8
           raw := m.raw.filter fun e => locStore e.1 == 3 || locStore e.1 == 8
           regions := [] }

/-- Put a field of every stack port of the stands present. -/
def setStacks (s : State) (v : Nat) : State :=
  (liveStacks s).foldl (fun s k =>
    if getF s (stackPage k + Reg.STACK_STAT) Fld.STACK_STAT_state = 5 then s
    else setF s (stackPage k + Reg.STACK_STAT) Fld.STACK_STAT_state v) s

def wakeBanks (s : State) : State := { s with glades := s.glades.map fun e => (e.1, { e.2 with retention := [] }) }

/-- Leave PS2, PS3 or PS4 for the operational state last left (R403, R483). -/
def wakeUp (s : State) : State :=
  if s.power.ps < 2 then s
  else
    let s1 := if s.power.ps ≥ 3 then { s with mem := zeroOnChip s.mem } else s
    let s2 := setStacks (wakeBanks s1) 3
    applyCapMeasured { s2 with power := { s2.power with ps := s2.power.lastOperational, wanted := none } }

/-- The module is ready: step 8 of a start is done (R472). -/
def ready (s : State) : Bool := getF s Reg.PWR_STAT Fld.PWR_STAT_state == 1

/-- The engines of the module work: ready, in an operational power state, not halted (R402, R483, R512). -/
def operational (s : State) : Bool := ready s && decide (s.power.ps < 2) && !s.ras.halted

/-- The module serves host commands: ready or in safe start, the controller enabled, not shut down, not halted (R473,
R474, R481, R512). -/
def serving (s : State) : Bool := (ready s || s.power.safe) && s.host.rdy && s.host.shst == 0 && !s.ras.halted

end Sys2Proof.Machine
end

