-- ==== Sys2Proof/Machine/HostOps.lean ====
section
/-! DEFINITION. What every host command shares: the fetch, the ordering on a queue, the sealed envelope, the
deduplication window, the progress record and the completion (R372 to R400). -/

namespace Sys2Proof.Machine

/-- What a command's meaning answers: its status, dwords 0 and 1, the bytes written to the data buffer. -/
structure Reply where
  st : Status
  dw0 : Word
  dw1 : Word
  data : List Byte
  sealInfo : Option SealInfo
  deriving DecidableEq, Repr

def replySt (st : Status) : Reply := ⟨st, 0, 0, [], none⟩
def replyDw (st : Status) (dw0 : Nat) : Reply := ⟨st, BitVec.ofNat 32 dw0, 0, [], none⟩
def replyOk : Reply := replySt stSuccess
def replyData (dw0 : Nat) (data : List Byte) : Reply := ⟨stSuccess, BitVec.ofNat 32 dw0, 0, data, none⟩

/-- Statuses whose commands never enter the deduplication window (R391). -/
def neverWindow (st : Status) : Bool := st == stInvalidField || st == stSeal || st == stKey || st == stDeferred

end Sys2Proof.Machine

namespace Sys2Proof

def Cmd.partOf (c : Cmd) : Nat := bitsOf c.cdw12.toNat 11 0
def Cmd.nonce (c : Cmd) : Nat := c.cdw14.toNat + c.cdw15.toNat * 2 ^ 32
def Cmd.ordered (c : Cmd) : Bool := bitOf c.cdw12.toNat 16
def Cmd.bestEffort (c : Cmd) : Bool := bitOf c.cdw12.toNat 17
def Cmd.durable (c : Cmd) : Bool := bitOf c.cdw12.toNat 30
def Cmd.form (c : Cmd) : Nat := bitsOf c.cdw13.toNat 3 0
def Cmd.handle (c : Cmd) : Nat := bitsOf c.cdw13.toNat 31 16
/-- The length of the data buffer (R378). -/
def Cmd.bufLen (c : Cmd) : Nat := c.cdw10.toNat * 64

end Sys2Proof

namespace Sys2Proof.Machine

/-- The partition that a command is to (R395): CDW12 of a vendor command, else its namespace. -/
def Outstanding.part (o : Outstanding) : Option Nat :=
  if o.vendor then some o.cmd.partOf
  else if 1 ≤ o.cmd.nsid ∧ o.cmd.nsid ≤ 4096 then some (o.cmd.nsid - 1) else none

/-- Unit kind of the progress record (R397): an append counts the LBAs it writes (R387). -/
def unitKind (admin : Bool) (opcode form : Nat) : Nat :=
  if admin then 0
  else if opcode = 0x01 ∨ opcode = 0x02 ∨ opcode = 0x08 ∨ opcode = 0x09 ∨ (opcode = 0x81 ∧ form = 0) then 1
  else if opcode = 0x83 then 2
  else if opcode = 0x87 then 3
  else if opcode = 0x8F ∧ form = 0xA then 4
  else if opcode = 0x8C then 5
  else if opcode = 0x8B then 6
  else 0

/-- The progress record of a command from its acceptance on (R397). -/
def newProg (s : State) (c : Cmd) (opcode : Nat) (admin vendor : Bool) : ProgRec :=
  { opcode := opcode, fin := false, visible := false, admin := admin,
    partition := if vendor then c.partOf else c.nsid - 1, sct := 0, sc := 0, sqid := c.sqid, cid := c.cid,
    nonce := if vendor then c.nonce else 0, kind := unitKind admin opcode c.form, restarts := 0, units := 0,
    lastDay := none, accepted := s.tb, completed := 0, counts := [],
    slba := if vendor ∨ admin then 0 else c.cdw10.toNat + c.cdw11.toNat * 2 ^ 32 }

/-- The 128 bytes of a progress record (R397). -/
def progBytes (r : ProgRec) : List Byte :=
  [0x50#8, 0x52#8, 0x47#8, 0x52#8] ++ toLe 2 1 ++ toLe 1 r.opcode
    ++ toLe 1 ((if r.fin then 1 else 0) + (if r.visible then 2 else 0) + (if r.admin then 4 else 0))
    ++ toLe 2 r.partition ++ toLe 2 (r.sct % 8 * 256 + r.sc) ++ toLe 2 r.sqid ++ toLe 2 r.cid ++ toLe 8 r.nonce
    ++ toLe 1 r.kind ++ zeros 3 ++ toLe 4 r.restarts ++ toLe 8 r.units
    ++ toLe 4 (match r.lastDay with | some d => d | none => 0xFFFFFFFF) ++ zeros 4 ++ toLe 8 r.accepted
    ++ toLe 8 r.completed
    ++ (if r.kind = 1 then toLe 8 r.slba ++ zeros 56 else sub (r.counts.flatMap (toLe 4)) 0 64)

def findOut (s : State) (sqid cid : Nat) : Option Outstanding :=
  s.host.outstanding.find? fun o => o.cmd.sqid == sqid && o.cmd.cid == cid

def updOut (s : State) (sqid cid : Nat) (f : Outstanding → Outstanding) : State :=
  { s with host := { s.host with
      outstanding := s.host.outstanding.map fun o => if o.cmd.sqid = sqid ∧ o.cmd.cid = cid then f o else o } }

/-- Change the progress record of an outstanding command. -/
def updProg (s : State) (sqid cid : Nat) (f : ProgRec → ProgRec) : State :=
  updOut s sqid cid fun o => { o with prog := f o.prog }

/-! Completion -/

/-- Keep at most n records of a kind, the oldest leaving first (R399). -/
def keepLast (n : Nat) (l : List ProgRec) (vendor : Bool) : List ProgRec :=
  let k := (l.filter fun r => (r.nonce != 0) == vendor).length
  if k ≤ n then l
  else
    match l.findIdx? fun r => (r.nonce != 0) == vendor with
    | some i => l.eraseIdx i
    | none => l

/-- Count a completed vendor I/O command (R407). -/
def countDone (s : State) (o : Outstanding) (st : Status) : State :=
  { s with parts :=
      if o.vendor ∧ !o.admin ∧ o.opcode ≠ 0x8A ∧ st ≠ stDuplicate then
        aUpd s.parts o.cmd.partOf fun q =>
          if st = stSuccess ∨ st = stShort ∨ st = stRemapped then { q with completed := q.completed + 1 }
          else { q with failed := q.failed + 1 }
      else s.parts }

/-- A completion's own form of the dwords: Partial Completion carries units and the last day (R399). -/
def finalReply (o : Outstanding) (r : Reply) : Reply :=
  if r.st = stPartial then
    { r with dw0 := BitVec.ofNat 32 o.prog.units
             dw1 := match o.prog.lastDay with | some d => BitVec.ofNat 32 d | none => 0xFFFFFFFF }
  else r

def dupReply (r : Reply) : Reply := { r with st := stDuplicate, data := [], sealInfo := none }

def toCompletion (sqid cid : Nat) (r : Reply) : Completion :=
  { sqid := sqid, cid := cid, sct := r.st.sct, sc := r.st.sc, dnr := r.st.dnr, dw0 := r.dw0, dw1 := r.dw1,
    data := r.data, sealInfo := r.sealInfo }

/-- Keep what a completed command leaves in its partition: its window entry, or a record among the last 1,024 (R391,
R393, R398, R399). -/
def keepIn (q : Part) (o : Outstanding) (r : Reply) (fin : ProgRec) : Part :=
  if o.vendor then
    let mine := fun (w : WinEntry) => w.nonce == o.cmd.nonce && w.inFlight && w.prog.sqid == o.cmd.sqid && w.prog.cid == o.cmd.cid
    if (r.st = stAborted ∨ r.st = stPowerLoss) ∧ q.window.any mine then
      { q with window := q.window.filter fun w => !mine w, records := keepLast 1024 (q.records ++ [fin]) true }
    else
      { q with window := q.window.map fun w =>
          if mine w then { w with inFlight := false, dw0 := r.dw0, dw1 := r.dw1, prog := fin } else w }
  else if !o.admin ∧ r.st ≠ stSuccess then { q with records := keepLast 1024 (q.records ++ [fin]) false }
  else q

def keepRecord (s : State) (o : Outstanding) (r : Reply) : State :=
  let part := (o.opcode == 0x08 || o.opcode == 0x09) && !o.admin && (o.cmd.nsid == 1 || o.cmd.nsid == 4096)
    && (r.st == stPartial || r.st == stAborted || r.st == stPowerLoss) && decide (o.prog.units > 0)
  let fin := { o.prog with fin := true, visible := part, sct := r.st.sct, sc := r.st.sc, completed := s.tb }
  { s with parts := match o.part with | none => s.parts | some p => aUpd s.parts p fun q => keepIn q o r fin }

/-- Enter a failed command into the Error Information log, which keeps 256 entries (R404). -/
def errorTo (h : HostIf) (o : Outstanding) (st : Status) : HostIf :=
  let n := match h.errorLog.getLast? with | some e => e.1 + 1 | none => 1
  let e := (n, o.cmd.sqid * 65536 + o.cmd.cid, (if st.dnr then 2 ^ 15 else 0) + st.sct % 8 * 512 + st.sc * 2)
  let l := h.errorLog ++ [e]
  { h with errorLog := if st = stSuccess then h.errorLog else l.drop (l.length - 256) }

def logError (s : State) (o : Outstanding) (st : Status) : State := { s with host := errorTo s.host o st }

/-- A command is no longer outstanding. -/
def leaveHost (h : HostIf) (sqid cid : Nat) : HostIf :=
  { h with outstanding := h.outstanding.filter fun x => !(x.cmd.sqid == sqid && x.cmd.cid == cid) }

/-- Post the completion of a command that is outstanding, and those of its duplicates (R392). -/
def completeHost (h : HostIf) (o : Outstanding) (r : Reply) : HostIf :=
  o.dups.foldl (fun h d => postTo (leaveHost h d.1 d.2) (toCompletion d.1 d.2 (dupReply r)))
    (postTo (errorTo (leaveHost h o.cmd.sqid o.cmd.cid) o r.st) (toCompletion o.cmd.sqid o.cmd.cid r))

/-- Complete an outstanding command: its record, its counts, its completion, and those of its duplicates (R392). -/
def complete (s : State) (o : Outstanding) (r0 : Reply) : State :=
  let r := finalReply o r0
  let s1 := countDone (keepRecord s o r) o r.st
  { s1 with host := completeHost s1.host o r }

/-- Complete the command of a queue and identifier, where it is still outstanding. -/
def completeAt (s : State) (sqid cid : Nat) (r : Reply) : State :=
  { s with host := match findOut s sqid cid with | some o => (complete s o r).host | none => s.host
           parts := match findOut s sqid cid with | some o => (complete s o r).parts | none => s.parts }

/-! Fetch -/

/-- Opcodes that the controller supports (R373, R382, R385). -/
def supported (admin : Bool) (op : Nat) : Bool :=
  if admin then
    [0x00, 0x01, 0x02, 0x04, 0x05, 0x06, 0x08, 0x09, 0x0A, 0x0C, 0x80, 0x84, 0xC1, 0xC4, 0xC7, 0xC9, 0xCC, 0xCD, 0xD1, 0xD3].contains op
  else [0x00, 0x01, 0x02, 0x08, 0x09, 0x81, 0x83, 0x87, 0x8A, 0x8B, 0x8C, 0x8D, 0x8F].contains op

/-- Opcodes that are vendor commands (R382, R385). -/
def isVendor (admin : Bool) (op : Nat) : Bool := if admin then op ≥ 0xC0 else op ≥ 0x80

/-- Commands that the deferred-error state leaves alone (R395); Get Log Page is taken as a read. -/
def isReadCmd (admin : Bool) (op form : Nat) : Bool :=
  if admin then op == 0xD3 || op == 0x02
  else op == 0x02 || op == 0x83 || op == 0x8B || op == 0x8A || (op == 0x8F && (form == 0x2 || form == 0x8))

/-- Admin commands of a safe start (R481). -/
def safeAllowed (admin : Bool) (op : Nat) (c : Cmd) : Bool :=
  admin && (op == 0x06 || op == 0x0A || (op == 0x09 && bitsOf c.cdw10.toNat 7 0 == 2)
    || (op == 0x02 && [0x01, 0x02, 0xC3, 0xC5].contains (bitsOf c.cdw10.toNat 7 0)) || op == 0xD3)

/-- Commands NVMe permits while a sanitize is in progress (R377): the admin commands that move no user data. -/
def sanitizeAllowed (admin : Bool) (op : Nat) : Bool :=
  admin && [0x00, 0x01, 0x02, 0x04, 0x05, 0x06, 0x08, 0x09, 0x0A, 0x0C].contains op

/-- The nonce is in its partition's window. -/
def inWindow (s : State) (p nonce : Nat) : Bool := (getPart s p).window.any fun w => w.nonce == nonce

/-- What turns a command away at its fetch: an opcode not supported (R373), safe start (R481), a sanitize (R377), the
deferred-error state (R395), a release in progress (R433). -/
def fetchStop (s : State) (o : Outstanding) : Option Status :=
  if !supported o.admin o.opcode then some stInvalidOpcode
  else if s.power.safe ∧ !safeAllowed o.admin o.opcode o.cmd then some stSequence
  else if s.host.sanitizing ∧ !sanitizeAllowed o.admin o.opcode then some stSanitize
  else
    match o.part with
    | none => none
    | some p =>
      if (aHas s.parts p && (getPart s p).deferred) && !isReadCmd o.admin o.opcode o.cmd.form
          && !(o.vendor && inWindow s p o.cmd.nonce) then some stDeferred
      else if partState s p = some .releasing ∧ !(o.admin && o.opcode == 0xC4) then some stNotReady
      else none

/-- Commands may be fetched: fewer than 262,144 are outstanding (R372). -/
def canFetch (s : State) (sqid : Nat) : Bool :=
  serving s && aHas s.host.sqs sqid && decide (s.host.outstanding.length < 262144)

/-- The queue engine fetches a submission entry (R372): counted, its entry consumed, the module woken (R403); a command
that fetchStop turns away completes at once. -/
def fetchCmd (s : State) (c : Cmd) (opcode : Nat) : State :=
  let admin := c.sqid == 0
  let o : Outstanding := { cmd := c, opcode := opcode, admin := admin, vendor := isVendor admin opcode, started := false,
                           sealedBy := none, dups := [], prog := newProg s c opcode admin (isVendor admin opcode) }
  let s0 := if admin then s else wakeUp s
  let s1 := bumpPair s0 Reg.QE_FETCH_LO 1
  let h := { s1.host with
    sqs := aUpd s1.host.sqs c.sqid fun q => if q.head = q.tail then q else { q with head := (q.head + 1) % q.size }
    outstanding := s1.host.outstanding ++ [o] }
  let s2 := { s1 with host := h }
  match fetchStop s2 o with
  | none => s2
  | some st =>
    let s3 := if st = stDeferred then (match o.part with | some p => updPart s2 p fun q => { q with deferred := false } | none => s2) else s2
    complete s3 o (replySt st)

/-- An earlier command of the queue holds this one back (R389). -/
def heldBack (s : State) (o : Outstanding) : Bool :=
  let earlier := (s.host.outstanding.takeWhile fun x => !(x.cmd.sqid == o.cmd.sqid && x.cmd.cid == o.cmd.cid)).filter
    fun x => x.cmd.sqid == o.cmd.sqid
  let ord := fun (x : Outstanding) => x.vendor && x.cmd.ordered
  if ord o then !earlier.isEmpty else earlier.any ord

/-- The window of the partition holds 4,096 nonces in flight (R391). -/
def windowHeld (s : State) (o : Outstanding) : Bool :=
  o.vendor && o.opcode != 0x8A &&
    (let q := getPart s o.cmd.partOf
     decide ((q.window.filter (·.inFlight)).length ≥ 4096) && !inWindow s o.cmd.partOf o.cmd.nonce)

/-- How a command's row begins: it stops with a state, or goes on with its entry. -/
inductive Begin where
  | stop (s : State)
  | go (s : State) (o : Outstanding)

/-- Find the command, fetching it where it was not fetched yet, and start it unless the order of its queue (R389) or
its window (R391) holds it back. -/
def beginCmd (s : State) (c : Cmd) (opcode : Nat) : Begin :=
  let s1 := match findOut s c.sqid c.cid with
    | some _ => s
    | none => if canFetch s c.sqid then fetchCmd s c opcode else s
  match findOut s1 c.sqid c.cid with
  | none => .stop s1
  | some o =>
    if o.started ∨ o.opcode ≠ opcode ∨ !serving s1 then .stop s1
    else if heldBack s1 o then .stop s1
    else if windowHeld s1 o then .stop (bump s1 Reg.QE_NONCE_WAIT 1)
    else
      let o1 := { o with cmd := c, started := true, prog := newProg s1 c opcode o.admin o.vendor }
      .go (updOut s1 c.sqid c.cid fun _ => o1) o1

/-- Run an NVMe command: its body answers a reply, or leaves it outstanding. -/
def runCmd (c : Cmd) (opcode : Nat) (body : State → State × Option Reply) (s : State) : Host.Outcome State Fault Refusal :=
  match beginCmd s c opcode with
  | .stop s1 => .next s1
  | .go s1 _ =>
    match body s1 with
    | (s2, none) => .next s2
    | (s2, some r) => .next (completeAt s2 c.sqid c.cid r)

/-! Vendor commands -/

/-- A vendor command as its meaning sees it: the command, its partition, its session where a sealed envelope marked it
tenant-issued, and its payload in plaintext. -/
structure Req where
  c : Cmd
  opcode : Nat
  part : Nat
  session : Option Nat
  pay : List Byte
  deriving DecidableEq, Repr

/-- The fields that R378 gives every vendor command; class is for VZ-RUN and STEP. -/
def vendorFields (c : Cmd) (classOk : Bool) : Bool :=
  c.cdw12 &&& 0xBFFCF000#32 == 0 && (!c.bestEffort || classOk) && c.nonce != 0

def findSession (q : Part) (n : Nat) : Option Session := q.sessions.find? (·.num == n)

/-- A session that is open: not pending. -/
def openSess (q : Part) (n : Nat) : Option Session :=
  match findSession q n with | some x => if x.isPending then none else some x | none => none

def updSession (s : State) (p n : Nat) (f : Session → Session) : State :=
  updPart s p fun q => { q with sessions := q.sessions.map fun x => if x.num = n then f x else x }

def envMagic : List Byte := [0x45#8, 0x4E#8, 0x56#8, 0x31#8]

/-- The checks of R380 and R423 on a sealed envelope, or on a clear one; sealedOk and clearOk say which modes the form
accepts. Answers the request, or the status of the first check that fails. -/
def openEnvelope (s : State) (c : Cmd) (opcode : Nat) (sealedOk clearOk : Bool) (o : Opened) : Status × Option Req :=
  let b := c.buf
  let mode := leAt b 6 1
  let plen := leAt b 0x0C 4
  let p := c.partOf
  if c.bufLen < 64 ∨ sub b 0 4 ≠ envMagic ∨ leAt b 4 2 ≠ 1 ∨ mode > 1 ∨ plen + 64 > c.bufLen ∨ !allZero b 0x24 12 then
    (stInvalidField, none)
  else if (mode = 0 ∧ !sealedOk) ∨ (mode = 1 ∧ !clearOk) then (stInvalidField, none)
  else
    let same := leAt b 7 1 == opcode && leAt b 8 2 == p && leAt b 0x10 8 == c.nonce
    if mode = 1 then
      if !same || leAt b 0x0A 2 != 0 || !allZero b 0x18 12 || !allZero b 0x30 16 then (stInvalidField, none)
      else (stSuccess, some ⟨c, opcode, p, none, sub b 64 plen⟩)
    else
      match openSess (getPart s p) (leAt b 0x0A 2) with
      | none => (stKey, none)
      | some x =>
        if !same || leAt b 0x18 8 != c.nonce || !allZero b 0x20 4 || !o.tagOk || c.nonce + 4096 ≤ x.highNonce then (stSeal, none)
        else (stSuccess, some ⟨c, opcode, p, some x.num, sub o.plain 0 plen⟩)

/-- Enter a nonce into its partition's window: the oldest completed one leaves where it is full (R391); a record of a
command lost to power is replaced (R478). -/
def enterWindow (q : Part) (c : Cmd) (opcode : Nat) (o : Outstanding) : Part :=
  let e : WinEntry := { nonce := c.nonce, inFlight := true, dw0 := 0, dw1 := 0, prog := o.prog }
  let w := if q.window.length < 4096 then q.window
    else match q.window.findIdx? fun x => !x.inFlight with | some i => q.window.eraseIdx i | none => q.window
  { q with window := w ++ [e]
           records := q.records.filter fun r => !(r.nonce == c.nonce && r.sct == 0 && r.sc == 5)
           submitted := if o.admin ∨ opcode = 0x8A then q.submitted else q.submitted + 1 }

/-- A command is accepted: its nonce enters the window, and the session that sealed it notes the highest nonce (R391,
R423). -/
def accept (s : State) (c : Cmd) (opcode : Nat) (session : Option Nat) : State :=
  { s with parts :=
      match (if inWindow s c.partOf c.nonce then none else findOut s c.sqid c.cid) with
      | none => s.parts
      | some o => aUpd s.parts c.partOf fun q =>
          let q1 := enterWindow q c opcode o
          match session with
          | none => q1
          | some n => { q1 with sessions := q1.sessions.map fun x =>
              if x.num = n then { x with highNonce := max x.highNonce c.nonce } else x } }

/-- A command whose nonce is in the window (R392): it completes with the original, or waits for it. -/
def duplicate (s : State) (c : Cmd) : State :=
  match (getPart s c.partOf).window.find? (·.nonce == c.nonce) with
  | none => s
  | some w =>
    if w.inFlight then updOut s w.prog.sqid w.prog.cid fun o => { o with dups := o.dups ++ [(c.sqid, c.cid)] }
    else completeAt s c.sqid c.cid ⟨stDuplicate, w.dw0, w.dw1, [], none⟩

/-- Run the meaning of a vendor command that its checks let through: its nonce enters the window unless the meaning
turns it away with a status of R391. -/
def runBody (s : State) (q : Req) (body : State → Req → State × Option Reply) : State :=
  match body s q with
  | (s1, none) => accept s1 q.c q.opcode q.session
  | (s1, some r) =>
    let s2 := if r.st = stSeal then bump s1 Reg.SEC_SEAL_FAIL 1 else s1
    if neverWindow r.st then completeAt s2 q.c.sqid q.c.cid r
    else completeAt (accept s2 q.c q.opcode q.session) q.c.sqid q.c.cid r

/-- The nonce of a command is in the window by this very command, which had to wait. -/
def ownNonce (s : State) (p : Nat) (c : Cmd) : Bool :=
  (getPart s p).window.any fun w => w.nonce == c.nonce && w.inFlight && w.prog.sqid == c.sqid && w.prog.cid == c.cid

/-- The order of a vendor command's checks after its envelope: its fields (R378), its nonce (R392), its partition
(R374). -/
def runChecked (s : State) (q : Req) (classOk anyPart : Bool) (body : State → Req → State × Option Reply) : State :=
  if !vendorFields q.c classOk then completeAt s q.c.sqid q.c.cid (replySt stInvalidField)
  else if inWindow s q.part q.c.nonce && !ownNonce s q.part q.c then duplicate s q.c
  else if !anyPart ∧ !aHas s.life q.part then completeAt s q.c.sqid q.c.cid (replySt stInvalidNs)
  else runBody s q body

/-- Run a vendor I/O command with an envelope (R379, R380). -/
def runSealed (c : Cmd) (opcode : Nat) (sealedOk clearOk classOk : Bool) (o : Opened)
    (body : State → Req → State × Option Reply) (s : State) : Host.Outcome State Fault Refusal :=
  match beginCmd s c opcode with
  | .stop s1 => .next s1
  | .go s1 _ =>
    match openEnvelope s1 c opcode sealedOk clearOk o with
    | (st, none) =>
      .next (completeAt (if st = stSeal then bump s1 Reg.SEC_SEAL_FAIL 1 else s1) c.sqid c.cid (replySt st))
    | (_, some q) => .next (runChecked (updOut s1 c.sqid c.cid fun x => { x with sealedBy := q.session }) q classOk false body)

/-- Run a vendor command without an envelope: the admin commands and those without data (R379). -/
def runPlain (c : Cmd) (opcode : Nat) (anyPart : Bool) (body : State → Req → State × Option Reply) (s : State) :
    Host.Outcome State Fault Refusal :=
  match beginCmd s c opcode with
  | .stop s1 => .next s1
  | .go s1 _ => .next (runChecked s1 ⟨c, opcode, c.partOf, none, c.buf⟩ false anyPart body)

/-- The answer of a vendor command (R381): its envelope, then the payload; sealed under the session's result key with
the next answer counter, or clear. -/
def answer (s : State) (q : Req) (pay : List Byte) : State × List Byte × Option SealInfo :=
  let head := fun (mode sess : Nat) (iv : List Byte) =>
    envMagic ++ toLe 2 1 ++ toLe 1 mode ++ toLe 1 q.opcode ++ toLe 2 q.part ++ toLe 2 sess ++ toLe 4 pay.length
      ++ toLe 8 q.c.nonce ++ iv ++ zeros 12 ++ zeros 16
  match q.session with
  | none => (s, head 1 0 (zeros 12) ++ pay, none)
  | some n =>
    let k := match findSession (getPart s q.part) n with | some x => x.answers + 1 | none => 1
    (updSession s q.part n fun x => { x with answers := k }, head 0 n (toLe 8 k ++ zeros 4) ++ pay, some ⟨q.part, n, k⟩)

/-- Complete with a status, dwords and an answer. -/
def answerReply (s : State) (q : Req) (st : Status) (dw0 dw1 : Nat) (pay : List Byte) : State × Option Reply :=
  let (s1, d, i) := answer s q pay
  (s1, some ⟨st, BitVec.ofNat 32 dw0, BitVec.ofNat 32 dw1, d, i⟩)

/-- The buffer can hold an answer of n bytes (R381). -/
def roomFor (q : Req) (n : Nat) : Bool := n + 64 ≤ q.c.bufLen

def fail (s : State) (st : Status) : State × Option Reply := (s, some (replySt st))
def failDw (s : State) (st : Status) (dw0 : Nat) : State × Option Reply := (s, some (replyDw st dw0))
def done (s : State) (dw0 : Nat) : State × Option Reply := (s, some (replyDw stSuccess dw0))

/-- CDW11 and bits [15:4] of CDW13 are zero: reserved in the commands with a form and a handle (R378, R11). -/
def formFields (c : Cmd) : Bool := c.cdw11 == 0 && bitsOf c.cdw13.toNat 15 4 == 0

/-- A tenant's partition that is not sealed (R23). -/
def unsealed (s : State) (p : Nat) : Bool := p != 0 && p != 4095 && !isSealed s p

/-- Run a command's row where the command has the row's form; it is another row's command otherwise. -/
def runForm (c : Cmd) (form : Nat) (k : State → Host.Outcome State Fault Refusal) (s : State) :
    Host.Outcome State Fault Refusal :=
  if c.form = form then k s else .next s

/-- Apply checks in order: the status of the first that fails, else go on. -/
def guards (s : State) : List (Bool × Status) → (Unit → State × Option Reply) → State × Option Reply
  | [], k => k ()
  | (bad, st) :: r, k => if bad then fail s st else guards s r k

end Sys2Proof.Machine
end

