-- ==== Sys2Proof/Machine/Numbers.lean ====
section
/-! DEFINITION. The storage formats, the rounding of exact values and the random bits (R52 to R82), and the arithmetic
of the vector unit on exact values (R73, R133). -/

namespace Sys2Proof.Machine

/-- The rounding modes of R58. -/
inductive Rnd where
  | rne | rtz | sr
  deriving DecidableEq, Repr

/-- The mode a 2-bit field names: 0b00 RNE, 0b01 RTZ, 0b10 SR. -/
def Rnd.ofBits (b : Nat) : Rnd := if b = 0 then .rne else if b = 1 then .rtz else .sr

/-- A decoded value: NaN, an infinity, or m × 2^t with a sign (R52). -/
inductive Num where
  | nan
  | inf (neg : Bool)
  | fin (neg : Bool) (m : Nat) (t : Int)
  deriving DecidableEq, Repr

/-- A floating-point format (R52): mantissa bits, exponent bits, bias, the code of the largest finite magnitude,
whether a code for infinity exists. -/
structure FloatFmt where
  man : Nat
  expBits : Nat
  bias : Int
  maxCode : Nat
  hasInf : Bool
  deriving DecidableEq, Repr

def fmtE4M3 : FloatFmt := ⟨3, 4, 7, 0x7E, false⟩
def fmtE5M2 : FloatFmt := ⟨2, 5, 15, 0x7B, true⟩
def fmtFP16 : FloatFmt := ⟨10, 5, 15, 0x7BFF, true⟩
def fmtBF16 : FloatFmt := ⟨7, 8, 127, 0x7F7F, true⟩
def fmtFP32 : FloatFmt := ⟨23, 8, 127, 0x7F7FFFFF, true⟩

/-- The position of a format's sign bit. -/
def FloatFmt.signBit (f : FloatFmt) : Nat := f.man + f.expBits

/-- The weight of the last bit of a subnormal, as a power of two (R52). -/
def FloatFmt.tMin (f : FloatFmt) : Int := 1 - f.bias - f.man

/-- Decode a code word (R52, R53). -/
def FloatFmt.decode (f : FloatFmt) (c : Nat) : Num :=
  let neg := bitOf c f.signBit
  let mag := c % 2 ^ f.signBit
  if mag ≤ f.maxCode then
    let e := mag / 2 ^ f.man
    let m := mag % 2 ^ f.man
    if e = 0 then .fin neg m f.tMin else .fin neg (2 ^ f.man + m) (f.tMin + e - 1)
  else if f.hasInf ∧ mag = f.maxCode + 1 then .inf neg else .nan

/-- The INT8 value of a byte. -/
def int8 (b : Nat) : Int := if b % 256 < 128 then (b % 256 : Nat) else (b % 256 : Nat) - 256

/-- An integer as an exact value. -/
def Num.ofInt (v : Int) : Num := .fin (v < 0) v.natAbs 0

/-- 2^e, e at least 0, of an integer exponent; 1 below. -/
def pow2 (e : Int) : Nat := 2 ^ e.toNat

/-- The floor of 2^17 times (m × 2^t) ÷ 2^q, and whether something is lost. -/
def scaled (m : Nat) (t q : Int) : Nat × Bool :=
  let s := t - q + 17
  if 0 ≤ s then (m * pow2 s, false) else (m / pow2 (-s), m % pow2 (-s) != 0)

/-- R58 on a magnitude measured in grid steps: K is the floor of 2^17 times it, sticky whether more follows; u the
random field. The answer is lo or hi = lo + 1. -/
def roundStep (mode : Rnd) (u K : Nat) (sticky : Bool) : Nat :=
  let lo := K / 2 ^ 17
  let fr := K % 2 ^ 17
  match mode with
  | .rtz => lo
  | .sr => if fr / 2 + u ≥ 65536 then lo + 1 else lo
  | .rne =>
    if fr > 2 ^ 16 ∨ (fr = 2 ^ 16 ∧ sticky) then lo + 1
    else if fr < 2 ^ 16 then lo
    else if lo % 2 = 0 then lo else lo + 1

/-- Number of binary digits. -/
def bitLen (n : Nat) : Nat := if n = 0 then 0 else n.log2 + 1

/-- The grid step at a magnitude m × 2^t of a format: the last bit of its binade, or of a subnormal (R58). -/
def FloatFmt.step (f : FloatFmt) (m : Nat) (t : Int) : Int := max f.tMin (t + bitLen m - 1 - f.man)

/-- The code of k steps of 2^q (k at most 2^(man + 1)), the sign apart; it may exceed maxCode. -/
def FloatFmt.code (f : FloatFmt) (k : Nat) (q : Int) : Nat := (q - f.tMin).toNat * 2 ^ f.man + k

/-- R58 then R59: the code of a finite value, and whether it saturated. An exact zero is +0. -/
def FloatFmt.round (f : FloatFmt) (mode : Rnd) (u : Nat) (neg : Bool) (m : Nat) (t : Int) : Nat × Bool :=
  if m = 0 then (0, false) else
  let q := f.step m t
  let (K, st) := scaled m t q
  let c := f.code (roundStep mode u K st) q
  let sgn := if neg then 2 ^ f.signBit else 0
  if c > f.maxCode then (sgn + f.maxCode, true) else (sgn + c, false)

/-- R58 to the integers: the rounded magnitude. -/
def roundInt (mode : Rnd) (u m : Nat) (t : Int) : Nat :=
  let (K, st) := scaled m t 0
  roundStep mode u K st

/-- A clamp to symmetric or two's complement limits, and whether it altered the value. -/
def clamp (lo hi v : Int) : Int × Bool :=
  if v > hi then (hi, true) else if v < lo then (lo, true) else (v, false)

/-- Signed value of a magnitude. -/
def signed (neg : Bool) (m : Nat) : Int := if neg then -(m : Int) else m

/-! Random bits. -/

/-- A left rotation of a 32-bit word. -/
def rotl32 (x : BitVec 32) (n : Nat) : BitVec 32 := x.rotateLeft n

/-- One round of the keyed permutation of R78. -/
def rngRound (k0 k1 : BitVec 32) (r : Nat) (x : BitVec 32 × BitVec 32 × BitVec 32 × BitVec 32) :
    BitVec 32 × BitVec 32 × BitVec 32 × BitVec 32 :=
  let (x0, x1, x2, x3) := x
  let x0 := x0 + x1
  let x3 := rotl32 (x3 ^^^ x0) 11
  let x2 := x2 + x3
  let x1 := rotl32 (x1 ^^^ x2) 19
  let x0 := x0 + x1
  let x3 := rotl32 (x3 ^^^ x0) 7
  let x2 := x2 + x3
  let x1 := rotl32 (x1 ^^^ x2) 23
  let x0 := x0 ^^^ (k0 + BitVec.ofNat 32 r * 0xA5D13E27#32)
  let x2 := x2 ^^^ (k1 + BitVec.ofNat 32 r * 0x5B8C0F93#32)
  (x1, x2, x3, x0)

/-- The counter-based generator (R78): 128 output bits of seed, stream and position. -/
def rngBlock (seed stream pos : Nat) : Nat :=
  let (x0, x1, x2, x3) := (List.range 10).foldl
    (fun x r => rngRound (BitVec.ofNat 32 seed) (BitVec.ofNat 32 (seed / 2 ^ 32)) r x)
    (BitVec.ofNat 32 pos, BitVec.ofNat 32 (pos / 2 ^ 32), BitVec.ofNat 32 stream, 0x6C07D2E1#32)
  x3.toNat * 2 ^ 96 + x2.toNat * 2 ^ 64 + x1.toNat * 2 ^ 32 + x0.toNat

/-- The 16-bit field of element e of a draw (R79). -/
def rngField (seed stream base e : Nat) : Nat :=
  (rngBlock seed stream ((base + e / 8) % 2 ^ 64) >>> (16 * (e % 8))) % 65536

/-- One advance of the free-running generator (R81). -/
def freeAdvance (s : BitVec 64) : BitVec 64 :=
  let s := s ^^^ (s <<< 13)
  let s := s ^^^ (s >>> 7)
  s ^^^ (s <<< 17)

/-! Vector-unit arithmetic (R73). Codes of binary32 are numbers below 2^32. -/

def qNaN : Nat := 0x7FC00000
def infCode (neg : Bool) : Nat := if neg then 0xFF800000 else 0x7F800000
def maxFinite (neg : Bool) : Nat := if neg then 0xFF7FFFFF else 0x7F7FFFFF

/-- An exact magnitude, given as 2^17 times it in grid steps of 2^q with what is lost, rounded once to binary32. Above
the largest finite value R73 gives the infinity under RNE, the largest finite value under RTZ, and under SR what the
rounded magnitude is. -/
def fp32OfScaled (mode : Rnd) (u : Nat) (neg : Bool) (K : Nat) (sticky : Bool) (q : Int) : Nat :=
  let f := fmtFP32
  let exact := f.code (K / 2 ^ 17) q
  let beyond := exact > f.maxCode ∨ (exact = f.maxCode ∧ (K % 2 ^ 17 ≠ 0 ∨ sticky))
  let c := f.code (roundStep mode u K sticky) q
  let sgn := if neg then 2 ^ 31 else 0
  match mode with
  | .rne => if beyond then infCode neg else sgn + c
  | .rtz => if beyond then maxFinite neg else sgn + c
  | .sr => if c > f.maxCode then infCode neg else sgn + c

/-- A finite exact value rounded once to binary32; an exact zero is +0. -/
def fp32Round (mode : Rnd) (u : Nat) (neg : Bool) (m : Nat) (t : Int) : Nat :=
  if m = 0 then 0 else
  let q := fmtFP32.step m t
  let (K, st) := scaled m t q
  fp32OfScaled mode u neg K st q

/-- The exact sum of two signed values m × 2^t. -/
def addExact (n1 : Bool) (m1 : Nat) (t1 : Int) (n2 : Bool) (m2 : Nat) (t2 : Int) : Bool × Nat × Int :=
  let t := min t1 t2
  let v := signed n1 (m1 * pow2 (t1 - t)) + signed n2 (m2 * pow2 (t2 - t))
  (v < 0, v.natAbs, t)

/-- The sum of two values, rounded once. -/
def fpAdd (mode : Rnd) (u a b : Nat) : Nat :=
  match fmtFP32.decode a, fmtFP32.decode b with
  | .nan, _ => qNaN
  | _, .nan => qNaN
  | .inf x, .inf y => if x = y then infCode x else qNaN
  | .inf x, _ => infCode x
  | _, .inf y => infCode y
  | .fin n1 m1 t1, .fin n2 m2 t2 =>
    let (n, m, t) := addExact n1 m1 t1 n2 m2 t2
    fp32Round mode u n m t

/-- The code with its sign turned. -/
def fpNeg (b : Nat) : Nat := if b ≥ 2 ^ 31 then b - 2 ^ 31 else b + 2 ^ 31

def fpSub (mode : Rnd) (u a b : Nat) : Nat := fpAdd mode u a (fpNeg b)

/-- The product of two values, rounded once. -/
def fpMul (mode : Rnd) (u a b : Nat) : Nat :=
  match fmtFP32.decode a, fmtFP32.decode b with
  | .nan, _ => qNaN
  | _, .nan => qNaN
  | .inf x, .inf y => infCode (x != y)
  | .inf x, .fin n m _ => if m = 0 then qNaN else infCode (x != n)
  | .fin n m _, .inf y => if m = 0 then qNaN else infCode (n != y)
  | .fin n1 m1 t1, .fin n2 m2 t2 => fp32Round mode u (n1 != n2) (m1 * m2) (t1 + t2)

/-- a × b + c rounded once. -/
def fpFma (mode : Rnd) (u a b c : Nat) : Nat :=
  match fmtFP32.decode a, fmtFP32.decode b, fmtFP32.decode c with
  | .nan, _, _ => qNaN
  | _, .nan, _ => qNaN
  | _, _, .nan => qNaN
  | .fin n1 m1 t1, .fin n2 m2 t2, .fin n3 m3 t3 =>
    let (n, m, t) := addExact (n1 != n2) (m1 * m2) (t1 + t2) n3 m3 t3
    fp32Round mode u n m t
  | .fin _ _ _, .fin _ _ _, .inf z => infCode z
  | x, y, z =>
    let zero : Num → Bool := fun | .fin _ m _ => m = 0 | _ => false
    let neg : Num → Bool := fun | .fin n _ _ => n | .inf n => n | .nan => false
    if zero x || zero y then qNaN else
    let p := neg x != neg y
    match z with
    | .inf w => if w = p then infCode p else qNaN
    | _ => infCode p

/-- 2^17 × (n ÷ d) in steps of 2^q. -/
def scaledDiv (n d : Nat) (t q : Int) : Nat × Bool :=
  let s := t - q + 17
  let n' := if 0 ≤ s then n * pow2 s else n
  let d' := if 0 ≤ s then d else d * pow2 (-s)
  (n' / d', n' % d' != 0)

/-- A nonzero quotient (n ÷ d) × 2^t rounded once to binary32. -/
def fp32Quot (mode : Rnd) (u : Nat) (neg : Bool) (n d : Nat) (t : Int) : Nat :=
  let e : Int := (bitLen n : Int) - bitLen d
  let top : Int := if (if 0 ≤ e then n < d * pow2 e else n * pow2 (-e) < d) then e - 1 else e
  let q := max fmtFP32.tMin (top + t - fmtFP32.man)
  let (K, st) := scaledDiv n d t q
  fp32OfScaled mode u neg K st q

/-- a ÷ b rounded once. -/
def fpDiv (mode : Rnd) (u a b : Nat) : Nat :=
  match fmtFP32.decode a, fmtFP32.decode b with
  | .nan, _ => qNaN
  | _, .nan => qNaN
  | .inf _, .inf _ => qNaN
  | .inf x, .fin n m _ => infCode (x != (n && m != 0))
  | .fin _ _ _, .inf _ => 0
  | .fin n1 m1 t1, .fin n2 m2 t2 =>
    if m2 = 0 then (if m1 = 0 then qNaN else infCode n1)
    else if m1 = 0 then 0 else fp32Quot mode u (n1 != n2) m1 m2 (t1 - t2)

/-- The integer square root, found bit by bit from bit k down. -/
def isqrtBits (n : Nat) : Nat → Nat → Nat
  | 0, r => r
  | k + 1, r => let c := r + 2 ^ k; isqrtBits n k (if c * c ≤ n then c else r)

/-- The floor of the square root. -/
def isqrt (n : Nat) : Nat := isqrtBits n (bitLen n / 2 + 1) 0

/-- The root of n ÷ d × 2^t (n and d nonzero), rounded once to binary32. -/
def fp32Root (mode : Rnd) (u n d : Nat) (t : Int) : Nat :=
  let e : Int := (bitLen n : Int) - bitLen d
  let top : Int := if (if 0 ≤ e then n < d * pow2 e else n * pow2 (-e) < d) then e - 1 else e
  let half : Int := (top + t).fdiv 2
  let q := max fmtFP32.tMin (half - fmtFP32.man)
  let s := t - 2 * q + 34
  let n' := if 0 ≤ s then n * pow2 s else n
  let d' := if 0 ≤ s then d else d * pow2 (-s)
  let K := isqrt (n' / d')
  fp32OfScaled mode u false K (K * K * d' != n') q

/-- √a rounded once. -/
def fpSqrt (mode : Rnd) (u a : Nat) : Nat :=
  match fmtFP32.decode a with
  | .nan => qNaN
  | .inf neg => if neg then qNaN else infCode false
  | .fin neg m t => if m = 0 then 0 else if neg then qNaN else fp32Root mode u m 1 t

/-- 1 ÷ a rounded by RNE. -/
def fpRecip (a : Nat) : Nat := fpDiv .rne 0 0x3F800000 a

/-- 1 ÷ √a rounded by RNE. -/
def fpRsqrt (a : Nat) : Nat :=
  match fmtFP32.decode a with
  | .nan => qNaN
  | .inf neg => if neg then qNaN else 0
  | .fin neg m t => if m = 0 then infCode false else if neg then qNaN else fp32Root .rne 0 1 m (-t)

/-- Binary places kept while a power or a logarithm is formed. -/
def guardBits : Nat := 256

/-- The root of a number with guardBits places. -/
def fixRoot (v : Nat) : Nat := isqrt (v * 2 ^ guardBits)

/-- 2 to the power of a fraction whose leading binary digits are given, most significant first, with guardBits
places; w is 2^(2^-j) for the digit at hand. -/
def exp2Digits : List Bool → Nat → Nat → Nat
  | [], _, acc => acc
  | b :: r, w, acc =>
    let w' := fixRoot w
    exp2Digits r w' (if b then acc * w' / 2 ^ guardBits else acc)

/-- exp2 of a rounded by RNE. -/
def fpExp2 (a : Nat) : Nat :=
  match fmtFP32.decode a with
  | .nan => qNaN
  | .inf neg => if neg then 0 else infCode false
  | .fin neg m t =>
    if m = 0 then 0x3F800000
    else if (t + bitLen m : Int) > 9 then (if neg then 0 else infCode false)
    else
      let fix : Int := signed neg (if 0 ≤ t then m * pow2 t * 2 ^ 160 else m * 2 ^ 160 / pow2 (-t))
      let i := fix.fdiv (2 ^ 160)
      let fr := (fix - i * 2 ^ 160).toNat
      let digits := (List.range 160).map fun j => bitOf fr (159 - j)
      let p := exp2Digits digits (2 * 2 ^ guardBits) (2 ^ guardBits)
      let tt : Int := i - guardBits
      let q := max fmtFP32.tMin (tt + bitLen p - 1 - fmtFP32.man)
      let (K, st) := scaled p tt q
      fp32OfScaled .rne 0 false K (st || fr != 0) q

/-- The leading binary digits of log2 of v ÷ 2^guardBits, v in [1, 2), as a number of n places. -/
def log2Digits : Nat → Nat → Nat → Nat
  | 0, _, acc => acc
  | n + 1, v, acc =>
    let s := v * v / 2 ^ guardBits
    if s ≥ 2 * 2 ^ guardBits then log2Digits n (s / 2) (2 * acc + 1) else log2Digits n s (2 * acc)

/-- log2 of a rounded by RNE. -/
def fpLog2 (a : Nat) : Nat :=
  match fmtFP32.decode a with
  | .nan => qNaN
  | .inf neg => if neg then qNaN else infCode false
  | .fin neg m t =>
    if m = 0 then infCode true
    else if neg then qNaN
    else
      let e : Int := t + bitLen m - 1
      let one := m * 2 ^ guardBits / 2 ^ (bitLen m - 1)
      let fr := log2Digits 128 one 0
      let v : Int := e * 2 ^ 128 + fr
      fp32Round .rne 0 (v < 0) v.natAbs (-128)

/-- The order of two values that are no NaN: a is below b. -/
def numLt : Num → Num → Bool
  | .inf x, .inf y => x && !y
  | .inf x, .fin _ _ _ => x
  | .fin _ _ _, .inf y => !y
  | .fin n1 m1 t1, .fin n2 m2 t2 =>
    let t := min t1 t2
    decide (signed n1 (m1 * pow2 (t1 - t)) < signed n2 (m2 * pow2 (t2 - t)))
  | _, _ => false

/-- Maximum and minimum; a NaN operand gives NaN (R133). -/
def fpMax (a b : Nat) : Nat :=
  match fmtFP32.decode a, fmtFP32.decode b with
  | .nan, _ => qNaN
  | _, .nan => qNaN
  | x, y => if numLt x y then b else a

def fpMin (a b : Nat) : Nat :=
  match fmtFP32.decode a, fmtFP32.decode b with
  | .nan, _ => qNaN
  | _, .nan => qNaN
  | x, y => if numLt y x then b else a

/-- A code is a NaN of binary32. -/
def isNaN32 (c : Nat) : Bool := fmtFP32.decode c == .nan

/-- The positive quiet NaN a short format takes (R73). -/
def FloatFmt.nanCode (f : FloatFmt) : Nat := if f.hasInf then f.maxCode + 1 + 2 ^ (f.man - 1) else 0x7F

/-- The result of a vector-unit conversion: the code, whether it counts as saturated, whether as NaN. -/
structure Converted where
  code : Nat
  sat : Bool
  nan : Bool
  deriving DecidableEq, Repr

/-- Conversions from binary32 to a float format (ops 0x20 to 0x23, R73). -/
def fpToFmt (f : FloatFmt) (mode : Rnd) (u a : Nat) : Converted :=
  match fmtFP32.decode a with
  | .nan => ⟨f.nanCode, false, true⟩
  | .inf neg =>
    let sgn := if neg then 2 ^ f.signBit else 0
    if f.hasInf then ⟨sgn + f.maxCode + 1, false, false⟩ else ⟨sgn + f.maxCode, true, false⟩
  | .fin neg m t => let (c, s) := f.round mode u neg m t; ⟨c, s, false⟩

/-- Conversion from binary32 to INT8 (op 0x24, R73). -/
def fpToInt8 (mode : Rnd) (u a : Nat) : Converted :=
  match fmtFP32.decode a with
  | .nan => ⟨0, false, true⟩
  | .inf neg => ⟨if neg then 0x80 else 0x7F, true, false⟩
  | .fin neg m t =>
    let (v, s) := clamp (-128) 127 (signed neg (roundInt mode u m t))
    ⟨(v % 256).toNat, s, false⟩

/-- Conversions to binary32 are exact (ops 0x28 to 0x2C, R73); a NaN becomes the one NaN and counts. -/
def numToFp32 : Num → Converted
  | .nan => ⟨qNaN, false, true⟩
  | .inf neg => ⟨infCode neg, false, false⟩
  | .fin neg m t => ⟨fp32Round .rne 0 neg m t, false, false⟩

end Sys2Proof.Machine
end

