-- ==== Sys2Proof/Machine/TableOps.lean ====
section
/-! DEFINITION. Embedding tables: the row format and its decoding and requantising (R311 to R313), versions and epochs
with their pages (R318 to R320), hot rows (R324 to R328). -/

namespace Sys2Proof.Machine

/-! Rows -/

/-- The stride of a row (R311). -/
def rowStride (dim fmt : Nat) : Nat := ((4 + if fmt = 0 then dim else dim / 2) + 63) / 64 * 64

/-- A scale or offset: NaN and infinity are +0 (R312). -/
def rowParam (c : Nat) : Num := match fmtFP16.decode c with | .fin n m t => .fin n m t | _ => .fin false 0 0

def paramBad (c : Nat) : Bool := match fmtFP16.decode c with | .fin _ _ _ => false | _ => true

/-- A row so decoded counts as a NaN replacement (R312). -/
def rowNan (row : List Byte) : Bool := paramBad (leAt row 0 2) || paramBad (leAt row 2 2)

/-- The code of element i of a stored row. -/
def rowCode (fmt : Nat) (row : List Byte) (i : Nat) : Nat :=
  if fmt = 0 then (row.getD (4 + i) 0).toNat
  else let b := (row.getD (4 + i / 2) 0).toNat; if i % 2 = 0 then b % 16 else b / 16

/-- Element i of a row in an output format: c × σ + β exactly, rounded once by RNE (R312). -/
def rowElem (f : FloatFmt) (fmt : Nat) (row : List Byte) (i : Nat) : Nat :=
  match rowParam (leAt row 0 2), rowParam (leAt row 2 2) with
  | .fin n1 m1 t1, .fin n2 m2 t2 =>
    let (n, m, t) := addExact n1 (rowCode fmt row i * m1) t1 n2 m2 t2
    (f.round .rne 0 n m t).1
  | _, _ => 0

/-- A row in the output format of a GATHER (R131, R314): 0 FP16, 1 BF16, 2 FP32, 3 the stored row. -/
def rowOut (dim fmt opt : Nat) (row : List Byte) : List Byte :=
  if opt = 3 then row
  else
    let f := if opt = 0 then fmtFP16 else if opt = 1 then fmtBF16 else fmtFP32
    let n := if opt = 2 then 4 else 2
    (List.range dim).flatMap fun i => toLe n (rowElem f fmt row i)

/-- The spacing of positions in an output or a source (R314, R315). -/
def rowSpacing (dim fmt opt : Nat) : Nat :=
  if opt = 3 then rowStride dim fmt else ((if opt = 2 then 4 else 2) * dim + 63) / 64 * 64

/-- The code of an exact quotient (n ÷ d) × 2^t under RNE, saturating (R58, R59). -/
def FloatFmt.roundQuot (f : FloatFmt) (neg : Bool) (n d : Nat) (t : Int) : Nat :=
  if n = 0 then 0
  else
    let e : Int := (bitLen n : Int) - bitLen d
    let top : Int := if (if 0 ≤ e then n < d * pow2 e else n * pow2 (-e) < d) then e - 1 else e
    let q := max f.tMin (top + t - f.man)
    let (K, st) := scaledDiv n d t q
    let c := min (f.code (roundStep .rne 0 K st) q) f.maxCode
    if c = 0 then 0 else (if neg then 2 ^ f.signBit else 0) + c

/-- A binary32 value as a signed exact value; an infinity as one beyond every finite format. -/
def rowNum (c : Nat) : Bool × Nat × Int :=
  match fmtFP32.decode c with
  | .nan => (false, 0, 0)
  | .inf n => (n, 1, 1000)
  | .fin n m t => (n, m, t)

def numLe (a b : Bool × Nat × Int) : Bool :=
  let t := min a.2.2 b.2.2
  decide (signed a.1 (a.2.1 * pow2 (a.2.2 - t)) ≤ signed b.1 (b.2.1 * pow2 (b.2.2 - t)))

/-- The result of requantising a row (R313): its bytes, NaN replacements, clamps. -/
structure Requant where
  row : List Byte
  nans : Nat
  clamps : Nat
  deriving DecidableEq, Repr

/-- R313 on the binary32 values of a row. -/
def requantise (dim fmt : Nat) (xs : List Nat) : Requant :=
  let ns := xs.map rowNum
  let lo := ns.foldl (fun a b => if numLe a b then a else b) (ns.headD (false, 0, 0))
  let hi := ns.foldl (fun a b => if numLe b a then a else b) (ns.headD (false, 0, 0))
  let Q := if fmt = 0 then 255 else 15
  let beta := (fmtFP16.round .rne 0 lo.1 lo.2.1 lo.2.2).1
  let bn := match fmtFP16.decode beta with | .fin n m t => (n, m, t) | _ => (false, 0, 0)
  let diff := addExact hi.1 hi.2.1 hi.2.2 (!bn.1) bn.2.1 bn.2.2
  let sigma := fmtFP16.roundQuot diff.1 diff.2.1 Q diff.2.2
  let sn := match fmtFP16.decode sigma with | .fin n m t => (n, m, t) | _ => (false, 0, 0)
  let cs := ns.map fun x =>
    if sn.2.1 = 0 then (0, 0)
    else
      let d := addExact x.1 x.2.1 x.2.2 (!bn.1) bn.2.1 bn.2.2
      let (K, st) := scaledDiv d.2.1 sn.2.1 (d.2.2 - sn.2.2) 0
      let v := signed (d.1 != sn.1) (roundStep .rne 0 K st)
      if v < 0 then (0, 1) else if v > Q then (Q, 1) else (v.toNat, 0)
  let codes := cs.map (·.1)
  let body := if fmt = 0 then codes.map (BitVec.ofNat 8 ·)
    else (List.range (dim / 2)).map fun i => BitVec.ofNat 8 (codes.getD (2 * i) 0 + 16 * codes.getD (2 * i + 1) 0)
  let row := toLe 2 sigma ++ toLe 2 beta ++ body
  ⟨row ++ zeros (rowStride dim fmt - row.length), (xs.filter isNaN32).length, (cs.map (·.2)).sum⟩

/-! Tables and their versions -/

def tabKey (p h : Nat) : Nat := p * 256 + h

def Table.stride (t : Table) : Nat := rowStride t.dim t.fmt

/-- Pages of one version. -/
def Table.npages (t : Table) : Nat := pagesFor (t.rows * t.stride)

def updTable (s : State) (k : Nat) (f : Table → Table) : State := { s with tables := aUpd s.tables k f }

/-- Every page that a version or the building version of a table uses. -/
def Table.allPages (t : Table) : List Nat :=
  t.versions.flatMap (·.2.pages) ++ (match t.building with | some b => b.pages | none => [])

/-- Rows the target list of a table may hold (R323). -/
def hotCap (t : Table) : Nat := min 32768 (t.hotKib * 1024 / t.stride)

/-- Replace a table by one with fewer pages in use: pages no longer used are freed and their charge credited. -/
def shrinkTable (s : State) (k : Nat) (t t' : Table) : State :=
  let gone := (t.allPages.filter fun p => !t'.allPages.contains p).dedup
  releasePages { s with tables := aPut s.tables k t' } (k / 256) gone

/-- Free the epochs that are neither current nor pinned (R318). -/
def sweepTable (s : State) (k : Nat) : State :=
  match aGet? s.tables k with
  | none => s
  | some t =>
    shrinkTable s k t { t with versions := t.versions.filter fun v => v.1 == t.current || !v.2.pins.isEmpty }

/-- A batch pins the current epoch (R318): a job by its number, a VZ-LOOKUP by none, since it completes at once. -/
def pinTable (s : State) (k job : Nat) : State :=
  updTable s k fun t => { t with versions := aUpd t.versions t.current fun v => { v with pins := job :: v.pins } }

def unpinTable (s : State) (k epoch job : Nat) : State :=
  sweepTable (updTable s k fun t =>
    { t with versions := aUpd t.versions epoch fun v => { v with pins := v.pins.erase job } }) k

/-- Install the building version as the next epoch (R318, R319); none where a fifth epoch would live. -/
def installTable (s : State) (k : Nat) : Option (State × Nat) :=
  match aGet? s.tables k with
  | none => none
  | some t =>
    match t.building with
    | none => none
    | some b =>
      let kept := t.versions.filter fun v => !v.2.pins.isEmpty
      if kept.length + 1 > 4 then none
      else
        let t' := { t with versions := aPut kept t.nextEpoch { pages := b.pages, pins := [] }
                           current := t.nextEpoch, nextEpoch := t.nextEpoch + 1, building := none }
        some (shrinkTable s k t t', t.nextEpoch)

/-- Free the building version (R329, R321). -/
def discardTable (s : State) (k : Nat) : State :=
  match aGet? s.tables k with
  | none => s
  | some t => shrinkTable s k t { t with building := none }

/-- Start a building version as a copy of an epoch: pages are shared until they are written (R320). A table that has no
epoch yet starts an empty one, as CREATE does (R329); none where its charge does not fit. -/
def startBuilding (s : State) (k epoch : Nat) (job : Option Nat) : Option State :=
  match aGet? s.tables k with
  | none => none
  | some t =>
    match aGet? t.versions epoch with
    | some v => some (updTable s k fun t => { t with building := some { pages := v.pages, copied := [], job := job } })
    | none =>
      match allocPages s (k / 256) t.npages with
      | none => none
      | some (s1, l) => some (updTable (l.foldl (fun s p => memZero s (locPage p) 65536) s1) k fun t =>
          { t with building := some { pages := l, copied := List.range t.npages, job := job } })

/-- Copy a page of the building version on its first write (R320); none where the charge does not fit. -/
def copyBuildPage (s : State) (k pg : Nat) : Option State :=
  match aGet? s.tables k with
  | none => none
  | some t =>
    match t.building with
    | none => none
    | some b =>
      if b.copied.contains pg then some s
      else
        match allocPages s (k / 256) 1 with
        | some (s1, [p]) =>
          let s2 := match b.pages[pg]? with
            | some q => memCopy s1 (locPage q) (locPage p) 65536
            | none => s1
          some (updTable s2 k fun t => { t with building := t.building.map fun b =>
            { b with pages := b.pages.set pg p, copied := pg :: b.copied } })
        | _ => none

/-- Write bytes into the building version, copying each page first (R320). The fuel bounds the pages reached. -/
def writeBuild (k : Nat) : Nat → State → Nat → List Byte → Option State
  | 0, s, _, _ => some s
  | fuel + 1, s, off, l =>
    if l.isEmpty then some s
    else
      match copyBuildPage s k (off / 65536) with
      | none => none
      | some s1 =>
        let pages := match aGet? s1.tables k with
          | some t => (match t.building with | some b => b.pages | none => [])
          | none => []
        let room := 65536 - off % 65536
        let s2 := memWrite s1 (locPage (pages.getD (off / 65536) 0) + off % 65536) (l.take room)
        writeBuild k fuel s2 (off + room) (l.drop room)

/-- The stored bytes of row r of a version that lies in pages. -/
def tableRow (m : Mem) (t : Table) (pages : List Nat) (r : Nat) : List Byte := pagesRead m pages (r * t.stride) t.stride

end Sys2Proof.Machine
end

