-- ==== Sys2Proof/Machine/AdapterOps.lean ====
section
/-! DEFINITION. Private adapters: the descriptor and the image (R333, R334), the scale records and the choice of an
exponent (R348), the layouts of weight copies and transposed quantities (R344, R345). -/

namespace Sys2Proof.Machine

/-! The descriptor (R333) -/

def descSites (desc : List Byte) : Nat := leAt desc 0 1
def descRank (desc : List Byte) : Nat := leAt desc 1 1
def descOpt (desc : List Byte) : Nat := leAt desc 2 1
def descHist (desc : List Byte) : Nat := let h := leAt desc 3 1; if h = 0 then 16 else h
def descMargin (desc : List Byte) : Nat := leAt desc 4 1
def siteNo (sites : List Byte) (t : Nat) : Nat := leAt sites (8 * t) 2
def siteIn (sites : List Byte) (t : Nat) : Nat := leAt sites (8 * t + 2) 2
def siteOut (sites : List Byte) (t : Nat) : Nat := leAt sites (8 * t + 4) 2

/-- s_t: α ÷ r rounded by RNE to FP32 (R333). -/
def siteScale (desc sites : List Byte) (t : Nat) : Nat :=
  fpDiv .rne 0 (leAt sites (8 * t + 6) 2 * 65536) (fp32Round .rne 0 false (descRank desc) 0)

/-! The image (R334) -/

/-- Bytes of the matrices of one site. -/
def siteBytes (desc sites : List Byte) (t : Nat) : Nat := 12 * descRank desc * (siteIn sites t + siteOut sites t)

/-- Where the matrices of site t begin. -/
def siteBase (desc sites : List Byte) (t : Nat) : Nat :=
  0x20000 + ((List.range t).map (siteBytes desc sites)).sum

/-- The size of an image. -/
def imageSize (desc sites : List Byte) : Nat := (siteBase desc sites (descSites desc) + 65535) / 65536 * 65536

/-- Where matrix m of site t begins, its elements: 0 A, 1 B, 2 mA, 3 vA, 4 mB, 5 vB. -/
def matBase (desc sites : List Byte) (t m : Nat) : Nat :=
  let a := 4 * descRank desc * siteIn sites t
  let b := 4 * descRank desc * siteOut sites t
  siteBase desc sites t
    + (if m = 0 then 0 else if m = 1 then a else if m = 2 then a + b else if m = 3 then 2 * a + b
       else if m = 4 then 3 * a + b else 3 * a + 2 * b)

/-- Elements of A (q = 0) or B (q = 1) of a site. -/
def matLen (desc sites : List Byte) (t q : Nat) : Nat := descRank desc * (if q = 0 then siteIn sites t else siteOut sites t)

/-- Scale record q of site t: 0 A, 1 B, 2 X, 3 H, 4 DY, 5 DH. -/
def recBase (t q : Nat) : Nat := 0x1000 + (6 * t + q) * 320

def imgRead (m : Mem) (a : Adapter) (off n : Nat) : List Byte := pagesRead m (a.pages.getD []) off n
def imgNat (m : Mem) (a : Adapter) (off n : Nat) : Nat := leNat (imgRead m a off n)

/-- The step count n of a resident image. -/
def imgSteps (m : Mem) (a : Adapter) : Nat := imgNat m a 0x240 8

/-- A matrix of a resident image as binary32 codes. -/
def imgMat (m : Mem) (a : Adapter) (t mat : Nat) : List Nat :=
  (List.range (matLen a.desc a.sites t (if mat = 0 ∨ mat = 2 ∨ mat = 3 then 0 else 1))).map fun i =>
    imgNat m a (matBase a.desc a.sites t mat + 4 * i) 4

/-- The site of an adapter that carries a projection number. -/
def findSite (a : Adapter) (site : Nat) : Option Nat :=
  (List.range (descSites a.desc)).find? fun t => siteNo a.sites t == site

/-! Magnitudes and exponents (R348) -/

/-- The magnitude of a binary32 code; none for a NaN or an infinity. -/
def magOf (c : Nat) : Option (Nat × Int) := match fmtFP32.decode c with | .fin _ m t => some (m, t) | _ => none

/-- The larger of two binary32 magnitudes given as codes; codes that are not finite count for nothing. -/
def maxMag (a b : Nat) : Nat :=
  let x := a % 2 ^ 31
  let y := b % 2 ^ 31
  let ok := fun c => decide (c ≤ fmtFP32.maxCode)
  if ok x && ok y then max x y else if ok x then x else if ok y then y else 0

/-- H × 2^margin is at most q × 2^E. -/
def fitsExp (h margin : Nat) (q : Nat) (E : Int) : Bool :=
  match magOf h with
  | none => false
  | some (m, t) =>
    let l : Int := t + margin
    let k := min l E
    decide (m * pow2 (l - k) ≤ q * pow2 (E - k))

/-- The exponent of a quantity (R348): q is 127, 32,767 or 1; whenZero is the answer where H is 0. -/
def chooseExp (h margin q : Nat) (whenZero : Int) : Int :=
  if h % 2 ^ 31 = 0 then whenZero
  else match (List.range 128).find? fun i => fitsExp h margin q ((i : Int) - 64) with
    | some i => (i : Int) - 64
    | none => 63

/-- The count of entries of a scale record. -/
def recCount (m : Mem) (a : Adapter) (t q : Nat) : Nat := imgNat m a (recBase t q) 1

/-- The largest of a record's newest count entries. -/
def recMax (m : Mem) (a : Adapter) (t q : Nat) : Nat :=
  let n := recCount m a t q
  let head := imgNat m a (recBase t q + 1) 1
  let h := descHist a.desc
  (List.range n).foldl (fun x i => maxMag x (imgNat m a (recBase t q + 16 + 4 * ((head + h - 1 - i) % h)) 4)) 0

/-- The largest finite magnitude of a master, after the s_t product for B (R348). -/
def masterMax (m : Mem) (a : Adapter) (t q : Nat) : Nat :=
  let l := imgMat m a t q
  let l1 := if q = 1 then l.map (fpMul .rne 0 (siteScale a.desc a.sites t)) else l
  l1.foldl maxMag 0

/-! Weight copies (R344, R345) -/

/-- RNE(v × 2^(−E)) as a signed whole number; NaN is 0, an infinity is beyond every limit. -/
def scaleInt (v : Nat) (E : Int) : Int :=
  match fmtFP32.decode v with
  | .nan => 0
  | .inf n => if n then -(2 ^ 40) else 2 ^ 40
  | .fin n m t => signed n (roundInt .rne 0 m (t - E))

/-- The byte of a value in the form its word names: 0 single, 1 high, 2 low; and whether a clamp altered it (R345). -/
def wordByte (v : Nat) (E : Int) (word : Nat) : Byte × Bool :=
  let x := scaleInt v E
  if word = 0 then
    let (w, c) := clamp (-127) 127 x
    (BitVec.ofInt 8 w, c)
  else
    let (w, c) := clamp (-32767) 32767 x
    (BitVec.ofInt 8 (if word = 1 then w.fdiv 256 else w - 256 * w.fdiv 256), c)

/-- Shape of a weight copy of a site given the lines of its section: P and the rank positions r_cap (R344): 0 A, 1 B,
2 the transpose of A, 3 the transpose of B. -/
def copyShape (what din dout lines : Nat) : Nat × Nat :=
  if what = 0 then (din, 256 * (lines / (2 * din)))
  else if what = 1 then (lines / (2 * max 1 (dout / 256)), lines / (2 * max 1 (dout / 256)))
  else if what = 2 then (lines / (2 * max 1 (din / 256)), lines / (2 * max 1 (din / 256)))
  else (dout, 256 * (lines / (2 * dout)))

/-- The lines that a weight copy takes (R344). -/
def copyLines (what din dout rcap : Nat) : Nat :=
  if what = 0 then 2 * din * max 1 (rcap / 256)
  else if what = 1 then 2 * rcap * max 1 (dout / 256)
  else if what = 2 then 2 * rcap * max 1 (din / 256)
  else 2 * dout * max 1 (rcap / 256)

/-- The element (p, q) of a copy's matrix as a binary32 code: 0 beyond the rank or the matrix. -/
def copyElem (a : Adapter) (A B : List Nat) (t what p q : Nat) : Nat :=
  let r := descRank a.desc
  let din := siteIn a.sites t
  let dout := siteOut a.sites t
  let elA := fun row c => if row < din ∧ c < r then A.getD (row * r + c) 0 else 0
  let elB := fun c col => if c < r ∧ col < dout then B.getD (c * dout + col) 0 else 0
  if what = 0 then elA p q else if what = 1 then elB p q else if what = 2 then elA q p else elB q p

/-- The bytes of a weight copy's section, and the clamps (R344, R345). B holds s_t × B. -/
def copyBytes (a : Adapter) (A B : List Nat) (t what lines word : Nat) (E : Int) : List Byte × Nat :=
  let din := siteIn a.sites t
  let dout := siteOut a.sites t
  let (P, _) := copyShape what din dout lines
  let blocks := lines / (2 * P)
  let cells := (List.range blocks).flatMap fun o => (List.range P).flatMap fun p => (List.range 256).map fun i =>
    wordByte (copyElem a A B t what p (256 * o + i)) E word
  (cells.map (·.1), (cells.filter (·.2)).length)

/-- A member's site fits a binding of class 0 to 2 with these lines (R344). -/
def bindFits (cls what lines R r din dout : Nat) : Bool :=
  if cls = 0 then
    let (_, rc) := copyShape what din dout lines
    decide (copyLines what din dout rc = lines) && decide (r ≤ rc)
  else if cls = 1 then
    if what = 0 then decide (lines = 2 * R * (din / 256)) else if what = 1 then decide (lines = 2 * R)
    else if what = 2 then decide (lines = R * (dout / 128)) else decide (lines = R)
  else if cls = 2 then (if what = 0 then decide (lines = din) else decide (lines = 2 * dout))
  else true

end Sys2Proof.Machine
end

