-- ==== Sys2Proof/Machine/CopseMath.lean ====
section
/-! DEFINITION. The arithmetic of a copse on its own state: the edge, the table builders, a step, preload, the
checksums and harvest (R54 to R72, R83 to R104). -/

namespace Sys2Proof.Machine

/-- A whole number between bit positions of a calendar entry. -/
def fld (e hi lo : Nat) : Nat := bitsOf e hi lo

/-- Two's complement value of a byte used as a block exponent (R52). -/
def expByte (b : Byte) : Int := int8 b.toNat

/-- A column scale as the context holds it: NaN and infinite scales become +0 (R62). -/
def cleanScale (c : Nat) : Nat := match fmtFP32.decode c with | .fin _ _ _ => c | _ => 0

/-- A codebook entry as the context holds it (R62). -/
def cleanEntry (c : Nat) : Nat := match fmtFP16.decode c with | .fin _ _ _ => c | _ => 0

/-- The size of a context image by mode (R91). -/
def imageBytes (mode : Nat) : Nat := if mode = 0 then 640 else if mode = 1 then 672 else 1152

/-- The entries of a codebook by mode. -/
def bookSize (mode : Nat) : Nat := if mode = 0 then 0 else if mode = 1 then 16 else 256

/-- The context that a CTX entry and its image give (R90, R91, R62). -/
def mkCtx (idx e : Nat) (img : List Byte) : Ctx :=
  let mode := fld e 107 106
  let rawS := (List.range 128).map fun j => leAt img (0x80 + 4 * j) 4
  let rawB := (List.range (bookSize mode)).map fun c => leAt img (0x280 + 2 * c) 2
  { entry := idx, tag := fld e 123 108, mode := mode, wfmt := fld e 105 105, afmt := fld e 104 102,
    wsel := fld e 101 100, rnd := fld e 99 98, rngSrc := fld e 97 97, preload := fld e 95 80,
    dwellLen := fld e 79 77, dwellPos := fld e 76 74,
    exps := (List.range 4).map fun b => expByte (img.getD b 0),
    scales := rawS.map cleanScale, seed := leAt img 8 8, stream := leAt img 0x10 4, base := leAt img 0x18 8,
    loads := (List.range 8).map fun r => leAt img (0x20 + 4 * r) 4,
    book := rawB.map cleanEntry,
    nans := (rawS.filter fun c => cleanScale c != c && c != 0x80000000).length
      + (rawB.filter fun c => cleanEntry c != c && c != 0x8000).length }

/-- Bytes of an activation element (R90). -/
def actBytes (afmt : Nat) : Nat := if afmt ≤ 2 then 1 else 2

/-- The value of an activation element (R90, R53). -/
def actNum (afmt c : Nat) : Num :=
  if afmt = 0 then Num.ofInt (int8 c)
  else if afmt = 1 then fmtE4M3.decode c
  else if afmt = 2 then fmtE5M2.decode c
  else if afmt = 3 then fmtFP16.decode c
  else fmtBF16.decode c

/-- What an edge conversion or a table entry counts. -/
structure EdgeOut where
  val : Int
  sat : Nat
  nan : Nat
  deriving DecidableEq, Repr

/-- Round a × 2^(−E) to an integer and clamp it (R56, R57). -/
def edgeRound (mode : Rnd) (u : Nat) (lim : Int) (E : Int) : Num → EdgeOut
  | .nan => ⟨0, 0, 1⟩
  | .inf neg => ⟨if neg then -lim else lim, 1, 0⟩
  | .fin neg m t =>
    let (v, s) := clamp (-lim) lim (signed neg (roundInt mode u m (t - E)))
    ⟨v, if s then 1 else 0, 0⟩

/-- The operand the multiply edge makes of an activation (R56, R57). -/
def edgeOperand (c : Ctx) (E : Int) (u code : Nat) : EdgeOut :=
  let x := actNum c.afmt code
  let mode := Rnd.ofBits c.rnd
  if c.wsel = 0 then
    if c.afmt = 0 then ⟨int8 code, 0, 0⟩ else edgeRound mode u 127 E x
  else
    let r := edgeRound mode u 32767 E x
    if c.wsel = 1 then { r with val := r.val.fdiv 256 } else { r with val := r.val - 256 * r.val.fdiv 256 }

/-- Entry c of the table that a builder makes for an activation (R63, R64): the value and whether the clamp altered
it. -/
def tableEntry (E : Int) (a : Num) (book : Nat) : Int × Bool :=
  let lim : Int := 2 ^ 23 - 1
  match a, fmtFP16.decode book with
  | .nan, _ => (0, false)
  | .inf n, .fin n2 m2 _ => if m2 = 0 then (0, false) else (if n != n2 then -lim else lim, true)
  | .fin n m t, .fin n2 m2 t2 => clamp (-lim) lim (signed (n != n2) (roundInt .rne 0 (m * m2) (t + t2 - E)))
  | _, _ => (0, false)

/-- The 128 activation codes of a step, from its bytes. -/
def actCodes (afmt : Nat) (raw : List Byte) : List Nat :=
  let n := actBytes afmt
  (List.range 128).map fun j => leAt raw (n * j) n

/-- The bytes of weights a step takes (R89). -/
def weightBytes (mode : Nat) : Nat := if mode = 1 then 128 else 256

/-- The 256 weights or codes of a step, from its bytes (R89, R52). -/
def weightCodes (mode : Nat) (raw : List Byte) : List Nat :=
  if mode = 1 then raw.flatMap fun b => [b.toNat % 16, b.toNat / 16] else raw.map (·.toNat)

/-- The weight of a row in multiply mode (R55). -/
def weightVal (wfmt c : Nat) : Int := if wfmt = 0 then int8 c else (c : Int)

/-- The free-running draw of a lane (R81): the 16 bits and the new states. The first state of a lane comes from the
TRNG. -/
def freeDraw (seed : Nat → DWord) (st : AMap DWord) (lane : Nat) : Nat × AMap DWord :=
  let s := freeAdvance (aGetD st lane (seed lane))
  (s.toNat % 65536, aPut st lane s)

/-- The random fields of 128 columns in one step: counter-based under R79, or one draw of each lane under R81. -/
def laneFields (src seed stream base e0 : Nat) (lseed : Nat → DWord) (lane0 n : Nat) (st : AMap DWord) :
    List Nat × AMap DWord :=
  if src = 0 then ((List.range n).map fun j => rngField seed stream base (e0 + j), st)
  else (List.range n).foldl (fun (acc : List Nat × AMap DWord) j =>
    let (f, st') := freeDraw lseed acc.2 (lane0 + j)
    (acc.1 ++ [f], st')) ([], st)

def ringKey (r i j : Nat) : Nat := r * 32768 + i * 128 + j

/-- Add a delta to a map of integers, listing no zero. -/
def zPut (m : AMap Int) (k : Nat) (v : Int) : AMap Int := if v = 0 then aDel m k else aPut m k v

/-- Addition modulo 2^48 into a checksum ring (R102), listing no zero. -/
def chkAdd (m : AMap Nat) (k : Nat) (v : Int) : AMap Nat :=
  let w := (((aGetD m k 0 : Nat) : Int) + v).emod (2 ^ 48)
  if w = 0 then aDel m k else aPut m k w.toNat

/-- One addition into a ring cell: exact, clamped under keep or load (R60, R61). A clamped cell holds its value for the
rest of the pass. -/
def cellAdd (c : Copse) (key : Nat) (d : Int) : Copse :=
  if d = 0 ∨ c.held.contains key then c
  else
    let v := aGetD c.rings key 0 + d
    let (w, s) := clamp (-(2 ^ 39)) (2 ^ 39 - 1) v
    if s then { c with rings := zPut c.rings key w, held := key :: c.held,
                       sat := if c.sat.contains key then c.sat else key :: c.sat }
    else { c with rings := zPut c.rings key w }

/-- A count that stops at 0xFFFF_FFFF (R74). -/
def satAdd32 (a b : Nat) : Nat := min (a + b) 0xFFFFFFFF

def ScaleSet.blank : ScaleSet :=
  { tag := 0, exps := [0, 0, 0, 0], scales := [], seed := 0, stream := 0, base := 0, edge := 0, lut := 0, harv := 0,
    ring := 0, nan := 0, cmap := [] }

/-- The preload rule that a context gives a ring: 0 zero, 1 keep, 2 load (R90). -/
def preloadOf (c : Ctx) (r : Nat) : Nat := bitsOf c.preload (2 * r + 1) (2 * r)

/-- Drop the listed values of one ring. -/
def dropRing {α : Type} (m : AMap α) (size r : Nat) : AMap α := m.filter fun e => e.1 / size != r

/-- The scale set of a ring at the first step of a pass (R98, R99, R346): scales, seed and map of the context; the
counts kept under keep and from 0 under zero and load. -/
def newScaleSet (old : ScaleSet) (pm : PassMember) (keep : Bool) : ScaleSet :=
  let z := if keep then old else ScaleSet.blank
  { z with tag := pm.ctx.tag, exps := pm.ctx.exps.map (· + pm.expAdd), scales := pm.ctx.scales, seed := pm.ctx.seed,
           stream := pm.ctx.stream, base := pm.ctx.base, nan := satAdd32 z.nan pm.ctx.nans,
           cmap := if keep then old.cmap else pm.cmap }

/-- A loaded ring value (R61): the 64-bit word clamped to 40 bits, and whether it was altered. -/
def loadWord (w : Nat) : Int × Bool :=
  let v : Int := if w < 2 ^ 63 then w else (w : Int) - 2 ^ 64
  clamp (-(2 ^ 39)) (2 ^ 39 - 1) v

/-- Fill a ring and its checksums from an INT40 raw image (R61, R91, R103). -/
def loadRing (img : Bytes) (r : Nat) (c : Copse) : Copse :=
  let words := img.map fun e => e.1 / 8
  (words.dedup).foldl (fun c i =>
    let (v, s) := loadWord (leNat (bRead img (8 * i) 8))
    let key := r * 32768 + i
    { c with rings := zPut c.rings key v,
             chkCol := chkAdd c.chkCol (r * 256 + i / 128) v,
             chkRow := chkAdd c.chkRow (r * 128 + i % 128) v,
             corner := chkAdd c.corner r v,
             sat := if s then key :: c.sat else c.sat }) c

/-- The first step of a pass applies the preload rule and copies the scale set (R85, R98, R103); img is the image of
the ring's load source. -/
def startPass (img : Bytes) (pm : PassMember) (c : Copse) : Copse :=
  let r := pm.ring
  let rule := preloadOf pm.ctx r
  let c := { c with held := c.held.filter fun k => k / 32768 != r }
  let cleared := { c with rings := dropRing c.rings 32768 r, chkRow := dropRing c.chkRow 128 r,
                          chkCol := dropRing c.chkCol 256 r, corner := aDel c.corner r,
                          sat := c.sat.filter fun k => k / 32768 != r }
  let old := aGetD c.sets r ScaleSet.blank
  if rule = 1 then { c with sets := aPut c.sets r (newScaleSet old pm true) }
  else if rule = 2 then
    let c' := loadRing img r cleared
    { c' with sets := aPut c'.sets r (newScaleSet old pm false) }
  else { cleared with sets := aPut c.sets r (newScaleSet old pm false) }

/-- Charge counts to a ring's scale set (R74, R75). -/
def chargeRing (c : Copse) (r edge lut nan : Nat) : Copse :=
  { c with sets := aUpd c.sets r fun z =>
      { z with edge := satAdd32 z.edge edge, lut := satAdd32 z.lut lut, nan := satAdd32 z.nan nan } }

/-- The sum of a list of integers. -/
def isum (l : List Int) : Int := l.foldl (· + ·) 0

/-- A step in multiply mode (R84, R102): w and x are the operands of the rows and columns. -/
def stepMultiply (c : Copse) (r : Nat) (w x : List Int) : Copse :=
  let sw := isum w
  let sx := isum x
  let rows := (w.zipIdx).filter fun p => p.1 != 0
  let cols := (x.zipIdx).filter fun p => p.1 != 0
  let c := rows.foldl (fun c p => cols.foldl (fun c q => cellAdd c (ringKey r p.2 q.2) (p.1 * q.1)) c) c
  { c with chkRow := cols.foldl (fun a q => chkAdd a (r * 128 + q.2) (q.1 * sw)) c.chkRow,
           chkCol := rows.foldl (fun a p => chkAdd a (r * 256 + p.2) (p.1 * sx)) c.chkCol,
           corner := chkAdd c.corner r (sw * sx) }

/-- A step in lookup mode (R65, R84, R102): the tables of the columns and the codes of the rows. -/
def stepLookup (c : Copse) (r : Nat) (tables : List (List Int)) (codes : List Nat) : Copse :=
  let cols := (tables.zipIdx).filter fun p => p.1.any (· != 0)
  let rows := codes.zipIdx
  let c := rows.foldl (fun c p => cols.foldl (fun c q => cellAdd c (ringKey r p.2 q.2) (q.1.getD p.1 0)) c) c
  let rowSum := fun code => isum (cols.map fun q => q.1.getD code 0)
  let colSum := fun (t : List Int) => isum (codes.map fun k => t.getD k 0)
  { c with chkRow := cols.foldl (fun a q => chkAdd a (r * 128 + q.2) (colSum q.1)) c.chkRow,
           chkCol := rows.foldl (fun a p => chkAdd a (r * 256 + p.2) (rowSum p.1)) c.chkCol,
           corner := chkAdd c.corner r (isum (cols.map fun q => colSum q.1)) }

/-- Step k of one pass (R84), from the bytes of its weights and activations. first is the first context of the set,
whose tables all its passes use (R66); writes into the ring are suppressed where write is false (R107); builds says
whether this pass is the one whose context the tables' counts are charged to (R75). -/
def stepMember (lseed : Nat → DWord) (first : Ctx) (pm : PassMember) (wraw araw : List Byte) (k : Nat)
    (write builds : Bool) (c : Copse) : Copse :=
  if !write then c
  else
  let x := pm.ctx
  let codes := weightCodes first.mode wraw
  let acts := actCodes first.afmt araw
  if first.mode = 0 then
    let (us, fr) := if Rnd.ofBits x.rnd = .sr then laneFields x.rngSrc x.seed x.stream x.base (128 * k) lseed 0 128 c.free
      else ([], c.free)
    let ops := (acts.zipIdx).map fun p => edgeOperand x (x.exps.getD (p.2 / 32) 0) (us.getD p.2 0) p.1
    let c := stepMultiply { c with free := fr } pm.ring (codes.map (weightVal x.wfmt)) (ops.map (·.val))
    chargeRing c pm.ring ((ops.map (·.sat)).sum) 0 ((ops.map (·.nan)).sum)
  else
    let cols := (acts.zipIdx).map fun p =>
      let a := actNum first.afmt p.1
      (a, first.book.map fun b => tableEntry (first.exps.getD (p.2 / 32) 0) a b)
    let c := stepLookup c pm.ring (cols.map fun q => q.2.map (·.1)) codes
    if !builds then c
    else chargeRing c pm.ring 0 ((cols.map fun q => (q.2.filter (·.2)).length).sum)
      ((cols.filter fun q => q.1 == Num.nan).length)

/-- The harvested integer of a cell (R70). -/
def combineCell (c : Copse) (combine r i j : Nat) : Int × Int :=
  let g := fun q => aGetD c.rings (ringKey q i j) 0
  if combine = 0 then (g r, 0)
  else if combine = 1 then (g r * 65536 + (g (r + 1) + g (r + 2)) * 256 + g (r + 3), 0)
  else (g r - g (r + 1), g (r + 2) + g (r + 3))

/-- Bytes of a target element (R68). -/
def targetBytes (tfmt : Nat) : Nat := if tfmt = 0 then 4 else if tfmt = 1 then 2 else if tfmt = 4 then 8 else 1

/-- One harvested element (R67, R68): its bytes and whether it saturated. -/
def harvElem (tfmt : Nat) (mode : Rnd) (u : Nat) (v : Int) (scale : Nat) (E : Int) : List Byte × Bool :=
  if tfmt = 4 then (toLe 8 (v % 2 ^ 64).toNat, false)
  else
    match fmtFP32.decode scale with
    | .fin ns ms ts =>
      let f := if tfmt = 0 then fmtFP32 else if tfmt = 1 then fmtBF16 else if tfmt = 2 then fmtE4M3 else fmtE5M2
      let (code, s) := f.round mode u ((v < 0) != ns) (v.natAbs * ms) (ts + E)
      (toLe (targetBytes tfmt) code, s)
    | _ => (zeros (targetBytes tfmt), false)

/-- The rings a HARV names (R92). -/
def harvRings (e : Nat) : List Nat :=
  let r := fld e 123 121
  if fld e 120 119 = 0 then [r] else [r, r + 1, r + 2, r + 3]

/-- Row i of a harvest: the bytes, the saturated elements, the free-running states (R67, R92, R93). -/
def harvRow (lseed : Nat → DWord) (c : Copse) (e i : Nat) (fr : AMap DWord) : List Byte × Nat × AMap DWord :=
  let r := fld e 123 121
  let comb := fld e 120 119
  let tfmt := fld e 118 116
  let mode := Rnd.ofBits (fld e 115 114)
  let z := aGetD c.sets r ScaleSet.blank
  let base := (z.base + fld e 63 24) % 2 ^ 64
  let src := fld e 113 113
  let draw := fun stream lane st => if mode = .sr ∧ tfmt ≠ 4 then
    laneFields src z.seed stream base (128 * i) lseed lane 128 st else ([], st)
  let (us, fr) := draw z.stream 128 fr
  let (vs, fr) := if comb = 2 then draw ((z.stream + 1) % 2 ^ 32) 128 fr else ([], fr)
  let elems := (List.range 128).map fun j =>
    let v := combineCell c comb r i j
    let E := z.exps.getD (j / 32) 0
    let s := z.scales.getD j 0
    let a := harvElem tfmt mode (us.getD j 0) v.1 s E
    if comb = 2 then
      let b := harvElem tfmt mode (vs.getD j 0) v.2 s E
      (a.1 ++ b.1, (if a.2 then 1 else 0) + (if b.2 then 1 else 0))
    else (a.1, if a.2 then 1 else 0)
  (elems.flatMap (·.1), (elems.map (·.2)).sum, fr)

/-- The rows of a whole harvest, each with its index. -/
def harvRows (lseed : Nat → DWord) (c : Copse) (e : Nat) : List (List Byte) × Nat × AMap DWord :=
  (List.range 256).foldl (fun (acc : List (List Byte) × Nat × AMap DWord) i =>
    let (row, n, fr) := harvRow lseed c e i acc.2.2
    (acc.1 ++ [row], acc.2.1 + n, fr)) ([], 0, c.free)

/-- The sum of a ring's listed cells by a key of the cell, modulo 2^48. -/
def ringSums (c : Copse) (r : Nat) (key : Nat → Nat) : AMap Nat :=
  c.rings.foldl (fun a e => if e.1 / 32768 = r then chkAdd a (key (e.1 % 32768)) e.2 else a) []

/-- The comparison of one ring at harvest (R104). -/
def compareRing (c : Copse) (r : Nat) : Compare :=
  let rowSum := ringSums c r (· / 128)
  let colSum := ringSums c r (· % 128)
  let satIn := c.sat.filter (· / 32768 = r)
  let satRows := satIn.map fun k => k % 32768 / 128
  let satCols := satIn.map fun k => k % 128
  let rows := (List.range 256).filter fun i => !satRows.contains i && aGetD rowSum i 0 != aGetD c.chkCol (r * 256 + i) 0
  let cols := (List.range 128).filter fun j => !satCols.contains j && aGetD colSum j 0 != aGetD c.chkRow (r * 128 + j) 0
  let sumRow := ((List.range 128).map fun j => aGetD c.chkRow (r * 128 + j) 0).sum % 2 ^ 48
  let sumCol := ((List.range 256).map fun i => aGetD c.chkCol (r * 256 + i) 0).sum % 2 ^ 48
  let corner := aGetD c.corner r 0
  ⟨rows, cols, sumRow != corner || sumCol != corner, satRows.dedup.length + satCols.dedup.length⟩

/-- The comparison of a harvest: each of its rings on its own (R104). -/
def compareHarv (c : Copse) (e : Nat) : Compare :=
  (harvRings e).foldl (fun a r =>
    let b := compareRing c r
    ⟨a.rows ++ b.rows, a.cols ++ b.cols, a.corner || b.corner, a.unchecked + b.unchecked⟩) ⟨[], [], false, 0⟩

/-- The comparison found nothing unequal (R105). -/
def Compare.ok (x : Compare) : Bool := x.rows.isEmpty && x.cols.isEmpty && !x.corner

/-- The five counts that a harvest reports (R99): the edge, table, harvest, ring and NaN counts of its rings, summed;
the ring count adds the cells that saturated, once each. -/
def harvCounts (c : Copse) (e : Nat) : List Nat :=
  let rs := harvRings e
  let sum := fun (f : ScaleSet → Nat) => rs.foldl (fun a r => satAdd32 a (f (aGetD c.sets r ScaleSet.blank))) 0
  let cells := (c.sat.filter fun k => rs.contains (k / 32768)).length
  [sum (·.edge), sum (·.lut), sum (·.harv), satAdd32 (sum (·.ring)) cells, sum (·.nan)]

end Sys2Proof.Machine
end

