-- ==== Sys2Proof/Machine/ForestOps.lean ====
section
/-! DEFINITION. What the forest's commands share (R441 to R464): associations, frames and their replay, messages to
peers, and the arithmetic and the placement of the erasure code across modules (R456, R457). -/

namespace Sys2Proof.Machine

/-! Configuration -/

def selfNo (s : State) : Nat := match s.forest.cfg with | some c => c.self | none => 0

def peerCfg (s : State) (m : Nat) : Option PeerCfg := s.forest.cfg.bind fun c => c.peers.find? (·.num == m)

def portSwitched (s : State) (port : Nat) : Bool := match s.forest.cfg with | some c => bitOf c.switched port | none => false

/-- Lanes in use of a port: it is trained where there are any. -/
def portLanes (s : State) (port : Nat) : Nat := aGetD s.forest.cables port 0

def chwReg (port off : Nat) : Nat := chowenPage port + off

/-! Associations -/

def findAssoc (s : State) (port peer : Nat) : Option Assoc := s.forest.assocs.find? fun a => a.port == port && a.peer == peer

def updAssoc (s : State) (port peer : Nat) (f : Assoc → Assoc) : State :=
  { s with forest := { s.forest with assocs := s.forest.assocs.map fun a => if a.port = port ∧ a.peer = peer then f a else a } }

def Assoc.start (port peer state : Nat) : Assoc :=
  { port := port, peer := peer, state := state, generation := 0, txSeq := 0, expect := 0, txEpoch := 0, rxEpoch := 0,
    txFrames := 0, replay := [], queue := [], timeouts := 0, unackedRx := 0, nakAt := none, tagFails := [], parts := [],
    finished := [] }

/-- Peers with an association up. -/
def peersUp (s : State) : List Nat := ((s.forest.assocs.filter (·.state == 3)).map (·.peer)).dedup

/-- The replication state that FOREST_STAT.ec shows. -/
def ecState (s : State) : Nat :=
  match s.forest.cfg.bind (·.repl) with
  | none => 0
  | some r => if r.slots.all fun m => m == selfNo s || (peersUp s).contains m then 1 else 3

/-- Bring the link registers up to date (R463, R464). -/
def refreshForest (s : State) : State :=
  let s1 := (List.range 4).foldl (fun s p =>
    let a := chwReg p Reg.CHW_STAT
    let lanes := portLanes s p
    let up := s.forest.assocs.any fun x => x.port == p && x.state == 3
    let old := getF s a Fld.CHW_STAT_state
    let st := if lanes = 0 then min old 1 else if up then 3 else 2
    setF (setF (setF s a Fld.CHW_STAT_state st) a Fld.CHW_STAT_lanes lanes) a Fld.CHW_STAT_switched (if portSwitched s p then 1 else 0)) s
  setF (setF (setF s1 Reg.FOREST_STAT Fld.FOREST_STAT_peers_up (peersUp s1).length) Reg.FOREST_STAT Fld.FOREST_STAT_self (selfNo s1))
    Reg.FOREST_STAT Fld.FOREST_STAT_ec (ecState s1)

/-! Frames (R443, R446) -/

def maxPayload (s : State) (port : Nat) : Nat :=
  if portSwitched s port then (match s.forest.cfg with | some c => min 8192 ((c.mtu - 52) / 64 * 64) | none => 8192) else 8192

/-- A frame's full Chowen length. -/
def frameLen (s : State) (port : Nat) (f : SentFrame) : Nat := 32 + f.payload.length + 16 + (if portSwitched s port then 0 else 4)

/-- Cut a message, padded to 64 bytes, into frames. -/
def cutFrames (no channel maxLen : Nat) : Nat → Nat → List Byte → List SentFrame
  | 0, _, _ => []
  | fuel + 1, off, l =>
    let f : SentFrame := { seq := 0, kind := 0, channel := channel, msgNo := no, msgOff := off / 64, last := decide (l.length ≤ maxLen),
                           payload := l.take maxLen }
    f :: (if l.length ≤ maxLen then [] else cutFrames no channel maxLen fuel (off + maxLen) (l.drop maxLen))

def framesOf (s : State) (port : Nat) (m : OutMsg) : List SentFrame :=
  let l := m.bytes ++ zeros ((64 - m.bytes.length % 64) % 64)
  cutFrames m.no m.channel (max 64 (maxPayload s port)) (l.length / 64 + 1) 0 l

/-- The association that carries a peer's traffic: the first port of its mask with one up (R453). -/
def routeTo (s : State) (peer : Nat) : Option Nat :=
  match peerCfg s peer with
  | none => none
  | some c => (List.range 4).find? fun p => bitOf c.ports p && s.forest.assocs.any fun a => a.port == p && a.peer == peer && a.state == 3

/-- A message has frames in an association that is up. -/
def inFlightMsg (s : State) (m : OutMsg) : Bool :=
  s.forest.assocs.any fun a => a.peer == m.peer && a.state == 3 && ((a.replay ++ a.queue).any (·.msgNo == m.no))

/-- Queue the frames of every message that has none on its way (R453). -/
def queueMsgs (s : State) : State :=
  s.forest.outbox.foldl (fun s m =>
    if inFlightMsg s m then s
    else match routeTo s m.peer with
      | none => s
      | some p => updAssoc s p m.peer fun a => { a with queue := a.queue ++ framesOf s p m }) s

/-- Room for a further frame among a port's unacknowledged ones. -/
def replayRoom (s : State) (port : Nat) (f : SentFrame) : Bool :=
  let l := (s.forest.assocs.filter (·.port == port)).flatMap (·.replay)
  l.length < 4096 && decide ((l.map (frameLen s port)).sum + frameLen s port f ≤ 4194304)

def epochFrames : Nat := 2 ^ 32

/-- Send one frame: numbered, counted, kept for replay. -/
def sendNumbered (s : State) (port peer : Nat) (f : SentFrame) : State :=
  bumpPair (updAssoc s port peer fun a =>
    { a with replay := a.replay ++ [{ f with seq := a.txSeq }], txSeq := (a.txSeq + 1) % 2 ^ 24, txFrames := a.txFrames + 1 })
    (chwReg port Reg.CHW_TX_LO) 1

/-- Move to the next key epoch where the present one is used up: a key-update frame, then new keys (R450). -/
def nextEpoch (s : State) (port peer : Nat) : State :=
  match findAssoc s port peer with
  | none => s
  | some a =>
    if a.state = 3 ∧ a.txFrames ≥ epochFrames ∧ a.txEpoch < 255 then
      updAssoc (sendNumbered s port peer { seq := 0, kind := 4, channel := 3, msgNo := 0, msgOff := 0, last := true, payload := [] })
        port peer fun a => { a with txEpoch := a.txEpoch + 1, txFrames := 0 }
    else s

/-- Send queued frames of an association while the replay buffer has room; the fuel bounds them. -/
def transmit (port peer : Nat) : Nat → State → State
  | 0, s => s
  | fuel + 1, s =>
    let s1 := nextEpoch s port peer
    match findAssoc s1 port peer with
    | none => s1
    | some a =>
      match a.queue with
      | [] => s1
      | f :: rest =>
        if a.state ≠ 3 ∨ portLanes s1 port = 0 ∨ a.txFrames ≥ epochFrames ∨ !replayRoom s1 port f then s1
        else transmit port peer fuel (sendNumbered (updAssoc s1 port peer fun a => { a with queue := rest }) port peer f)

/-- Queue and send what waits. -/
def pump (s : State) : State :=
  let s1 := queueMsgs s
  s1.forest.assocs.foldl (fun s a => transmit a.port a.peer (a.queue.length + 1) s) s1

/-- Send a message to a peer. -/
def sendMsg (s : State) (peer channel : Nat) (bytes : List Byte) (delta : Option Nat) : State :=
  let m : OutMsg := { no := s.forest.nextMsg, peer := peer, channel := channel, bytes := bytes, delta := delta }
  pump { s with forest := { s.forest with outbox := s.forest.outbox ++ [m], nextMsg := s.forest.nextMsg + 1 } }

/-- An association goes down: its keys are erased and its messages move (R446, R450, R453). -/
def assocDown (s : State) (port peer : Nat) : State :=
  match findAssoc s port peer with
  | none => s
  | some a =>
    if a.state ≠ 3 then updAssoc s port peer fun a => { a with state := 0 }
    else
      let s1 := updAssoc s port peer fun a => { Assoc.start port peer 0 with parts := a.parts, finished := a.finished }
      pump (refreshForest (bump s1 (chwReg port Reg.CHW_DOWN) 1))

/-- Send a frame that is not numbered: an ack, a nak, a handshake message. -/
def sendBare (s : State) (port peer : Nat) : State :=
  bumpPair (updAssoc s port peer fun a => { a with txFrames := if a.state = 3 then a.txFrames + 1 else a.txFrames }) (chwReg port Reg.CHW_TX_LO) 1

def sendAck (s : State) (port peer : Nat) : State :=
  updAssoc (sendBare s port peer) port peer fun a => { a with unackedRx := 0 }

/-- Sequence number x lies before y, modulo 2^24. -/
def seqBefore (x y : Nat) : Bool := let d := (y + 2 ^ 24 - x) % 2 ^ 24; 1 ≤ d && d ≤ 2 ^ 23

/-- An ack frees the frames before its number; a message all of whose frames are freed is done (R446). -/
def handleAck (s : State) (port peer ack : Nat) : State :=
  match findAssoc s port peer with
  | none => s
  | some a =>
    let freed := a.replay.filter fun f => seqBefore f.seq ack
    if freed.isEmpty then s
    else
      let left := a.replay.filter fun f => !seqBefore f.seq ack
      let gone := freed.map (·.msgNo)
      let s1 := updAssoc s port peer fun a => { a with replay := left, timeouts := 0 }
      let out := s1.forest.outbox.filter fun m =>
        !(m.peer == peer && gone.contains m.no && !((left ++ a.queue).any (·.msgNo == m.no)))
      let s2 := { s1 with forest := { s1.forest with outbox := out } }
      let s3 := if a.txEpoch = 255 ∧ a.txFrames ≥ epochFrames ∧ left.isEmpty then assocDown s2 port peer else s2
      pump s3

/-- Resend from the oldest unacknowledged frame (R446). -/
def resend (s : State) (port peer : Nat) : State :=
  match findAssoc s port peer with
  | none => s
  | some a =>
    if portLanes s port = 0 then s
    else bumpPair (bump s (chwReg port Reg.CHW_RETX) a.replay.length) (chwReg port Reg.CHW_TX_LO) a.replay.length

/-- A message of a peer that its event's row takes. -/
def takeInbox (s : State) (peer channel : Nat) : State :=
  match s.forest.inbox.findIdx? fun m => m.1 == peer && m.2.1 == channel with
  | some i => { s with forest := { s.forest with inbox := s.forest.inbox.eraseIdx i } }
  | none => s

/-! GF(2^8) with polynomial 0x11D (R457) -/

/-- Multiply by x. -/
def gfDouble (a : Nat) : Nat := if a ≥ 128 then (2 * a) ^^^ 0x11D else 2 * a

def gfMulAux (a : Nat) : Nat → Nat → Nat
  | 0, _ => 0
  | fuel + 1, b => (if b % 2 = 1 then a else 0) ^^^ gfMulAux (gfDouble a) fuel (b / 2)

def gfMul (a b : Nat) : Nat := gfMulAux a 8 b

/-- The inverse of a nonzero element. -/
def gfInv (a : Nat) : Nat := ((List.range 256).find? fun b => gfMul a b == 1).getD 0

/-- c_{r,j}. -/
def cauchy (r j : Nat) : Nat := gfInv (r ^^^ (3 + j))

def gfScale (c : Nat) (l : List Byte) : List Byte := l.map fun b => BitVec.ofNat 8 (gfMul c b.toNat)

def xorBytes (a b : List Byte) : List Byte := (a.zip b).map fun x => x.1 ^^^ x.2

/-- The weighted sum of fragments. -/
def gfSum (n : Nat) (l : List (Nat × List Byte)) : List Byte := l.foldl (fun acc x => xorBytes acc (gfScale x.1 x.2)) (zeros n)

/-- Row operation: x + c × y. -/
def rowAdd (c : Nat) (x y : List Nat) : List Nat := (x.zip y).map fun e => e.1 ^^^ gfMul c e.2

/-- Gauss–Jordan elimination over the columns given: rows are the matrix with the unit matrix beside it. -/
def eliminate : List Nat → List (List Nat) → List (List Nat)
  | [], m => m
  | c :: cs, m =>
    match (m.zipIdx).find? fun r => c ≤ r.2 && r.1.getD c 0 != 0 with
    | none => eliminate cs m
    | some (p, i) =>
      let q := p.map (gfMul (gfInv (p.getD c 0)))
      let m1 := (m.set i (m.getD c [])).set c q
      eliminate cs (m1.zipIdx.map fun r => if r.2 = c then r.1 else rowAdd (r.1.getD c 0) r.1 q)

/-! The placement of stripes (R456) -/

/-- The parity role of a slot in a stripe, where it is one. -/
def slotRole (slot t : Nat) : Option Nat := let r := (slot + 11 * (t + 1) - t) % 11; if r < 3 then some r else none

/-- The data slots of a stripe in rising slot number. -/
def dataSlots (t : Nat) : List Nat := (List.range 11).filter fun d => (slotRole d t).isNone

/-- The data index of a slot in a stripe. -/
def dataIndex (slot t : Nat) : Nat := ((dataSlots t).findIdx? (· == slot)).getD 0

/-- The slot of a parity role. -/
def roleSlot (t r : Nat) : Nat := (t + r) % 11

/-- The stripe of protected unit u of slot d. -/
def stripeOf (d u : Nat) : Nat := 11 * (u / 8) + (d + 1 + u % 8) % 11

/-- The generator row of a slot: a data slot's unit row, a parity slot's coefficients. -/
def codeRow (slot t : Nat) : List Nat :=
  match slotRole slot t with
  | some r => (List.range 8).map (cauchy r)
  | none => (List.range 8).map fun j => if j = dataIndex slot t then 1 else 0

/-- The weights that form data unit j from the fragments of eight slots. -/
def decodeWeights (t j : Nat) (slots : List Nat) : List Nat :=
  let m := slots.zipIdx.map fun x => codeRow x.1 t ++ (List.range 8).map fun k => if k = x.2 then 1 else 0
  ((eliminate (List.range 8) m).getD j []).drop 8

/-- The fragment of a slot from the fragments of eight others. -/
def rebuildFragment (t slot : Nat) (frs : List (Nat × List Byte)) : List Byte :=
  let data := (List.range 8).map fun j => gfSum 16384 ((decodeWeights t j (frs.map (·.1))).zip (frs.map (·.2)))
  gfSum 16384 ((codeRow slot t).zip data)

/-! Protected units (R456, R458) -/

def repl (s : State) : Option ReplCfg := s.forest.cfg.bind (·.repl)

/-- This module's slot. -/
def selfSlot (s : State) (r : ReplCfg) : Nat := (r.slots.findIdx? (· == selfNo s)).getD 0

def isProtected (r : ReplCfg) (p : Nat) : Bool := bitOf (leAt r.bitmap (p / 8) 1) (p % 8)

def nsUnits (q : Part) : Nat := (listAt q.quota 7 + 16383) / 16384

/-- The protected number of a unit of a namespace; none where the namespace is not protected. -/
def protectedNo (s : State) (r : ReplCfg) (p u : Nat) : Option Nat :=
  if isProtected r p then
    some (((s.parts.filter fun e => e.1 < p && isProtected r e.1).map fun e => nsUnits e.2).sum + u)
  else none

/-- A unit of namespace 1 lies in the fragment store. -/
def inStore (s : State) (p u : Nat) : Bool :=
  match repl s with
  | none => false
  | some r => p == 0 && r.storeOff ≤ u * 16384 && u * 16384 < r.storeOff + r.storeLen

/-- The unit of namespace 1 that holds a parity role of a stripe. -/
def storeUnit (r : ReplCfg) (t role : Nat) : Nat := r.storeOff / 16384 + 3 * (t / 11) + role

/-- The bytes of a delta on the parity channel: identifier, stripe, role, index, the difference (the model's layout). -/
def deltaBytes (d : Delta) : List Byte :=
  toLe 8 d.ident ++ toLe 8 d.stripe ++ toLe 2 d.role ++ toLe 2 d.index ++ zeros 44 ++ d.bytes

def sendDelta (s : State) (d : Delta) : State := sendMsg s d.peer 1 (deltaBytes d) (some d.ident)

/-- Bytes of deltas that the forest journal holds (R458). -/
def journalBytes (s : State) : Nat := (s.forest.journal.map (·.bytes.length)).sum

def markStale (s : State) (t : Nat) : State :=
  bump { s with forest := { s.forest with stale := insertNat t s.forest.stale } } Reg.FOREST_EC_STALE 1

/-- A protected unit whose old content is lost changes: its stripe is marked stale. -/
def noteStale (s : State) (p u : Nat) : State :=
  match repl s with
  | none => s
  | some r =>
    match protectedNo s r p u with
    | none => s
    | some n => if n ≥ r.units then s else markStale s (stripeOf (selfSlot s r) n)

/-- A protected unit's content changes: its deltas are journalled and sent, or its stripe is marked stale (R457, R458). -/
def noteChange (s : State) (p u ident : Nat) (old new : List Byte) : State :=
  match repl s with
  | none => s
  | some r =>
    match protectedNo s r p u with
    | none => s
    | some n =>
      if n ≥ r.units ∨ old = new then s
      else
        let d := selfSlot s r
        let t := stripeOf d n
        let diff := xorBytes old new
        if journalBytes s + 3 * 16384 > 2 ^ 32 then
          markStale s t
        else
          (List.range 3).foldl (fun s role =>
            let x : Delta := { ident := ident, peer := r.slots.getD (roleSlot t role) 0, stripe := t, role := role,
                               index := dataIndex d t, bytes := diff }
            sendDelta { s with forest := { s.forest with journal := s.forest.journal ++ [x] } } x) s

end Sys2Proof.Machine
end

