-- ==== Sys2Proof/Machine/FtlOps.lean ====
section
/-! DEFINITION. The translation layer's shared operations: map indices, the write buffer, super-block slots, what makes
a unit durable or undurable, reads of units (R231 to R248). -/

namespace Sys2Proof.Machine

def unitSize : Nat := 16384

/-! Map indices (R232) -/

/-- The index at a position of the concatenation of ranges. -/
def rangeAt : List (Nat × Nat) → Nat → Option Nat
  | [], _ => none
  | (a, n) :: r, u => if u < n then some (a + u) else rangeAt r (u - n)

/-- The map index of unit u of a partition's namespace. -/
def unitIdx (s : State) (p u : Nat) : Option Nat := rangeAt (getPart s p).ranges u

/-- The capacity of a namespace in bytes (R374): its quota. -/
def nsCapacity (s : State) (p : Nat) : Nat := listAt (getPart s p).quota 7

def unitsFor (n : Nat) : Nat := (n + unitSize - 1) / unitSize

/-- Indices of the whole map: 8 stands of 3,221,225,472. -/
def mapIndices : Nat := 25769803776

/-- The lowest contiguous free indices that hold n, given the used ranges in rising order. -/
def lowestFit (n : Nat) : List (Nat × Nat) → Nat → Option Nat
  | [], a => if a + n ≤ mapIndices then some a else none
  | (b, k) :: r, a => if a + n ≤ b then some a else lowestFit n r (max a (b + k))

def insertRange (x : Nat × Nat) : List (Nat × Nat) → List (Nat × Nat)
  | [] => [x]
  | y :: r => if x.1 ≤ y.1 then x :: y :: r else y :: insertRange x r

/-- Ranges in use: of every partition, and those a release still zeroes (R410). -/
def usedRanges (s : State) : List (Nat × Nat) :=
  let own := s.parts.flatMap fun e => e.2.ranges ++ e.2.idxRanges
  let z := s.ftl.zeroing.map fun x => (x.2.1, x.2.2)
  (own ++ z).foldr insertRange []

def ownedRanges (s : State) : List (Nat × Nat) :=
  (s.parts.flatMap fun e => e.2.ranges ++ e.2.idxRanges).foldr insertRange []

def inRanges (l : List (Nat × Nat)) (i : Nat) : Bool := l.any fun r => r.1 ≤ i && i < r.1 + r.2

/-- The stand that holds a map entry (R232). -/
def homeStand (idx : Nat) : Nat := idx / 12 % 8

/-- The segment of a map index: 16 MiB of the lines of one stand (R244). -/
def segmentOf (idx : Nat) : Nat := idx / 12 % 8 * 1024 + idx / 12 / 8 / 262144

/-! Addresses (R232, R235, R236) -/

def physAddr (stand ch die block page : Nat) : Nat := stand * 2 ^ 33 + ch * 2 ^ 29 + die * 2 ^ 26 + block * 2 ^ 12 + page
def addrStand (a : Nat) : Nat := bitsOf a 37 33
def addrChan (a : Nat) : Nat := 16 * addrStand a + bitsOf a 32 29
def addrDie (a : Nat) : Nat := bitsOf a 28 26
def addrBlock (a : Nat) : Nat := bitsOf a 25 12
/-- The key of a block: its address with page 0, divided by 4,096. -/
def blockKey (a : Nat) : Nat := a / 4096
def blockAt (chan die block : Nat) : Nat := physAddr (chan / 16) (chan % 16) die block 0 / 4096

def Block.blank : Block :=
  { verified := true, clear := true, wp := 0, reads := 0, erases := 0, warned := false, needErase := false,
    pendingFlag := false, closed := false }

def getBlock (s : State) (k : Nat) : Block := aGetD s.ftl.blocks k Block.blank

def updBlock (s : State) (k : Nat) (f : Block → Block) : State :=
  { s with ftl := { s.ftl with blocks := aPut s.ftl.blocks k (f (getBlock s k)) } }

def Channel.blank : Channel :=
  { brownOut := false, ops := [], keys := [], pf := [], branch := [], factory := [], grown := [] }

def getChan (s : State) (i : Nat) : Channel := aGetD s.chans i Channel.blank

def updChan (s : State) (i : Nat) (f : Channel → Channel) : State := { s with chans := aPut s.chans i (f (getChan s i)) }

/-- A block is in the grown-bad-block table of its die (R220). -/
def isGrown (s : State) (k : Nat) : Bool :=
  (aGetD (getChan s (addrChan (k * 4096))).grown (addrDie (k * 4096)) []).contains (k % 2 ^ 14)

/-- The member block of a super-block on a plane of a channel: at manufacture the serving block of rank B ÷ 8 (R235;
which blocks are spares is notes/assumptions/3.md), then what a substitution recorded. -/
def memberBlock (s : State) (B chan plane : Nat) : Nat :=
  aGetD s.ftl.members (B * 512 + chan * 4 + plane) (256 + B / 8 * 4 + plane)

def slotsPerWordline : Nat := 1680
def slotsPerSb : Nat := 967680

/-- The lost stand, where one is lost (R255). -/
def lostStand (s : State) : Option Nat :=
  let l := getF s Reg.FTL_STAT Fld.FTL_STAT_lost_stand
  if l < 8 then some l else none

/-- The stands whose channels hold data of a super-wordline: all but the cross-stand parity stand, or, in a super-block
opened after a loss, the surviving ones (R235, R252). -/
def dataStands (s : State) (B w : Nat) (afterLoss : Bool) : List Nat :=
  let skip := if afterLoss then (match lostStand s with | some l => l | none => 8) else (B + w) % 8
  (List.range 8).filter (· != skip)

/-- The address of slot n of a super-block (R236). -/
def slotAddr (s : State) (B n : Nat) (afterLoss : Bool) : Nat :=
  let w := n / slotsPerWordline
  let r := n % slotsPerWordline
  let st := (dataStands s B w afterLoss).getD (r / 240) 0
  let par := (B + w + st) % 16
  let ch := ((List.range 16).filter (· != par)).getD (r % 240 / 16) 0
  let q := r % 16 / 4
  let plane := r % 4
  physAddr st ch (B % 8) (memberBlock s B (16 * st + ch) plane) (4 * w + q)

def SuperBlock.blank (stream : Nat) (afterLoss : Bool) : SuperBlock :=
  { state := 1, stream := stream, wordline := 0, done := [], nextSlot := 0, afterLoss := afterLoss }

def getSb (s : State) (B : Nat) : Option SuperBlock := aGet? s.ftl.sbs B

def updSb (s : State) (B : Nat) (f : SuperBlock → SuperBlock) : State :=
  { s with ftl := { s.ftl with sbs := aUpd s.ftl.sbs B f } }

/-- The lowest free super-block. -/
def freeSb (s : State) : Option Nat :=
  let b := aLowestFree s.ftl.sbs (s.ftl.sbs.length + 1) 0
  if b < 24960 ∧ getF s Reg.FTL_SB Fld.FTL_SB_free > 0 then some b else none

/-- Open a super-block for a stream: the lowest free one. -/
def openSb (s : State) (stream : Nat) : Option (State × Nat) :=
  match freeSb s with
  | none => none
  | some b =>
    let sb := SuperBlock.blank stream (lostStand s).isSome
    let s1 := setF s Reg.FTL_SB Fld.FTL_SB_free (getF s Reg.FTL_SB Fld.FTL_SB_free - 1)
    some ({ s1 with ftl := { s1.ftl with sbs := aPut s1.ftl.sbs b sb, opened := aPut s1.ftl.opened stream b } }, b)

/-- The next slot from n on that does not lie on a stand lost after the super-block was opened (R252). -/
def skipLost (s : State) (B : Nat) (afterLoss : Bool) : Nat → Nat → Nat
  | 0, n => n
  | fuel + 1, n => if standPresent s (addrStand (slotAddr s B n afterLoss)) then n else skipLost s B afterLoss fuel ((n / 240 + 1) * 240)

/-- Take the next slot of a stream's open super-block, opening one where needed (R236); none where no super-block is
free. A slot is B × 2^20 + n. -/
def takeSlot (s : State) (stream : Nat) : State × Option Nat :=
  let use := fun (s : State) (b : Nat) (sb : SuperBlock) =>
    let n := skipLost s b sb.afterLoss 8 sb.nextSlot
    (updSb s b fun x => { x with nextSlot := n + 1
                                 state := if stream ≠ 0 ∧ n + 1 ≥ slotsPerSb then 2 else x.state },
      some (b * 2 ^ 20 + n))
  let fresh := match openSb s stream with
    | none => (s, none)
    | some (s1, b) => match getSb s1 b with | some sb => use s1 b sb | none => (s1, none)
  match aGet? s.ftl.opened stream with
  | none => fresh
  | some b =>
    match getSb s b with
    | some sb => if sb.state = 1 ∧ sb.nextSlot < slotsPerSb then use s b sb else fresh
    | none => fresh

/-! The map (R232, R243) -/

/-- Change a map entry: journalled, and the clean-shutdown record is void (R243, R473). -/
def mapSet (s : State) (idx : Nat) (e : Option MapEntry) : State :=
  let f := s.ftl
  { s with ftl := { f with
      map := match e with | some x => aPut f.map idx x | none => aDel f.map idx
      journal := f.journal ++ [{ idx := idx, entry := e, seq := f.seq, no := f.nextOrder, stands := [] }]
      nextOrder := f.nextOrder + 1
      cleanRecord := false } }

def mapGet (s : State) (idx : Nat) : Option MapEntry := aGet? s.ftl.map idx

/-- The map entry of a poisoned unit (R232). -/
def poisonedEntry : MapEntry := { state := 3, addr := 0 }

/-! The buffer (R238) -/

def UnitVal.zero : UnitVal := { bytes := [], form := 0, key := 0, nonce := 0 }

/-- The newest buffered version of a unit. -/
def newestBuf (s : State) (idx : Nat) : Option BufUnit :=
  (s.ftl.buf.filter (·.idx == idx)).foldl (fun b x => match b with
    | none => some x
    | some y => if y.order < x.order then some x else some y) none

/-- What a read of a unit finds: poisoned, or its content from the buffer, from flash, or zeros (R232, R239). -/
inductive UnitRead where
  | poisoned | buffered (v : UnitVal) | flash (v : UnitVal) (addr : Nat) | unmapped
  deriving DecidableEq, Repr

def readUnit (s : State) (idx : Nat) : UnitRead :=
  match newestBuf s idx with
  | some b => .buffered b.val
  | none =>
    match mapGet s idx with
    | none => .unmapped
    | some e =>
      if e.state = 3 then .poisoned
      else match aGet? s.ftl.pages e.addr with | some p => .flash p.val e.addr | none => .flash UnitVal.zero e.addr

/-- The content of a unit, none where it is poisoned. -/
def unitVal (s : State) (idx : Nat) : Option UnitVal :=
  match readUnit s idx with
  | .poisoned => none
  | .buffered v => some v
  | .flash v _ => some v
  | .unmapped => some UnitVal.zero

/-- Home slots of a stand in use (R238): its half and the next stand's neighbour half fill together. -/
def homeUsed (s : State) (h : Nat) : Nat := (s.ftl.buf.filter fun b => homeStand b.idx == h).length

def slotFree (s : State) (idx : Nat) : Bool := homeUsed s (homeStand idx) < 8192

/-- Put a unit into the buffer with the next slot of a stream. -/
def enterUnit (s : State) (p unit idx kind stream : Nat) (v : UnitVal) : State × Nat :=
  let (s1, slot) := takeSlot s stream
  let b : BufUnit := { idx := idx, partition := p, unit := unit, kind := kind, order := s1.ftl.nextOrder, val := v,
                       homeBad := false, neighbourBad := false, staged := [], staging := false, slot := slot,
                       programmed := false, rebuilt := false }
  ({ s1 with ftl := { s1.ftl with buf := s1.ftl.buf ++ [b], nextOrder := s1.ftl.nextOrder + 1 } }, s1.ftl.nextOrder)

/-- A buffered version is durable by (b): two SLC copies on channels of two different stands (R239). -/
def stagedDurable (b : BufUnit) : Bool :=
  b.staged.any fun c => b.staged.any fun d => c / 16 != d / 16

/-- Every version of a list is durable, or has left the buffer, so by (a) (R239). -/
def ordersDurable (s : State) (l : List Nat) : Bool :=
  l.all fun o => s.ftl.buf.all fun b => b.order != o || stagedDurable b

/-- Acknowledge the deltas whose parity units are durable to their origins (R458). -/
def ackDeltas (s : State) : State :=
  let ready := s.forest.acks.filter fun a => ordersDurable s [a.2.2]
  let s1 := { s with forest := { s.forest with acks := s.forest.acks.filter fun a => !ordersDurable s [a.2.2] } }
  ready.foldl (fun s a => sendMsg s a.1 1 (toLe 8 a.2.1 ++ zeros 56) none) s1

def replyOfWait (w : FlushWait) : Reply :=
  ⟨⟨w.reply.sct, w.reply.sc⟩, w.reply.dw0, w.reply.dw1, w.reply.data, w.reply.sealInfo⟩

/-- Complete the commands whose versions are durable now (R240, R390). -/
def settle (s : State) : State :=
  let ready := s.ftl.flushes.filter fun w => ordersDurable s w.orders
  let s1 := { s with ftl := { s.ftl with flushes := s.ftl.flushes.filter fun w => !ordersDurable s w.orders } }
  ackDeltas (ready.foldl (fun s w => completeAt s w.reply.sqid w.reply.cid (replyOfWait w)) s1)

/-- Answer a command once its versions are durable: at once where they are, else it waits, and its versions go to
staging (R240). -/
def whenDurable (s : State) (c : Cmd) (orders : List Nat) (r : Reply) : State × Option Reply :=
  if ordersDurable s orders then (s, some r)
  else
    let w : FlushWait := { orders := orders, reply := toCompletion c.sqid c.cid r }
    let mark := fun (b : BufUnit) => if orders.contains b.order ∧ !stagedDurable b then { b with staging := true } else b
    ({ s with ftl := { s.ftl with flushes := s.ftl.flushes ++ [w], buf := s.ftl.buf.map mark } }, none)

/-! Undurable units (R241, R395, R396) -/

/-- Put a range into a deferred-write-error log: merged with an adjacent or overlapping one of the same cause. -/
def mergeDeferred (l : List DeferredEntry) (e : DeferredEntry) : List DeferredEntry :=
  match l.findIdx? fun x => x.cause == e.cause && x.first ≤ e.first + e.count && e.first ≤ x.first + x.count with
  | some i =>
    let x := l.getD i e
    let a := min x.first e.first
    let b := max (x.first + x.count) (e.first + e.count)
    l.set i { x with first := a, count := b - a, stamp := min x.stamp e.stamp }
  | none => l ++ [e]

/-- A unit of a namespace becomes undurable (R241): counted, recorded against the namespace, the deferred-error state
entered and its asynchronous event posted (R395). -/
def undurable (s : State) (p unit cause : Nat) : State :=
  let s1 := bump s Reg.FTL_UNDURABLE 1
  let s2 := updPart s1 p fun q =>
    let per := unitSize / lbaSize q
    let e : DeferredEntry := { first := unit * per, count := per, cause := cause, stamp := s.tb }
    let l := mergeDeferred q.undurable e
    if l.length > 256 then { q with undurableOver := true, deferred := true } else { q with undurable := l, deferred := true }
  aen s2 7 0

/-- Drop a buffered version that cannot be made durable: commands that wait for it end with Internal Error
(DESIGN CHOICE, notes/assumptions/24.md). -/
def dropBuffered (s : State) (b : BufUnit) (poison : Bool) (cause : Nat) : State :=
  let s1 := { s with ftl := { s.ftl with buf := s.ftl.buf.filter fun x => x.order != b.order } }
  let s2 := if poison then mapSet s1 b.idx (some poisonedEntry) else s1
  let s3 := if b.kind = 0 then undurable s2 b.partition b.unit cause else bump s2 Reg.FTL_UNDURABLE 1
  let hit := s3.ftl.flushes.filter fun w => w.orders.contains b.order
  let s4 := { s3 with ftl := { s3.ftl with flushes := s3.ftl.flushes.filter fun w => !w.orders.contains b.order } }
  hit.foldl (fun s w => completeAt s w.reply.sqid w.reply.cid (replySt stInternal)) s4

/-! Durability by (a) (R239) -/

/-- The 16,384 bytes of a unit as a read without keys finds them: what the host wrote, or the ciphertext of a sealed
unit. -/
def unitBytes (v : UnitVal) : List Byte :=
  if v.form = 0 then bRead v.bytes 0 16384 else sub (Config.sealedUnit v.key v.nonce (bRead v.bytes 0 16384)) 0 16384

/-- The content of a unit that the erasure code has seen last: of its newest programmed version, else of its mapped
page; none where the unit is poisoned (R457). -/
def codedContent (s : State) (idx : Nat) : Option UnitVal :=
  match ((s.ftl.buf.filter fun x => x.idx == idx && x.programmed).map (·.val)).getLast? with
  | some v => some v
  | none =>
    match mapGet s idx with
    | none => some UnitVal.zero
    | some e => if e.state = 3 then none else some ((aGet? s.ftl.pages e.addr).elim UnitVal.zero (·.val))

/-- Tell the erasure code of a unit's new content (R457, R458); where the old one is lost its stripe becomes stale. -/
def noteContent (s : State) (p u idx ident : Nat) (new : UnitVal) : State :=
  match codedContent s idx with
  | some o => noteChange s p u ident (unitBytes o) (unitBytes new)
  | none => noteStale s p u

/-- A page of a unit's version is programmed: its content is on flash under the next write sequence number (R233). -/
def programUnit (s0 : State) (b : BufUnit) (addr : Nat) : State :=
  let newer := s0.ftl.buf.any fun x => x.idx == b.idx && b.order < x.order && x.programmed
  let s := if b.kind ≠ 0 ∨ b.rebuilt ∨ newer then s0 else noteContent s0 b.partition b.unit b.idx (s0.ftl.seq + 1) b.val
  let f := s.ftl
  let pg : NandPage := { idx := b.idx, partition := b.partition, kind := b.kind, seq := f.seq + 1, val := b.val, rawData := none }
  let s1 := { s with ftl := { f with seq := f.seq + 1, sinceCkpt := f.sinceCkpt + 1, pages := aPut f.pages addr pg,
                                     buf := f.buf.map fun x => if x.order = b.order then { x with programmed := true } else x } }
  bumpPair s1 Reg.FTL_MEDIA_UNITS_LO 1

/-- The address that a buffered version's slot gives. -/
def bufAddr (s : State) (b : BufUnit) : Option Nat :=
  match b.slot with
  | none => none
  | some k =>
    match getSb s (k / 2 ^ 20) with
    | some sb => some (slotAddr s (k / 2 ^ 20) (k % 2 ^ 20) sb.afterLoss)
    | none => none

/-- A newer version of the unit is already mapped or has left the buffer: nothing older may be mapped after it. -/
def newerMapped (s : State) (b : BufUnit) (addr : Nat) : Bool :=
  match mapGet s b.idx, aGet? s.ftl.pages addr with
  | some e, some pg => (e.state == 1 || e.state == 2) && (match aGet? s.ftl.pages e.addr with | some q => decide (pg.seq < q.seq) | none => false)
  | _, _ => false

/-- A version becomes durable by (a): its map entry takes the flash address, and its slots are released, with those of
older versions. -/
def landUnit (s : State) (b : BufUnit) : State :=
  match bufAddr s b with
  | none => s
  | some a =>
    let s1 := { s with ftl := { s.ftl with buf := s.ftl.buf.filter fun x => !(x.idx == b.idx && x.order ≤ b.order) } }
    if newerMapped s b a then s1 else mapSet s1 b.idx (some { state := if b.kind = 1 then 2 else 1, addr := a })

/-- Make every buffered unit durable by (a) at once (R473, R483): each is programmed and mapped. -/
def flushAll (s : State) : State :=
  let s1 := s.ftl.buf.foldl (fun s b =>
    let (s0, b0) := match b.slot with
      | some _ => (s, b)
      | none => let (s', k) := takeSlot s 0; (s', { b with slot := k })
    let s' := { s0 with ftl := { s0.ftl with buf := s0.ftl.buf.map fun x => if x.order = b0.order then b0 else x } }
    match bufAddr s' b0 with
    | none => s'
    | some a => landUnit (if b0.programmed then s' else programUnit s' b0 a) b0) s
  settle s1

/-! Valid units of a super-block -/

/-- Map entries whose page lies in a block. -/
def unitsInBlock (s : State) (k : Nat) : List (Nat × MapEntry) :=
  s.ftl.map.filter fun e => (e.2.state == 1 || e.2.state == 2) && blockKey e.2.addr == k

/-- The super-block whose member a block is (R235). -/
def sbOfBlock (s : State) (k : Nat) : Option Nat :=
  let a := k * 4096
  let chan := addrChan a
  let plane := addrBlock a % 4
  (s.ftl.sbs.find? fun e => e.1 % 8 == addrDie a && memberBlock s e.1 chan plane == addrBlock a).map (·.1)

/-- Map entries whose page lies in a super-block. -/
def unitsInSb (s : State) (B : Nat) : List (Nat × MapEntry) :=
  s.ftl.map.filter fun e => (e.2.state == 1 || e.2.state == 2) && sbOfBlock s (blockKey e.2.addr) == some B

/-- Queue the relocation of map entries: the unit, the address it was copied from, its content (R248). -/
def queueRelocs (s : State) (l : List (Nat × MapEntry)) : State :=
  let have0 := s.ftl.relocs.map (·.idx)
  let new := (l.filter fun e => !have0.contains e.1).filterMap fun e =>
    match aGet? s.ftl.pages e.2.addr with
    | some pg => some { idx := e.1, partition := pg.partition, kind := pg.kind, old := e.2.addr, val := pg.val : Reloc }
    | none => none
  { s with ftl := { s.ftl with relocs := s.ftl.relocs ++ new } }

/-! Resident copies of extent pages (R189, R194) -/

/-- The key of a 64 KiB page of a namespace in the directory. -/
def extentKey (p page : Nat) : Nat := p * 2 ^ 40 + page

/-- Drop a resident extent page: its stack page is freed and its charge credited. -/
def dropCopy (s : State) (k : Nat) : State :=
  match aGet? s.mem.resident k with
  | none => s
  | some c =>
    let s1 := freePages { s with mem := { s.mem with resident := aDel s.mem.resident k } } [c.place]
    credit s1 c.charged 3 65536

/-- A new version of a namespace page makes its resident copy old: it is freed when its last pin is released (R189). -/
def staleCopy (s : State) (p page : Nat) : State :=
  let k := extentKey p page
  match aGet? s.mem.resident k with
  | none => s
  | some c =>
    if c.pins = 0 then dropCopy s k
    else { s with mem := { s.mem with resident := aPut s.mem.resident k { c with stale := true } } }

/-! Host writes (R238, R240) -/

/-- Merge bytes into a unit's content. -/
def mergeUnit (v : UnitVal) (off : Nat) (l : List Byte) : UnitVal :=
  { bytes := bWrite v.bytes off l, form := 0, key := 0, nonce := 0 }

/-- A write may be accepted: a free slot in both halves (R238), and above the throttling threshold or against a unit
that reclaim freed (R247). -/
def mayEnter (s : State) (idx : Nat) : Bool :=
  slotFree s idx && (decide (getF s Reg.FTL_SB Fld.FTL_SB_free ≥ getF s Reg.FTL_GC_CFG Fld.FTL_GC_CFG_crit_wm) || decide (s.ftl.credit > 0))

def useCredit (s : State) : State :=
  if getF s Reg.FTL_SB Fld.FTL_SB_free ≥ getF s Reg.FTL_GC_CFG Fld.FTL_GC_CFG_crit_wm then s
  else { s with ftl := { s.ftl with credit := s.ftl.credit - 1 } }

/-- Enter one piece of a write: unit, offset in it, bytes. None where it must wait. -/
def enterPiece (s : State) (p : Nat) (piece : Nat × Nat × List Byte) : Option (State × Nat) :=
  match unitIdx s p piece.1 with
  | none => none
  | some idx =>
    if !mayEnter s idx then none
    else
      let old := if piece.2.2.length = unitSize then UnitVal.zero else (unitVal s idx).getD UnitVal.zero
      let (s1, o) := enterUnit (useCredit s) p piece.1 idx 0 0 (mergeUnit old piece.2.1 piece.2.2)
      some (staleCopy s1 p (piece.1 / 4), o)

/-- Enter pieces in ascending order until one must wait (R398): the orders entered and the pieces left. -/
def enterPieces (p : Nat) : List (Nat × Nat × List Byte) → State → List Nat → State × List Nat × List (Nat × Nat × List Byte)
  | [], s, os => (s, os, [])
  | x :: r, s, os =>
    match enterPiece s p x with
    | none => (s, os, x :: r)
    | some (s1, o) => enterPieces p r s1 (os ++ [o])

/-- Cut a byte range of a namespace into pieces of units. -/
def cutPieces (l : List Byte) : Nat → Nat → List (Nat × Nat × List Byte)
  | 0, _ => []
  | fuel + 1, off =>
    if l.length ≤ 0 then []
    else
      let room := unitSize - off % unitSize
      (off / unitSize, off % unitSize, l.take room) :: (if l.length ≤ room then [] else cutPieces (l.drop room) fuel (off + room))

def piecesOf (off : Nat) (l : List Byte) : List (Nat × Nat × List Byte) := cutPieces l (l.length / unitSize + 2) off

/-- A piece covers less than its unit, and the unit is poisoned (R232). -/
def pieceBlocked (s : State) (p : Nat) (x : Nat × Nat × List Byte) : Bool :=
  x.2.2.length != unitSize && (match unitIdx s p x.1 with | some i => readUnit s i == .poisoned | none => false)

/-- Write bytes of a namespace for the module's own engines (R145, R387): the pieces enter at once. -/
def writeNow (s : State) (p off : Nat) (l : List Byte) : State × List Nat :=
  (piecesOf off l).foldl (fun (acc : State × List Nat) x =>
    match unitIdx acc.1 p x.1 with
    | none => acc
    | some idx =>
      let old := if x.2.2.length = unitSize then UnitVal.zero else (unitVal acc.1 idx).getD UnitVal.zero
      let (s1, o) := enterUnit acc.1 p x.1 idx 0 0 (mergeUnit old x.2.1 x.2.2)
      (staleCopy s1 p (x.1 / 4), acc.2 ++ [o])) (s, [])

/-- Bytes of a namespace as a read finds them; a poisoned unit reads as zeros and is reported. -/
def readNs (s : State) (p off n : Nat) : List Byte × Bool :=
  let us := (List.range (n / unitSize + 2)).map fun i => off / unitSize + i
  let vals := us.map fun u => match unitIdx s p u with | some i => unitVal s i | none => some UnitVal.zero
  let bad := ((us.zip vals).filter fun e => e.1 * unitSize < off + n && e.2.isNone).length > 0
  ((List.range n).map fun i =>
    match vals.getD ((off + i) / unitSize - off / unitSize) none with
    | some v => bGet v.bytes ((off + i) % unitSize)
    | none => 0, bad)

/-- Unmap a unit (R232): buffered versions of it go with it. -/
def unmapUnit (s : State) (p unit : Nat) : State :=
  match unitIdx s p unit with
  | none => s
  | some idx =>
    let s0 := match repl s with
      | none => s
      | some _ => noteContent { s with ftl := { s.ftl with seq := s.ftl.seq + 1 } } p unit idx (s.ftl.seq + 1) UnitVal.zero
    let s1 := { s0 with ftl := { s0.ftl with buf := s0.ftl.buf.filter fun b => b.idx != idx } }
    let s2 := if (mapGet s1 idx).isSome then mapSet s1 idx none else s1
    settle (staleCopy s2 p (unit / 4))

/-- Writes to namespaces are refused (R237). -/
def writeProtected (s : State) : Bool := getF s Reg.FTL_STAT Fld.FTL_STAT_write_prot == 1

/-- The holdup bank failed its test, so that every write waits for durability (R466). -/
def bankWeak (s : State) : Bool := getF s Reg.PWR_STAT Fld.PWR_STAT_bank_ok == 0

/-- The map entries of a unit lie in the share of a lost stand that is not reloaded yet (R252). -/
def inLostShare (s : State) (idx : Nat) : Bool := s.ftl.shareWaiting && lostStand s == some (homeStand idx)

end Sys2Proof.Machine
end

