-- ==== Sys2Proof/Machine/MediaOps.lean ====
section
/-! DEFINITION. What the flash rows share: the dies and their operations, suspension, media accesses, bad blocks, the
erase of blocks and what frees a super-block (R206 to R225, R235, R247 to R252). -/

namespace Sys2Proof.Machine

/-! Dies -/

/-- A channel that works: trained or degraded (R229). -/
def chanUp (s : State) (ch : Nat) : Bool :=
  standPresent s (ch / 16) && [2, 3].contains (getF s (chanPage ch + Reg.CH_STAT) Fld.CH_STAT_state)

/-- A die in use on a working channel (R201, R220). -/
def dieUp (s : State) (ch die : Nat) : Bool :=
  chanUp s ch && bitOf (getF s (chanPage ch + Reg.CH_STAT) Fld.CH_STAT_die_ok) die

def dieOp (s : State) (ch die : Nat) : Option DieOp := aGet? (getChan s ch).ops die

def setDieOp (s : State) (ch die : Nat) (o : Option DieOp) : State :=
  updChan s ch fun c => { c with ops := match o with | some x => aPut c.ops die x | none => aDel c.ops die }

def newOp (s : State) (kind block wordline : Nat) : DieOp :=
  { kind := kind, block := block, wordline := wordline, suspended := false, suspensions := 0, interrupted := false,
    retried := false, access := s.ftl.nextOrder }

/-- Media accesses to a die that have not ended. -/
def dieReads (s : State) (ch die : Nat) : Bool :=
  s.ftl.accesses.any fun e => addrChan e.2.addr == ch && addrDie e.2.addr == die

/-- An operation resumes when the reads of its die have completed (R209); in brown-out none does (R214). -/
def resumeDies (s : State) : State :=
  { s with chans := s.chans.map fun e =>
      if e.2.brownOut then e
      else (e.1, { e.2 with ops := e.2.ops.map fun o =>
        if o.2.suspended ∧ !dieReads s e.1 o.1 then (o.1, { o.2 with suspended := false }) else o }) }

/-- A read suspends the QLC program or the erase of its die within the limits (R209). -/
def suspendFor (s : State) (ch die : Nat) : State :=
  match dieOp s ch die with
  | none => s
  | some o =>
    let a := chanPage ch + Reg.CH_SUSP_CFG
    let lim := if o.kind = 1 then getF s a Fld.CH_SUSP_CFG_max_susp_prog
      else if o.kind = 2 then getF s a Fld.CH_SUSP_CFG_max_susp_erase else 0
    if o.suspended ∨ o.suspensions ≥ lim then s
    else setDieOp s ch die (some { o with suspended := true, suspensions := o.suspensions + 1 })

/-- A read can run on a die: nothing runs there, or what does is suspended (R206). -/
def dieReadable (s : State) (ch die : Nat) : Bool := match dieOp s ch die with | some o => o.suspended | none => true

/-! Media accesses (R224) -/

/-- Start a media access to a unit. -/
def startAccess (s : State) (search : Bool) (asker waiter idx addr : Nat) : State :=
  let id := match s.ftl.accesses.getLast? with | some e => e.1 + 1 | none => 1
  let a : Access := { search := search, asker := asker, waiter := waiter, idx := idx, addr := addr, attempt := 0,
                      failed := [], cancelled := false }
  suspendFor { s with ftl := { s.ftl with accesses := aPut s.ftl.accesses id a } } (addrChan addr) (addrDie addr)

def accessesOf (s : State) (asker waiter : Nat) : List Nat :=
  (s.ftl.accesses.filter fun e => e.2.asker == asker && e.2.waiter == waiter).map (·.1)

/-- Media accesses whose asker has gone end; what they suspended resumes. -/
def dropAccess (s : State) (sel : Access → Bool) : State :=
  resumeDies { s with ftl := { s.ftl with accesses := s.ftl.accesses.filter fun e => !sel e.2 } }

/-- An upper limit expired: the media accesses that worked on its behalf stop at their next safe point, and nobody waits
for them any more (R49): their asker is 3. -/
def orphanAccess (s : State) (sel : Access → Bool) : State :=
  let l := s.ftl.accesses.map fun e => if sel e.2 then (e.1, { e.2 with asker := 3, cancelled := true }) else e
  { s with ftl := { s.ftl with accesses := l } }

/-! Blocks -/

/-- A super-block's index from the die and the block group of its members at manufacture (R235). -/
def sbOfGroup (die group : Nat) : Nat := (group - 64) * 8 + die

/-- Channels that a super-block spans (R235, R252). -/
def sbChannels (s : State) (afterLoss : Bool) : List Nat :=
  (List.range 128).filter fun ch => !(afterLoss && lostStand s == some (ch / 16))

/-- The blocks that a group of a die names: those of an SLC group, else the members of its super-block on the channel. -/
def groupBlocks (s : State) (ch die group : Nat) : List Nat :=
  (List.range 4).map fun p =>
    if group < 64 then blockAt ch die (4 * group + p) else blockAt ch die (memberBlock s (sbOfGroup die group) ch p)

/-- Every member block of a super-block (R235). -/
def sbBlocks (s : State) (B : Nat) (afterLoss : Bool) : List Nat :=
  (sbChannels s afterLoss).flatMap fun ch => (List.range 4).map fun p => blockAt ch (B % 8) (memberBlock s B ch p)

/-- A die is retired: it loses its bit, its contents are read through parity and relocated (R220, R251). -/
def retireDie (s : State) (ch die : Nat) : State :=
  let a := chanPage ch + Reg.CH_STAT
  let ok := getF s a Fld.CH_STAT_die_ok
  if !bitOf ok die then s
  else
    let s1 := setF (setF s a Fld.CH_STAT_die_ok (ok - 2 ^ die)) a Fld.CH_STAT_state 3
    let units := s1.ftl.map.filter fun e =>
      (e.2.state == 1 || e.2.state == 2) && addrChan e.2.addr == ch && addrDie e.2.addr == die
    queueRelocs (post (setDieOp s1 ch die none) (chanPage ch) 0x0703 0 0 0) units

/-- A block enters the grown-bad-block table and its units are relocated (R208, R220); a 513th entry retires the die. -/
def growBlock (s : State) (k : Nat) : State :=
  let ch := addrChan (k * 4096)
  let die := addrDie (k * 4096)
  if isGrown s k then s
  else if (aGetD (getChan s ch).grown die []).length ≥ 512 then retireDie s ch die
  else
    let s1 := updChan s ch fun c => { c with grown := aPut c.grown die (aGetD c.grown die [] ++ [k % 2 ^ 14]) }
    let s2 := post (bumpF s1 (chanPage ch + Reg.CH_BBT) Fld.CH_BBT_grown 1) (chanPage ch) 0x0702 0 0 0
    queueRelocs (updBlock s2 k fun b => { b with closed := true }) (unitsInBlock s2 k)

/-! Super-blocks (R235 to R239, R247) -/

/-- Give slots to buffered units that have none (R238). -/
def assignSlots (s : State) : State :=
  (s.ftl.buf.filter fun b => b.slot.isNone && !b.programmed).foldl (fun s b =>
    match takeSlot s 0 with
    | (s1, some k) => { s1 with ftl := { s1.ftl with buf := s1.ftl.buf.map fun x => if x.order = b.order then { x with slot := some k } else x } }
    | (_, none) => s) s

/-- Take the slots of units away, and give them others. -/
def reslot (s : State) (sel : BufUnit → Bool) : State :=
  assignSlots { s with ftl := { s.ftl with buf := s.ftl.buf.map fun b => if sel b ∧ !b.programmed then { b with slot := none } else b } }

/-- Buffered units whose slot lies in super-wordline w of a super-block. -/
def wordlineUnits (s : State) (B w : Nat) : List BufUnit :=
  s.ftl.buf.filter fun b => match b.slot with
    | some k => k / 2 ^ 20 == B && k % 2 ^ 20 / slotsPerWordline == w
    | none => false

/-- Those of them that a channel programs. -/
def channelUnits (s : State) (B w ch : Nat) : List BufUnit :=
  (wordlineUnits s B w).filter fun b => match bufAddr s b with | some a => addrChan a == ch | none => false

/-- Close a super-block: no further wordline of it is programmed; units that were to take one get other slots. -/
def closeSb (s : State) (B : Nat) : State :=
  let s1 := updSb s B fun x => { x with state := 2 }
  let s2 := { s1 with ftl := { s1.ftl with opened := s1.ftl.opened.filter fun e => e.2 != B } }
  reslot s2 fun b => match b.slot with | some k => k / 2 ^ 20 == B | none => false

/-- A channel has programmed its part of a super-wordline. Once every channel has, parity pages included, its units are
durable by (a) and the write pointer advances (R239). -/
def wordlineDone (s : State) (B ch : Nat) : State :=
  match getSb s B with
  | none => s
  | some sb =>
    let dn := insertNat ch sb.done
    let chs := sbChannels s sb.afterLoss
    if !(chs.all fun c => dn.contains c || !dieUp s c (B % 8)) then updSb s B fun x => { x with done := dn }
    else
      let s1 := (wordlineUnits s B sb.wordline).foldl (fun s b => if b.programmed then landUnit s b else s) s
      let s2 := updSb s1 B fun x => { x with done := [], wordline := sb.wordline + 1 }
      let worn := (sbBlocks s2 B sb.afterLoss).any fun k => (getBlock s2 k).closed
      settle (if sb.wordline + 1 ≥ 576 ∨ worn then closeSb s2 B else s2)

/-- The lowest spare block of a plane that is neither bad nor in use (R235). -/
def spareBlock (s : State) (ch die plane : Nat) : Option Nat :=
  ((List.range 128).map fun i => 256 + (3120 + i) * 4 + plane).find? fun b =>
    !isGrown s (blockAt ch die b) && !(s.ftl.members.any fun e => e.1 / 512 % 8 == die && e.1 % 512 == ch * 4 + plane && e.2 == b)

/-- Every erase that a super-block waits for has ended: its grown-bad members are replaced by spares, else it is retired
(R237); it is free, and the units that reclaim freed may be accepted (R247). -/
def freeErased (s : State) (B : Nat) (sb : SuperBlock) : State :=
  let bad := (sbChannels s sb.afterLoss).flatMap fun ch =>
    (List.range 4).filterMap fun p => if isGrown s (blockAt ch (B % 8) (memberBlock s B ch p)) then some (ch, p) else none
  let (s1, ok) := bad.foldl (fun (acc : State × Bool) x =>
    match spareBlock acc.1 x.1 (B % 8) x.2 with
    | some b => ({ acc.1 with ftl := { acc.1.ftl with members := aPut acc.1.ftl.members (B * 512 + x.1 * 4 + x.2) b } }, acc.2)
    | none => (acc.1, false)) (s, true)
  let s2 := { s1 with ftl := { s1.ftl with sbErases := aPut s1.ftl.sbErases B (aGetD s1.ftl.sbErases B 0 + 1) } }
  if ok then
    let s3 := { s2 with ftl := { s2.ftl with sbs := aDel s2.ftl.sbs B, credit := s2.ftl.credit + (slotsPerSb - sb.nextSlot) } }
    assignSlots (bumpF s3 Reg.FTL_SB Fld.FTL_SB_free 1)
  else
    let s3 := bumpF (updSb s2 B fun x => { x with state := 3 }) Reg.FTL_SB Fld.FTL_SB_retired 1
    if getF s3 Reg.FTL_SB Fld.FTL_SB_retired ≥ 1024 ∧ !writeProtected s3 then
      post (setF s3 Reg.FTL_STAT Fld.FTL_STAT_write_prot 1) pgFtl 0x0706 0 0 0
    else s3

def eraseLeft (s : State) (k : Nat) : Bool := let b := getBlock s k; (b.needErase || b.pendingFlag || !b.clear) && !isGrown s k

/-- Free the super-blocks whose erases have ended. -/
def sweepErased (s : State) : State :=
  (s.ftl.sbs.filter (·.2.state == 5)).foldl (fun s e =>
    if (sbBlocks s e.1 e.2.afterLoss).any (eraseLeft s) then s else freeErased s e.1 e.2) s

/-- Super-blocks that still hold units of the lost stand (R252). -/
def countRebuild (s : State) : State :=
  match lostStand s with
  | none => s
  | some l =>
    let sbs := ((s.ftl.map.filter fun e => (e.2.state == 1 || e.2.state == 2) && addrStand e.2.addr == l).map
      fun e => sbOfBlock s (blockKey e.2.addr)).dedup
    setF s Reg.FTL_REBUILD Fld.FTL_REBUILD_sb_left sbs.length

/-- Super-blocks being reclaimed that hold no valid unit any more are to be erased (R247). -/
def sweepReclaimed (s : State) : State :=
  (s.ftl.sbs.filter (·.2.state == 4)).foldl (fun s e =>
    if (unitsInSb s e.1).isEmpty then
      let s1 := updSb s e.1 fun x => { x with state := 5 }
      sweepErased ((sbBlocks s1 e.1 e.2.afterLoss).foldl (fun s k =>
        if isGrown s k then s else updBlock s k fun b => { b with needErase := true }) s1)
    else s) s

/-! Erases (R216, R248) -/

/-- The journal records of a stand's pages are on SLC pages of two stands (R243). -/
def journalDurable (j : JournalRec) : Bool := j.stands.length ≥ 2

/-- No record that supersedes an old page waits to become durable: the records of the units whose old pages lie in the
block (R243, R248). -/
def blockRecordsDurable (s : State) (k : Nat) : Bool :=
  let idxs := (s.ftl.pages.filter fun e => blockKey e.1 == k).map (·.2.idx)
  s.ftl.journal.all fun j => journalDurable j || !idxs.contains j.idx

/-- A block may be erased now: nobody reads it, its die is idle. -/
def mayErase (s : State) (k : Nat) : Bool :=
  let ch := addrChan (k * 4096)
  let die := addrDie (k * 4096)
  let b := getBlock s k
  b.needErase && !b.pendingFlag && !isGrown s k && dieUp s ch die && !(getChan s ch).brownOut && (dieOp s ch die).isNone
    && !(s.ftl.accesses.any fun e => blockKey e.2.addr == k) && blockRecordsDurable s k

/-- Start the erase of each block that waits for it on an idle die: first the flag log page with its set record, with
CH_ERASE_ACTIVE valid from the erase's request on (R216). -/
def kick (s : State) : State :=
  ((s.ftl.blocks.filter fun e => e.2.needErase).map (·.1)).foldl (fun s k =>
    if !mayErase s k then s
    else
      let ch := addrChan (k * 4096)
      let die := addrDie (k * 4096)
      let s1 := setReg s (chanPage ch + Reg.CH_ERASE_ACTIVE + 4 * die) (BitVec.ofNat 32 (2 ^ 31 + k % 2 ^ 14))
      setDieOp (updBlock s1 k fun b => { b with pendingFlag := true, clear := false, verified := false }) ch die (some (newOp s1 4 (k % 2 ^ 14) 0))) s

/-- What follows every change of flash: reclaimed super-blocks go on to their erase, erases start. -/
def flashSettle (s : State) : State := kick (sweepReclaimed (countRebuild (resumeDies s)))

end Sys2Proof.Machine
end

