-- ==== Sys2Proof/Machine/JobOps.lean ====
section
/-! DEFINITION. Jobs as the dispatcher and the units see them: the calendars and their next entries, the trace port,
where a buffer lies and how its bytes are read and written in a day (R124, R139 to R146, R166 to R168, R182). -/

namespace Sys2Proof.Machine

/-! Copses and glades -/

def Copse.blank : Copse :=
  { owner := none, borrower := none, lent := false, yielding := false, lendEn := false, borrowWin := 0, slotA := none,
    slotB := none, activeB := false, slotBorrower := none, memberCtx := none, rings := [], chkRow := [], chkCol := [],
    corner := [], sat := [], held := [], sets := [], ringOwner := [], pass := none, harv := none, replays := 0,
    spareFor := none, free := [], winSteps := 0, winMult := false, winLookup := false, winShort := false }

def getCopse (s : State) (k : Nat) : Copse := aGetD s.copses k Copse.blank

def updCopse (s : State) (k : Nat) (f : Copse → Copse) : State := { s with copses := aPut s.copses k (f (getCopse s k)) }

def Glade.blank : Glade :=
  { bankMap := [], retired := [], pendingRetire := [], retention := [], ctlExcluded := false, free := [] }

def getGlade (s : State) (i : Nat) : Glade := aGetD s.glades i Glade.blank

def updGlade (s : State) (i : Nat) (f : Glade → Glade) : State := { s with glades := aPut s.glades i (f (getGlade s i)) }

/-- The seed of a free-running lane: the start's draws of the TRNG (R81). Lanes of a copse and of a vector unit have
numbers of their own. -/
def laneSeed (s : State) (unit lane : Nat) : DWord := BitVec.ofNat 64 (Config.trng (s.seedEpoch + 2 ^ 64 + unit * 1024 + lane)).toNat

/-! Jobs and calendars -/

def getJob (s : State) (n : Nat) : Option Job := aGet? s.jobs n

def updJob (s : State) (n : Nat) (f : Job → Job) : State := { s with jobs := aUpd s.jobs n f }

def jobAlm (s : State) (j : Job) : Option Alm := aGet? s.alms j.handle

/-- The unit type of a calendar (R122): 0 copse, 1 glade mover, 2 vector unit, 3 ranger, 4 hub mover. -/
def CalDef.kind (c : CalDef) : Nat := c.unit / 4096
def CalDef.index (c : CalDef) : Nat := c.unit % 4096

def Job.copseOf (j : Job) (c : Nat) : Nat := j.copses.getD c 0
def Job.gladeOf (j : Job) (g : Nat) : Nat := j.glades.getD g 0
def Job.chanOf (j : Job) (r : Nat) : Nat := j.rangers.getD r 0

/-- The job sits in a copse as its borrower. -/
def borrowsAt (s : State) (n k : Nat) : Bool :=
  match (getCopse s k).borrower with | some b => b.job == n | none => false

/-- The engines of the module run: ready, not halted (R472, R512). -/
def engineOn (s : State) : Bool := ready s && !s.ras.halted

/-- A glade on a stand in service that control faults have not excluded (R504). -/
def gladeUp (s : State) (g : Nat) : Bool := standPresent s (g / 4) && !(getGlade s g).ctlExcluded

/-- Every physical unit of a job is in service; a job that waits to be re-bound does not step (R163, R504). -/
def unitsUp (s : State) (j : Job) : Bool :=
  j.glades.all (gladeUp s) && (j.copses.all fun k => gladeUp s (k / 4)) && j.rangers.all (chanUp s)

/-- The class of an entry (R128). -/
def entryClass (e : Nat) : Nat := fld e 127 124

/-- A calendar of a job as an issuing row sees it. -/
structure Issue where
  job : Job
  alm : Alm
  cal : CalDef
  run : CalRun
  entry : Nat
  deriving DecidableEq, Repr

/-- The next entry of a calendar, where the job runs and the entry has the class given. A calendar that is halted
answers only to the row of the entry it is halted at (R140). -/
def issueOf (s : State) (u : UnitRef) (cls : Nat) : Option Issue :=
  match getJob s u.job with
  | none => none
  | some j =>
    match jobAlm s j, j.cals[u.cal]? with
    | some a, some r =>
      match a.cals[u.cal]? with
      | none => none
      | some c =>
        match c.entries[r.pc]? with
        | none => none
        | some e =>
          if engineOn s ∧ j.isBound ∧ !j.finished ∧ entryClass e = cls ∧ r.halt ≠ .atDay ∧ unitsUp s j
          then some ⟨j, a, c, r, e⟩ else none
    | _, _ => none

def updCal (s : State) (u : UnitRef) (f : CalRun → CalRun) : State :=
  updJob s u.job fun j => { j with cals := match j.cals[u.cal]? with | some r => j.cals.set u.cal (f r) | none => j.cals }

/-- Go on to the next entry. -/
def stepCal (s : State) (u : UnitRef) : State :=
  updCal s u fun r => { r with pc := r.pc + 1, halt := .running, late := false }

/-- Go on to the next entry while this one's writes are in flight. -/
def launchCal (s : State) (u : UnitRef) : State :=
  updCal s u fun r => { r with pc := r.pc + 1, halt := .running, late := false, inFlight := r.inFlight ++ [r.pc] }

/-- The writes of an entry are complete. -/
def landCal (s : State) (u : UnitRef) (entry : Nat) : State :=
  updCal s u fun r => { r with inFlight := r.inFlight.filter (· != entry) }

/-! The trace port (R550) -/

/-- The unit field of a trace record, and the stand the unit is bound in. -/
def traceUnit (j : Job) (c : CalDef) : Nat × Option Nat :=
  let p := fun (st g cp ch : Nat) => c.kind * 2 ^ 20 + st * 2 ^ 15 + g * 2 ^ 13 + cp * 2 ^ 11 + ch * 2 ^ 7
  if c.kind = 0 then let k := j.copseOf c.index; (p (k / 16) (k / 4 % 4) (k % 4) 0, some (k / 16))
  else if c.kind = 1 ∨ c.kind = 2 then let g := j.gladeOf c.glade; (p (g / 4) (g % 4) 0 0, some (g / 4))
  else if c.kind = 3 then let r := j.chanOf c.index; (p (r / 16) 0 0 (r % 16), some (r / 16))
  else (p 0 0 0 0, none)

/-- Put a record into the trace buffer, after the record of those lost before it (R550). -/
def tracePush (s : State) (r : TraceRec) : State :=
  let t := s.trace
  if t.buf.length ≥ 4096 then
    bump { s with trace := { t with lostNow := t.lostNow + 1, count := t.count + 1 } } Reg.TRC_LOST 1
  else
    let loss : List TraceRec := if t.lostNow = 0 then []
      else [{ stamp := s.tb, unit := 0, entry := min t.lostNow 0xFFFFFF, cls := 0xF, kind := 0, partition := 0 }]
    { s with trace := { t with buf := t.buf ++ loss ++ [r], lostNow := 0, count := t.count + 1 + loss.length } }

/-- Trace an entry where the selection and the filter cover it: kind 0 begin, 1 end, 2 halt, 3 resume (R550, R551). -/
def traceEntry (s : State) (u : UnitRef) (idx kind : Nat) : State :=
  match getJob s u.job with
  | none => s
  | some j =>
    match jobAlm s j with
    | none => s
    | some a =>
      match a.cals[u.cal]? with
      | none => s
      | some c =>
        let cls := entryClass (c.entries.getD idx 0)
        let (unit, st) := traceUnit j c
        let on : Bool := match st with
          | some k => bitOf (getF s Reg.TRC_CFG Fld.TRC_CFG_stands) k
          | none => getF s Reg.TRC_CFG Fld.TRC_CFG_hub == 1
        let w := (regGet s Reg.TRC_FILT).toNat
        if on ∧ bitOf w cls ∧ (!bitOf w 31 ∨ bitsOf w 27 16 = j.partition) then
          tracePush s { stamp := s.tb, unit := unit, entry := idx, cls := cls, kind := kind, partition := j.partition }
        else s

/-- An entry that begins and ends in one row. -/
def traceWhole (s : State) (u : UnitRef) (idx : Nat) : State := traceEntry (traceEntry s u idx 0) u idx 1

/-! Buffers -/

def bufOf (a : Alm) (b : Nat) : Option BufDef := a.bufs[b]?

/-- A range cut at 64 KiB pages: offset, length. The fuel bounds the pages. -/
def cutPages : Nat → Nat → Nat → List (Nat × Nat)
  | 0, _, _ => []
  | fuel + 1, o, n =>
    if n = 0 then [] else
    let k := min n (65536 - o % 65536)
    (o, k) :: cutPages fuel (o + k) (n - k)

def pagesOfRange (o n : Nat) : List (Nat × Nat) := cutPages (n / 65536 + 2) o n

/-- The stack page that holds page pg of a tier-3 buffer: a commons object's, the day's working page, or the committed
one (R145, R182). -/
def bufPage (s : State) (j : Job) (b : BufDef) (pg : Nat) : Option Nat :=
  if b.owner = 4095 ∧ b.kind = 1 then aGet? s.commons.resident pg
  else match aGet? j.work pg with | some p => some p | none => j.pages[pg]?

/-- The key of a buffer's first byte in a tier that is contiguous (R166, R168, R223). -/
def bufBase (s : State) (n : Nat) (j : Job) (b : BufDef) : Nat :=
  if b.tier = 0 then
    let k := j.copseOf b.home
    locCopse k + (if borrowsAt s n k then 4194304 - (getCopse s k).borrowWin * 65536 else 0) + b.offset
  else if b.tier = 1 then locGlade (j.gladeOf b.home) + j.bases.getD b.home 0 + b.offset
  else if b.tier = 2 then locBank (j.gladeOf b.home) b.bank + b.offset
  else locRanger (j.chanOf b.home) + j.rbases.getD b.home 0 + b.offset

/-- Runs of memory that hold bytes o to o + len of a buffer of tier 0 to 3 or 6: place in the range, key, length. -/
def bufRuns (s : State) (n : Nat) (j : Job) (b : BufDef) (o len : Nat) : List (Nat × Nat × Nat) :=
  if b.tier = 3 then
    (pagesOfRange (b.offset + o) len).filterMap fun x =>
      (bufPage s j b (x.1 / 65536)).map fun p => (x.1 - b.offset - o, locPage p + x.1 % 65536, x.2)
  else [(0, bufBase s n j b + o, len)]

/-- Bytes of a namespace range as units hold them. -/
def nsSlice (s : State) (p off n : Nat) : Bytes :=
  (List.range (n / unitSize + 2)).flatMap fun i =>
    let u := off / unitSize + i
    let lo := max off (u * unitSize)
    let hi := min (off + n) ((u + 1) * unitSize)
    if hi ≤ lo then []
    else match unitIdx s p u with
      | none => []
      | some idx => match unitVal s idx with
        | none => []
        | some v => (bSlice v.bytes (lo - u * unitSize) (hi - lo)).map fun e => (e.1 + (lo - off), e.2)

/-- Lines of a namespace range that lie in poisoned units: their places in the range. -/
def nsPoison (s : State) (p off n : Nat) : List Nat :=
  (List.range (linesOf off n)).filterMap fun i =>
    match unitIdx s p ((off + 64 * i) / unitSize) with
    | some idx => if readUnit s idx == .poisoned then some (64 * i) else none
    | none => none

def extentOf (s : State) (b : BufDef) : Option Extent := aGet? (getPart s b.owner).extents b.handle

/-- A read of a namespace range within a job's day: its held writes prevail (R139). -/
def heldSlice (s : State) (j : Job) (p off n : Nat) : Bytes :=
  j.held.foldl (fun c h =>
    let lo := max off h.off
    let hi := min (off + n) (h.off + h.data.length)
    if h.partition = p ∧ lo < hi then bPaste c (lo - off) (hi - lo) (bOfList (sub h.data (lo - h.off) (hi - lo))) else c)
    (nsSlice s p off n)

def slotKey (b slot : Nat) : Nat := b * 2 ^ 24 + slot

/-- Bytes o to o + len of a buffer, by their place in the range. A tier-5 slot not written in the day reads zeros
(R355). -/
def bufSlice (s : State) (n : Nat) (j : Job) (bn : Nat) (b : BufDef) (o len : Nat) : Bytes :=
  if b.tier = 4 then
    match extentOf s b with
    | some x => heldSlice s j b.owner (x.offset + b.offset + o) len
    | none => []
  else if b.tier = 5 then
    (pagesOfRange o len).flatMap fun x =>
      match aGet? j.slots (slotKey bn (x.1 / 65536)) with
      | some h => if h.thisDay then (bSlice h.plain (x.1 % 65536) x.2).map fun e => (e.1 + (x.1 - o), e.2) else []
      | none => []
  else (bufRuns s n j b o len).flatMap fun r => (bSlice s.mem.bytes r.2.1 r.2.2).map fun e => (e.1 + r.1, e.2)

/-- The same as a list of bytes. -/
def bufRead (s : State) (n : Nat) (j : Job) (bn : Nat) (b : BufDef) (o len : Nat) : List Byte :=
  bRead (bufSlice s n j bn b o len) 0 len

/-- Poisoned lines of the resident copies of a namespace range (R188): their places in the range. -/
def copyPoison (s : State) (p off len : Nat) : List Nat :=
  if s.mem.poison.isEmpty then [] else
  (pagesOfRange off len).flatMap fun x =>
    match aGet? s.mem.resident (extentKey p (x.1 / 65536)) with
    | some c => if c.stale then [] else
        let a := locPage c.place + x.1 % 65536
        (s.mem.poison.filter fun l => l < a + x.2 && a < l + 64).map fun l => l - a + (x.1 - off)
    | none => []

/-- Poisoned lines in a range of a buffer: their places in the range. -/
def bufPoison (s : State) (n : Nat) (j : Job) (b : BufDef) (o len : Nat) : List Nat :=
  if b.tier = 4 then
    match extentOf s b with
    | some x => nsPoison s b.owner (x.offset + b.offset + o) len ++ copyPoison s b.owner (x.offset + b.offset + o) len
    | none => []
  else if b.tier = 5 ∨ s.mem.poison.isEmpty then []
  else (bufRuns s n j b o len).flatMap fun r =>
    (s.mem.poison.filter fun l => l < r.2.1 + r.2.2 && r.2.1 < l + 64).map fun l => l - r.2.1 + r.1

/-- Write n bytes given as a sparse content, with the places of its poisoned lines. -/
def memPaste (s : State) (a n : Nat) (c : Bytes) (bad : List Nat) : State :=
  let m1 := clearWhole s.mem a n
  let m2 := { m1 with bytes := bPaste m1.bytes a n c }
  let m3 := if m1.poison.isEmpty then m2
    else { m2 with bytes := m1.poison.foldl (fun b x => if x < a + n ∧ a < x + 64 then bZero b x 64 else b) m2.bytes }
  countWrite { s with mem := bad.foldl (fun m l => markPoison m (lineOf (a + l))) m3 } a n

/-- Give a job a working page for page pg of its tier-3 allocation, as a copy of the committed one (R145). -/
def workPage (s : State) (n pg : Nat) : State :=
  match getJob s n with
  | none => s
  | some j =>
    if aHas j.work pg then s
    else
      match j.pages[pg]? with
      | none => s
      | some old =>
        let st := old / 2 ^ 20
        match firstPage s (st :: (liveStacks s).filter (· != st)) with
        | none => s
        | some p =>
          let s1 := memCopy (takePage s j.partition p) (locPage old) (locPage p) 65536
          updJob s1 n fun j => { j with work := aPut j.work pg p }

/-- Why a write of a job is not made (R19, R185). -/
inductive WriteStop where
  | tag | address | readOnly
  deriving DecidableEq, Repr

/-- The checks on a write of a job into a buffer: the tag of the destination (R19), an extent's length (R185); an input
buffer is read-only (R124). -/
def writeStop (s : State) (j : Job) (b : BufDef) (o len : Nat) : Option WriteStop :=
  if b.owner ≠ j.partition then some .tag
  else if b.kind = 1 then some .readOnly
  else if b.tier = 4 then
    match extentOf s b with
    | some x => if b.offset + o + len ≤ x.length then none else some .address
    | none => some .address
  else none

/-- The checks that end a day; a write to an input buffer is only dropped. -/
def hardStop (s : State) (j : Job) (b : BufDef) (o len : Nat) : Option WriteStop :=
  match writeStop s j b o len with
  | some .readOnly => none
  | w => w

/-- Write len bytes of a buffer from a sparse content (R145): into working pages where the buffer is persistent or
output, held where it is a flash-backed extent. -/
def bufWrite (s : State) (n : Nat) (bn : Nat) (b : BufDef) (o len : Nat) (c : Bytes) (bad : List Nat) : State :=
  match getJob s n with
  | none => s
  | some j =>
    if (writeStop s j b o len).isSome then s
    else if b.tier = 4 then
      match extentOf s b with
      | none => s
      | some x => updJob s n fun j => { j with
          held := j.held ++ [{ partition := b.owner, off := x.offset + b.offset + o, data := bRead c 0 len,
                               bad := !bad.isEmpty }] }
    else if b.tier = 5 then
      (pagesOfRange o len).foldl (fun s x =>
        let part := bSlice c (x.1 - o) x.2
        updJob s n fun j => { j with
          slots := aPut j.slots (slotKey bn (x.1 / 65536)) { seq := j.nextSeq, thisDay := true, plain := part }
          nextSeq := j.nextSeq + 1 }) s
    else
      let s1 := if b.tier = 3 ∧ (b.kind = 2 ∨ b.kind = 3) then
          (pagesOfRange (b.offset + o) len).foldl (fun s x => workPage s n (x.1 / 65536)) s
        else s
      match getJob s1 n with
      | none => s1
      | some j1 => (bufRuns s1 n j1 b o len).foldl (fun s r =>
          memPaste s r.2.1 r.2.2 (bSlice c r.1 r.2.2) ((bad.filter fun l => r.1 ≤ l && l < r.1 + r.2.2).map (· - r.1))) s1

/-- Write a list of bytes. -/
def bufPut (s : State) (n : Nat) (bn : Nat) (b : BufDef) (o : Nat) (l : List Byte) : State :=
  bufWrite s n bn b o l.length (bOfList l) []

/-! Undefined contents (R146, R165) -/

/-- Make the content of a range undefined: each byte keeps what its partition wrote there or is zero. -/
def scramble (s : State) (a n : Nat) : State :=
  if s.mem.bytes.any fun e => a ≤ e.1 && e.1 < a + n then
    { s with mem := { s.mem with
               bytes := s.mem.bytes.filter fun e => !(a ≤ e.1 && e.1 < a + n) || Config.keepByte s.fresh e.1 }
             fresh := s.fresh + 1 }
  else s

/-- A buffer's content becomes undefined. -/
def scrambleBuf (s : State) (n : Nat) (j : Job) (b : BufDef) : State :=
  if b.tier = 4 ∨ b.tier = 5 then s else (bufRuns s n j b 0 b.size).foldl (fun s r => scramble s r.2.1 r.2.2) s

/-! Tagged buffers (R263, R264, R266) -/

/-- The row plan's item of a buffer, with its index. -/
def planItem (a : Alm) (bn : Nat) : Option (Nat × RowItem) :=
  match a.plan with
  | none => none
  | some p => (p.items.zipIdx.find? fun x => x.1.buf == bn).map fun x => (x.2, x.1)

def RowItem.esz (it : RowItem) : Nat := 2 ^ it.esize
/-- Bytes of a line and of a group. -/
def RowItem.line (it : RowItem) : Nat := 128 * it.esz
def RowItem.group (it : RowItem) : Nat := 512 + it.lines * it.line

/-- The column map of a group of a tagged buffer. -/
def groupMap (s : State) (n : Nat) (j : Job) (bn : Nat) (b : BufDef) (it : RowItem) (g : Nat) : List Nat :=
  let raw := bufRead s n j bn b (g * it.group) 512
  (List.range 128).map fun c => leAt raw (4 * c) 4

def mapBytes (m : List Nat) : List Byte := m.flatMap (toLe 4)

def mapValid (w : Nat) : Bool := bitOf w 31
def mapRow (w : Nat) : Nat := w % 2 ^ 20

/-- The slots of a gang almanac and the rows of each (R340). -/
def gangSlots (p : RowPlan) : Nat :=
  match p.items.find? fun it => it.role == 3 with | some it => it.groups | none => 0
def rowsPerSlot (p : RowPlan) : Nat := if gangSlots p = 0 then 0 else p.maxRows / gangSlots p

/-- The slot that a valid map entry names (R341). -/
def slotOfEntry (p : RowPlan) (w : Nat) : Nat :=
  if mapRow w ≥ 0xFFF00 then mapRow w - 0xFFF00 else if rowsPerSlot p = 0 then 0 else mapRow w / rowsPerSlot p

def slotWord (g : Nat) : Nat := 0x800FFF00 + g

end Sys2Proof.Machine
end

