-- ==== Sys2Proof/Machine/BindOps.lean ====
section
/-! DEFINITION. The dispatcher: which physical units may take a job's logical units and in what order (R158 to R161,
R108), the charges of a job (R157, R196), what a binding sets up and what an end releases. -/

namespace Sys2Proof.Machine

/-! What an almanac needs -/

/-- Bytes that the buffers of a tier and home reach to. -/
def tierNeed (a : Alm) (tier home : Nat) : Nat :=
  (a.bufs.filter fun b => b.tier == tier && b.home == home).foldl (fun m b => max m (b.offset + b.size)) 0

/-- Bytes of a job's allocation of stacked memory (R124, R182). -/
def stackNeed (a : Alm) : Nat :=
  (a.bufs.filter fun b => b.tier == 3 && !(b.owner == 4095 && b.kind == 1 && a.owner != 4095)).foldl
    (fun m b => max m (b.offset + b.size)) 0

/-- The logical copses of a logical glade, in rising index. -/
def copsesOf (a : Alm) (g : Nat) : List Nat :=
  ((a.cals.filter fun c => c.kind == 0 && c.glade == g).map (·.index)).foldr insertNat []

/-- Table handles that a calendar's GATHER and SCATTER entries name (R131); permutation handles apart. -/
def calTables (c : CalDef) : List (Nat × Bool) :=
  c.entries.filterMap fun e =>
    let h := fld e 123 108
    if (entryClass e = 5 ∨ entryClass e = 6) ∧ 1 ≤ h ∧ h ≤ 255 then some (h, entryClass e == 6) else none

/-- Tables of a logical glade (R323). -/
def gladeTables (a : Alm) (g : Nat) : List Nat :=
  ((a.cals.filter fun c => c.kind == 1 && c.glade == g).flatMap fun c => (calTables c).map (·.1)).dedup

def almTables (a : Alm) : List Nat := (a.cals.flatMap fun c => (calTables c).map (·.1)).dedup
def almScatters (a : Alm) (h : Nat) : Bool := a.cals.any fun c => (calTables c).contains (h, true)

/-- Bytes of the hot regions of a logical glade (R323). -/
def hotNeed (s : State) (a : Alm) (g : Nat) : Nat :=
  ((gladeTables a g).map fun h => match aGet? s.tables (tabKey a.owner h) with | some t => t.hotKib * 1024 | none => 0).sum

/-- Logical glades that a ranger calendar writes (R158). -/
def rangerGlades (a : Alm) (c : CalDef) : List Nat :=
  (c.entries.filterMap fun e =>
    if entryClass e = 4 then
      match a.bufs[fld e 73 62]? with
      | some b => if b.tier = 1 then some b.home else none
      | none => none
    else none).dedup

/-- Join a group with those it shares a logical glade with (R158). -/
def joinGroup (gs : List (List Nat)) (x : List Nat) : List (List Nat) :=
  let hit := gs.filter fun g => g.any x.contains
  ((x ++ hit.flatten).dedup.foldr insertNat []) :: gs.filter fun g => !g.any x.contains

def rangerGroups (a : Alm) : List (List Nat) :=
  (a.cals.filter (·.kind == 3)).foldl (fun gs c => let x := rangerGlades a c; if x.isEmpty then gs else joinGroup gs x) []

/-! Eligibility -/

def copseSuspect (s : State) (k : Nat) : Bool := getF s (copsePage1 k + Reg.COPSE_HEALTH) Fld.COPSE_HEALTH_suspect == 1

/-- A copse whose scratch bank was retired, or whose glade is excluded (R174, R504). -/
def gladeExcluded (s : State) (i : Nat) : Bool :=
  getF s (gladePage i + Reg.GLADE_REPAIR) Fld.GLADE_REPAIR_excluded == 1 || (getGlade s i).ctlExcluded

def copseExcluded (s : State) (k : Nat) : Bool := (getGlade s (k / 4)).retired.contains (128 + k % 4) || gladeExcluded s (k / 4)

/-- A copse that may be bound at all (R109, R158). -/
def copseOk (s : State) (k : Nat) : Bool := standPresent s (k / 16) && !copseSuspect s k && !copseExcluded s k

/-- The copse is in the dispatcher's reserve mask (R159, R539). -/
def reserved (s : State) (k : Nat) : Bool := bitOf (regGet s (Reg.DSP_RESERVE + 4 * (k / 32))).toNat (k % 32)

/-- The owner of a copse is halted at a TAKE or WAIT outside a dwell set (R112, R153). -/
def ownerHalted (s : State) (k : Nat) : Bool :=
  match (getCopse s k).owner with
  | none => true
  | some b =>
    (getCopse s k).memberCtx.isNone &&
    match getJob s b.job with
    | none => true
    | some j => match j.cals[b.cal]? with
      | some r => (match r.halt with | .atTake => true | .atWait _ => true | _ => false)
      | none => true

/-- Scratch that the owner's buffers use in a copse. -/
def ownerScratch (s : State) (k : Nat) : Nat :=
  match (getCopse s k).owner with
  | none => 0
  | some b => match getJob s b.job with
    | none => 0
    | some j => match jobAlm s j with
      | none => 0
      | some a => match a.cals[b.cal]? with | some c => tierNeed a 0 c.index | none => 0

/-- Borrower window units that n bytes of scratch take (R111). -/
def winUnits (n : Nat) : Nat := (n + 65535) / 65536

/-- A logical copse with so much scratch may enter a copse as a borrower (R159, R160); alone: as if no other job were
bound. -/
def mayBorrow (s : State) (a : Alm) (c k : Nat) (alone : Bool) : Bool :=
  let need := tierNeed a 0 c
  copseOk s k && reserved s k && a.ringMask &&& 0x3F == 0 && decide (need ≤ 2097152) &&
    (alone || ((getCopse s k).borrower.isNone && ownerHalted s k &&
      ((getCopse s k).owner.isNone || (getCopse s k).lendEn) && decide (ownerScratch s k + winUnits need * 65536 ≤ 4194304)))

/-- A copse may take a logical copse of a latency-critical job, or of a best-effort job, as its owner (R159). A
borrower that is there already must fit beside the new owner (R160). -/
def mayOwn (s : State) (a : Alm) (cls c k : Nat) (alone : Bool) : Bool :=
  let x := getCopse s k
  copseOk s k && (cls == 0 || !reserved s k) &&
    (alone || (x.owner.isNone && x.spareFor.isNone &&
      (x.borrower.isNone || (cls == 0 && a.ringMask &&& 0xC0 == 0
        && decide (tierNeed a 0 c + x.borrowWin * 65536 ≤ 4194304)))))

/-- A latency-critical job waits in the queue and could use the copse (R159). -/
def lcWaits (s : State) (k : Nat) : Bool :=
  s.jobs.any fun e => e.2.cls == 0 && !e.2.isBound && !e.2.finished &&
    match jobAlm s e.2 with | some a => decide (a.nCopse > 0) && mayOwn s a 0 0 k false | none => false

/-- The copses of a glade that a logical copse may take, in the order of R159, with whether it enters as a borrower. -/
def copseChoices (s : State) (a : Alm) (cls c i : Nat) (alone : Bool) : List (Nat × Bool) :=
  let ks := (List.range 4).map (4 * i + ·)
  let own := ks.filter fun k => mayOwn s a cls c k alone && (cls == 0 || alone || !lcWaits s k)
  if cls = 0 then
    ((own.filter (reserved s)) ++ (own.filter fun k => !reserved s k)).map fun k => (k, false)
  else own.map (fun k => (k, false)) ++ (ks.filter fun k => mayBorrow s a c k alone && (alone || (getCopse s k).owner.isSome || !lcWaits s k)).map fun k => (k, true)

/-- A glade takes bindings: present, not excluded, no change of its window and no retirement waiting (R170, R174). -/
def gladeOk (s : State) (i : Nat) : Bool :=
  standPresent s (i / 4) && !gladeExcluded s i && (getGlade s i).pendingRetire.isEmpty &&
    getF s (gladePage i + Reg.GLADE_SCR_CFG) Fld.GLADE_SCR_CFG_mig_win == getF s (gladePage i + Reg.GLADE_SCR_CFG) Fld.GLADE_SCR_CFG_mig_win_req

/-- Bytes of a glade's tier-1 region for almanacs (R169). -/
def tier1Size (s : State) (i : Nat) : Nat :=
  31457280 - getF s (gladePage i + Reg.GLADE_SCR_CFG) Fld.GLADE_SCR_CFG_mig_win * 524288

/-- Logical glades bound in a physical glade: job, logical glade. -/
def gladeUsers (s : State) (i : Nat) : List (Nat × Nat) :=
  s.jobs.flatMap fun e => if e.2.isBound then
    (e.2.glades.zipIdx.filter fun x => x.1 == i).map fun x => (e.1, x.2) else []

/-- The glade holds a binding (R170, R174). -/
def gladeBusy (s : State) (i : Nat) : Bool := !(gladeUsers s i).isEmpty

/-- The lowest base at which n bytes fit between used ranges given in rising order. -/
def lowestBase (n size : Nat) : List (Nat × Nat) → Nat → Option Nat
  | [], a => if a + n ≤ size then some a else none
  | (b, k) :: r, a => if a + n ≤ b then some a else lowestBase n size r (max a (b + k))

/-- The tier-1 base that a logical glade would take in a glade. -/
def tier1Base (s : State) (a : Alm) (g i : Nat) (alone : Bool) : Option Nat :=
  let used := if alone then [] else (gladeUsers s i).filterMap fun x =>
    match getJob s x.1 with
    | none => none
    | some j => (jobAlm s j).map fun b => (j.bases.getD x.2 0, tierNeed b 1 x.2 + hotNeed s b x.2)
  lowestBase (tierNeed a 1 g + hotNeed s a g) (tier1Size s i) (used.foldr insertRange []) 0

/-- Exchange banks that a logical glade's buffers name. -/
def gladeBanks (a : Alm) (g : Nat) : List Nat := ((a.bufs.filter fun b => b.tier == 2 && b.home == g).map (·.bank)).dedup

/-- The exchange banks that a logical glade needs are free in a glade. -/
def banksFree (s : State) (a : Alm) (g i : Nat) (alone : Bool) : Bool :=
  alone || (gladeUsers s i).all fun x => match getJob s x.1 with
    | none => true
    | some j => match jobAlm s j with
      | none => true
      | some b => (gladeBanks b x.2).all fun k => !(gladeBanks a g).contains k

/-! The plan of a binding (R158) -/

structure Plan where
  copses : AMap (Nat × Bool)
  glades : AMap (Nat × Nat)
  deriving DecidableEq, Repr

/-- Take copses for the logical copses of a glade in turn. -/
def takeCopses (s : State) (a : Alm) (cls i : Nat) (alone : Bool) : List Nat → Plan → Option Plan
  | [], p => some p
  | c :: r, p =>
    match (copseChoices s a cls c i alone).find? fun k => p.copses.all fun e => e.2.1 != k.1 with
    | none => none
    | some k => takeCopses s a cls i alone r { p with copses := aPut p.copses c k }

/-- Bind a logical glade to a physical one, where it can be. -/
def tryGlade (s : State) (a : Alm) (cls g : Nat) (alone : Bool) (p : Plan) (i : Nat) : Option Plan :=
  if p.glades.any (fun e => e.2.1 == i) || !gladeOk s i || !banksFree s a g i alone then none
  else
    match tier1Base s a g i alone with
    | none => none
    | some base => takeCopses s a cls i alone (copsesOf a g) { p with glades := aPut p.glades g (i, base) }

/-- Bind a logical glade to the first of the given glades that can take it. -/
def placeGlade (s : State) (a : Alm) (cls g : Nat) (alone : Bool) (p : Plan) : List Nat → Option Plan
  | [] => none
  | i :: r => match tryGlade s a cls g alone p i with
    | some q => some q
    | none => placeGlade s a cls g alone p r

/-- Bind a whole group on one stand, in rising logical index. -/
def placeGroup (s : State) (a : Alm) (cls : Nat) (alone : Bool) (st : Nat) : List Nat → Plan → Option Plan
  | [], p => some p
  | g :: r, p => match placeGlade s a cls g alone p ((List.range 4).map (4 * st + ·)) with
    | some q => placeGroup s a cls alone st r q
    | none => none

/-- The first stand that takes a whole group. -/
def firstStand (s : State) (a : Alm) (cls : Nat) (alone : Bool) (grp : List Nat) (p : Plan) : List Nat → Option Plan
  | [] => none
  | st :: r => match placeGroup s a cls alone st grp p with
    | some q => some q
    | none => firstStand s a cls alone grp p r

/-- Bind logical glades in rising index, those of keep being bound already. -/
def planGlades (s : State) (a : Alm) (cls : Nat) (alone : Bool) : List Nat → Plan → Option Plan
  | [], p => some p
  | g :: r, p =>
    if aHas p.glades g then planGlades s a cls alone r p
    else
      let q := match (rangerGroups a).find? (·.contains g) with
        | some grp => firstStand s a cls alone (grp.filter fun x => !aHas p.glades x) p (List.range 8)
        | none => placeGlade s a cls g alone p (List.range 32)
      match q with
      | some q => planGlades s a cls alone r q
      | none => none

/-- The binding of an almanac's logical glades and copses in a class, where the module can make it (R158, R161). -/
def planJob (s : State) (a : Alm) (cls : Nat) (alone : Bool) : Option Plan :=
  planGlades s a cls alone (List.range a.nGlade) ⟨[], []⟩

/-- The module could bind the almanac if no other job were bound (R161). -/
def couldBind (s : State) (a : Alm) (cls : Nat) : Bool := (planJob s a cls true).isSome

/-! Rangers (R158, R222, R223) -/

/-- The partition's work is bound to a ranger. -/
def keyNeeded (s : State) (ch part : Nat) : Bool :=
  s.jobs.any fun e => e.2.isBound && e.2.partition == part && e.2.rangers.contains ch

/-- Load a partition's keys into a ranger (R222): an unused slot, else the least recently used one that no work needs;
none where work must wait. -/
def loadKeys (s : State) (ch part : Nat) : Option State :=
  let c := getChan s ch
  let q := getPart s part
  let k : KeySlot := { partition := part, hasData := q.dataKey.isSome, hasIndex := q.hasIndexKey, lastUse := s.tb, inUse := true }
  let put := fun (l : List KeySlot) =>
    bumpF (updChan s ch fun x => { x with keys := l }) (rangerPage ch + Reg.RANGER_KEYS) Fld.RANGER_KEYS_loads 1
  match c.keys.findIdx? fun x => x.partition == part with
  | some i => some (updChan s ch fun x => { x with keys := x.keys.set i k })
  | none =>
    match c.keys.findIdx? fun x => !x.inUse with
    | some i => some (put (c.keys.set i k))
    | none =>
      if c.keys.length < 16 then some (put (c.keys ++ [k]))
      else
        let idle := c.keys.filter fun x => !keyNeeded s ch x.partition
        match idle.foldl (fun m x => match m with | none => some x | some (y : KeySlot) => if x.lastUse < y.lastUse then some x else some y) none with
        | none => none
        | some v => match c.keys.findIdx? (· == v) with
          | some i => some (put (c.keys.set i k))
          | none => none

/-- Erase a partition's keys from every ranger (R433, R420). -/
def dropKeys (s : State) (part : Nat) : State :=
  { s with chans := s.chans.map fun e => (e.1, { e.2 with keys := e.2.keys.map fun k =>
      if k.partition = part then { partition := 0, hasData := false, hasIndex := false, lastUse := 0, inUse := false } else k }) }

/-- Calendars bound to a ranger. -/
def rangerLoad (s : State) (ch : Nat) : Nat :=
  (s.jobs.map fun e => if e.2.isBound then (e.2.rangers.filter (· == ch)).length else 0).sum

/-- Bytes of a ranger's buffer that a logical ranger of an almanac takes. -/
def rangerNeed (a : Alm) (r : Nat) : Nat := (tierNeed a 6 r + 65535) / 65536 * 65536

/-- The tier-6 base that n bytes would take in a ranger (R223); placed are the channels, bases and sizes that this
binding has placed already. -/
def tier6Base (s : State) (n ch : Nat) (placed : List (Nat × Nat × Nat)) : Option Nat :=
  let used := s.jobs.flatMap fun e => if !e.2.isBound then [] else
    (e.2.rangers.zipIdx.filter fun x => x.1 == ch).filterMap fun x =>
      (jobAlm s e.2).map fun a => (e.2.rbases.getD x.2 0, rangerNeed a x.2)
  let mine := (placed.filter fun x => x.1 == ch).map (·.2)
  lowestBase ((n + 65535) / 65536 * 65536) 524288 ((used ++ mine).foldr insertRange []) 0

/-- Stands in service. -/
def presentStands (s : State) : List Nat := (List.range 8).filter (standPresent s)

/-- The stand of a logical ranger (R158). -/
def rangerStand (s : State) (a : Alm) (glades : List Nat) (c : CalDef) : Nat :=
  match rangerGlades a c with
  | g :: _ => glades.getD g 0 / 4
  | [] => match glades with | i :: _ => i / 4 | [] => (presentStands s).headD 0

/-- The ranger of a stand with the fewest calendars bound and room for the buffers, the lower channel on a tie. -/
def pickRanger (s : State) (st need : Nat) (placed : List (Nat × Nat × Nat)) : Option (Nat × Nat) :=
  let cands := (((List.range 16).map (16 * st + ·)).filter (chanUp s)).filterMap fun ch => (tier6Base s need ch placed).map fun b => (ch, b)
  let load := fun ch => rangerLoad s ch + (placed.filter (·.1 == ch)).length
  cands.foldl (fun m x => match m with | none => some x | some y => if load x.1 < load y.1 then some x else some y) none

/-- Bind the logical rangers in rising index, those of keep staying where they are: the physical channels and the
bases. -/
def planRangers (s : State) (a : Alm) (glades : List Nat) (keep : AMap (Nat × Nat)) :
    List Nat → List Nat → List Nat → Option (List Nat × List Nat)
  | [], cs, bs => some (cs, bs)
  | r :: rest, cs, bs =>
    match aGet? keep r with
    | some x => planRangers s a glades keep rest (cs ++ [x.1]) (bs ++ [x.2])
    | none =>
      match a.cals.find? fun c => c.kind == 3 && c.index == r with
      | none => none
      | some c =>
        let placed := ((cs.zip bs).zipIdx.filter fun x => !aHas keep x.2).map fun x => (x.1.1, x.1.2, rangerNeed a x.2)
        match pickRanger s (rangerStand s a glades c) (tierNeed a 6 r) placed with
        | none => none
        | some (ch, b) => planRangers s a glades keep rest (cs ++ [ch]) (bs ++ [b])

/-! Charges (R157, R196, R323, R354, R271) -/

def roundPage (n : Nat) : Nat := pagesFor n * 65536

/-- Bytes of the pages that record the sequence numbers of tier-5 slots (R354). -/
def slotRecords (a : Alm) : Nat :=
  let n := ((a.bufs.filter (·.tier == 5)).map fun b => b.size / 65536).sum
  roundPage (8 * n)

/-- What a dispatch charges, by tier. -/
def jobCharges (s : State) (a : Alm) : List (Nat × Nat) :=
  let res := fun i => listAt a.res i
  let hot := ((List.range a.nGlade).map (hotNeed s a)).sum
  let tags := match a.plan with | some p => roundPage (16 * p.maxRows) | none => 0
  [(0, res 0), (1, res 1 + hot), (2, res 2), (3, roundPage (res 3) + slotRecords a + tags), (5, res 5), (6, res 6)]

def chargesFit (s : State) (p : Nat) (l : List (Nat × Nat)) : Bool := l.all fun x => fits s p x.1 x.2
def chargeAll (s : State) (p : Nat) (l : List (Nat × Nat)) : State := l.foldl (fun s x => if x.2 = 0 then s else charge s p x.1 x.2) s
def creditAll (s : State) (p : Nat) (l : List (Nat × Nat)) : State := l.foldl (fun s x => credit s p x.1 x.2) s

/-! A job's allocation of stacked memory (R182) -/

/-- The stands a job is bound to, in rising index. -/
def jobStands (s : State) (j : Job) : List Nat :=
  let l := ((j.glades.map (· / 4)) ++ (j.rangers.map (· / 16))).foldr insertNat []
  if l.isEmpty then [(presentStands s).headD 0] else l

/-- Take pages n, n + 1, … of the allocation: page n on stand L[n mod S], stack floor(n ÷ S) mod 3 (R182), or on
another stack where that one is full. -/
def takeJobPages (part : Nat) (L : List Nat) : Nat → Nat → State → Option (State × List Nat)
  | 0, _, s => some (s, [])
  | k + 1, n, s =>
    let st := 3 * L.getD (n % L.length) 0 + n / L.length % 3
    match firstPage s (st :: (liveStacks s).filter (· != st)) with
    | none => none
    | some p =>
      match takeJobPages part L k (n + 1) (takePage s part p) with
      | none => none
      | some (s1, l) => some (s1, p :: l)

/-! On-chip regions of a job -/

/-- The regions that a binding allocates (R165): keys and lengths. -/
def jobRegions (s : State) (n : Nat) (j : Job) (a : Alm) : List (Nat × Nat) :=
  let b0 : BufDef := { tier := 0, kind := 0, home := 0, owner := 0, bank := 0, offset := 0, size := 0, handle := 0 }
  ((List.range a.nCopse).map fun c => (bufBase s n j { b0 with home := c }, tierNeed a 0 c))
    ++ ((List.range a.nGlade).map fun g => (bufBase s n j { b0 with tier := 1, home := g }, tierNeed a 1 g + hotNeed s a g))
    ++ ((List.range a.nGlade).flatMap fun g => (gladeBanks a g).map fun k => (locBank (j.gladeOf g) k, 524288))
    ++ ((List.range a.nRanger).map fun r => (bufBase s n j { b0 with tier := 6, home := r }, (tierNeed a 6 r + 65535) / 65536 * 65536))

/-- Free on-chip regions; those of a tagged job are marked, so that they are zeroed before anything else takes them
(R258). -/
def freeJobRegions (s : State) (tagged : Bool) (l : List (Nat × Nat)) : State :=
  l.foldl (fun s x =>
    let s1 := freeRegion s x.1 x.2
    if tagged then { s1 with mem := { s1.mem with regions := s1.mem.regions.map fun r =>
      if x.1 ≤ r.start ∧ r.start + r.len ≤ x.1 + x.2 then { r with released := true } else r } } else s1) s

/-- Free stack pages of a job; those of a tagged job are zeroed (R258). -/
def freeJobPages (s : State) (tagged : Bool) (l : List Nat) : State :=
  freePages (if tagged then l.foldl (fun s p => memZero s (locPage p) 65536) s else s) l

/-- Leave a copse: its binding, its contexts, its pass and its harvest of the job end. -/
def leaveCopse (s : State) (n k : Nat) : State :=
  updCopse s k fun c =>
    let own := match c.owner with | some b => b.job == n | none => false
    let bor := match c.borrower with | some b => b.job == n | none => false
    let c1 := if own then { c with owner := none, slotA := none, slotB := none, memberCtx := none, lendEn := false } else c
    let c2 := if bor then { c1 with borrower := none, slotBorrower := none, lent := false, yielding := false, borrowWin := 0,
                                    memberCtx := if own then none else c1.memberCtx } else c1
    { c2 with pass := match c2.pass with | some p => if p.job = n then none else some p | none => none
              harv := match c2.harv with | some h => if h.job = n then none else some h | none => none
              spareFor := if c2.spareFor = some n then none else c2.spareFor }

end Sys2Proof.Machine
end

