-- ==== Sys2Proof/Machine/JobEnd.lean ====
section
/-! DEFINITION. The dawn of a day, the start of a binding, the end of a job and of what hangs on it, the restart of a
day, the withdrawal of rows (R145 to R150, R163, R258, R271, R272, R321, R328, R342, R345, R369). -/

namespace Sys2Proof.Machine

/-! Dawn: routes, sections, weight copies -/

/-- The row-tag entry of a batch row is valid. -/
def rowValid (j : Job) (r : Nat) : Bool := match aGet? j.rows r with | some t => t.valid | none => false

/-- The bytes at an offset of a row's base (R271): those of its row set. -/
def rowBytes (s : State) (t : RowTag) (off n : Nat) : List Byte :=
  match aGet? s.rowsets (tabKey t.partition t.source) with
  | some r => pagesRead s.mem r.pages (t.base + off) n
  | none => zeros n

/-- An FP16 whole number 0 to 255 (R271). -/
def fp16OfByte (b : Byte) : Nat := (fmtFP16.round .rne 0 false b.toNat 0).1

/-- Element l of an input route's column for a batch row. -/
def routeElem (s : State) (p : RowPlan) (j : Job) (it : RowItem) (r l : Nat) : List Byte :=
  if p.kind = 1 then
    match aGet? j.rows r with
    | some t => if t.valid then rowBytes s t (it.routeOff + l * it.esz) it.esz else zeros it.esz
    | none => zeros it.esz
  else
    match aGet? j.rows r with
    | some t => if t.valid ∧ l < t.bytes.length then toLe 2 (fp16OfByte (t.bytes.getD l 0)) else toLe 2 0xBC00
    | none => toLe 2 0xBC00

/-- The whole content of an input route (R271): the identity maps and the lines. -/
def routeContent (s : State) (p : RowPlan) (j : Job) (it : RowItem) : List Byte :=
  (List.range (p.maxRows / 128)).flatMap fun g =>
    mapBytes ((List.range 128).map fun c => (if rowValid j (128 * g + c) then 2 ^ 31 else 0) + 128 * g + c)
      ++ (List.range it.lines).flatMap fun l => (List.range 128).flatMap fun c => routeElem s p j it (128 * g + c) l

/-- Fill every input route of a tagged job (R271). -/
def fillRoutes (s : State) (n : Nat) : State :=
  match getJob s n with
  | none => s
  | some j =>
    match jobAlm s j with
    | none => s
    | some a =>
      match a.plan with
      | none => s
      | some p => p.items.foldl (fun s it =>
          if it.role = 1 then
            match a.bufs[it.buf]? with | some b => bufPut s n it.buf b 0 (routeContent s p j it) | none => s
          else s) s

/-- Write the maps of every section and zero its lines (R342). -/
def clearSections (s : State) (n : Nat) : State :=
  match getJob s n with
  | none => s
  | some j =>
    match jobAlm s j with
    | none => s
    | some a =>
      match a.plan with
      | none => s
      | some p => p.items.foldl (fun s it =>
          if it.role = 3 then
            match a.bufs[it.buf]? with
            | some b => (List.range it.groups).foldl (fun s g =>
                bufWrite s n it.buf b (g * it.group) it.group (bOfList (mapBytes (List.replicate 128 (slotWord g)))) []) s
            | none => s
          else s) s

def expKey (item slot : Nat) : Nat := item * 256 + slot

/-- The exponent of a bound quantity of a member slot (R348). -/
def bindExp (m : Mem) (a : Adapter) (b : Binding) : Int :=
  let q := if b.cls = 0 then (if b.what % 2 = 0 then 0 else 1) else 2 + b.what
  let h := if b.cls = 0 then maxMag (recMax m a b.site q) (masterMax m a b.site q) else recMax m a b.site q
  let lim := if b.cls = 1 ∧ b.what ≥ 2 then 1 else if b.word = 0 then 127 else 32767
  chooseExp h (descMargin a.desc) lim (if b.cls = 1 then b.eInit else 0)

/-- Fill one member's weight copy of one item, with its exponent (R345). -/
def fillCopy (s : State) (n i slot : Nat) (it : RowItem) (b : Binding) (ad : Adapter) (a : Alm) : State :=
  let E := bindExp s.mem ad b
  let s1 := updJob s n fun j => { j with exps := aPut j.exps (expKey i slot) E }
  if b.cls ≠ 0 then s1
  else
    match a.bufs[it.buf]? with
    | none => s1
    | some bd =>
      let A := imgMat s.mem ad b.site 0
      let B := (imgMat s.mem ad b.site 1).map (fpMul .rne 0 (siteScale ad.desc ad.sites b.site))
      let (l, cl) := copyBytes ad A B b.site b.what it.lines b.word E
      bump (bufPut s1 n it.buf bd (slot * it.group + 512) l) Reg.ADPT_CLAMP cl

/-- The items of role 3 of a row plan with their places among the items. -/
def sectionItems (p : RowPlan) : List (RowItem × Nat) := p.items.zipIdx.filter fun x => x.1.role == 3

/-- Fill the weight copies of every active member slot at a dawn (R345). -/
def fillCopies (s : State) (n : Nat) : State :=
  match getJob s n with
  | none => s
  | some j =>
    match jobAlm s j, j.gang.bind (aGet? s.gangs ·) with
    | some a, some g =>
      match a.plan with
      | none => s
      | some p => ((sectionItems p).zip g.binds).foldl (fun s x =>
          (g.members.zipIdx).foldl (fun s m =>
            if !m.1.active then s
            else match aGet? s.adapters m.1.adapter with
              | some ad => if x.2.cls ≤ 1 then fillCopy s n x.1.2 m.2 x.1.1 x.2 ad a else s
              | none => s) s) s
    | _, _ => s

/-! Hot rows at a dawn (R324, R325, R328) -/

/-- The pages that a job's GATHER and SCATTER on a table read: the building version where it scatters, else the pinned
epoch; the day's working pages prevail. Working pages of tables are keyed (handle + 1) × 2^32 + page. -/
def tablePageOf (s : State) (j : Job) (pin : TablePin) (pg : Nat) : Option Nat :=
  match aGet? j.work ((pin.table + 1) * 2 ^ 32 + pg) with
  | some p => some p
  | none =>
    match aGet? s.tables (tabKey j.partition pin.table) with
    | none => none
    | some t =>
      let pages := if pin.scatters then (match t.building with | some b => b.pages | none => [])
        else (aGetD t.versions pin.epoch ⟨[], []⟩).pages
      pages[pg]?

/-- The home copy of a row as a job reads it. -/
def homeRow (s : State) (j : Job) (pin : TablePin) (t : Table) (r : Nat) : List Byte :=
  (List.range t.stride).map fun i =>
    let o := r * t.stride + i
    match tablePageOf s j pin (o / 65536) with
    | some p => bGet s.mem.bytes (locPage p + o % 65536)
    | none => 0

/-- The rows of a target that are not resident begin to migrate in (R324). -/
def migrateIn (s : State) (j : Job) (pin : TablePin) (t : Table) : TablePin :=
  { pin with hot := (pin.target.foldr insertNat []).foldl (fun h r =>
      if aHas h r then h else aPut h r { state := 0, dirty := false, copy := homeRow s j pin t r, log := [] }) pin.hot }

/-- Empty the hot regions of a job and start them again from the committed rows (R328). -/
def restartHot (s : State) (n : Nat) : State :=
  match getJob s n with
  | none => s
  | some j =>
    let pins := j.tables.map fun pin =>
      match aGet? s.tables (tabKey j.partition pin.table) with
      | some t => migrateIn s j { pin with hot := [] } t
      | none => pin
    updJob s n fun x => { x with tables := pins }

/-! A binding starts (R157 step 6, R158, R160) -/

/-- Load the payload into the input buffers of stacked memory (R386). -/
def loadInputs (s : State) (n : Nat) (j : Job) (a : Alm) : State :=
  ((a.bufs.zipIdx).foldl (fun (acc : State × Nat) x =>
    if x.1.tier = 3 ∧ x.1.kind = 1 ∧ x.1.owner = j.partition ∧ j.partition ≠ 4095 then
      ((bufRuns acc.1 n j x.1 0 x.1.size).foldl (fun s r =>
        memPaste s r.2.1 r.2.2 (bOfList (sub j.input (acc.2 + r.1) r.2.2)) []) acc.1, acc.2 + x.1.size)
    else acc) (s, 0)).1

/-- The initial tokens of every channel (R141). -/
def initToks (a : Alm) : List Nat := a.chans.map (·.initial)

def CalRun.start (pc : Nat) : CalRun := { pc := pc, dawn := pc, halt := .running, late := false, inFlight := [], draw := none }

/-- Enter copses: as owner or borrower, with the masks and the window of R160 and R110. -/
def enterCopse (s : State) (n : Nat) (j : Job) (a : Alm) (c k : Nat) (borrow : Bool) : State :=
  let cal := (a.cals.findIdx? fun x => x.kind == 0 && x.index == c).getD 0
  let b : CopseBind := { job := n, cal := cal, partition := j.partition }
  updCopse s k fun x =>
    if borrow then { x with borrower := some b, lent := true, yielding := false, borrowWin := max x.borrowWin (winUnits (tierNeed a 0 c)) }
    else { x with owner := some b, yielding := x.borrower.isSome, lent := false,
                  lendEn := reserved s k && j.cls == 0 && a.ringMask &&& 0xC0 == 0 }

/-- Bind a queued job by a plan: units, memory, inputs, routes, calendars at entry 0. None where no memory is left. -/
def startJob (s : State) (n : Nat) (j : Job) (a : Alm) (p : Plan) (rangers rbases : List Nat) : Option State :=
  let glades := (List.range a.nGlade).map fun g => (aGetD p.glades g (0, 0)).1
  let bases := (List.range a.nGlade).map fun g => (aGetD p.glades g (0, 0)).2
  let copses := (List.range a.nCopse).map fun c => (aGetD p.copses c (0, false)).1
  let j1 := { j with isBound := true, copses := copses, glades := glades, bases := bases, rangers := rangers,
                     rbases := rbases, borrower := p.copses.any (·.2.2), cals := a.cals.map fun _ => CalRun.start 0,
                     toks := initToks a, staging := [], dayStart := s.tb }
  match takeJobPages j.partition (jobStands s j1) (pagesFor (stackNeed a)) 0 s with
  | none => none
  | some (s1, pages) =>
    let j2 := { j1 with pages := pages }
    let s2 := { s1 with jobs := aPut s1.jobs n j2 }
    let s3 := (p.copses).foldl (fun s e => enterCopse s n j2 a e.1 e.2.1 e.2.2) s2
    let regions := (jobRegions s3 n j2 a).filter fun x => x.2 != 0
    let s4 := regions.foldl (fun s x => scramble (takeRegion s j.partition x.1 x.2) x.1 x.2) s3
    let s5 := pages.foldl (fun s pg => scramble s (locPage pg) 65536) s4
    let s6 := updJob s5 n fun x => { x with regions := regions.map fun r => (r.1, r.2, j.partition) }
    let s7 := loadInputs s6 n j2 a
    let s8 := (List.range rangers.length).foldl (fun s i => (loadKeys s (rangers.getD i 0) j.partition).getD s) s7
    some (restartHot (fillCopies (fillRoutes (clearSections s8 n) n) n) n)

/-! Pins of extent pages (R190, R192, R194) -/

/-- Release one pin of a resident extent page; a stale one goes with its last pin (R189). A page whose eviction was
deferred waits for DEFERRED_EVICTION. -/
def unpinCopy (s : State) (k : Nat) : State :=
  match aGet? s.mem.resident k with
  | none => s
  | some c =>
    let c1 := { c with pins := c.pins - 1 }
    let s1 := { s with mem := { s.mem with resident := aPut s.mem.resident k c1 } }
    if c1.pins = 0 ∧ c1.stale then dropCopy s1 k else s1

/-- Release the prefetch pins that a job holds (R190). -/
def dropPrefetch (s : State) (n : Nat) : State :=
  (s.mem.resident.filter fun e => e.2.prefetched == some n).foldl (fun s e =>
    let s1 := { s with mem := { s.mem with resident := aUpd s.mem.resident e.1 fun c => { c with prefetched := none } } }
    unpinCopy s1 e.1) s

/-! The end of a job -/

/-- What a table does when a job that pins it ends (R318, R321): a building version of a scattering job with a day
committed is installed, else discarded. Answers whether an install was refused. -/
def leaveTable (s : State) (n : Nat) (j : Job) (pin : TablePin) (last : Bool) : State × Bool :=
  let k := tabKey j.partition pin.table
  let (s1, refused) :=
    if !pin.scatters ∨ !last then (s, false)
    else
      match (aGet? s.tables k).bind (·.building) with
      | none => (s, false)
      | some b =>
        if b.job ≠ some n then (s, false)
        else if j.day = 0 then (discardTable s k, false)
        else
          match installTable s k with
          | some (s2, _) => (s2, false)
          | none => (bump (updTable s k fun t => { t with building := t.building.map fun b => { b with job := none } })
              Reg.TBL_EPOCH_REFUSED 1, true)
  (if last then unpinTable s1 k pin.epoch n else s1, refused)

/-- The pins of a job, each marked whether it is the last one of its table. -/
def lastPins (l : List TablePin) : List (TablePin × Bool) :=
  l.zipIdx.map fun x => (x.1, !((l.drop (x.2 + 1)).any fun y => y.table == x.1.table))

/-- Drop the working pages of a day: those of buffers are freed, those of tables freed and the charge of pages that the
building version has not copied credited (R146, R320). -/
def dropWork (s : State) (n : Nat) : State :=
  match getJob s n with
  | none => s
  | some j =>
    let fresh := j.work.filter fun e => e.1 ≥ 2 ^ 32 &&
      (match (aGet? s.tables (tabKey j.partition (e.1 / 2 ^ 32 - 1))).bind (·.building) with
        | some b => !b.copied.contains (e.1 % 2 ^ 32)
        | none => true)
    let s1 := freeJobPages s (j.kind != 0) (j.work.map (·.2))
    updJob (credit s1 j.partition 3 (fresh.length * 65536)) n fun j => { j with work := [], held := [] }

/-- The reads of a job's MOVEs end with its day: their pins are released, their media accesses (asker 1, the waiter's
job in its upper part) dropped. -/
def dropAccesses (s : State) (n : Nat) : State :=
  let pins : List Nat := match getJob s n with | some j => j.reads.flatMap (fun (r : MoveRead) => r.pins) | none => []
  let s1 := pins.foldl unpinCopy (updJob s n fun j => { j with reads := [] })
  dropAccess s1 fun e => e.asker == 1 && e.waiter / 2 ^ 40 == n

/-- Keep the persistent pages of a general commons job as commons objects (R185, R191): answers the pages kept. -/
def keepCommons (s : State) (j : Job) (a : Alm) : State × List Nat :=
  if j.partition ≠ 4095 ∨ a.plan.isSome then (s, [])
  else
    let pgs := ((a.bufs.filter fun b => b.tier == 3 && b.kind == 2).flatMap fun b =>
      (pagesOfRange b.offset b.size).map fun x => x.1 / 65536).dedup
    let pairs := pgs.filterMap fun pg => (j.pages[pg]?).map fun p => (pg, p)
    let old := pairs.filterMap fun x => aGet? s.commons.resident x.1
    let s1 := freePages s old
    ({ s1 with commons := { s1.commons with
        resident := pairs.foldl (fun m x => aPut m x.1 x.2) s1.commons.resident } }, pairs.map (·.2))

/-- Release everything a job holds and take it from the dispatcher. Answers whether an install was refused (R321). -/
def releaseJob (s : State) (n : Nat) : State × Bool :=
  match getJob s n with
  | none => (s, false)
  | some j =>
    match jobAlm s j with
    | none => ({ s with jobs := aDel s.jobs n }, false)
    | some a =>
      let tagged := a.plan.isSome
      let s1 := dropPrefetch (dropWork (dropAccesses s n) n) n
      let (s2, refused) := (lastPins j.tables).foldl (fun (acc : State × Bool) x =>
        let (s', r) := leaveTable acc.1 n j x.1 x.2
        (s', acc.2 || r)) (s1, false)
      let (s3, kept) := if j.isBound then keepCommons s2 j a else (s2, [])
      let s4 := freeJobRegions s3 tagged (j.regions.map fun r => (r.1, r.2.1))
      let s5 := freeJobPages s4 tagged (j.pages.filter fun p => !kept.contains p)
      let s6 := (List.range 128).foldl (fun s k => if aHas s.copses k then leaveCopse s n k else s) s5
      (creditAll { s6 with jobs := aDel s6.jobs n } j.partition (jobCharges s6 a), refused)

/-! Searches that end with a job -/

/-- End a search: its pages and its charge go, its command completes (R294, R301). -/
def endSearch (s : State) (k : Nat) (r : Reply) : State :=
  match aGet? s.searches k with
  | none => s
  | some x =>
    let s1 := releasePages { s with searches := aDel s.searches k } x.partition x.pages
    completeAt s1 x.sqid x.cid r

/-! Gang steps -/

/-- The data that STEP returns (R367). -/
def gangData (s : State) (g : Gang) : List Byte :=
  toLe 4 g.done ++ toLe 2 g.members.length ++ zeros 58 ++ g.members.flatMap fun m =>
    toLe 2 m.partition ++ toLe 2 m.adapter ++ toLe 1 m.status ++ zeros 3 ++ toLe 4 m.updates
      ++ toLe 4 (match aGet? s.adapters m.adapter with | some a => imgSteps s.mem a | none => 0)

/-- Release a gang: its copies end, its members' adapters are unpinned (R338). -/
def releaseGang (s : State) (k : Nat) : State :=
  match aGet? s.gangs k with
  | none => s
  | some g =>
    let s1 := g.jobs.foldl (fun s n => (releaseJob s n).1) s
    { s1 with gangs := aDel s1.gangs k,
              adapters := s1.adapters.map fun e => (e.1, if e.2.pinnedBy = some k then { e.2 with pinnedBy := none } else e.2) }

/-- End a STEP with a status and its data (R366 to R368). -/
def endGang (s : State) (k : Nat) (st : Status) : State :=
  match aGet? s.gangs k with
  | none => s
  | some g =>
    match findOut s g.sqid g.cid with
    | none => releaseGang s k
    | some o =>
      let (s1, d, i) := answer s ⟨o.cmd, o.opcode, o.cmd.partOf, none, []⟩ (gangData s g)
      completeAt (releaseGang s1 k) g.sqid g.cid ⟨st, BitVec.ofNat 32 g.done, 0, d, i⟩

/-! Batches -/

def getIndex (s : State) (p : Nat) : Option Index := aGet? s.index p
def updIndex (s : State) (p : Nat) (f : Index → Index) : State := { s with index := aUpd s.index p f }

/-- An indexing job ended without its final commit: its objects start again from chunk 0 (R281). -/
def dropBatch (s : State) (n : Nat) : State :=
  match s.commons.batches.find? (·.job == n) with
  | none => s
  | some b =>
    let s1 := { s with commons := { s.commons with batches := s.commons.batches.filter (·.job != n) } }
    b.rows.foldl (fun s r => updIndex s r.1 fun x => { x with ingest := aUpd x.ingest r.2.1 fun o => { o with formed := 0, vectors := [] } }) s1

/-- End a job with a status: its resources go, and every command with rows or work in it completes (R147, R270). An
install that is refused takes the place of the status (R321). -/
def endJob (s : State) (n : Nat) (st : Status) (dw0 : Nat) : State :=
  match getJob s n with
  | none => s
  | some j =>
    if j.kind = 1 then (match j.gang with | some k => endGang s k st | none => (releaseJob s n).1)
    else
      let (s1, refused) := releaseJob s n
      if j.kind = 2 then dropBatch s1 n
      else if j.kind = 3 then
        let qs := s1.commons.queryJobs.filter (·.1 == n)
        let s2 := { s1 with commons := { s1.commons with queryJobs := s1.commons.queryJobs.filter (·.1 != n) } }
        (qs.flatMap (·.2)).foldl (fun s k => endSearch s k (replyDw st dw0)) s2
      else if j.command then completeAt s1 j.sqid j.cid (replyDw (if refused then stEpoch else st) dw0)
      else s1

/-! The restart of a day (R146) -/

/-- The copses of a job stop: passes, harvests and contexts of the day are gone. -/
def stopCopses (s : State) (n : Nat) : State :=
  { s with copses := s.copses.map fun e =>
      let c := e.2
      let own : Bool := match c.owner with | some b => b.job == n | none => false
      let bor : Bool := match c.borrower with | some b => b.job == n | none => false
      (e.1, { c with
        pass := match c.pass with | some p => if p.job = n then none else some p | none => none
        harv := match c.harv with | some h => if h.job = n then none else some h | none => none
        slotA := if own then none else c.slotA
        slotB := if own then none else c.slotB
        memberCtx := if own ∨ bor then none else c.memberCtx
        slotBorrower := if bor then none else c.slotBorrower }) }

/-- End day d uncommitted and restart the job from its dawn (R146, R328, R342, R355). -/
def restartDay (s : State) (n : Nat) : State :=
  match getJob s n with
  | none => s
  | some j =>
    match jobAlm s j with
    | none => s
    | some a =>
      let s1 := stopCopses (dropPrefetch (dropWork (dropAccesses s n) n) n) n
      let s2 := (a.bufs.filter fun b => b.kind == 0 || b.kind == 4).foldl (fun s b => scrambleBuf s n j b) s1
      let s3 := updJob s2 n fun j => { j with
        toks := initToks a, staging := [], segDir := j.segDir.filter fun e => e.1 < 2 ^ 40,
        cals := j.cals.map fun r => CalRun.start r.dawn
        slots := j.slots.map fun e => (e.1, { e.2 with thisDay := false }), prefetched := [],
        dropPosted := false, dayStart := s.tb, pfDone := [] }
      let s4 := bump s3 Reg.DSP_RESTARTS 1
      restartHot (fillCopies (fillRoutes (clearSections s4 n) n) n) n

/-- What a fault that ends a day does (R146, R147, R355, R497): a restart within the limits the spec sets, else the end
of the job. -/
def dayFault (s : State) (n : Nat) (cause : DayFault) : State :=
  match getJob s n with
  | none => s
  | some j =>
    if !j.isBound ∨ j.finished then s
    else match cause with
    | .tagMismatch | .ringOwnership | .addressFault =>
      if j.faultRestarts ≥ 1 then endJob s n stInternal 0
      else restartDay (updJob s n fun j => { j with faultRestarts := j.faultRestarts + 1 }) n
    | .poison =>
      if j.poisonRestarts ≥ 1 then endJob s n stPoisoned 0
      else restartDay (updJob s n fun j => { j with poisonRestarts := j.poisonRestarts + 1 }) n
    | .sealFail =>
      if j.sealRestarts ≥ 1 then endJob s n stSeal 0
      else restartDay (updJob s n fun j => { j with sealRestarts := j.sealRestarts + 1 }) n
    | .unitReset | .standLost => restartDay s n

/-- A unit consumed poison: the event, the count, the fault of the day (R497). -/
def consumePoison (s : State) (n page part loc : Nat) : State :=
  dayFault (bump (post s page 0x0202 part loc 0) Reg.RAS_POISON_CONS 1) n .poison

/-! Withdrawal of rows (R272, R369) -/

/-- Make row-tag entries invalid. -/
def withdraw (s : State) (sel : Job → RowTag → Bool) : State :=
  { s with jobs := s.jobs.map fun e => (e.1, { e.2 with rows := e.2.rows.map fun r =>
      (r.1, if sel e.2 r.2 then { r.2 with valid := false } else r.2) }) }

/-- Withdraw the rows of a partition. -/
def withdrawPart (s : State) (p : Nat) : State := withdraw s fun _ t => t.partition == p

/-- A member is withdrawn from the gang steps it is in (R369). -/
def withdrawMembers (s : State) (sel : Member → Bool) : State :=
  let slots := s.gangs.map fun e => (e.1, (e.2.members.zipIdx.filter fun m => sel m.1).map (·.2))
  let s1 := withdraw s fun j t => j.kind == 1 && (match j.gang with
    | some k => (aGetD slots k []).contains t.slot
    | none => false)
  let out := fun (m : Member) => if sel m then { m with active := false, status := 9 } else m
  { s1 with gangs := s1.gangs.map fun e => (e.1, { e.2 with members := e.2.members.map out }) }

/-- Post an address fault of a unit (R185). -/
def addressFault (s : State) (n page : Nat) : State :=
  match getJob s n with
  | none => s
  | some j => dayFault (post s page 0x0302 j.partition 0 0) n .addressFault

/-- Post a partition-tag mismatch of a unit (R19). -/
def tagMismatch (s : State) (n page : Nat) : State :=
  match getJob s n with
  | none => s
  | some j => dayFault (post s page 0x0501 j.partition 0 0) n .tagMismatch

/-- A unit met an entry its class does not permit (R94). -/
def entryFault (s : State) (n page : Nat) : State :=
  match getJob s n with
  | none => s
  | some j => endJob (post s page 0x0301 j.partition 0 0) n stInternal 0

/-- The page that posts for a calendar's unit: the copse's, the glade's, the ranger's, the dispatcher's for the hub
mover. -/
def calPage (j : Job) (c : CalDef) : Nat :=
  if c.kind = 0 then copsePage (j.copseOf c.index)
  else if c.kind = 1 ∨ c.kind = 2 then gladePage (j.gladeOf c.glade)
  else if c.kind = 3 then rangerPage (j.chanOf c.index)
  else pgDispatcher

/-- Act on a write that is stopped: a tag mismatch or an address fault ends the day; a write to an input buffer is
dropped. -/
def stopWrite (s : State) (n page : Nat) : WriteStop → State
  | .tag => tagMismatch s n page
  | .address => addressFault s n page
  | .readOnly => s

end Sys2Proof.Machine
end

