-- ==== Sys2Proof/Machine/CopseOps.lean ====
section
/-! DEFINITION. What the copse rows share: bindings and ring masks, contexts, the start of a pass, one step, the
harvest, the replay of a harvest group and the move to a spare copse (R85 to R118). -/

namespace Sys2Proof.Machine

/-! Bindings (R110, R112) -/

/-- The calendar's job is in the copse as its borrower. -/
def isBorrower (c : Copse) (n : Nat) : Bool := match c.borrower with | some b => b.job == n | none => false
def isOwner (c : Copse) (n : Nat) : Bool := match c.owner with | some b => b.job == n | none => false

def ownerMask (c : Copse) : Nat := if c.lendEn then 0x3F else 0xFF
def borrowMask : Nat := 0xC0

/-- The rings a binding may touch. -/
def maskFor (c : Copse) (n : Nat) : Nat := if isBorrower c n then borrowMask else ownerMask c

/-- A borrower runs only while the copse is lent to it and no yield is asked of it, but it completes the dwell set in
progress (R112, R113). -/
def mayRun (c : Copse) (n : Nat) : Bool :=
  if isBorrower c n then
    (c.lent && !c.yielding) ||
      (match c.pass with | some p => p.job == n && decide (p.members.length < p.size) | none => false)
  else isOwner c n && !c.lent

/-- The calendar at an entry can proceed, so that its copse is wanted back (R113). -/
def calRunnable (j : Job) (a : Alm) (cal : Nat) : Bool :=
  match j.cals[cal]?, a.cals[cal]? with
  | some r, some c =>
    match r.halt with
    | .atTake => let e := c.entries.getD r.pc 0
                 decide (fld e 107 102 + 1 ≤ j.toks.getD (fld e 123 108) 0)
    | .atWait _ =>
      match a.waits[fld (c.entries.getD r.pc 0) 123 108]? with
      | some w => (match aGet? j.staging w.buf with | some st => st.fill == .full && st.tag == w.tag | none => false)
      | none => false
    | _ => true
  | _, _ => false

/-- The owner of a copse is there and can proceed. -/
def ownerRunnable (s : State) (k : Nat) : Bool :=
  match (getCopse s k).owner with
  | none => false
  | some b =>
    match getJob s b.job with
    | none => false
    | some j => match jobAlm s j with | some a => calRunnable j a b.cal | none => false

/-! Contexts (R91, R95 to R99) -/

/-- The bytes of a context image. -/
def ctxImage (s : State) (n : Nat) (j : Job) (a : Alm) (e : Nat) : Option (List Byte × Bool) :=
  match bufOf a (fld e 63 52) with
  | none => none
  | some b =>
    let len := imageBytes (fld e 107 106)
    let o := 64 * fld e 51 32
    some (bufRead s n j (fld e 63 52) b o len, !(bufPoison s n j b o len).isEmpty)

/-- A member of a dwell set takes the mode, the codebook, the exponents and the formats of the set's first context
(R96). -/
def memberCtxOf (first m : Ctx) : Ctx :=
  { m with mode := first.mode, wfmt := first.wfmt, afmt := first.afmt, wsel := first.wsel, rnd := first.rnd,
           rngSrc := first.rngSrc, exps := first.exps, book := first.book, dwellLen := first.dwellLen }

/-- The context under which a binding's passes run: the last one its calendar loaded. -/
def activeCtx (c : Copse) (n : Nat) : Option Ctx :=
  if isBorrower c n then c.slotBorrower else if c.activeB then c.slotB else c.slotA

/-- The NaN replacements of a context are charged once (R99). -/
def clearNans (c : Copse) (n : Nat) : Copse :=
  let z := fun (x : Ctx) => { x with nans := 0 }
  if isBorrower c n then { c with slotBorrower := c.slotBorrower.map z }
  else if c.activeB then { c with slotB := c.slotB.map z } else { c with slotA := c.slotA.map z }

/-! Column maps (R267, R343, R346) -/

/-- The map of the group of a tagged buffer that holds a byte offset; none where the buffer is untagged. -/
def mapAt (s : State) (n : Nat) (j : Job) (a : Alm) (bn off : Nat) : Option (List Nat) :=
  match bufOf a bn, planItem a bn with
  | some b, some (_, it) => some (groupMap s n j bn b it (off / it.group))
  | _, _ => none

/-- The section of a role-3 buffer that holds a byte offset: item, group. -/
def sectionAt (a : Alm) (bn off : Nat) : Option (Nat × Nat) :=
  match planItem a bn with
  | some (i, it) => if it.role = 3 then some (i, off / it.group) else none
  | none => none

/-- The exponent of a section as a pass adds it: that of the slot its map names (R346). -/
def sectionExp (s : State) (n : Nat) (j : Job) (a : Alm) (bn off : Nat) : Int :=
  match a.plan, sectionAt a bn off, mapAt s n j a bn off with
  | some p, some (i, _), some m => (match m.find? mapValid with
    | some w => aGetD j.exps (expKey i (slotOfEntry p w)) 0
    | none => 0)
  | _, _, _ => 0

/-- Two entries that name different slots, among valid ones (R343). -/
def slotClash (p : RowPlan) (l : List Nat) : Option (Nat × Nat) :=
  match l.filter mapValid with
  | [] => none
  | w :: r => (r.find? fun x => slotOfEntry p x != slotOfEntry p w).map fun x => (mapRow w, mapRow x)

/-- The first two entries at which maps differ. -/
def mapDiff (x y : List Nat) : Option (Nat × Nat) :=
  ((x.zip y).find? fun e => e.1 != e.2).map fun e => (mapRow e.1, mapRow e.2)

/-- A run-time comparison of column maps failed (R270). -/
def columnMapFault (s : State) (n page r1 r2 : Nat) : State :=
  match getJob s n with
  | none => s
  | some j =>
    endJob (bump (post s page 0x0505 j.partition (pathCode page) (argPair r1 r2)) Reg.COMMONS_CMAP_FAULT 1) n stInternal 0

/-! Passes -/

/-- The member of a set that a PASS entry gives. -/
def mkMember (s : State) (n : Nat) (j : Job) (a : Alm) (idx e : Nat) (ctx : Ctx) : PassMember :=
  let woff := 64 * fld e 91 72
  let aoff := 64 * fld e 59 40
  { entry := idx, ring := fld e 123 121, wbuf := fld e 103 92, woff := woff, abuf := fld e 71 60, aoff := aoff, ctx := ctx,
    expAdd := match sectionAt a (fld e 103 92) woff with
      | some _ => sectionExp s n j a (fld e 103 92) woff + sectionExp s n j a (fld e 71 60) aoff
      | none => 0
    cmap := (mapAt s n j a (fld e 71 60) aoff).getD [] }

/-- The rows that a PASS's maps show to clash (R267, R343): under keep the ring's map must be the latched one; weights
in a section and activations of a group must name one slot. -/
def passClash (s : State) (n : Nat) (j : Job) (a : Alm) (c : Copse) (m : PassMember) : Option (Nat × Nat) :=
  let keepBad := if preloadOf m.ctx m.ring = 1 then
      let old := (aGetD c.sets m.ring ScaleSet.blank).cmap
      if old = m.cmap then none else some ((mapDiff old m.cmap).getD (0, 0))
    else none
  match keepBad with
  | some x => some x
  | none =>
    match a.plan, sectionAt a m.wbuf m.woff with
    | some p, some _ => slotClash p ((mapAt s n j a m.wbuf m.woff).getD [] ++ m.cmap)
    | _, _ => none

/-- The image of a ring's load source (R91). -/
def loadImage (s : State) (n : Nat) (j : Job) (a : Alm) (ctx : Ctx) (r : Nat) : Bytes :=
  let l := ctx.loads.getD r 0
  match bufOf a (l / 2 ^ 20) with
  | some b => bufSlice s n j (l / 2 ^ 20) b (64 * (l % 2 ^ 20)) 262144
  | none => []

/-- The bytes of the weights and the activations of step k of a member, and whether a poisoned line is among them. -/
def stepBytes (s : State) (n : Nat) (j : Job) (a : Alm) (m : PassMember) (mode afmt k : Nat) : List Byte × List Byte × Bool :=
  let get := fun bn off len => match bufOf a bn with
    | some b => (bufRead s n j bn b off len, !(bufPoison s n j b off len).isEmpty)
    | none => (zeros len, false)
  let w := get m.wbuf (m.woff + k * weightBytes mode) (weightBytes mode)
  let x := get m.abuf (m.aoff + k * 128 * actBytes afmt) (128 * actBytes afmt)
  (w.1, x.1, w.2 || x.2)

/-- One step of one member on a copse, its first step applying the preload rule (R84, R85). -/
def memberStep (s : State) (n : Nat) (j : Job) (a : Alm) (first : Ctx) (m : PassMember) (k : Nat) (builds : Bool)
    (lseed : Nat → DWord) (c : Copse) : Copse :=
  let (w, x, _) := stepBytes s n j a m first.mode first.afmt k
  let c1 := if k = 0 then startPass (if preloadOf m.ctx m.ring = 2 then loadImage s n j a m.ctx m.ring else []) m c else c
  stepMember lseed first m w x k true builds c1

/-! Harvest (R92, R93, R99 to R104) -/

/-- The rows of a harvest go to their destination; a tagged destination takes the ring's map (R267). -/
def writeHarvest (s : State) (n : Nat) (a : Alm) (k e : Nat) (rows : List (List Byte)) : State :=
  let bn := fld e 111 100
  match bufOf a bn with
  | none => s
  | some b =>
    let off := 64 * fld e 99 80
    let stride := 64 * fld e 79 64
    let s1 := match planItem a bn with
      | some (_, it) =>
        bufPut s n bn b (off / it.group * it.group) (mapBytes (aGetD (getCopse s k).sets (fld e 123 121) ScaleSet.blank).cmap)
      | none => s
    (rows.zipIdx).foldl (fun s x => bufPut s n bn b (off + x.2 * stride) x.1) s1

/-- Drain, convert and write the rows of a HARV, and compare its checksums. -/
def harvest (s : State) (n : Nat) (a : Alm) (k e : Nat) : State × Compare :=
  let c := getCopse s k
  let (rows, sat, fr) := harvRows (laneSeed s k) c e
  let r := fld e 123 121
  let s1 := updCopse s k fun c => { c with free := fr
                                           sets := aUpd c.sets r fun z => { z with harv := satAdd32 z.harv sat } }
  (writeHarvest s1 n a k e rows, compareHarv c e)

/-- Why a HARV may not be executed: a map with a valid entry into an untagged buffer (R267). -/
def harvClash (a : Alm) (c : Copse) (e : Nat) : Option (Nat × Nat) :=
  if (planItem a (fld e 111 100)).isSome then none
  else
    let l := (harvRings e).flatMap fun r => (aGetD c.sets r ScaleSet.blank).cmap
    (l.find? mapValid).map fun w => (mapRow w, 0)

/-! Replay (R106, R107) -/

/-- What the replay of a chain carries: the copse, the set's first context, the present one, the steps done. -/
structure Replay where
  c : Copse
  first : Option Ctx
  ctx : Option Ctx
  steps : Nat

/-- Replay one entry: a CTX gives a context, a PASS into one of the rings is stepped whole. -/
def replayEntry (s : State) (n : Nat) (j : Job) (a : Alm) (lseed : Nat → DWord) (rings : List Nat) (x : Nat × Nat)
    (r : Replay) : Replay :=
  let e := x.1
  if entryClass e = 2 then
    match ctxImage s n j a e with
    | none => r
    | some (img, _) =>
      let ctx := mkCtx x.2 e img
      if ctx.dwellLen > 0 ∧ ctx.dwellPos > 0 then
        { r with ctx := match r.first with | some f => some (memberCtxOf f ctx) | none => some ctx }
      else { r with first := some ctx, ctx := some ctx }
  else if entryClass e = 1 then
    match r.first, r.ctx with
    | some f, some ctx =>
      let steps := fld e 119 104 + 1
      if rings.contains (fld e 123 121) then
        let m := mkMember s n j a x.2 e ctx
        let c := (List.range steps).foldl (fun c k => memberStep s n j a f m k (ctx.dwellPos == 0) lseed c) r.c
        { r with c := c, ctx := some { ctx with nans := 0 }, steps := r.steps + steps }
      else { r with steps := if f.dwellLen > 0 then r.steps + steps else r.steps }
    | _, _ => r
  else r

/-- Replay the chains of some rings of a calendar from its dawn up to an entry: the copse and the steps it did. -/
def replayChains (s : State) (n : Nat) (j : Job) (a : Alm) (cal upto k : Nat) (rings : List Nat) : Copse × Nat :=
  match a.cals[cal]?, j.cals[cal]? with
  | some cd, some run =>
    let l := ((cd.entries.zipIdx).drop run.dawn).take (upto - run.dawn)
    let r := l.foldl (fun r x => replayEntry s n j a (laneSeed s k) rings x r) ⟨getCopse s k, none, none, 0⟩
    (r.c, r.steps)
  | _, _ => (getCopse s k, 0)

/-- Rings of a calendar whose chain is live at an entry: a HARV of the same day at or after it reads them (R106). -/
def liveRings (a : Alm) (cal entry : Nat) : List Nat :=
  match a.cals[cal]? with
  | none => []
  | some cd =>
    ((cd.entries.drop entry).takeWhile fun e => entryClass e != 0xC).flatMap (fun e => if entryClass e = 3 then harvRings e else []) |>.dedup

/-- The replay's arithmetic takes the copse's place; its rings, checksums, scale sets and lanes are the replay's. -/
def putReplay (s : State) (k : Nat) (c : Copse) (steps : Nat) : State :=
  bumpPair (updCopse s k fun o => { o with rings := c.rings, chkRow := c.chkRow, chkCol := c.chkCol, corner := c.corner,
                                           sat := c.sat, held := c.held, sets := c.sets, free := c.free })
    (copsePage k + Reg.COPSE_STEPS_LO) steps

/-- Replay a harvest group on a copse and harvest again (R107): the new comparison is pending. -/
def replayHarvest (s : State) (k : Nat) (h : HarvRun) (attempt : Nat) (rings : List Nat) : State :=
  match getJob s h.job with
  | none => s
  | some j =>
    match jobAlm s j with
    | none => s
    | some a =>
      let e := match a.cals[h.cal]? with | some c => c.entries.getD h.entry 0 | none => 0
      let (c, st) := replayChains s h.job j a h.cal h.entry k rings
      let s1 := bump (putReplay s k c st) (copsePage1 k + Reg.COPSE_CHK_REEXEC) 1
      let (s2, cmp) := harvest s1 h.job a k e
      updCopse s2 k fun c => { c with harv := some { h with attempt := attempt, cmp := cmp, timedOut := false } }

/-! Spare copses (R107, R108) -/

/-- A copse may serve as a spare: eligible, its glade taking bindings, without an owner, and no other unit of the job. -/
def spareOk (s : State) (j : Job) (k : Nat) : Bool :=
  copseOk s k && gladeOk s (k / 4) && (getCopse s k).owner.isNone && !j.copses.contains k

/-- The spare copse for a logical copse of a job on copse k: the same glade, the same stand, any stand in rising index,
unbound ones before those that run best-effort work as borrowers (R108). -/
def pickSpare (s : State) (j : Job) (k : Nat) : Option Nat :=
  let l := (List.range 128).filter (spareOk s j)
  let near := (l.filter fun x => x / 4 == k / 4) ++ (l.filter fun x => x / 16 == k / 16 && x / 4 != k / 4)
    ++ l.filter fun x => x / 16 != k / 16
  match near.find? fun x => (getCopse s x).borrower.isNone with
  | some x => some x
  | none => near.find? fun x => (getCopse s x).lent

/-- Count a re-binding of a job in its record and its command's (R163). -/
def noteRebind (s : State) (n : Nat) : State :=
  match getJob s n with
  | none => s
  | some j =>
    let s1 := updJob s n fun j => { j with restarts := j.restarts + 1 }
    let s2 := match j.gang with
      | some k => { s1 with gangs := aUpd s1.gangs k fun g => { g with remapped := true } }
      | none => s1
    if j.command then updProg s2 j.sqid j.cid fun r => { r with restarts := r.restarts + 1 } else s2

/-- Move the binding of a logical copse to another copse: scratch, contexts and bindings go with it (R107, R163). -/
def moveBinding (s : State) (n : Nat) (j : Job) (a : Alm) (c old new : Nat) : State :=
  let need := tierNeed a 0 c
  let oc := getCopse s old
  let bor := isBorrower oc n
  let win := winUnits need
  let src := locCopse old + (if bor then 4194304 - oc.borrowWin * 65536 else 0)
  let nwin := max (getCopse s new).borrowWin win
  let dst := locCopse new + (if bor then 4194304 - nwin * 65536 else 0)
  let b := if bor then oc.borrower else oc.owner
  let s1 := memCopy (takeRegion s j.partition dst need) src dst need
  let s2 := updCopse s1 new fun x =>
    let y := if bor then { x with borrower := b, lent := true, yielding := false, borrowWin := nwin, slotBorrower := oc.slotBorrower }
      else { x with owner := b, slotA := oc.slotA, slotB := oc.slotB, activeB := oc.activeB,
                    lendEn := oc.lendEn && reserved s new, yielding := x.borrower.isSome && x.lent, lent := false }
    { y with memberCtx := oc.memberCtx, spareFor := some n }
  let s3 := leaveCopse (freeRegion s2 src need) n old
  noteRebind (updJob s3 n fun j => { j with copses := j.copses.set c new
                                            regions := j.regions.map fun r => if r.1 = src ∧ r.2.1 = need then (dst, r.2.1, r.2.2) else r }) n

/-- Record a rejection in the validator page (R155, R540). -/
def recordReject (s : State) (code index kind unit part : Nat) : State :=
  let s1 := setReg s Reg.VAL_LAST (BitVec.ofNat 32 (code * 2 ^ 24 + index % 2 ^ 24))
  let s2 := setReg s1 Reg.VAL_LAST_WHERE (BitVec.ofNat 32 (kind * 2 ^ 28 + part % 4096 * 2 ^ 16 + unit % 2 ^ 16))
  bump s2 Reg.VAL_REJECTS 1

/-- A job that can no longer be bound ends with check code 0x14 (R161). -/
def endUnbindable (s : State) (n : Nat) : State :=
  match getJob s n with
  | none => s
  | some j => endJob (recordReject s 0x14 0 7 j.handle j.partition) n stRejected 0x14

/-- Move one binding of a suspect copse to a spare copse and rebuild its live chains there (R107 steps 3 and 4, R115).
Answers the copse taken. -/
def moveToSpare (s : State) (k : Nat) (b : CopseBind) : State × Option Nat :=
  match getJob s b.job with
  | none => (s, none)
  | some j =>
    match jobAlm s j with
    | none => (s, none)
    | some a =>
      match pickSpare s j k, a.cals[b.cal]? with
      | some x, some cd =>
        let upto := match j.cals[b.cal]? with | some r => r.pc | none => 0
        let hEntry := match (getCopse s k).harv with | some h => if h.job = b.job then h.entry else upto | none => upto
        let live := liveRings a b.cal hEntry
        let s1 := moveBinding s b.job j a cd.index k x
        let s2 := bump s1 Reg.DSP_REMAPS 1
        let s3 := bumpF s2 (copsePage1 x + Reg.COPSE_HEALTH) Fld.COPSE_HEALTH_spare_runs 1
        match getJob s3 b.job with
        | none => (s3, some x)
        | some j1 =>
          let (c, st) := replayChains s3 b.job j1 a b.cal hEntry x live
          (putReplay s3 x c st, some x)
      | _, _ => (s, none)

/-- Mark a copse suspect (R107 step 2); the event carries the partition of the job whose check failed. -/
def markSuspect (s : State) (k partition : Nat) : State :=
  post (setF s (copsePage1 k + Reg.COPSE_HEALTH) Fld.COPSE_HEALTH_suspect 1) (copsePage1 k) 0x0701 partition 0 0

/-- The other binding of a suspect copse moves too (R115). -/
def moveOther (s : State) (k n : Nat) : State :=
  let c := getCopse s k
  let others := (c.owner.toList ++ c.borrower.toList).filter (·.job != n)
  others.foldl (fun s b => match moveToSpare s k b with
    | (s1, some x) => updCopse s1 x fun c => { c with pass := none }
    | (s1, none) => endUnbindable s1 b.job) s

/-! Re-binding with a restart of the day (R107 step 5, R163) -/

/-- Re-bind the logical copse of a job that sits on copse k to another eligible copse, and restart the day. -/
def rebindCopse (s : State) (n k : Nat) : State :=
  match getJob s n with
  | none => s
  | some j =>
    match jobAlm s j with
    | none => s
    | some a =>
      match j.copses.findIdx? (· == k), pickSpare s j k with
      | some c, some x =>
        let s1 := updCopse (moveBinding s n j a c k x) x fun y => { y with spareFor := none }
        restartDay (bump s1 Reg.DSP_REMAPS 1) n
      | _, _ => endUnbindable s n

end Sys2Proof.Machine
end

