-- ==== Sys2Proof/Machine/Copse.lean ====
section
/-! DEFINITION. The meanings of the copse's commands: contexts, passes, steps, harvests, the copse limit, the release of
a suspect copse and the arming of an injection (R84 to R118). -/

namespace Sys2Proof.Machine

/-! Retention (R175, R176). A glade's list of banks in retention holds logical banks 0 to 63 and, for copse c, bank b of
its scratch as 64 + 32 × c + b. -/

/-- The glade and the banks that a range of a buffer touches (R166, R168). -/
def banksOf (s : State) (n : Nat) (j : Job) (b : BufDef) (o len : Nat) : Nat × List Nat :=
  let a := bufBase s n j b + o
  if len = 0 then (0, [])
  else if b.tier = 0 then
    let k := j.copseOf b.home
    let off := locOff a
    (k / 4, (List.range (min 32 ((off + len - 1) / 64 - off / 64 + 1))).map fun i => 64 + 32 * (k % 4) + (off / 64 + i) % 32)
  else if b.tier = 1 then
    let off := locOff a
    (j.gladeOf b.home, (List.range (min 60 ((off + len - 1) / 4096 - off / 4096 + 1))).map fun i => (off / 4096 + i) % 60)
  else if b.tier = 2 then (j.gladeOf b.home, [60 + b.bank])
  else (0, [])

/-- An access wakes the banks in retention that it reaches (R176). -/
def touchBuf (s : State) (n bn o len : Nat) (a : Alm) : State :=
  match getJob s n, bufOf a bn with
  | some j, some b =>
    let (g, l) := banksOf s n j b o len
    let hit := (getGlade s g).retention.filter fun x => l.contains x
    if hit.isEmpty then s
    else bump (updGlade s g fun x => { x with retention := x.retention.filter fun y => !l.contains y })
      (gladePage g + Reg.GLADE_RET_WAKES) hit.length
  | _, _ => s

/-! CTX (R90, R91, R95 to R97) -/

/-- Put a context into the slot of its binding; none where both slots hold live contexts (R97). The first context of a
dwell set and a plain context make the slot active; a member's stays with the copse (R96). -/
def placeCtx (c : Copse) (n : Nat) (x : Ctx) : Option Copse :=
  if x.dwellLen > 0 ∧ x.dwellPos > 0 then
    (activeCtx c n).map fun f => { c with memberCtx := some (memberCtxOf f x) }
  else if isBorrower c n then
    if c.slotA.isSome ∧ c.slotB.isSome then none else some { c with slotBorrower := some x, memberCtx := none }
  else if c.slotA.isNone then some { c with slotA := some x, activeB := false, memberCtx := none }
  else if c.slotB.isNone then some { c with slotB := some x, activeB := true, memberCtx := none }
  else none

/-- CTX: load the image into a free slot; with both slots live it waits. -/
def issueCtx (s : State) (u : UnitRef) : State :=
  match issueOf s u 2 with
  | none => s
  | some x =>
    let k := x.job.copseOf x.cal.index
    if !mayRun (getCopse s k) u.job then s
    else
      match ctxImage s u.job x.job x.alm x.entry with
      | none => entryFault s u.job (copsePage k)
      | some (img, bad) =>
        if bad then consumePoison s u.job (copsePage k) x.job.partition (pathCode (copsePage k))
        else
          match placeCtx (getCopse s k) u.job (mkCtx x.run.pc x.entry img) with
          | none => s
          | some c =>
            let s1 := touchBuf s u.job (fld x.entry 63 52) (64 * fld x.entry 51 32) (imageBytes (fld x.entry 107 106)) x.alm
            stepCal (traceWhole (updCopse s1 k fun _ => c) u x.run.pc) u

def execCtx (u : UnitRef) (s : State) : Host.Outcome State Fault Refusal := .next (issueCtx s u)

/-- A slot whose context still has a pass in the array. -/
def slotInUse (c : Copse) (x : Ctx) : Bool :=
  match c.pass with | some p => p.members.any fun m => m.ctx.entry == x.entry | none => false

/-- DAWN_RELEASE: with both slots live, the one that the following dawn replaced is released (R97); the NaN
replacements of a context under which no pass ran go to the total (R99). -/
def releaseSlot (s : State) (k : Nat) : State :=
  let c := getCopse s k
  match c.slotA, c.slotB with
  | some xa, some xb =>
    let old := if c.activeB then xa else xb
    if slotInUse c old then s
    else
      let s1 := updCopse s k fun c => if c.activeB then { c with slotA := none } else { c with slotB := none }
      bumpPair s1 (copsePage1 k + Reg.COPSE_SAT_TOTAL_LO) old.nans
  | _, _ => s

def execDawnRelease (p : CopsePath) (s : State) : Host.Outcome State Fault Refusal :=
  .next (if p.ok ∧ engineOn s then releaseSlot s p.index else s)

/-! PASS (R85 to R89, R110, R267, R270) -/

/-- The passes that a new pass joins or begins: none where it must wait behind passes in the array or a harvest under
way. -/
def joinPass (c : Copse) (u : UnitRef) (size steps : Nat) : Option PassRun :=
  if c.harv.isSome then none
  else match c.pass with
    | none => some { job := u.job, cal := u.cal, borrower := isBorrower c u.job, members := [], steps := steps, size := size, done := 0 }
    | some p => if p.job = u.job ∧ p.cal = u.cal ∧ p.members.length < p.size then some p else none

/-- A PASS or HARV names a ring outside its binding's mask (R110). -/
def ringFault (s : State) (n k part : Nat) : State := dayFault (post s (copsePage k) 0x0303 part 0 0) n .ringOwnership

/-- The power manager holds the passes of a stand back: everywhere over the cap at 0.60 V (R485), on a stand at or above
the throttle threshold at 0.60 V (R486). -/
def passesHeld (s : State) (st : Nat) : Bool :=
  s.power.holdBack || (s.power.throttled.contains st && getF s (standBase st + Reg.STAND_VCORE) Fld.STAND_VCORE_vset == 600)

/-- PASS: the pass enters the array behind the one before it. It waits while the copse is busy or not its own, and
while the power manager holds passes back (R485). -/
def issuePass (s : State) (u : UnitRef) : State :=
  match issueOf s u 1 with
  | none => s
  | some x =>
    let k := x.job.copseOf x.cal.index
    let c := getCopse s k
    let ring := fld x.entry 123 121
    if !mayRun c u.job ∨ passesHeld s (k / 16) then s
    else if !bitOf (maskFor c u.job) ring then ringFault s u.job k x.job.partition
    else
      match activeCtx c u.job with
      | none => entryFault s u.job (copsePage k)
      | some first =>
        let ctx := c.memberCtx.getD first
        match joinPass c u (first.dwellLen + 1) (fld x.entry 119 104 + 1) with
        | none => s
        | some p =>
          let m := mkMember s u.job x.job x.alm x.run.pc x.entry ctx
          match passClash s u.job x.job x.alm c m with
          | some (r1, r2) => columnMapFault s u.job (copsePage k) r1 r2
          | none =>
            let s1 := updCopse s k fun c =>
              let c1 := clearNans c u.job
              { c1 with memberCtx := c1.memberCtx.map fun z => { z with nans := 0 }
                        pass := some { p with members := p.members ++ [m] }
                        ringOwner := aPut c1.ringOwner ring x.job.partition }
            launchCal (traceEntry s1 u x.run.pc 0) u

def execPass (u : UnitRef) (s : State) : Host.Outcome State Fault Refusal := .next (issuePass s u)

/-! COPSE_STEP (R84, R87, R118) -/

/-- Invert a bit of a 40-bit ring. -/
def flipBit (v : Int) (b : Nat) : Int :=
  let w := (v % 2 ^ 40).toNat
  let x := if bitOf w b then w - 2 ^ b else w + 2 ^ b
  if x < 2 ^ 39 then x else (x : Int) - 2 ^ 40

/-- The armed injection is applied after a step into its ring, where the pass's binding belongs to partition 0
(R118). -/
def inject (s : State) (k ring part : Nat) : State :=
  let a := copsePage1 k + Reg.COPSE_CHK_INJECT
  if getF s a Fld.COPSE_CHK_INJECT_arm = 1 ∧ part = 0 ∧ getF s a Fld.COPSE_CHK_INJECT_ring = ring then
    let key := ringKey ring (getF s a Fld.COPSE_CHK_INJECT_row) (getF s a Fld.COPSE_CHK_INJECT_col)
    let b := getF s a Fld.COPSE_CHK_INJECT_bit
    setF (updCopse s k fun c => { c with rings := zPut c.rings key (flipBit (aGetD c.rings key 0) b) })
      a Fld.COPSE_CHK_INJECT_arm 0
  else s

/-- The end of the last step of a pass or dwell set: its entries are complete; a borrower from which a yield was asked
gives the copse back (R113). -/
def endPass (s : State) (k : Nat) (p : PassRun) : State :=
  let s1 := updCopse s k fun c =>
    { c with pass := none, replays := 0,
             lent := if p.borrower ∧ c.yielding then false else c.lent
             yielding := if p.borrower then false else c.yielding }
  let s2 := bumpWrap s1 (copsePage k + Reg.COPSE_PASSES) p.size
  p.members.foldl (fun s m => landCal (traceEntry s ⟨p.job, p.cal⟩ m.entry 1) ⟨p.job, p.cal⟩ m.entry) s2

/-- One step: of the member whose turn it is, once it has reached the array. -/
def stepCopse (s : State) (k : Nat) : State :=
  let c := getCopse s k
  match c.pass with
  | none => s
  | some p =>
    match getJob s p.job, p.members[p.done % p.size]?, p.members.head? with
    | some j, some m, some m0 =>
      match jobAlm s j with
      | none => s
      | some a =>
        let i := p.done / p.size
        let (_, _, bad) := stepBytes s p.job j a m m0.ctx.mode m0.ctx.afmt i
        if bad then consumePoison s p.job (copsePage k) j.partition (pathCode (copsePage k))
        else
          let s0 := touchBuf (touchBuf s p.job m.wbuf (m.woff + i * weightBytes m0.ctx.mode) (weightBytes m0.ctx.mode) a)
            p.job m.abuf (m.aoff + i * 128 * actBytes m0.ctx.afmt) (128 * actBytes m0.ctx.afmt) a
          let s1 := updCopse s0 k (memberStep s p.job j a m0.ctx m i (p.done % p.size == 0) (laneSeed s k))
          let s2 := bumpPair (inject s1 k m.ring j.partition) (copsePage k + Reg.COPSE_STEPS_LO) 1
          let s3 := updCopse s2 k fun c =>
            { c with pass := some { p with done := p.done + 1 }
                     winSteps := c.winSteps + 1, winMult := c.winMult || m0.ctx.mode == 0
                     winLookup := c.winLookup || m0.ctx.mode != 0
                     winShort := c.winShort || (m0.ctx.mode == 2 && decide (p.size < 4)) }
          if p.done + 1 = p.steps * p.size then endPass s3 k p else s3
    | _, _, _ => s

def execCopseStep (p : CopsePath) (s : State) : Host.Outcome State Fault Refusal :=
  .next (if p.ok ∧ engineOn s then stepCopse s p.index else s)

/-! HARV (R92, R93, R99, R100) -/

/-- Bytes of a row of a harvest (R93). -/
def harvRowBytes (e : Nat) : Nat := 128 * targetBytes (fld e 118 116) * (if fld e 120 119 = 2 then 2 else 1)

/-- HARV: behind every step before it, the selected rings are read, combined, converted and written; the comparison is
then pending (R101). -/
def issueHarv (s : State) (u : UnitRef) : State :=
  match issueOf s u 3 with
  | none => s
  | some x =>
    let k := x.job.copseOf x.cal.index
    let c := getCopse s k
    let rings := harvRings x.entry
    if !mayRun c u.job ∨ c.pass.isSome ∨ c.harv.isSome then s
    else if rings.any fun r => !bitOf (maskFor c u.job) r then ringFault s u.job k x.job.partition
    else
      match harvClash x.alm c x.entry with
      | some (r1, r2) => columnMapFault s u.job (copsePage k) r1 r2
      | none =>
        match bufOf x.alm (fld x.entry 111 100) with
        | none => entryFault s u.job (copsePage k)
        | some b =>
          let off := 64 * fld x.entry 99 80
          let len := 255 * (64 * fld x.entry 79 64) + harvRowBytes x.entry
          match hardStop s x.job b off len with
          | some w => stopWrite s u.job (copsePage k) w
          | none =>
            let (s1, cmp) := harvest (touchBuf s u.job (fld x.entry 111 100) off len x.alm) u.job x.alm k x.entry
            let h : HarvRun := { job := u.job, cal := u.cal, entry := x.run.pc, borrower := isBorrower c u.job,
                                 attempt := 0, cmp := cmp, timedOut := false }
            launchCal (traceEntry (updCopse s1 k fun c => { c with harv := some h }) u x.run.pc 0) u

def execHarv (u : UnitRef) (s : State) : Host.Outcome State Fault Refusal := .next (issueHarv s u)

/-! HARV_COMPLETE (R76, R101, R104, R105, R107) -/

/-- The comparison passed: the counts go to the snapshot and the total as one action, and the entry is complete. -/
def passHarv (s : State) (k e : Nat) (h : HarvRun) : State :=
  let p1 := copsePage1 k
  let c := getCopse s k
  let l := harvCounts c e
  let g := fun i => l.getD i 0
  let tag := (aGetD c.sets (fld e 123 121) ScaleSet.blank).tag
  let put := fun (s : State) (a v : Nat) => setReg s (p1 + a) (BitVec.ofNat 32 v)
  let s1 := put (put (put (put (put s Reg.COPSE_SAT_EDGE (g 0)) Reg.COPSE_SAT_LUT (g 1)) Reg.COPSE_SAT_HARV (g 2))
    Reg.COPSE_SAT_RING (g 3)) Reg.COPSE_SAT_NAN (g 4)
  let s2 := setF (setF s1 (p1 + Reg.COPSE_SAT_SEQ) Fld.COPSE_SAT_SEQ_seq (getF s1 (p1 + Reg.COPSE_SAT_SEQ) Fld.COPSE_SAT_SEQ_seq + 1))
    (p1 + Reg.COPSE_SAT_SEQ) Fld.COPSE_SAT_SEQ_ctx_tag tag
  let s3 := bumpPair s2 (p1 + Reg.COPSE_SAT_TOTAL_LO) l.sum
  let s4 := bump s3 (p1 + Reg.COPSE_CHK_OK) 1
  let part := match getJob s h.job with | some j => j.partition | none => 0
  let s5 := if getF s4 (p1 + Reg.COPSE_SAT_CTL) Fld.COPSE_SAT_CTL_evt_en = 1 ∧ l.sum > (regGet s4 (p1 + Reg.COPSE_SAT_THRESH)).toNat
    then post s4 p1 0x0801 part (argPair (pathCode (copsePage k)) tag) (argPair (min (g 0) 0xFFFF) (min (g 1) 0xFFFF)) else s4
  let s6 := updCopse s5 k fun c => { c with harv := none }
  landCal (traceEntry s6 ⟨h.job, h.cal⟩ h.entry 1) ⟨h.job, h.cal⟩ h.entry

/-- The mismatch is recorded, counted and posted (R105). -/
def noteMismatch (s : State) (k ring : Nat) (h : HarvRun) : State :=
  let p1 := copsePage1 k
  let a := p1 + Reg.COPSE_CHK_LAST
  let low := fun (l : List Nat) => l.foldl min (l.headD 0)
  let part := match getJob s h.job with | some j => j.partition | none => 0
  let s1 := bump s (p1 + Reg.COPSE_CHK_FAIL) 1
  if h.timedOut then s1
  else
    let s2 := setF s1 a Fld.COPSE_CHK_LAST_n_rows (min h.cmp.rows.length 255)
    let s3 := setF s2 a Fld.COPSE_CHK_LAST_n_cols (min h.cmp.cols.length 255)
    let s4 := setF s3 a Fld.COPSE_CHK_LAST_first_row (low h.cmp.rows)
    let s5 := setF s4 a Fld.COPSE_CHK_LAST_first_col (low h.cmp.cols)
    let s6 := setF s5 a Fld.COPSE_CHK_LAST_corner (if h.cmp.corner then 1 else 0)
    post s6 p1 0x0503 part (argPair (pathCode (copsePage k)) ring) (argPair (low h.cmp.rows) (low h.cmp.cols))

/-- The partition of a job that is still listed. -/
def jobPart (s : State) (n : Nat) : Nat := match getJob s n with | some j => j.partition | none => 0

/-- Steps 2 to 4 of R107: the copse is suspect, its bindings move to spare copses, and the harvest repeats on the
spare. -/
def toSpare (s : State) (k e : Nat) (h : HarvRun) : State :=
  let b : CopseBind := { job := h.job, cal := h.cal, partition := jobPart s h.job }
  let s1 := markSuspect s k (jobPart s h.job)
  let s2 := updCopse (moveOther s1 k h.job) k fun c => { c with harv := some h }
  match moveToSpare s2 k b with
  | (s3, none) => endUnbindable s3 h.job
  | (s3, some x) =>
    match getJob s3 h.job with
    | none => s3
    | some j =>
      match jobAlm s3 j with
      | none => s3
      | some a =>
        let (s4, cmp) := harvest s3 h.job a x e
        updCopse s4 x fun c => { c with harv := some { h with attempt := 2, cmp := cmp, timedOut := false,
                                                              borrower := isBorrower c h.job } }

/-- Step 5 of R107: the replay on the spare mismatched too; step 6 ends the job the second time in succession. -/
def failSpare (s : State) (k : Nat) (h : HarvRun) : State :=
  let s1 := bumpF s (copsePage1 k + Reg.COPSE_HEALTH) Fld.COPSE_HEALTH_fail_count 1
  let s2 := updJob s1 h.job fun j => { j with copseRestarts := j.copseRestarts + 1 }
  match getJob s2 h.job with
  | none => s2
  | some j => if j.copseRestarts ≥ 2 then endJob s2 h.job stInternal 0 else rebindCopse s2 h.job k

/-- What a mismatch of the pending harvest brings next (R107). -/
def mismatch (s : State) (k e : Nat) (h : HarvRun) : State :=
  let s1 := noteMismatch s k (fld e 123 121) h
  if h.attempt = 0 then replayHarvest s1 k h 1 (harvRings e)
  else if h.attempt = 1 then toSpare s1 k e h
  else failSpare s1 k h

/-- The pending harvest of a copse with its HARV entry. -/
def pendingHarv (s : State) (k : Nat) : Option (HarvRun × Nat) :=
  match (getCopse s k).harv with
  | none => none
  | some h =>
    match getJob s h.job with
    | none => none
    | some j => (jobAlm s j).bind fun a => (a.cals[h.cal]?).map fun c => (h, c.entries.getD h.entry 0)

def finishHarv (s : State) (k : Nat) : State :=
  match pendingHarv s k with
  | none => s
  | some (h, e) =>
    let s1 := bump s (copsePage1 k + Reg.COPSE_CHK_UNCHECKED) h.cmp.unchecked
    if h.cmp.ok then passHarv s1 k e h else mismatch s1 k e h

def execHarvComplete (p : CopsePath) (s : State) : Host.Outcome State Fault Refusal :=
  .next (if p.ok ∧ engineOn s then finishHarv s p.index else s)

/-! COPSE_PASS_TIMEOUT (R45, R107) -/

/-- The pass in progress exceeded the copse limit: its group is replayed once and the set stepped again from its first
step; the second time the copse is suspect and the chains are rebuilt on a spare; on a spare copse the day ends. -/
def passTimeout (s : State) (k : Nat) (p : PassRun) : State :=
  let s0 := bump s (copsePage1 k + Reg.COPSE_CHK_FAIL) 1
  let h : HarvRun := { job := p.job, cal := p.cal, entry := (p.members.map (·.entry)).headD 0, borrower := p.borrower,
                       attempt := 0, cmp := ⟨[], [], false, 0⟩, timedOut := true }
  match getJob s0 p.job with
  | none => s0
  | some j =>
    match jobAlm s0 j with
    | none => s0
    | some a =>
      let c := getCopse s0 k
      if c.spareFor = some p.job then failSpare (updCopse s0 k fun c => { c with pass := none }) k h
      else if c.replays = 0 then
        let (c1, st) := replayChains s0 p.job j a p.cal h.entry k (p.members.map (·.ring))
        let s1 := bump (putReplay s0 k c1 st) (copsePage1 k + Reg.COPSE_CHK_REEXEC) 1
        updCopse s1 k fun c => { c with pass := some { p with done := 0 }, replays := 1 }
      else
        let b : CopseBind := { job := p.job, cal := p.cal, partition := j.partition }
        let s1 := moveOther (markSuspect (updCopse s0 k fun c => { c with harv := some h }) k j.partition) k p.job
        match moveToSpare s1 k b with
        | (s2, none) => endUnbindable s2 p.job
        | (s2, some x) => updCopse s2 x fun c =>
            { c with pass := some { p with done := 0, borrower := isBorrower c p.job }, replays := 0 }

/-- A pending harvest whose limit expired counts as a mismatch; the completion it overtakes is a late arrival. -/
def execCopsePassTimeout (p : CopsePath) (s : State) : Host.Outcome State Fault Refusal :=
  .next (
    let k := p.index
    if !p.ok ∨ !engineOn s then s
    else match pendingHarv s k with
      | some (h, e) => mismatch (bump s (standBase p.stand + Reg.STAND_TMO_LATE) 1) k e { h with timedOut := true }
      | none => match (getCopse s k).pass with
        | some r => passTimeout s k r
        | none => s)

end Sys2Proof.Machine
end

