-- ==== Sys2Proof/Machine/GangOps.lean ====
section
/-! DEFINITION. Gang steps: the rows of a step, the sums of the gradients among copies and among modules, the start of a
step's copies (R343, R349, R357, R358, R365, R366, R454). -/

namespace Sys2Proof.Machine

def updGang (s : State) (k : Nat) (f : Gang → Gang) : State := { s with gangs := aUpd s.gangs k f }

def gangAlm (s : State) (g : Gang) : Option (Alm × RowPlan) :=
  match aGet? s.alms g.alm with
  | some a => a.plan.map fun p => (a, p)
  | none => none

/-- The role-3 items of a gang with their places among the items and their bindings (R344). -/
def gangItems (g : Gang) (p : RowPlan) : List ((RowItem × Nat) × Binding) := (sectionItems p).zip g.binds

/-- The members whose rows run, with their slots. -/
def activeMembers (g : Gang) : List (Member × Nat) := g.members.zipIdx.filter fun m => m.1.active

/-! Rows (R365) -/

/-- The rows of one member in copy q: batch row and entry. -/
def memberRows (p : RowPlan) (q slot rowBytes rows : Nat) (m : Member) : List (Nat × RowTag) :=
  let R := rowsPerSlot p
  (List.range (min ((q + 1) * R) m.perStep - q * R)).map fun i =>
    let row := (m.first + m.run * m.perStep + q * R + i) % max 1 rows
    (slot * R + i, { valid := true, slot := slot, partition := m.partition, base := row * rowBytes, source := m.rowset, chunk := 0, bytes := [] })

/-- The row-tag table of copy q. -/
def gangRows (s : State) (g : Gang) (p : RowPlan) (q : Nat) : AMap RowTag :=
  (activeMembers g).flatMap fun m =>
    match aGet? s.rowsets (tabKey m.1.partition m.1.rowset) with
    | some r => memberRows p q m.2 r.rowBytes r.rows m.1
    | none => []

/-! The gradients of a step (R343, R357) -/

/-- The place of a gradient element in the order of R359: slot, site, A before B, element. -/
def gradKey (slot site what e : Nat) : Nat := slot * 2 ^ 40 + site * 2 ^ 33 + what * 2 ^ 32 + e

/-- The place of a scale record: slot, site, record. -/
def recKey (slot site q : Nat) : Nat := slot * 2 ^ 16 + site * 8 + q

/-- The scale record of a binding: 0 A, 1 B, 2 X, 3 H, 4 DY, 5 DH. -/
def bindRec (b : Binding) : Nat := if b.cls = 0 then b.what % 2 else 2 + b.what

/-- Where element e of a gradient lies in its section's lines: line and column (R344). -/
def gradPlace (ad : Adapter) (site what e : Nat) : Nat × Nat :=
  if what = 0 then let r := max 1 (descRank ad.desc); (e / r, e % r)
  else let d := max 1 (siteOut ad.sites site); (256 * (e % d / 128) + e / d, e % d % 128)

/-- The gradient of one member slot in one copy: its elements with their places. -/
def sectionGrads (s : State) (n : Nat) (j : Job) (bd : BufDef) (it : RowItem) (b : Binding) (ad : Adapter) (slot : Nat) : List (Nat × Nat) :=
  let body := bufRead s n j it.buf bd (slot * it.group + 512) (it.lines * it.line)
  (List.range (matLen ad.desc ad.sites b.site b.what)).map fun e =>
    let (l, c) := gradPlace ad b.site b.what e
    (gradKey slot b.site b.what e, leAt body (l * 512 + 4 * c) 4)

/-- An entry of a gradient section's map that names another slot than the section's group (R343). -/
def gradClash (s : State) (n : Nat) (j : Job) (bd : BufDef) (it : RowItem) (p : RowPlan) (slot : Nat) : Option (Nat × Nat) :=
  ((groupMap s n j it.buf bd it slot).find? fun w => mapValid w && slotOfEntry p w != slot).map fun w => (mapRow w, 0xFFF00 + slot)

/-- The gradient sections of a gang: item, binding, buffer. -/
def gradItems (g : Gang) (a : Alm) (p : RowPlan) : List (RowItem × Binding × BufDef) :=
  (gangItems g p).filterMap fun x =>
    if x.2.cls = 2 then (a.bufs[x.1.1.buf]?).map fun bd => (x.1.1, x.2, bd) else none

/-- Run over the gradient sections of the members that run, in a copy. -/
def copyGrads {α : Type} (s : State) (g : Gang) (a : Alm) (p : RowPlan)
    (f : Member → Nat → Adapter → RowItem → Binding → BufDef → List α) : List α :=
  (activeMembers g).flatMap fun m =>
    match aGet? s.adapters m.1.adapter with
    | none => []
    | some ad => (gradItems g a p).flatMap fun x => f m.1 m.2 ad x.1 x.2.1 x.2.2

/-- A copy's gradients. -/
def gradsOf (s : State) (g : Gang) (a : Alm) (p : RowPlan) (n : Nat) : AMap Nat :=
  match getJob s n with
  | none => []
  | some j => (copyGrads s g a p fun _ slot ad it b bd => sectionGrads s n j bd it b ad slot).foldl (fun m e => aPut m e.1 e.2) []

/-- The first column-map fault of a copy's gradient sections. -/
def clashOf (s : State) (g : Gang) (a : Alm) (p : RowPlan) (n : Nat) : Option (Nat × Nat) :=
  match getJob s n with
  | none => none
  | some j => (copyGrads s g a p fun _ slot _ it _ bd => (gradClash s n j bd it p slot).toList).head?

/-- A gradient section of a copy holds poison. -/
def gradsPoisoned (s : State) (g : Gang) (a : Alm) (p : RowPlan) (n : Nat) : Bool :=
  match getJob s n with
  | none => false
  | some j => (copyGrads s g a p fun _ slot _ it _ bd => bufPoison s n j bd (slot * it.group) it.group).length > 0

/-- Add maps element by element: FP32, RNE. -/
def addSums (x y : AMap Nat) : AMap Nat := x.map fun e => (e.1, fpAdd .rne 0 e.2 (aGetD y e.1 0))

def maxMaps (x y : AMap Nat) : AMap Nat := y.foldl (fun m e => aPut m e.1 (maxMag (aGetD m e.1 0) e.2)) x

/-- The maxima of a copy: of transposed quantities what the sorter met, of weight copies the masters' (R348, R349). -/
def maximaOf (s : State) (g : Gang) (p : RowPlan) (n : Nat) : AMap Nat :=
  match getJob s n with
  | none => []
  | some j => (activeMembers g).foldl (fun t m =>
      match aGet? s.adapters m.1.adapter with
      | none => t
      | some ad => (gangItems g p).foldl (fun t x =>
          if x.2.cls > 1 then t
          else
            let k := recKey m.2 x.2.site (bindRec x.2)
            let v := if x.2.cls = 0 then masterMax s.mem ad x.2.site (x.2.what % 2) else aGetD j.maxima (expKey x.1.2 m.2) 0
            aPut t k (maxMag (aGetD t k 0) v)) t) []

/-! Reduction among modules (R358, R454) -/

/-- The module of a rank of a group. -/
def rankModule (s : State) (group rank : Nat) : Nat :=
  match s.forest.cfg.bind fun c => c.groups.find? (·.num == group) with
  | some x => x.members.getD rank 0
  | none => 0

/-- The tag of a reduction message. -/
def redTag (s : State) (g : Gang) (level : Nat) : List Byte :=
  let dig := match aGet? s.alms g.alm with | some a => a.digest.take 8 | none => []
  let n := match g.members.head? with
    | some m => (match aGet? s.adapters m.adapter with | some ad => imgSteps s.mem ad | none => 0)
    | none => 0
  toLe 2 g.group ++ toLe 2 level ++ sub dig 0 8 ++ (sha512 g.bindBytes).take 8 ++ toLe 8 n ++ zeros 36

def redBytes (s : State) (g : Gang) (level : Nat) : List Byte :=
  redTag s g level ++ g.sums.flatMap (fun e => toLe 4 e.2) ++ g.maxima.flatMap fun e => toLe 4 e.2

/-- Send the present sums to a rank. -/
def sendRank (s : State) (k level rank : Nat) : State :=
  match aGet? s.gangs k with
  | none => s
  | some g => sendMsg s (rankModule s g.group rank) 0 (redBytes s g level) none

/-- The levels at which ranks sent their partials to this module. -/
def childLevels (g : Gang) (top : Nat) : List Nat :=
  (List.range top).filter fun j => g.rank % 2 ^ (j + 1) == 0 && decide (g.rank + 2 ^ j < g.count)

/-- G is known: it goes to every rank that sent to this module, the highest level first, and the update phase begins. -/
def totalKnown (s : State) (k : Nat) : State :=
  match aGet? s.gangs k with
  | none => s
  | some g =>
    let s1 := (childLevels g g.level).reverse.foldl (fun s j => sendRank s k j (g.rank + 2 ^ j)) s
    updGang s1 k fun g => { g with phase := 2 }

/-- Work through the levels until a wait or the total; the fuel is more than the levels there are. -/
def redAdvance (k : Nat) : Nat → State → State
  | 0, s => s
  | fuel + 1, s =>
    match aGet? s.gangs k with
    | none => s
    | some g =>
      let w := 2 ^ g.level
      if w ≥ g.count then totalKnown s k
      else if g.rank % (2 * w) = 0 then
        if g.rank + w < g.count then s else redAdvance k fuel (updGang s k fun g => { g with level := g.level + 1 })
      else sendRank s k g.level (g.rank - w)

/-- The rank that the module waits for: at its level a partial, or the total. -/
def awaitedRank (g : Gang) : Option Nat :=
  let w := 2 ^ g.level
  if g.phase ≠ 1 ∨ w ≥ g.count then none
  else if g.rank % (2 * w) = 0 then some (g.rank + w) else some (g.rank - w)

/-- The awaited message is a partial to add, not the total. -/
def awaitsPartial (g : Gang) : Bool := g.rank % (2 * 2 ^ g.level) == 0

/-! All copies have committed (R357, R366) -/

def reduceGang (s : State) (k : Nat) : State :=
  match aGet? s.gangs k with
  | none => s
  | some g =>
    match gangAlm s g with
    | none => s
    | some (a, p) =>
      match g.jobs.find? fun n => (clashOf s g a p n).isSome with
      | some n => let c := (clashOf s g a p n).getD (0, 0); columnMapFault s n pgDispatcher c.1 c.2
      | none =>
        if g.jobs.any (gradsPoisoned s g a p) then
          endGang (bump (post s pgDispatcher 0x0202 4095 0 0) Reg.RAS_POISON_CONS 1) k stPoisoned
        else
          let sums := match g.jobs with
            | [] => []
            | n :: r => r.foldl (fun t m => addSums t (gradsOf s g a p m)) (gradsOf s g a p n)
          let top := g.jobs.foldl (fun t n => maxMaps t (maximaOf s g p n)) []
          redAdvance k 10 (updGang s k fun g => { g with sums := sums, maxima := top, phase := 1, level := 0 })

/-- A copy committed its final day. -/
def copyCommitted (s : State) (k n : Nat) : State :=
  let s1 := updGang s k fun g => { g with committedJobs := g.committedJobs ++ [n] }
  match aGet? s1.gangs k with
  | some g => if g.jobs.all g.committedJobs.contains then reduceGang s1 k else s1
  | none => s1

/-! The next step (R366) -/

/-- Start a copy's almanac again on its binding, with the rows of the step. -/
def startCopy (s : State) (k n q : Nat) : State :=
  match aGet? s.gangs k, getJob s n with
  | some g, some j =>
    match jobAlm s j with
    | none => s
    | some a =>
      let rows := match a.plan with | some p => gangRows s g p q | none => []
      let s1 := updJob s n fun x => { x with
        rows := rows, day := 0, finished := false, toks := initToks a, staging := [], maxima := [], pfDone := [],
        dayStart := s.tb, faultRestarts := 0, copseRestarts := 0, poisonRestarts := 0, sealRestarts := 0,
        cals := x.cals.map fun _ => CalRun.start 0 }
      restartHot (fillCopies (fillRoutes (clearSections s1 n) n) n) n
  | _, _ => s

def startStep (s : State) (k : Nat) : State :=
  match aGet? s.gangs k with
  | none => s
  | some g => (g.jobs.zipIdx).foldl (fun s x => startCopy s k x.1 x.2)
      (updGang s k fun g => { g with phase := 0, level := 0, committedJobs := [], sums := [], maxima := [] })

end Sys2Proof.Machine
end

