-- ==== Sys2Proof/Machine/DayOps.lean ====
section
/-! DEFINITION. What the calendars' waiting entries and the commit of a day share (R136 to R151, R271, R272, R320,
R328). -/

namespace Sys2Proof.Machine

/-! Halting entries -/

/-- A copse calendar goes on only while its binding may run on the copse (R112). -/
def unitRuns (s : State) (u : UnitRef) (x : Issue) : Bool :=
  x.cal.kind != 0 || mayRun (getCopse s (x.job.copseOf x.cal.index)) u.job

/-- Halt a calendar at its next entry; the halt is traced once. -/
def haltCal (s : State) (u : UnitRef) (x : Issue) (h : Halt) : State :=
  if x.run.halt = .running then
    updCal (traceEntry (traceEntry s u x.run.pc 0) u x.run.pc 2) u fun r => { r with halt := h, late := false }
  else s

/-- Go on past an entry that may have halted. -/
def passEntry (s : State) (u : UnitRef) (x : Issue) : State :=
  let s1 := if x.run.halt = .running then traceEntry s u x.run.pc 0 else traceEntry s u x.run.pc 3
  stepCal (traceEntry s1 u x.run.pc 1) u

/-- PUT: after the writes of every earlier entry, and once the channel has room, all its tokens are placed (R136). -/
def issuePut (s : State) (u : UnitRef) : State :=
  match issueOf s u 9 with
  | none => s
  | some x =>
    let ch := fld x.entry 123 108
    let n := fld x.entry 107 102 + 1
    let have0 := x.job.toks.getD ch 0
    let cap := match x.alm.chans[ch]? with | some c => c.capacity | none => 0
    if !unitRuns s u x ∨ !x.run.inFlight.isEmpty ∨ have0 + n > cap then s
    else stepCal (traceWhole (updJob s u.job fun j => { j with toks := j.toks.set ch (have0 + n) }) u x.run.pc) u

/-- TAKE: the tokens are removed at once where they are present, else the calendar halts (R136). -/
def issueTake (s : State) (u : UnitRef) : State :=
  match issueOf s u 10 with
  | none => s
  | some x =>
    let ch := fld x.entry 123 108
    let n := fld x.entry 107 102 + 1
    let have0 := x.job.toks.getD ch 0
    if !unitRuns s u x then s
    else if have0 < n then haltCal s u x .atTake
    else passEntry (updJob s u.job fun j => { j with toks := j.toks.set ch (have0 - n) }) u x

/-- The staging state of a buffer: empty with tag 0 where it is not listed. -/
def stagingOf (j : Job) (b : Nat) : Staging := aGetD j.staging b ⟨.empty, 0⟩

/-- WAIT: go on at once on a full buffer with the expected tag, else halt until a fill completes (R149). -/
def issueWait (s : State) (u : UnitRef) : State :=
  match issueOf s u 11 with
  | none => s
  | some x =>
    match x.alm.waits[fld x.entry 123 108]? with
    | none => s
    | some w =>
      let st := stagingOf x.job w.buf
      if !unitRuns s u x then s
      else if st.fill = .full ∧ st.tag = w.tag then passEntry s u x
      else haltCal s u x (.atWait s.tb)

/-- FENCE: hold later entries until every earlier one is complete (R139). -/
def issueFence (s : State) (u : UnitRef) : State :=
  match issueOf s u 13 with
  | none => s
  | some x =>
    if !unitRuns s u x then s
    else if x.run.inFlight.isEmpty then passEntry s u x
    else haltCal s u x .atFence

/-- DAY: the unit halts (R144). -/
def issueDay (s : State) (u : UnitRef) : State :=
  match issueOf s u 12 with
  | none => s
  | some x => if !unitRuns s u x then s else haltCal s u x .atDay

/-- A fill completed into a buffer: what it does to each calendar halted at a WAIT on it (R150). -/
def fillWaits (s : State) (n b : Nat) : State :=
  match getJob s n with
  | none => s
  | some j =>
    match jobAlm s j with
    | none => s
    | some a =>
      let st := stagingOf j b
      (List.range j.cals.length).foldl (fun s i =>
        match getJob s n with
        | none => s
        | some j1 =>
          match j1.cals[i]?, a.cals[i]? with
          | some r, some c =>
            match r.halt with
            | .atWait _ =>
              let e := c.entries.getD r.pc 0
              match a.waits[fld e 123 108]? with
              | none => s
              | some w =>
                if w.buf ≠ b ∨ st.fill ≠ .full then s
                else if st.tag = w.tag then passEntry s ⟨n, i⟩ ⟨j1, a, c, r, e⟩
                else endJob (post s pgDispatcher 0x0504 j1.partition (fld e 123 108) (argPair w.tag st.tag)) n stInternal 0
            | _ => s
          | _, _ => s) s

/-! Working pages of tables (R320) -/

/-- Give a job a working page for a page of the building version it scatters into, charged unless the version has
copied it already; none where the charge does not fit. -/
def tabWorkPage (s : State) (n : Nat) (pin : TablePin) (pg : Nat) : Option State :=
  match getJob s n with
  | none => none
  | some j =>
    let key := (pin.table + 1) * 2 ^ 32 + pg
    if aHas j.work key then some s
    else
      match (aGet? s.tables (tabKey j.partition pin.table)).bind (·.building) with
      | none => none
      | some b =>
        let new := !b.copied.contains pg
        if new && !fits s j.partition 3 65536 then none
        else
          match firstPage s (liveStacks s) with
          | none => none
          | some p =>
            let s1 := takePage (if new then charge s j.partition 3 65536 else s) j.partition p
            let s2 := match b.pages[pg]? with | some q => memCopy s1 (locPage q) (locPage p) 65536 | none => s1
            some (updJob s2 n fun j => { j with work := aPut j.work key p })

/-- Write bytes into the building version of a job's table at a byte offset; none where a charge does not fit. The fuel
bounds the pages. -/
def tabWrite (n : Nat) (pin : TablePin) : Nat → State → Nat → List Byte → Option State
  | 0, s, _, _ => some s
  | fuel + 1, s, off, l =>
    if l.isEmpty then some s
    else
      match tabWorkPage s n pin (off / 65536) with
      | none => none
      | some s1 =>
        let p := match getJob s1 n with | some j => aGetD j.work ((pin.table + 1) * 2 ^ 32 + off / 65536) 0 | none => 0
        let room := 65536 - off % 65536
        tabWrite n pin fuel (memWrite s1 (locPage p + off % 65536) (l.take room)) (off + room) (l.drop room)

/-- Write a row's home copy in the day's working pages. -/
def writeHome (s : State) (n : Nat) (pin : TablePin) (t : Table) (r : Nat) (row : List Byte) : Option State :=
  tabWrite n pin 3 s (r * t.stride) row

/-- Replace a pin of a job. -/
def updPin (s : State) (n i : Nat) (f : TablePin → TablePin) : State :=
  updJob s n fun j => { j with tables := match j.tables[i]? with | some p => j.tables.set i (f p) | none => j.tables }

/-- Write back every dirty hot row of a job, those whose write-back was in flight among them (R328); none where a page's
charge does not fit. -/
def writeBackHot (s : State) (n : Nat) : Option State :=
  match getJob s n with
  | none => some s
  | some j =>
    (j.tables.zipIdx).foldl (fun acc x =>
      match acc with
      | none => none
      | some s =>
        match aGet? s.tables (tabKey j.partition x.1.table) with
        | none => some s
        | some t =>
          (x.1.hot.filter fun h => h.2.dirty).foldl (fun acc h =>
            match acc with
            | none => none
            | some s =>
              match writeHome s n x.1 t h.1 h.2.copy with
              | none => none
              | some s1 =>
                if h.2.state = 3 then some (updPin s1 n x.2 fun p => { p with hot := aDel p.hot h.1 })
                else
                  let s2 := updPin s1 n x.2 fun p => { p with hot := aUpd p.hot h.1 fun r => { r with dirty := false } }
                  some (bump s2 Reg.TBL_HOT_WB 1)) (some s)) (some s)

/-! The commit (R145) -/

/-- Passes, harvests or calendars of a job are not at rest. -/
def jobBusy (s : State) (n : Nat) : Bool :=
  s.copses.any fun e => (match e.2.pass with | some p => p.job == n | none => false)
    || (match e.2.harv with | some h => h.job == n | none => false)

/-- Every calendar has reached DAY d and every write and comparison of the day is done (R144). -/
def dayDone (s : State) (n : Nat) (j : Job) : Bool :=
  j.isBound && !j.finished && j.cals.all (fun r => r.halt == .atDay && r.inFlight.isEmpty) && !jobBusy s n

/-- The working pages become the committed pages. -/
def swapPages (s : State) (n : Nat) : State :=
  match getJob s n with
  | none => s
  | some j =>
    let s1 := j.work.foldl (fun (s : State) w =>
      if w.1 < 2 ^ 32 then
        let s' := match j.pages[w.1]? with | some p => freePages (swapPlaces s p w.2) [p] | none => s
        updJob s' n fun x => { x with pages := x.pages.set w.1 w.2 }
      else
        let k := tabKey j.partition (w.1 / 2 ^ 32 - 1)
        let pg := w.1 % 2 ^ 32
        match (aGet? s.tables k).bind (·.building) with
        | none => s
        | some b =>
          let s' := if b.copied.contains pg then freePages (swapPlaces s (b.pages.getD pg 0) w.2) [b.pages.getD pg 0] else s
          updTable s' k fun t => { t with building := t.building.map fun b =>
            { b with pages := b.pages.set pg w.2, copied := if b.copied.contains pg then b.copied else pg :: b.copied } }) s
    updJob s1 n fun x => { x with work := [] }

/-- Directory entries of segments written in the day, keyed 2^40 higher, become the committed ones (R351). -/
def commitSegs (s : State) (n : Nat) : State :=
  updJob s n fun j => { j with segDir :=
    (j.segDir.filter fun e => e.1 ≥ 2 ^ 40).foldl (fun m e => aPut m (e.1 - 2 ^ 40) e.2) (j.segDir.filter fun e => e.1 < 2 ^ 40) }

/-- The held extent writes pass to the translation layer; a unit that a poisoned line reaches becomes poisoned
(R496). -/
def passHeld (s : State) (n : Nat) : State :=
  match getJob s n with
  | none => s
  | some j =>
    let (s1, os) := j.held.foldl (fun (acc : State × List Nat) h =>
      let (s1, os) := writeNow acc.1 h.partition h.off h.data
      if h.bad then
        ((piecesOf h.off h.data).foldl (fun s x => match unitIdx s h.partition x.1 with
          | some i => mapSet { s with ftl := { s.ftl with buf := s.ftl.buf.filter fun b => b.idx != i } } i (some poisonedEntry)
          | none => s) s1, acc.2)
      else (s1, acc.2 ++ os)) (s, [])
    updJob s1 n fun x => { x with held := [], orders := x.orders ++ os }

/-- Window copies of the commons pages that a commons job wrote are freed, those pinned when their readers are done
(R191). -/
def freeWindow (s : State) (pgs : List Nat) : State :=
  let hit := fun (k : Nat) => pgs.contains (k % 2 ^ 40)
  { s with mem := { s.mem with window :=
      (s.mem.window.filter fun e => !(hit e.1 && e.2.pins == 0)).map fun e => if hit e.1 then (e.1, { e.2 with stale := true }) else e } }

/-- The prefetch pins of the day that ends are released (R190); those of pages that a later entry reads stay. A key of
pfDone is calendar × 2^24 + entry, beside the page's key. -/
def endDayPins (s : State) (n : Nat) : State :=
  match getJob s n with
  | none => s
  | some j =>
    let live := j.pfDone.filter fun x => match j.cals[x.1 / 2 ^ 24]? with | some r => decide (r.pc < x.1 % 2 ^ 24) | none => false
    let s1 := updJob s n fun x => { x with pfDone := live }
    (s.mem.resident.filter fun e => e.2.prefetched == some n && !(live.any fun x => x.2 == e.1)).foldl (fun s e =>
      unpinCopy { s with mem := { s.mem with resident := aUpd s.mem.resident e.1 fun c => { c with prefetched := none } } } e.1) s1

/-- Go on to the dawn of the next day (R141, R144): transient and staging buffers hold nothing across it. -/
def nextDawn (s : State) (n : Nat) (a : Alm) : State :=
  match getJob s n with
  | none => s
  | some j =>
    let s1 := (List.range j.cals.length).foldl (fun s i => match j.cals[i]? with
      | some r => traceEntry (traceEntry s ⟨n, i⟩ r.pc 3) ⟨n, i⟩ r.pc 1
      | none => s) (endDayPins s n)
    let s2 := (a.bufs.filter fun b => b.kind == 0 || b.kind == 4).foldl (fun s b => scrambleBuf s n j b) s1
    let s3 := updJob s2 n fun j => { j with
      cals := j.cals.map fun r => { CalRun.start (r.pc + 1) with draw := none }
      toks := initToks a, staging := [], dayStart := s.tb, dropPosted := false
      slots := j.slots.map fun e => (e.1, { e.2 with thisDay := false }), prefetched := [] }
    fillCopies s3 n

/-! The delivery of routes (R272) -/

/-- Columns of a route that name a batch row whose row-tag entry is valid: batch row and vector. -/
def routeVectors (s : State) (n : Nat) (j : Job) (a : Alm) (p : RowPlan) (it : RowItem) : List (RowTag × List Byte) :=
  match bufOf a it.buf with
  | none => []
  | some b =>
    (List.range (p.maxRows / 128)).flatMap fun g =>
      let m := groupMap s n j it.buf b it g
      let body := bufRead s n j it.buf b (g * it.group + 512) (it.lines * it.line)
      (m.zipIdx).filterMap fun w =>
        if mapValid w.1 then
          match aGet? j.rows (mapRow w.1) with
          | some t => if t.valid then
              some (t, (List.range it.lines).flatMap fun l => sub body (l * it.line + w.2 * it.esz) it.esz)
            else none
          | none => none
        else none

/-- Deliver the output routes of a tagged job at its final commit. -/
def deliverRoutes (s : State) (n : Nat) (j : Job) (a : Alm) (p : RowPlan) : State :=
  (p.items.filter (·.role == 2)).foldl (fun s it =>
    (routeVectors s n j a p it).foldl (fun s x =>
      let t := x.1
      if j.kind = 1 then
        match aGet? s.rowsets (tabKey t.partition t.source) with
        | some r => pagesWrite s r.pages (t.base + it.routeOff) x.2
        | none => s
      else if j.kind = 2 then
        bumpPair (updIndex s t.partition fun i => { i with ingest := aUpd i.ingest t.source fun o =>
          { o with vectors := aPut o.vectors t.chunk x.2 } }) Reg.COMMONS_CHUNKS_LO 1
      else { s with searches := aUpd s.searches t.source fun q => { q with query := x.2, phase := .waiting } }) s) s

/-- Poison in a range that a delivery reads (R497): the outputs of a command, or the output routes. -/
def outputPoison (s : State) (n : Nat) (j : Job) (a : Alm) : Bool :=
  (a.bufs.zipIdx).any fun x =>
    let out : Bool := if a.plan.isSome then (match planItem a x.2 with | some (_, it) => it.role == 2 | none => false) else x.1.kind == 3
    out && !(bufPoison s n j x.1 0 x.1.size).isEmpty

/-- The contents of the output buffers in rising number (R386). -/
def outputs (s : State) (n : Nat) (j : Job) (a : Alm) : List Byte :=
  (a.bufs.zipIdx).flatMap fun x => if x.1.kind = 3 then bufRead s n j x.2 x.1 0 x.1.size else []

/-- Complete a command whose job committed its final day (R145, R163, R321, R385). -/
def finishCommand (s : State) (n : Nat) (j : Job) (a : Alm) : State :=
  let body := outputs s n j a
  let (s1, refused) := releaseJob s n
  match findOut s1 j.sqid j.cid with
  | none => s1
  | some o =>
    let st := if refused then stEpoch else if j.restarts > 0 then stRemapped else stSuccess
    let (s2, r) := answerReply s1 ⟨o.cmd, o.opcode, o.cmd.partOf, o.sealedBy, []⟩ st a.days.length j.restarts body
    match r with
    | some r => if o.cmd.durable then
        match whenDurable s2 o.cmd j.orders r with
        | (s3, some r) => completeAt s3 j.sqid j.cid r
        | (s3, none) => s3
      else completeAt s2 j.sqid j.cid r
    | none => s2

/-- The final day of a job is committed. -/
def finishJob (s : State) (n : Nat) (j : Job) (a : Alm) : State :=
  match a.plan with
  | none => if j.command then finishCommand s n j a else (releaseJob s n).1
  | some p =>
    let s1 := deliverRoutes s n j a p
    if j.kind = 1 then
      let s2 := updJob s1 n fun x => { x with finished := true }
      match j.gang with
      | some k => copyCommitted s2 k n
      | none => s2
    else
      let s2 := { s1 with commons := { s1.commons with batches := s1.commons.batches.filter (·.job != n)
                                                       queryJobs := s1.commons.queryJobs.filter (·.1 != n) } }
      (releaseJob s2 n).1

/-- Commit the day of a job whose calendars have all reached it (R144, R145). -/
def commitDay (s : State) (n : Nat) (j : Job) (a : Alm) : State :=
  match writeBackHot s n with
  | none => endJob s n stQuota 0
  | some s1 =>
    let last := decide (j.day + 1 ≥ a.days.length)
    if last && outputPoison s1 n j a then consumePoison s1 n pgDispatcher j.partition (locPage (j.pages.headD 0))
    else
      let wrote := (j.work.filter (·.1 < 2 ^ 32)).map (·.1)
      let s2 := commitSegs (passHeld (swapPages s1 n) n) n
      let s3 := if j.partition = 4095 ∧ a.plan.isNone then freeWindow s2 wrote else s2
      let s4 := updJob s3 n fun x => { x with day := x.day + 1, faultRestarts := 0, copseRestarts := 0, poisonRestarts := 0,
                                              sealRestarts := 0 }
      let s5 := if j.command ∧ j.kind = 0 then
          updProg s4 j.sqid j.cid fun r => { r with lastDay := some j.day, units := r.units + a.days.getD j.day 0 }
        else s4
      let s5 := if j.kind = 1 ∧ j.copy = 0 then
          updProg s5 j.sqid j.cid fun r => { r with lastDay := some j.day }
        else s5
      let s6 := bumpPair s5 Reg.DSP_COMMITS_LO 1
      match getJob s6 n with
      | none => s6
      | some j1 => if last then finishJob s6 n j1 a else nextDawn s6 n a

end Sys2Proof.Machine
end

