-- ==== Sys2Proof/Machine/MoverOps.lean ====
section
/-! DEFINITION. What a MOVE does to the directory, the media and the segments it codes: resident copies of extent pages
(R187 to R195), window copies of commons pages (R191), media accesses (R224), the block compressor (R351). -/

namespace Sys2Proof.Machine

/-! Resident copies (R187, R192 to R194) -/

/-- The pages charged to a partition in the directory, unpinned, the least recently read first. -/
def leastRead (m : AMap Copy) (ok : Nat → Copy → Bool) : Option Nat :=
  (m.filter fun e => e.2.pins == 0 && ok e.1 e.2).foldl (fun (b : Option (Nat × Nat)) e =>
    match b with
    | none => some (e.1, e.2.lastRead)
    | some x => if e.2.lastRead < x.2 then some (e.1, e.2.lastRead) else b) none |>.map (·.1)

/-- Partition 4,095 is over its limit in a tier through charges passed to it (R195). -/
def commonsOver (s : State) (tier : Nat) : Bool :=
  let q := getPart s 4095
  decide (listAt q.charge tier > listAt q.quota tier)

/-- Make room for n bytes of a partition in the stack quota by evicting its least recently read unpinned pages; the
fuel bounds the evictions. None where nothing more can be evicted (R193). -/
def roomFor3 (part n : Nat) : Nat → State → Option State
  | 0, s => if fits s part 3 n then some s else none
  | fuel + 1, s =>
    if part = 4095 ∧ commonsOver s 3 then none
    else if fits s part 3 n then some s
    else
      match leastRead s.mem.resident fun _ c => c.charged == part && c.prefetched.isNone with
      | none => none
      | some k => roomFor3 part n fuel (bump (dropCopy s k) Reg.MIG_EVICT 1)

/-- Make a namespace page resident on a stack of the stand whose channel holds it, charged to a partition (R187, R192).
None where the charge or the stack has no room. -/
def makeResident (s : State) (owner page part : Nat) (pf : Option Nat) : Option State :=
  match roomFor3 part 65536 s.mem.resident.length s with
  | none => none
  | some s1 =>
    let st := match (unitIdx s1 owner (4 * page)).bind (mapGet s1 ·) with
      | some e => addrStand e.addr
      | none => (presentStands s1).headD 0
    let ks := (List.range 3).map (3 * st + ·)
    match firstPage s1 (ks ++ (liveStacks s1).filter fun k => !ks.contains k) with
    | none => none
    | some p =>
      let s2 := takePage (charge s1 part 3 65536) owner p
      let s3 := memPaste s2 (locPage p) 65536 (nsSlice s2 owner (page * 65536) 65536) (nsPoison s2 owner (page * 65536) 65536)
      let c : Copy := { place := p, charged := part, pins := if pf.isSome then 1 else 0, lastRead := s.tb, deferred := false,
                        stale := false, prefetched := pf }
      some (bump { s3 with mem := { s3.mem with resident := aPut s3.mem.resident (extentKey owner page) c } }
        (if pf.isSome then Reg.MIG_PF_ISSUED else Reg.MIG_FILL) 1)

/-- A usable resident copy. -/
def hasCopy (s : State) (owner page : Nat) : Bool :=
  match aGet? s.mem.resident (extentKey owner page) with | some c => !c.stale | none => false

/-- A read of a resident page: the time is noted, its prefetch pin is released by its job's first read (R190). -/
def readCopy (s : State) (n owner page : Nat) : State :=
  let k := extentKey owner page
  match aGet? s.mem.resident k with
  | none => s
  | some c =>
    let s1 := { s with mem := { s.mem with resident := aPut s.mem.resident k { c with lastRead := s.tb } } }
    if c.prefetched = some n then
      unpinCopy { s1 with mem := { s1.mem with resident := aUpd s1.mem.resident k fun c => { c with prefetched := none } } } k
    else s1

/-! Media accesses (R224) -/

/-- The waiter that a MOVE's media accesses name: job, calendar, entry. -/
def moveWaiter (u : UnitRef) (entry : Nat) : Nat := (u.job * 65536 + u.cal) * 2 ^ 24 + entry

/-- Start the media accesses that a read of a namespace range needs: of units that are neither buffered nor held in a
resident copy (R188, R239). -/
def accessRange (s : State) (asker waiter p off len : Nat) : State :=
  (List.range ((off + len + unitSize - 1) / unitSize - off / unitSize)).foldl (fun s i =>
    let u := off / unitSize + i
    if hasCopy s p (u / 4) then s
    else match unitIdx s p u with
      | none => s
      | some idx => match readUnit s idx with
        | .flash _ addr => startAccess s false asker waiter idx addr
        | _ => s) s

/-- A read of an extent: cache pages that missed become resident, resident ones are read (R187, R193). -/
def residePages (s : State) (n part : Nat) (b : BufDef) (o len : Nat) : State :=
  match extentOf s b with
  | none => s
  | some x =>
    let off := x.offset + b.offset + o
    (List.range ((off + len + 65535) / 65536 - off / 65536)).foldl (fun s i =>
      let pg := off / 65536 + i
      if hasCopy s b.owner pg then readCopy s n b.owner pg
      else if x.policy = 1 then
        match makeResident s b.owner pg part none with
        | some s1 => s1
        | none => bump s Reg.MIG_BYPASS 1
      else s) s

/-! Migration windows (R169, R191 to R193) -/

def windowKey (g page : Nat) : Nat := g * 2 ^ 40 + page

/-- Pages that a glade's window holds (R169). -/
def windowSize (s : State) (g : Nat) : Nat :=
  getF s (gladePage g + Reg.GLADE_SCR_CFG) Fld.GLADE_SCR_CFG_mig_win * 8

def windowLoc (s : State) (g place : Nat) : Nat := locGlade g + 31457280 - windowSize s g * 65536 + place * 65536

/-- Drop a window copy: its charge is credited. -/
def dropWindow (s : State) (k : Nat) : State :=
  match aGet? s.mem.window k with
  | none => s
  | some c => credit { s with mem := { s.mem with window := aDel s.mem.window k } } c.charged 1 65536

/-- The lowest free place of a glade's window; evicting its least recently read unpinned copy, those charged to 4,095
first, where it is full. -/
def windowPlace (s : State) (g : Nat) : Option (State × Nat) :=
  let mine := fun (k : Nat) => k / 2 ^ 40 == g
  let used := fun (s : State) => (s.mem.window.filter fun e => mine e.1).map (·.2.place)
  let pick := fun (s : State) => (List.range (windowSize s g)).find? fun p => !(used s).contains p
  match pick s with
  | some p => some (s, p)
  | none =>
    let v := match leastRead s.mem.window fun k c => mine k && c.charged == 4095 with
      | some k => some k
      | none => leastRead s.mem.window fun k _ => mine k
    match v with
    | none => none
    | some k =>
      let s1 := bump (dropWindow s k) Reg.MIG_EVICT 1
      (pick s1).map fun p => (s1, p)

/-- Evict a partition's own window copies of a glade until the charge fits (R193). -/
def roomForWindow (part : Nat) : Nat → State → Option State
  | 0, s => if fits s part 1 65536 then some s else none
  | fuel + 1, s =>
    if part = 4095 ∧ commonsOver s 1 then none
    else if fits s part 1 65536 then some s
    else match leastRead s.mem.window fun _ c => c.charged == part with
      | none => none
      | some k => roomForWindow part fuel (bump (dropWindow s k) Reg.MIG_EVICT 1)

/-- A glade mover reads a commons page (R191): from its window copy, else from the stack, the page then being copied
into the window where there is room. -/
def promote (s : State) (g part pg : Nat) : State :=
  let k := windowKey g pg
  match aGet? s.mem.window k with
  | some c =>
    if c.stale then s
    else bump { s with mem := { s.mem with window := aPut s.mem.window k { c with lastRead := s.tb } } }
      (gladePage g + Reg.GLADE_MIG_HIT) 1
  | none =>
    if windowSize s g = 0 then s
    else
      match aGet? s.commons.resident pg with
      | none => s
      | some src =>
        match (roomForWindow part s.mem.window.length s).bind (windowPlace · g) with
        | none => bump s Reg.MIG_BYPASS 1
        | some (s1, p) =>
          let s2 := memCopy (charge s1 part 1 65536) (locPage src) (windowLoc s1 g p) 65536
          let c : Copy := { place := p, charged := part, pins := 0, lastRead := s.tb, deferred := false, stale := false,
                            prefetched := none }
          bump { s2 with mem := { s2.mem with window := aPut s2.mem.window k c } } (gladePage g + Reg.GLADE_MIG_FILL) 1

/-! The block compressor (R351) -/

/-- One coded line: the mask of its nonzero bytes, then those bytes. -/
def codeLine (l : List Byte) : List Byte :=
  let mask := ((l.zipIdx).map fun x => if x.1 = 0 then 0 else 2 ^ x.2).sum
  toLe 8 mask ++ l.filter (· != 0)

def lines64 (l : List Byte) : List (List Byte) := (List.range (l.length / 64)).map fun i => sub l (64 * i) 64

/-- The stored form of a segment: its bytes and its directory entry, bit 63 coded, bits [16:0] the stored length. -/
def codeSegment (l : List Byte) : List Byte × Nat :=
  let c := (lines64 l).flatMap codeLine
  let padded := c ++ zeros ((64 - c.length % 64) % 64)
  if padded.length + 64 ≤ l.length then (padded, 2 ^ 63 + padded.length) else (l, l.length)

/-- Decode lines of a stored segment. -/
def decodeLines : Nat → List Byte → List Byte
  | 0, _ => []
  | k + 1, l =>
    let mask := leAt l 0 8
    let pos := fun (i : Nat) => ((List.range i).filter fun t => bitOf mask t).length
    let n := pos 64
    (List.range 64).map (fun i => if bitOf mask i then l.getD (8 + pos i) 0 else 0) ++ decodeLines k (l.drop (8 + n))

/-- The directory key of a segment; entries of the running day are keyed 2^40 higher until they commit. -/
def segKey (b seg : Nat) : Nat := b * 2 ^ 24 + seg

/-- The directory entry of a segment: the day's own, else the committed one, else all zeros. -/
def segEntry (j : Job) (b seg : Nat) : Nat :=
  match aGet? j.segDir (2 ^ 40 + segKey b seg) with | some e => e | none => aGetD j.segDir (segKey b seg) 0

/-- Put a directory entry of the day. -/
def putSeg (s : State) (n b seg e : Nat) : State :=
  updJob s n fun j => { j with segDir := aPut j.segDir (2 ^ 40 + segKey b seg) e }

/-- The segments of a length: index, length. -/
def segsOf (len : Nat) : List (Nat × Nat) :=
  (List.range ((len + 65535) / 65536)).map fun i => (i, min 65536 (len - 65536 * i))

/-- A compress MOVE: each segment coded where that saves a line. -/
def moveCompress (s : State) (n : Nat) (sn : Nat) (sb : BufDef) (so : Nat) (dn : Nat) (db : BufDef) (d len : Nat) : State :=
  (segsOf len).foldl (fun s x =>
    match getJob s n with
    | none => s
    | some j =>
      let raw := bufRead s n j sn sb (so + 65536 * x.1) x.2
      let (l, e) := codeSegment raw
      let dst := d + 65536 * x.1
      let bad := !(bufPoison s n j sb (so + 65536 * x.1) x.2).isEmpty
      let s1 := if bad then bufWrite s n dn db dst x.2 [] ((List.range (x.2 / 64)).map (64 * ·))
        else bufPut s n dn db dst l
      let s2 := bumpPair (bumpPair s1 Reg.ADPT_CMP_IN_LO x.2) Reg.ADPT_CMP_OUT_LO l.length
      putSeg s2 n dn (dst / 65536) (if bad then 0 else e)) s

/-- A decompress MOVE: each segment decoded by its directory entry. -/
def moveDecompress (s : State) (n : Nat) (sn : Nat) (sb : BufDef) (so : Nat) (dn : Nat) (db : BufDef) (d len : Nat) : State :=
  (segsOf len).foldl (fun s x =>
    match getJob s n with
    | none => s
    | some j =>
      let src := so + 65536 * x.1
      let e := segEntry j sn (src / 65536)
      let bad := !(bufPoison s n j sb src (if bitOf e 63 then e % 2 ^ 17 else x.2)).isEmpty
      let raw := bufRead s n j sn sb src x.2
      let l := if bitOf e 63 then decodeLines (x.2 / 64) (raw.take (e % 2 ^ 17)) else raw
      if bad then bufWrite s n dn db (d + 65536 * x.1) x.2 [] ((List.range (x.2 / 64)).map (64 * ·))
      else bufPut s n dn db (d + 65536 * x.1) l) s

/-! Tier-5 slots (R355) -/

/-- The slots of a range that were written in the day, so that a read of them is checked. -/
def slotsToCheck (j : Job) (bn o len : Nat) : List Nat :=
  ((pagesOfRange o len).map fun x => x.1 / 65536).filter fun k =>
    match aGet? j.slots (slotKey bn k) with | some h => h.thisDay | none => false

def fetchedSlot (j : Job) (bn slot : Nat) : Option SlotFetch := j.prefetched.find? fun f => f.buf == bn && f.slot == slot

/-- The content of a tier-5 range as its prefetched slots give it. -/
def slotSlice (j : Job) (bn o len : Nat) : Bytes :=
  (pagesOfRange o len).flatMap fun x =>
    match fetchedSlot j bn (x.1 / 65536) with
    | some f => if (slotsToCheck j bn x.1 x.2).isEmpty then [] else (bSlice f.plain (x.1 % 65536) x.2).map fun e => (e.1 + (x.1 - o), e.2)
    | none => []

end Sys2Proof.Machine
end

