-- ==== Sys2Proof/Machine/Movers.lean ====
section
/-! DEFINITION. The meanings of MOVE, its completion and the prefetch of tier-5 slots (R129, R130, R185 to R195, R351 to
R356). -/

namespace Sys2Proof.Machine

/-- The fields of a MOVE (R129). -/
structure MoveEntry where
  xform : Nat
  ltag : Nat
  sbuf : Nat
  soff : Nat
  dbuf : Nat
  doff : Nat
  len : Nat

def moveFields (e : Nat) : MoveEntry :=
  { xform := fld e 123 122, ltag := fld e 121 106, sbuf := fld e 105 94, soff := 64 * fld e 93 74, dbuf := fld e 73 62,
    doff := 64 * fld e 61 42, len := 64 * (fld e 41 18 + 1) }

/-- A MOVE of the calendar that reads flash is in flight: the entries behind it wait (notes/assumptions/17.md). -/
def flashInFlight (x : Issue) : Bool :=
  x.run.inFlight.any fun i =>
    let e := x.cal.entries.getD i 0
    entryClass e == 4 && (match bufOf x.alm (moveFields e).sbuf with | some b => b.tier == 4 | none => false)

/-- A job may read the buffer: its own, or an input of the commons (R19, R185). -/
def mayRead (j : Job) (b : BufDef) : Bool := b.owner == j.partition || (b.owner == 4095 && (b.kind == 1 || b.tier == 4))

/-- The range read exists: an extent within its length, commons pages that are allocated (R185). -/
def sourceOk (s : State) (b : BufDef) (o len : Nat) : Bool :=
  if b.tier = 4 then (match extentOf s b with | some x => decide (b.offset + o + len ≤ x.length) | none => false)
  else if b.tier = 3 ∧ b.owner = 4095 ∧ b.kind = 1 then
    (pagesOfRange (b.offset + o) len).all fun x => aHas s.commons.resident (x.1 / 65536)
  else true

/-- Copy, compress or decompress (R129, R351). -/
def copyMove (s : State) (n : Nat) (m : MoveEntry) (sb db : BufDef) : State :=
  match getJob s n with
  | none => s
  | some j =>
    if m.xform = 1 then moveCompress s n m.sbuf sb m.soff m.dbuf db m.doff m.len
    else if m.xform = 2 then moveDecompress s n m.sbuf sb m.soff m.dbuf db m.doff m.len
    else if sb.tier = 5 then bufWrite s n m.dbuf db m.doff m.len (slotSlice j m.sbuf m.soff m.len) []
    else bufWrite s n m.dbuf db m.doff m.len (bufSlice s n j m.sbuf sb m.soff m.len) (bufPoison s n j sb m.soff m.len)

/-- A MOVE from an extent pins what it reads: the versions there now, and their resident copies (R189, R192). -/
def pinRead (s : State) (n waiter : Nat) (m : MoveEntry) (sb : BufDef) (x : Extent) : State :=
  match getJob s n with
  | none => s
  | some j =>
    let off := x.offset + sb.offset + m.soff
    let pgs := (List.range ((off + m.len + 65535) / 65536 - off / 65536)).map fun i => extentKey sb.owner (off / 65536 + i)
    let pins := pgs.filter fun k => match aGet? s.mem.resident k with | some c => !c.stale | none => false
    let rd : MoveRead := { waiter := waiter, plain := bufSlice s n j m.sbuf sb m.soff m.len,
                           bad := bufPoison s n j sb m.soff m.len, pins := pins }
    let s1 := updJob s n fun j => { j with reads := j.reads ++ [rd] }
    { s1 with mem := { s1.mem with resident := pins.foldl (fun r k => aUpd r k fun c => { c with pins := c.pins + 1 }) s1.mem.resident } }

/-- The MOVE from an extent ends: the versions it pinned reach the destination, with the lines that parity could not
return marked, and its pins are released. -/
def landRead (s : State) (n waiter : Nat) (m : MoveEntry) (sb db : BufDef) (x : Extent) : State :=
  match getJob s n with
  | none => s
  | some j =>
    match j.reads.find? (·.waiter == waiter) with
    | none => copyMove s n m sb db
    | some rd =>
      let lost := nsPoison s sb.owner (x.offset + sb.offset + m.soff) m.len
      let bad := lost.foldr insertNat rd.bad
      let s1 := if m.xform = 0 then bufWrite s n m.dbuf db m.doff m.len (bad.foldl (fun c l => bZero c l 64) rd.plain) bad
        else copyMove s n m sb db
      let s2 := updJob s1 n fun j => { j with reads := j.reads.filter (·.waiter != waiter) }
      rd.pins.foldl unpinCopy s2

/-- The pages that a glade mover's MOVE reads of the commons are promoted (R191). -/
def promoteRead (s : State) (x : Issue) (m : MoveEntry) (sb : BufDef) : State :=
  if x.cal.kind = 1 ∧ sb.tier = 3 ∧ sb.owner = 4095 ∧ sb.kind = 1 ∧ x.job.partition ≠ 4095 then
    (pagesOfRange (sb.offset + m.soff) m.len).foldl (fun s p =>
      promote s (x.job.gladeOf x.cal.glade) x.job.partition (p.1 / 65536)) s
  else s

/-- A staging destination with a layer tag begins to fill (R149). -/
def beginFill (s : State) (n : Nat) (m : MoveEntry) (db : BufDef) : State :=
  if m.ltag ≠ 0 ∧ db.kind = 4 then
    updJob s n fun j => { j with staging := aPut j.staging m.dbuf { stagingOf j m.dbuf with fill := .filling } }
  else s

/-- A slot the MOVE reads failed its check (R355). -/
def slotFailed (j : Job) (m : MoveEntry) : Bool :=
  (slotsToCheck j m.sbuf m.soff m.len).any fun k => match fetchedSlot j m.sbuf k with | some f => !f.ok | none => false

/-- The slots it reads have all arrived. -/
def slotsHere (j : Job) (m : MoveEntry) : Bool :=
  (slotsToCheck j m.sbuf m.soff m.len).all fun k => (fetchedSlot j m.sbuf k).isSome

/-- Take the slots that a MOVE read from the window of the hub mover (R356). -/
def useSlots (s : State) (n : Nat) (m : MoveEntry) : State :=
  updJob s n fun j =>
    let used := slotsToCheck j m.sbuf m.soff m.len
    { j with prefetched := j.prefetched.filter fun f => !(f.buf == m.sbuf && used.contains f.slot) }

/-- The body of a MOVE whose checks passed. -/
def startMove (s : State) (u : UnitRef) (x : Issue) (m : MoveEntry) (sb db : BufDef) : State :=
  let s1 := beginFill (traceEntry s u x.run.pc 0) u.job m db
  let s2 := touchBuf (touchBuf s1 u.job m.sbuf m.soff m.len x.alm) u.job m.dbuf m.doff m.len x.alm
  if sb.tier = 4 then
    let s3 := match extentOf s sb with
      | some e =>
        let w := moveWaiter u x.run.pc
        accessRange (pinRead s2 u.job w m sb e) 1 w sb.owner (e.offset + sb.offset + m.soff) m.len
      | none => s2
    launchCal s3 u
  else
    let s3 := copyMove (promoteRead s2 x m sb) u.job m sb db
    launchCal (if sb.tier = 5 then useSlots s3 u.job m else s3) u

/-- MOVE: the checks of tags and addresses, then its segments. It waits behind a MOVE of its calendar that reads flash,
and for the tier-5 slots it reads. -/
def issueMove (s : State) (u : UnitRef) : State :=
  match issueOf s u 4 with
  | none => s
  | some x =>
    let m := moveFields x.entry
    let page := calPage x.job x.cal
    match bufOf x.alm m.sbuf, bufOf x.alm m.dbuf with
    | some sb, some db =>
      if flashInFlight x then s
      else if !mayRead x.job sb then tagMismatch s u.job page
      else if !sourceOk s sb m.soff m.len then addressFault s u.job page
      else
        match hardStop s x.job db m.doff m.len with
        | some w => stopWrite s u.job page w
        | none =>
          if sb.tier = 5 ∧ !slotsHere x.job m then s
          else if sb.tier = 5 ∧ slotFailed x.job m then
            dayFault (bump s Reg.ADPT_SEAL_FAIL 1) u.job .sealFail
          else startMove s u x m sb db
    | _, _ => entryFault s u.job page

def execMove (u : UnitRef) (s : State) : Host.Outcome State Fault Refusal := .next (issueMove s u)

/-- The calendar of a job with its definition. -/
def calOf (s : State) (u : UnitRef) : Option (Job × Alm × CalDef × CalRun) :=
  match getJob s u.job with
  | none => none
  | some j =>
    match jobAlm s j with
    | none => none
    | some a => match a.cals[u.cal]?, j.cals[u.cal]? with
      | some c, some r => some (j, a, c, r)
      | _, _ => none

/-- MOVE_COMPLETE: the oldest MOVE in flight has written its last segment; a tagged staging destination becomes full with
its tag (R130). A MOVE from flash takes its bytes once its media accesses have ended. -/
def finishMove (s : State) (u : UnitRef) : State :=
  match calOf s u with
  | none => s
  | some (j, a, c, r) =>
    match r.inFlight.find? fun i => entryClass (c.entries.getD i 0) == 4 with
    | none => s
    | some i =>
      let m := moveFields (c.entries.getD i 0)
      match bufOf a m.sbuf, bufOf a m.dbuf with
      | some sb, some db =>
        if !(accessesOf s 1 (moveWaiter u i)).isEmpty then s
        else
          let s1 := match (if sb.tier = 4 then extentOf s sb else none) with
            | some e =>
              residePages (landRead s u.job (moveWaiter u i) m sb db e) u.job j.partition sb m.soff m.len
            | none => s
          let s2 := if m.ltag ≠ 0 ∧ db.kind = 4 then
              updJob s1 u.job fun j => { j with staging := aPut j.staging m.dbuf ⟨.full, m.ltag⟩ }
            else s1
          landCal (traceEntry s2 u i 1) u i
      | _, _ => s

def execMoveComplete (u : UnitRef) (s : State) : Host.Outcome State Fault Refusal :=
  .next (if engineOn s then finishMove s u else s)

/-! OFFLOAD_SLOT_PREFETCH (R355, R356) -/

/-- A slot of a tier-5 buffer arrives in the hub mover's window, with the outcome of its check. -/
def prefetchSlot (s : State) (n bn slot : Nat) (tagOk : Bool) (plain : List Byte) (seq : Nat) : State :=
  match getJob s n with
  | none => s
  | some j =>
    match aGet? j.slots (slotKey bn slot) with
    | none => s
    | some h =>
      if !j.isBound ∨ j.finished ∨ !h.thisDay ∨ (fetchedSlot j bn slot).isSome
          ∨ j.prefetched.length ≥ getF s Reg.ADPT_OFFLOAD_CFG Fld.ADPT_OFFLOAD_CFG_pf_depth then s
      else updJob s n fun j => { j with
        prefetched := j.prefetched ++ [{ buf := bn, slot := slot, ok := tagOk && seq == h.seq, plain := bOfList plain }] }

def execOffloadSlotPrefetch (job buffer slot : Nat) (tagOk : Bool) (plain : List Byte) (seq : Nat) (s : State) :
    Host.Outcome State Fault Refusal :=
  .next (if engineOn s then prefetchSlot s job buffer slot tagOk plain seq else s)

end Sys2Proof.Machine
end

