-- ==== Sys2Proof/Machine/Sorter.lean ====
section
/-! DEFINITION. The meanings of the glade sorter's entries: GATHER and SCATTER on tables (R314 to R327), the
permutations of the commons (R273 to R276) and the slot transpose (R347). -/

namespace Sys2Proof.Machine

/-- The fields of a GATHER or SCATTER (R131). -/
structure RowEntry where
  table : Nat
  ibuf : Nat
  ioff : Nat
  dbuf : Nat
  doff : Nat
  count : Nat
  opt : Nat

def rowFields (e : Nat) : RowEntry :=
  { table := fld e 123 108, ibuf := fld e 107 96, ioff := 64 * fld e 95 76, dbuf := fld e 75 64, doff := 64 * fld e 63 44,
    count := fld e 43 24 + 1, opt := fld e 23 22 }

/-- A range of a buffer as an engine consumes it: its bytes, and whether a poisoned line is among them. -/
def consume (s : State) (n : Nat) (j : Job) (a : Alm) (bn o len : Nat) : List Byte × Bool :=
  match bufOf a bn with
  | some b => (bufRead s n j bn b o len, !(bufPoison s n j b o len).isEmpty)
  | none => (zeros len, false)

/-- The index list of an entry. -/
def indexList (l : List Byte) (n : Nat) : List Nat := (List.range n).map fun i => leAt l (4 * i) 4

/-- Distinct numbers in rising order. -/
def distinct (l : List Nat) : List Nat := l.foldr insertNat []

/-! Tables -/

/-- The pin of a job for a table in a calendar's glade, with its place among the pins. -/
def pinOf (j : Job) (table glade : Nat) : Option (TablePin × Nat) :=
  j.tables.zipIdx.find? fun x => x.1.table == table && x.1.glade == glade

/-- A row of the list is marked with a write-back token: the access waits (R326). -/
def tokenWait (pin : TablePin) (rows : List Nat) : Bool :=
  rows.any fun r => match aGet? pin.hot r with | some h => h.state == 3 | none => false

/-- A row as a GATHER or SCATTER reads it: its hot copy, else its home copy (R325). -/
def liveRow (s : State) (j : Job) (pin : TablePin) (t : Table) (r : Nat) : List Byte :=
  match aGet? pin.hot r with
  | some h => if h.state = 2 then h.copy else homeRow s j pin t r
  | none => homeRow s j pin t r

/-- A page that holds the row is poisoned. -/
def rowPoison (s : State) (j : Job) (pin : TablePin) (t : Table) (r : Nat) : Bool :=
  if s.mem.poison.isEmpty then false
  else (List.range (t.stride / 64)).any fun i =>
    let o := r * t.stride + 64 * i
    match tablePageOf s j pin (o / 65536) with
    | some p => isPoisoned s.mem (locPage p + o % 65536)
    | none => false

/-- Out-of-range indices: counted, the first posted (R316). -/
def outOfRange (s : State) (j : Job) (page table rows : Nat) (l : List Nat) : State :=
  match l.find? fun r => decide (rows ≤ r) with
  | none => s
  | some r => bump (post s page 0x0509 j.partition table r) Reg.TBL_OOR (l.filter fun r => decide (rows ≤ r)).length

/-- GATHER on a table (R314). -/
def issueGather (s : State) (u : UnitRef) : State :=
  match issueOf s u 5 with
  | none => s
  | some x =>
    let e := rowFields x.entry
    let page := calPage x.job x.cal
    if e.table = 0 ∨ e.table > 255 then s
    else
      match pinOf x.job e.table x.cal.glade, aGet? s.tables (tabKey x.job.partition e.table), bufOf x.alm e.dbuf with
      | some (pin, _), some t, some db =>
        let (raw, bad) := consume s u.job x.job x.alm e.ibuf e.ioff (4 * e.count)
        let l := indexList raw e.count
        let ok := distinct (l.filter fun r => decide (r < t.rows))
        let sp := rowSpacing t.dim t.fmt e.opt
        if tokenWait pin ok then s
        else if bad || ok.any (rowPoison s x.job pin t) then consumePoison s u.job page x.job.partition (pathCode page)
        else
          match hardStop s x.job db e.doff (sp * e.count) with
          | some w => stopWrite s u.job page w
          | none =>
            let rows := ok.map fun r => (r, liveRow s x.job pin t r)
            let nans := if e.opt = 3 then 0 else (rows.filter fun r => rowNan r.2).length
            let outs := rows.map fun r => (r.1, rowOut t.dim t.fmt e.opt r.2)
            let hits := (l.filter fun r => match aGet? pin.hot r with | some h => h.state == 2 | none => false).length
            let s1 := bump (bump (outOfRange (traceEntry s u x.run.pc 0) x.job page e.table t.rows l) Reg.TBL_NAN nans)
              Reg.TBL_HOT_HIT hits
            let s2 := (l.zipIdx).foldl (fun s p =>
              bufPut s u.job e.dbuf db (e.doff + p.2 * sp)
                (match aGet? outs p.1 with | some b => b | none => zeros (if e.opt = 3 then t.stride else t.dim * (if e.opt = 2 then 4 else 2))))
              (touchBuf s1 u.job e.dbuf e.doff (sp * e.count) x.alm)
            stepCal (traceEntry s2 u x.run.pc 1) u
      | _, _, _ => entryFault s u.job page

def execGather (u : UnitRef) (s : State) : Host.Outcome State Fault Refusal := .next (issueGather s u)

/-- The FP32 values of a row after a SCATTER's source vectors in list order (R315). -/
def combineRow (opt dim : Nat) (base : List Nat) (srcs : List (List Nat)) : List Nat :=
  if opt = 1 then srcs.getLastD base
  else srcs.foldl (fun acc v => (List.range dim).map fun i => fpAdd .rne 0 (acc.getD i 0) (v.getD i 0)) base

/-- Write an updated row where its directory state says (R325); none where a page's charge does not fit. -/
def writeRow (s : State) (n i : Nat) (t : Table) (r : Nat) (row : List Byte) : Option State :=
  match (getJob s n).bind (·.tables[i]?) with
  | none => some s
  | some pin =>
    match aGet? pin.hot r with
    | some h =>
      if h.state = 2 then
        some (updPin s n i fun p => { p with hot := aPut p.hot r { h with copy := row, dirty := true } })
      else
        (writeHome s n pin t r row).map fun s1 =>
          updPin s1 n i fun p => { p with hot := aPut p.hot r { h with log := h.log ++ [row] } }
    | none => writeHome s n pin t r row

/-- SCATTER on a table (R315): rows in rising order, each decoded, combined, quantised again and written. -/
def issueScatter (s : State) (u : UnitRef) : State :=
  match issueOf s u 6 with
  | none => s
  | some x =>
    let e := rowFields x.entry
    let page := calPage x.job x.cal
    if e.table = 0 ∨ e.table > 255 then s
    else
      match pinOf x.job e.table x.cal.glade, aGet? s.tables (tabKey x.job.partition e.table) with
      | some (pin, i), some t =>
        let (raw, bad) := consume s u.job x.job x.alm e.ibuf e.ioff (4 * e.count)
        let l := indexList raw e.count
        let ok := distinct (l.filter fun r => decide (r < t.rows))
        let sp := rowSpacing t.dim t.fmt 2
        let (src, bad2) := consume s u.job x.job x.alm e.dbuf e.doff (sp * e.count)
        let vec := fun (p : Nat) => (List.range t.dim).map fun k => leAt src (p * sp + 4 * k) 4
        if tokenWait pin ok then s
        else if bad || bad2 || (e.opt == 0 && ok.any (rowPoison s x.job pin t)) then
          consumePoison s u.job page x.job.partition (pathCode page)
        else
          let s0 := outOfRange (traceEntry s u x.run.pc 0) x.job page e.table t.rows l
          let res := ok.foldl (fun (acc : Option State) r =>
            match acc with
            | none => none
            | some s =>
              let row := match getJob s u.job with | some j => liveRow s j pin t r | none => []
              let base := (List.range t.dim).map (rowElem fmtFP32 t.fmt row)
              let srcs := ((l.zipIdx).filter fun p => p.1 == r).map fun p => vec p.2
              let q := requantise t.dim t.fmt (combineRow e.opt t.dim base srcs)
              let nan := q.nans + (if e.opt = 0 && rowNan row then 1 else 0)
              (writeRow s u.job i t r q.row).map fun s1 => bump (bump s1 Reg.TBL_NAN nan) Reg.TBL_REQ_CLAMP q.clamps) (some s0)
          match res with
          | none => endJob s u.job stQuota 0
          | some s1 => stepCal (traceEntry s1 u x.run.pc 1) u
      | _, _ => entryFault s u.job page

def execScatter (u : UnitRef) (s : State) : Host.Outcome State Fault Refusal := .next (issueScatter s u)

/-! Permutations (R273 to R276) -/

/-- The parameter line of a permutation (R273). -/
structure PermLine where
  src : Nat
  srcGroup : Nat
  srcGroups : Nat
  dstGroup : Nat
  k : Nat
  experts : Nat
  cap : Nat

def permLine (l : List Byte) : PermLine :=
  { src := leAt l 0 2, srcGroup := leAt l 4 4, srcGroups := leAt l 8 4, dstGroup := leAt l 0x0C 4, k := leAt l 0x10 4,
    experts := leAt l 0x14 4, cap := leAt l 0x18 4 }

/-- One element of a tagged buffer's group. -/
def groupElem (it : RowItem) (bytes : List Byte) (l c : Nat) : List Byte := sub bytes (512 + l * it.line + c * it.esz) it.esz

/-- The bytes of a group. -/
def groupBytes (s : State) (n : Nat) (j : Job) (bn : Nat) (b : BufDef) (it : RowItem) (g : Nat) : List Byte :=
  bufRead s n j bn b (g * it.group) it.group

/-- What a permutation entry meets before it acts: the issue, the parameter line, the entries after it. -/
def permIssue (s : State) (u : UnitRef) (cls handle : Nat) : Option (Issue × RowEntry × PermLine × List Nat × Bool) :=
  match issueOf s u cls with
  | none => none
  | some x =>
    let e := rowFields x.entry
    if e.table ≠ handle then none
    else
      let (raw, bad) := consume s u.job x.job x.alm e.ibuf e.ioff (64 + 4 * e.count)
      some (x, e, permLine raw, indexList (raw.drop 64) e.count, bad)

/-- A group of a permutation's destination (R274): a column takes the lines and the map entry of the source column its
entry names; an invalid entry gives zeros and an invalid map entry. -/
def permGroup (s : State) (n : Nat) (j : Job) (p : PermLine) (sb : BufDef) (it : RowItem) (es : List Nat) : List Byte :=
  let groups := (List.range p.srcGroups).map fun g => groupBytes s n j p.src sb it (p.srcGroup + g)
  let maps := es.map fun w => if mapValid w then leAt (groups.getD (mapRow w / 128) []) (4 * (mapRow w % 128)) 4 else 0
  mapBytes maps ++ (List.range it.lines).flatMap fun l => es.flatMap fun w =>
    if mapValid w then groupElem it (groups.getD (mapRow w / 128) []) l (mapRow w % 128) else zeros it.esz

/-- Source columns all lie in the groups covered. -/
def permInRange (p : PermLine) (es : List Nat) : Bool := es.all fun w => !mapValid w || decide (mapRow w < 128 * p.srcGroups)

/-- PERMUTE (R274). -/
def issuePermute (s : State) (u : UnitRef) : State :=
  match permIssue s u 5 0xFFFF with
  | none => s
  | some (x, e, p, es, bad) =>
    let page := calPage x.job x.cal
    if bad then consumePoison s u.job page x.job.partition (pathCode page)
    else
      match bufOf x.alm p.src, bufOf x.alm e.dbuf, planItem x.alm p.src, planItem x.alm e.dbuf with
      | some sb, some db, some (_, si), some (_, di) =>
        if !permInRange p es then entryFault s u.job page
        else if si.lines ≠ di.lines ∨ si.esize ≠ di.esize then columnMapFault s u.job page 0 0
        else
          let outs := (List.range (e.count / 128)).map fun g => permGroup s u.job x.job p sb si ((es.drop (128 * g)).take 128)
          let s1 := (outs.zipIdx).foldl (fun s o => bufPut s u.job e.dbuf db ((p.dstGroup + o.2) * di.group) o.1)
            (traceEntry s u x.run.pc 0)
          stepCal (traceEntry s1 u x.run.pc 1) u
      | _, _, _, _ => entryFault s u.job page

def execPermute (u : UnitRef) (s : State) : Host.Outcome State Fault Refusal := .next (issuePermute s u)

/-- Write or add one column back into its source column. -/
def returnColumn (s : State) (n : Nat) (j : Job) (opt : Nat) (p : PermLine) (sb : BufDef) (it : RowItem) (src : List Byte)
    (c w : Nat) : State :=
  let g := p.srcGroup + mapRow w / 128
  (List.range it.lines).foldl (fun s l =>
    let o := g * it.group + 512 + l * it.line + mapRow w % 128 * it.esz
    let v := groupElem it src l c
    let out := if opt = 0 then toLe 4 (fpAdd .rne 0 (leNat (bufRead s n j p.src sb o 4)) (leNat v)) else v
    bufPut s n p.src sb o out) s

/-- RETURN (R274): entries in list order; a map entry that differs ends the job. -/
def issueReturn (s : State) (u : UnitRef) : State :=
  match permIssue s u 6 0xFFFF with
  | none => s
  | some (x, e, p, es, bad) =>
    let page := calPage x.job x.cal
    if bad then consumePoison s u.job page x.job.partition (pathCode page)
    else
      match bufOf x.alm p.src, bufOf x.alm e.dbuf, planItem x.alm p.src, planItem x.alm e.dbuf with
      | some sb, some db, some (_, si), some (_, di) =>
        if !permInRange p es then entryFault s u.job page
        else if si.lines ≠ di.lines ∨ si.esize ≠ di.esize then columnMapFault s u.job page 0 0
        else
          let cols := (es.zipIdx).filter fun w => mapValid w.1
          let have0 := fun (i : Nat) => (groupMap s u.job x.job e.dbuf db di (p.dstGroup + i / 128)).getD (i % 128) 0
          let want := fun (w : Nat) => (groupMap s u.job x.job p.src sb si (p.srcGroup + mapRow w / 128)).getD (mapRow w % 128) 0
          match cols.find? fun w => have0 w.2 != want w.1 with
          | some w => columnMapFault s u.job page (mapRow (have0 w.2)) (mapRow (want w.1))
          | none =>
            let s1 := cols.foldl (fun v w =>
              returnColumn v u.job x.job e.opt p sb si
                (groupBytes s u.job x.job e.dbuf db di (p.dstGroup + w.2 / 128)) (w.2 % 128) w.1) (traceEntry s u x.run.pc 0)
            stepCal (traceEntry s1 u x.run.pc 1) u
      | _, _, _, _ => entryFault s u.job page

def execReturnColumns (u : UnitRef) (s : State) : Host.Outcome State Fault Refusal := .next (issueReturn s u)

/-- The k largest scores of a column: a NaN is never chosen, the lower index wins a tie (R275). -/
def topK : Nat → List (Nat × Nat) → List (Nat × Nat)
  | 0, _ => []
  | k + 1, l =>
    let best := l.foldl (fun (b : Option (Nat × Nat)) x =>
      if isNaN32 x.2 then b
      else match b with
        | none => some x
        | some y => if numLt (fmtFP32.decode y.2) (fmtFP32.decode x.2) then some x else b) none
    match best with
    | none => []
    | some x => x :: topK k (l.filter fun y => y.1 != x.1)

/-- Count dropped choices; the job posts at most one route-drop event a day (R275). -/
def routeDrops (s : State) (n page drops : Nat) : State :=
  if drops = 0 then s
  else
    match getJob s n with
    | none => s
    | some j =>
      let s1 := bump s Reg.COMMONS_ROUTE_DROP drops
      if j.dropPosted then s1
      else updJob (post s1 page 0x0601 j.partition 0 0) n fun j => { j with dropPosted := true }

/-- What ROUTE_SELECT writes, the lists of all experts and then their gates, and the choices it drops (R275). -/
def routeTables (s : State) (n : Nat) (j : Job) (p : PermLine) (sb : BufDef) (it : RowItem) : List Byte × Nat :=
  let chosen := (List.range p.srcGroups).flatMap fun g =>
    let bytes := groupBytes s n j p.src sb it (p.srcGroup + g)
    (List.range 128).flatMap fun c =>
      if mapValid (leAt bytes (4 * c) 4) then
        (topK p.k ((List.range p.experts).map fun l => (l, leNat (groupElem it bytes l c)))).map fun y => (y.1, 128 * g + c, y.2)
      else []
  let lists := (List.range p.experts).map fun ex => (chosen.filter fun y => y.1 == ex).map (·.2)
  let room := 128 * p.cap
  let drops := (lists.map fun l => l.length - room).sum
  let fill := lists.flatMap fun l => (List.range room).flatMap fun i => match l[i]? with
    | some y => toLe 4 (2 ^ 31 + y.1)
    | none => zeros 4
  let gates := lists.flatMap fun l => (List.range room).flatMap fun i => match l[i]? with
    | some y => toLe 4 y.2
    | none => zeros 4
  (fill ++ gates, drops)

/-- ROUTE_SELECT (R275). -/
def issueRouteSelect (s : State) (u : UnitRef) : State :=
  match permIssue s u 5 0xFFFE with
  | none => s
  | some (x, e, p, _, bad) =>
    let page := calPage x.job x.cal
    if bad then consumePoison s u.job page x.job.partition (pathCode page)
    else
      match bufOf x.alm p.src, bufOf x.alm e.dbuf, planItem x.alm p.src with
      | some sb, some db, some (_, it) =>
        let (out, drops) := routeTables s u.job x.job p sb it
        let s1 := bufPut (traceEntry s u x.run.pc 0) u.job e.dbuf db e.doff out
        stepCal (traceEntry (routeDrops s1 u.job page drops) u x.run.pc 1) u
      | _, _, _ => entryFault s u.job page

def execRouteSelect (u : UnitRef) (s : State) : Host.Outcome State Fault Refusal := .next (issueRouteSelect s u)

/-- Cut a slot's run into whole groups, padded with invalid entries, as far as there is room: entries, group slots,
drops. -/
def regroupRun (cap slot : Nat) (cols : List Nat) (acc : List Nat × List Nat × Nat) : List Nat × List Nat × Nat :=
  let room := cap - acc.2.1.length
  let groups := min room ((cols.length + 127) / 128)
  let kept := cols.take (128 * groups)
  (acc.1 ++ kept.map (2 ^ 31 + ·) ++ List.replicate (128 * groups - kept.length) 0,
   acc.2.1 ++ List.replicate groups slot, acc.2.2 + (cols.length - kept.length))

/-- Insert a column by its batch row. -/
def insertByRow (x : Nat × Nat) : List (Nat × Nat) → List (Nat × Nat)
  | [] => [x]
  | y :: r => if x.1 ≤ y.1 then x :: y :: r else y :: insertByRow x r

/-- What REGROUP writes, the permutation list and the group map, and the rows it drops (R276). -/
def regroupTables (s : State) (n : Nat) (j : Job) (p : PermLine) (sb : BufDef) (it : RowItem) : List Byte × Nat :=
  let cols := (List.range p.srcGroups).flatMap fun g =>
    ((groupMap s n j p.src sb it (p.srcGroup + g)).zipIdx).filterMap fun w =>
      if mapValid w.1 then
        match aGet? j.rows (mapRow w.1) with
        | some t => if t.valid then some (t.slot, mapRow w.1, 128 * g + w.2) else none
        | none => none
      else none
  let ofSlot := fun (k : Nat) => (((cols.filter fun y => y.1 == k).map (·.2)).foldr insertByRow []).map (·.2)
  let r := (distinct (cols.map (·.1))).foldl (fun acc k => regroupRun p.cap k (ofSlot k) acc) ([], [], 0)
  let list := r.1 ++ List.replicate (128 * p.cap - r.1.length) 0
  let map := r.2.1 ++ List.replicate (p.cap - r.2.1.length) 0xFFFF
  (list.flatMap (toLe 4) ++ map.flatMap (toLe 2), r.2.2)

/-- REGROUP (R276). -/
def issueRegroup (s : State) (u : UnitRef) : State :=
  match permIssue s u 5 0xFFFD with
  | none => s
  | some (x, e, p, _, bad) =>
    let page := calPage x.job x.cal
    if bad then consumePoison s u.job page x.job.partition (pathCode page)
    else
      match bufOf x.alm p.src, bufOf x.alm e.dbuf, planItem x.alm p.src with
      | some sb, some db, some (_, it) =>
        let (out, drops) := regroupTables s u.job x.job p sb it
        let s1 := bufPut (traceEntry s u x.run.pc 0) u.job e.dbuf db e.doff out
        stepCal (traceEntry (routeDrops s1 u.job page drops) u x.run.pc 1) u
      | _, _, _ => entryFault s u.job page

def execRegroup (u : UnitRef) (s : State) : Host.Outcome State Fault Refusal := .next (issueRegroup s u)

/-! The slot transpose (R347) -/

/-- A source element as a binary32 code. -/
def transElem (cap : Nat) (l : List Byte) : Nat :=
  let c := leNat l
  if cap = 0 then c
  else if cap = 1 then (numToFp32 (fmtBF16.decode c)).code
  else (numToFp32 (fmtFP16.decode c)).code

/-- One element as the section stores it: its bytes and whether a clamp altered it. -/
def sectionElem (esize word v : Nat) (E : Int) : List Byte × Bool :=
  if esize = 0 then let (b, c) := wordByte v E word; ([b], c)
  else match fmtFP32.decode v with
    | .fin n m t => let (c, s) := fmtFP16.round .rne 0 n m (t - E); (toLe 2 c, s)
    | _ => (zeros 2, false)

/-- A NaN or an infinity is written as 0 and counted. -/
def finiteOr0 (v : Nat) : Nat × Bool := match fmtFP32.decode v with | .fin _ _ _ => (v, false) | _ => (0, true)

/-- The word of the destination's binding (R344). -/
def sectionWord (s : State) (j : Job) (a : Alm) (i : Nat) : Nat :=
  match a.plan, j.gang.bind (aGet? s.gangs ·) with
  | some p, some g => match (sectionItems p).findIdx? fun x => x.2 == i with
    | some k => match g.binds[k]? with | some b => b.word | none => 0
    | none => 0
  | _, _ => 0

/-- The slot that a transpose reads. -/
def transposeSlot (plan : RowPlan) (p : PermLine) : Nat := if rowsPerSlot plan = 0 then 0 else 128 * p.srcGroup / rowsPerSlot plan

/-- The parameters of a transpose lie in their ranges: one slot, a section of it, lines that the source has. -/
def transposeFits (s : State) (n : Nat) (j : Job) (plan : RowPlan) (e : RowEntry) (p : PermLine) (db : BufDef) (si dit : RowItem) : Bool :=
  let R := rowsPerSlot plan
  let slot := transposeSlot plan p
  let lim := if dit.esize = 0 then 256 else 128
  dit.role == 3 && dit.esize ≤ 1 && decide (p.experts ≥ 1 ∧ p.experts ≤ lim ∧ p.cap ≤ 2)
    && decide (R > 0 ∧ p.srcGroups > 0 ∧ (128 * (p.srcGroup + p.srcGroups) - 1) / R = slot) && decide (p.k + p.experts ≤ si.lines)
    && e.count == 1 && e.opt == 0
    && (groupMap s n j e.dbuf db dit p.dstGroup).all fun w => !mapValid w || slotOfEntry plan w == slot

/-- The steps of a transpose, one for each source column: its place in the section and its finite values, each with whether
it was none. -/
def transposeSteps (s : State) (n : Nat) (j : Job) (plan : RowPlan) (p : PermLine) (sb : BufDef) (si : RowItem) :
    List (Nat × List (Nat × Bool)) :=
  (List.range p.srcGroups).flatMap fun g =>
    let bytes := groupBytes s n j p.src sb si (p.srcGroup + g)
    (List.range 128).map fun c =>
      (128 * (p.srcGroup + g - transposeSlot plan p * rowsPerSlot plan / 128) + c,
       if mapValid (leAt bytes (4 * c) 4) then
         (List.range p.experts).map fun l => finiteOr0 (transElem p.cap (groupElem si bytes (p.k + l) c))
       else [])

/-- One step as the section stores it: 256 bytes, and the elements that a clamp altered. -/
def transposeRow (esize word : Nat) (E : Int) (vs : List (Nat × Bool)) : List Byte × Nat :=
  let els := vs.map fun v => sectionElem esize word v.1 E
  let body := els.flatMap (·.1)
  (body ++ zeros (256 - body.length), (els.filter (·.2)).length)

/-- SLOT_TRANSPOSE. -/
def issueTranspose (s : State) (u : UnitRef) : State :=
  match permIssue s u 5 0xFFFC with
  | none => s
  | some (x, e, p, _, bad) =>
    let page := calPage x.job x.cal
    if bad then consumePoison s u.job page x.job.partition (pathCode page)
    else
      match x.alm.plan, bufOf x.alm p.src, bufOf x.alm e.dbuf, planItem x.alm p.src, planItem x.alm e.dbuf with
      | some plan, some sb, some db, some (_, si), some (di, dit) =>
        if !transposeFits s u.job x.job plan e p db si dit then entryFault s u.job page
        else
          let key := expKey di (transposeSlot plan p)
          let steps := transposeSteps s u.job x.job plan p sb si
          let outs := steps.map fun st =>
            (st.1, transposeRow dit.esize (sectionWord s x.job x.alm di) (aGetD x.job.exps key 0) st.2)
          let nans := (steps.map fun st => (st.2.filter (·.2)).length).sum
          let clamps := if dit.esize = 0 then (outs.map (·.2.2)).sum else 0
          let top := steps.foldl (fun m st => st.2.foldl (fun m v => maxMag m v.1) m) (aGetD x.job.maxima key 0)
          let s1 := outs.foldl (fun s o => bufPut s u.job e.dbuf db (e.doff + 256 * o.1) o.2.1) (traceEntry s u x.run.pc 0)
          let s2 := updJob s1 u.job fun j => { j with maxima := aPut j.maxima key top }
          stepCal (traceEntry (bump (bump s2 Reg.ADPT_NAN_IN nans) Reg.ADPT_CLAMP clamps) u x.run.pc 1) u
      | _, _, _, _, _ => entryFault s u.job page

def execSlotTranspose (u : UnitRef) (s : State) : Host.Outcome State Fault Refusal := .next (issueTranspose s u)

end Sys2Proof.Machine
end

