-- ==== Sys2Proof/Machine/VectorUnit.lean ====
section
/-! DEFINITION. The meanings of the vector unit's entries: VEC (R132, R133, R268) and RNG (R134, R135). -/

namespace Sys2Proof.Machine

/-- The fields of a VEC entry (R132). -/
structure VecEntry where
  op : Nat
  rnd : Rnd
  src : Nat
  order : Nat
  abuf : Nat
  aoff : Nat
  bbuf : Nat
  boff : Nat
  dbuf : Nat
  doff : Nat
  n : Nat

def vecFields (e : Nat) : VecEntry :=
  { op := fld e 123 118, rnd := Rnd.ofBits (fld e 117 116), src := fld e 115 115, order := fld e 114 114,
    abuf := fld e 113 102, aoff := 64 * fld e 101 82, bbuf := fld e 81 70, boff := 64 * fld e 69 50,
    dbuf := fld e 49 38, doff := 64 * fld e 37 18, n := (fld e 17 2 + 1) * 256 }

/-- Bytes of an element of operand a, and of the result (R133). -/
def vecSrcBytes (op : Nat) : Nat := if op = 0x28 ∨ op = 0x29 then 2 else if 0x2A ≤ op ∧ op ≤ 0x2C then 1 else 4
def vecDstBytes (op : Nat) : Nat := if op = 0x20 ∨ op = 0x21 then 2 else if 0x22 ≤ op ∧ op ≤ 0x24 then 1 else 4

/-- Bytes of operand b that the operation reads: none, one value, one byte an element, or n values. -/
def vecBBytes (op n : Nat) : Nat :=
  if op = 0x12 ∨ op = 0x13 then 4
  else if op = 0x18 then n
  else if [0x01, 0x02, 0x03, 0x04, 0x05, 0x0B, 0x0C].contains op then 4 * n else 0

/-- Elements that the operation draws under SR (R133, R135). -/
def vecDraws (op n : Nat) : Nat := if op = 0x10 then n - 1 else if op = 0x11 then 0 else n

/-- The fields of a draw: counter-based from the draw context (R79), or of the unit's 256 free-running lanes (R81). -/
def vecDraw (s : State) (g : Nat) (src : Nat) (d : Draw) (e : Nat) (st : AMap DWord) : List Nat × AMap DWord :=
  if src = 0 then ((List.range e).map fun i => rngField d.seed d.stream d.base i, st)
  else (List.range e).foldl (fun (acc : List Nat × AMap DWord) i =>
    let (f, st') := freeDraw (laneSeed s (256 + g)) acc.2 (i % 256)
    (acc.1 ++ [f], st')) ([], st)

/-- A binary32 result: a NaN is 0x7FC0_0000 and counts (R73, GLADE_VU_NAN of R198). -/
def fpOut (c : Nat) : Converted :=
  match fmtFP32.decode c with
  | .nan => ⟨qNaN, false, true⟩
  | _ => ⟨c, false, false⟩

/-- An elementwise operation: the code, whether it counts as saturated, as NaN. -/
def vecElem (op : Nat) (rnd : Rnd) (u a b d : Nat) : Converted :=
  let v := fpOut
  if op = 0x01 then v (fpAdd rnd u a b) else if op = 0x02 then v (fpSub rnd u a b) else if op = 0x03 then v (fpMul rnd u a b)
  else if op = 0x04 then v (fpFma rnd u a b d) else if op = 0x05 then v (fpDiv rnd u a b) else if op = 0x06 then v (fpSqrt rnd u a)
  else if op = 0x07 then v (fpRecip a) else if op = 0x08 then v (fpRsqrt a) else if op = 0x09 then v (fpExp2 a)
  else if op = 0x0A then v (fpLog2 a) else if op = 0x0B then v (fpMax a b) else if op = 0x0C then v (fpMin a b)
  else if op = 0x12 then v (fpMul rnd u a b) else if op = 0x13 then v (fpAdd rnd u a b)
  else if op = 0x18 then v (if b = 0 then 0 else a)
  else if op = 0x20 then fpToFmt fmtBF16 rnd u a else if op = 0x21 then fpToFmt fmtFP16 rnd u a
  else if op = 0x22 then fpToFmt fmtE4M3 rnd u a else if op = 0x23 then fpToFmt fmtE5M2 rnd u a
  else if op = 0x24 then fpToInt8 rnd u a
  else if op = 0x28 then numToFp32 (fmtBF16.decode a) else if op = 0x29 then numToFp32 (fmtFP16.decode a)
  else if op = 0x2A then numToFp32 (fmtE4M3.decode a) else if op = 0x2B then numToFp32 (fmtE5M2.decode a)
  else numToFp32 (Num.ofInt (int8 a))

/-- One level of the lane tree: partial 2i is added to partial 2i + 1 (R133). Answers the partials and the draws used. -/
def treeLevel (rnd : Rnd) : List Nat → List Nat → List Nat × List Nat
  | a :: b :: r, us =>
    let (l, us') := treeLevel rnd r us.tail
    (fpAdd rnd (us.headD 0) a b :: l, us')
  | l, us => (l, us)

def treeSum (rnd : Rnd) : Nat → List Nat → List Nat → Nat
  | 0, l, _ => l.headD 0
  | k + 1, l, us => let (l', us') := treeLevel rnd l us; treeSum rnd k l' us'

/-- The sum of a list (op 0x10): sequential, or by lanes and a tree (R133). -/
def vecSum (rnd : Rnd) (order : Nat) (us l : List Nat) : Nat :=
  if order = 0 then
    (l.tail.zipIdx).foldl (fun acc x => fpAdd rnd (us.getD x.2 0) acc x.1) (l.headD 0)
  else
    let lanes := ((l.drop 256).zipIdx).foldl (fun (acc : List Nat) x =>
      let k := x.2 % 256
      acc.set k (fpAdd rnd (us.getD x.2 0) (acc.getD k 0) x.1)) (l.take 256)
    treeSum rnd 8 lanes (us.drop (l.length - 256))

/-- The maximum of a list (op 0x11). -/
def vecMax (l : List Nat) : Nat := l.tail.foldl fpMax (l.headD 0)

/-- The result bytes of a VEC, its saturated elements and its NaNs. -/
def vecResult (v : VecEntry) (us a b d : List Nat) : List Byte × Nat × Nat :=
  if v.op = 0x10 ∨ v.op = 0x11 then
    let c := fpOut (if v.op = 0x10 then vecSum v.rnd v.order us a else vecMax a)
    (toLe 4 c.code, 0, if c.nan then 1 else 0)
  else
    let out := (a.zipIdx).map fun x =>
      let bb := if v.op = 0x12 ∨ v.op = 0x13 then b.getD 0 0 else b.getD x.2 0
      vecElem v.op v.rnd (us.getD x.2 0) x.1 bb (d.getD x.2 0)
    (out.flatMap fun c => toLe (vecDstBytes v.op) c.code, (out.filter (·.sat)).length, (out.filter (·.nan)).length)

/-- Tagged operands of a VEC (R268): operand b's map must equal a's; the destination takes a's map. -/
def vecMaps (s : State) (n : Nat) (j : Job) (a : Alm) (v : VecEntry) : Option (List Nat) × Option (Nat × Nat) :=
  let ma := mapAt s n j a v.abuf v.aoff
  let mb := if vecBBytes v.op v.n = 0 then none else mapAt s n j a v.bbuf v.boff
  match ma, mb with
  | some x, some y => (ma, if x = y then none else some ((mapDiff x y).getD (0, 0)))
  | _, _ => (ma, none)

/-- Numbers of a list of bytes, n bytes each. -/
def elemsOf (n : Nat) (l : List Byte) : List Nat := (List.range (l.length / n)).map fun i => leAt l (n * i) n

/-- VEC. -/
def issueVec (s : State) (u : UnitRef) : State :=
  match issueOf s u 7 with
  | none => s
  | some x =>
    let v := vecFields x.entry
    let g := x.job.gladeOf x.cal.glade
    let page := gladePage g
    match bufOf x.alm v.dbuf, vecMaps s u.job x.job x.alm v with
    | some _, (_, some (r1, r2)) => columnMapFault s u.job page r1 r2
    | some db, (ma, none) =>
      let la := v.n * vecSrcBytes v.op
      let lb := vecBBytes v.op v.n
      let ld := if v.op = 0x10 ∨ v.op = 0x11 then 4 else v.n * vecDstBytes v.op
      let (ra, bad1) := consume s u.job x.job x.alm v.abuf v.aoff la
      let (rb, bad2) := consume s u.job x.job x.alm v.bbuf v.boff lb
      let (rd, bad3) := if v.op = 0x04 then consume s u.job x.job x.alm v.dbuf v.doff (4 * v.n) else ([], false)
      if bad1 || (lb != 0 && bad2) || bad3 then consumePoison s u.job page x.job.partition (pathCode page)
      else
        match hardStop s x.job db v.doff ld with
        | some w => stopWrite s u.job page w
        | none =>
          let d := x.run.draw.getD ⟨0, 0, 0⟩
          let e := if v.rnd = .sr then vecDraws v.op v.n else 0
          let (us, fr) := vecDraw s g v.src d e (getGlade s g).free
          let (out, sat, nan) := vecResult v us (elemsOf (vecSrcBytes v.op) ra)
            (elemsOf (if v.op = 0x18 then 1 else 4) rb) (elemsOf 4 rd)
          let s1 := updGlade (traceEntry s u x.run.pc 0) g fun z => { z with free := fr }
          let s2 := match planItem x.alm v.dbuf, ma with
            | some (_, it), some m => bufPut s1 u.job v.dbuf db (v.doff / it.group * it.group) (mapBytes m)
            | _, _ => s1
          let s3 := bufPut (touchBuf (touchBuf s2 u.job v.abuf v.aoff la x.alm) u.job v.dbuf v.doff ld x.alm) u.job v.dbuf db v.doff out
          let s4 := bump (bump s3 (page + Reg.GLADE_VU_SAT) sat) (page + Reg.GLADE_VU_NAN) nan
          let s5 := if v.rnd = .sr ∧ v.src = 0 then
              updCal s4 u fun r => { r with draw := r.draw.map fun d => { d with base := (d.base + (e + 7) / 8) % 2 ^ 64 } }
            else s4
          stepCal (traceEntry s5 u x.run.pc 1) u
    | none, _ => entryFault s u.job page

def execVec (u : UnitRef) (s : State) : Host.Outcome State Fault Refusal := .next (issueVec s u)

/-- RNG: the draw context comes from its record, then a raw tile or a keep mask is drawn (R134, R135). -/
def issueRng (s : State) (u : UnitRef) : State :=
  match issueOf s u 8 with
  | none => s
  | some x =>
    let op := fld x.entry 123 122
    let src := fld x.entry 121 121
    let keep := fld x.entry 120 105
    let g := x.job.gladeOf x.cal.glade
    let page := gladePage g
    let (rp, bad) := consume s u.job x.job x.alm (fld x.entry 104 93) (64 * fld x.entry 92 73) 32
    if bad then consumePoison s u.job page x.job.partition (pathCode page)
    else
      let d : Draw := ⟨leAt rp 0 8, leAt rp 8 4, leAt rp 16 8⟩
      let e := if op = 2 then 0 else fld x.entry 40 17 + 1
      let len := if op = 0 then 2 * e else e
      let doff := 64 * fld x.entry 60 41
      let s0 := traceEntry s u x.run.pc 0
      if op = 2 then
        stepCal (traceEntry (updCal s0 u fun r => { r with draw := some d }) u x.run.pc 1) u
      else
        match bufOf x.alm (fld x.entry 72 61) with
        | none => entryFault s u.job page
        | some db =>
          match hardStop s x.job db doff len with
          | some w => stopWrite s u.job page w
          | none =>
            let (us, fr) := vecDraw s g src d e (getGlade s g).free
            let out := if op = 0 then us.flatMap (toLe 2) else us.map fun f => if f < keep then (1 : Byte) else 0
            let s1 := bufPut (updGlade s0 g fun z => { z with free := fr }) u.job (fld x.entry 72 61) db doff out
            let adv := if src = 0 then (e + 7) / 8 else 0
            let s2 := updCal s1 u fun r => { r with draw := some { d with base := (d.base + adv) % 2 ^ 64 } }
            stepCal (traceEntry s2 u x.run.pc 1) u

def execRng (u : UnitRef) (s : State) : Host.Outcome State Fault Refusal := .next (issueRng s u)

end Sys2Proof.Machine
end

