-- ==== Sys2Proof/Machine/RegOps.lean ====
section
/-! DEFINITION. Register accesses: who is the operator, what a read returns, the pairing of 64-bit reads, which values a
write refuses and what it stores (R6 to R11, R46, R48, R210, R522 to R532). -/

namespace Sys2Proof

def Requester.code : Requester → Nat
  | .host => 0 | .sideband => 1 | .jtag => 2

end Sys2Proof

namespace Sys2Proof.Machine

/-! Requesters (R523) -/

/-- The requester is the operator. -/
def isOperator (s : State) (r : Requester) : Bool :=
  r != .host || getF s Reg.DBG_REQ_CFG Fld.DBG_REQ_CFG_host == 1

/-- Pages of the register chapter, all of whose writable fields but EVT_CAUSE are the operator's (R523). -/
def chapterPage : PageKind → Bool
  | .identity | .timebase | .queue | .dispatcher | .validator | .migration | .quota | .dump | .management | .debug | .trace => true
  | _ => false

/-- Registers outside those pages that only the operator may write (R117, R212, R285, R309, R370, R440, R463, R464, R487,
R520). -/
def operatorRegs : PageKind → List Nat
  | .copse1 => [0x80]
  | .channel => [0xA0]
  | .commons => [0x44, 0x90, 0x94, 0x98, 0x9C, 0xA0]
  | .search => [0x40]
  | .adapter => [0x44]
  | .security => [0x44, 0x50, 0x6C]
  | .chowen => [0x44]
  | .forest => [0x44, 0x48]
  | .power => [0x44, 0x48, 0x4C, 0x50]
  | .fault => [0x40, 0x44, 0x70, 0x78, 0x7C, 0x80, 0x84, 0x90, 0x94, 0x98, 0x9C, 0xA0, 0xA4, 0xA8, 0xAC, 0xB0, 0xB4,
      0xB8, 0xBC, 0xC0, 0xC4, 0xC8, 0xCC]
  | _ => []

/-- Only the operator may write the register (BLK_CTL.err_clr and EVT_FORCE in every page, R530, R532). -/
def operatorOnly (k : PageKind) (off : Nat) : Bool :=
  off == 0x10 || off == 0x20 || (chapterPage k && off != 0x18) || (operatorRegs k).contains off

/-! Reads -/

/-- Queue sizes. -/
def ioQueues {α : Type} (m : AMap α) : Nat := (m.filter fun e => e.1 != 0).length

/-- The context tag of a slot. -/
def slotTag (x : Option Ctx) : Nat := match x with | some c => c.tag | none => 0

/-- The copse's ring shown by COPSE_PASSCTL, and whether it is withheld (R116). -/
def ringMasked (s : State) (k : Nat) : Bool :=
  let p := aGetD (getCopse s k).ringOwner (getF s (copsePage k + Reg.COPSE_PASSCTL) Fld.COPSE_PASSCTL_ring_sel) 0
  p != 0

def ringShown (s : State) (k : Nat) : Nat :=
  if ringMasked s k then 0
  else
    let a := copsePage k + Reg.COPSE_PASSCTL
    let v := aGetD (getCopse s k).rings (ringKey (getF s a Fld.COPSE_PASSCTL_ring_sel) (getF s a Fld.COPSE_PASSCTL_row_sel)
      (getF s a Fld.COPSE_PASSCTL_col_sel)) 0
    (v % 2 ^ 64).toNat

/-- COPSE_STATE (R116). -/
def copseState (s : State) (k : Nat) : Nat :=
  let c := getCopse s k
  let run := if copseSuspect s k || copseExcluded s k then 5
    else if c.yielding && c.pass.isSome then 4
    else if (match c.harv with | some h => decide (h.attempt > 0) | none => false) || (c.replays > 0 && c.pass.isSome) then 3
    else if c.harv.isSome then 2 else if c.pass.isSome then 1 else 0
  let (bind, ring, len, pos) := match c.pass with
    | some p => (if p.borrower then 2 else 1, (match p.members[p.done % p.size]? with | some m => m.ring | none => 0),
        p.size - 1, p.done % p.size)
    | none => (0, 0, 0, 0)
  let liveB := c.slotB.isSome || (c.slotBorrower.isSome && c.slotA.isSome)
  let liveA := c.slotA.isSome || (c.slotBorrower.isSome && c.slotA.isNone)
  run * 2 ^ 29 + (if c.activeB then 2 ^ 28 else 0) + (if liveB then 2 ^ 27 else 0) + (if liveA then 2 ^ 26 else 0)
    + bind * 2 ^ 24 + ring * 2 ^ 21 + len * 2 ^ 18 + pos * 2 ^ 15

/-- Partitions of the jobs bound to a block. -/
def blockParts (s : State) (sel : Job → Bool) : List Nat :=
  (s.jobs.filter fun e => e.2.isBound && sel e.2).map (·.2.partition)

/-- OWNER (R532). -/
def ownerWord (s : State) (p : PageInst) : Nat :=
  let g := 4 * p.stand + p.glade
  let of := fun (l : List Nat) => match l with | [] => 0 | [x] => 2 ^ 31 + x | _ => 2 ^ 31
  if p.kind = .copse0 then (match (getCopse s (4 * g + p.copse)).owner with | some b => 2 ^ 31 + b.partition | none => 0)
  else if p.kind = .glade then of (blockParts s fun j => j.glades.contains g)
  else if p.kind = .ranger then of (blockParts s fun j => j.rangers.contains (16 * p.stand + p.chan))
  else 0

/-- BLK_STAT.state (R530). -/
def blkState (s : State) (p : PageInst) : Nat :=
  let g := 4 * p.stand + p.glade
  let ch := 16 * p.stand + p.chan
  if p.stand = 0x1F then (if s.power.starting then 1 else 2)
  else if s.power.starting then 1
  else if (p.kind = .glade ∧ gladeExcluded s g) ∨ ((p.kind = .copse0 ∨ p.kind = .copse1) ∧ copseExcluded s (4 * g + p.copse)) then 4
  else if (p.kind = .channel ∨ p.kind = .ranger) ∧ getF s (chanPage ch + Reg.CH_STAT) Fld.CH_STAT_state = 3 then 5
  else if s.power.ps ≥ 3 ∨ (s.power.ps = 2 ∧ (p.kind = .glade ∨ p.kind = .copse0 ∨ p.kind = .copse1 ∨ p.kind = .ranger)) then 3
  else 2

/-- A partition over its quota in tier t (R197). -/
def overQuota (q : Part) (t : Nat) : Bool := decide (listAt q.charge t > listAt q.quota t)

def selTable (s : State) : Option Table :=
  aGet? s.tables (tabKey (getF s Reg.TBL_SEL Fld.TBL_SEL_partition) (getF s Reg.TBL_SEL Fld.TBL_SEL_handle))

def selAlm (s : State) : Option Alm := aGet? s.alms (getF s Reg.VAL_SEL Fld.VAL_SEL_handle)

/-- A partition's state as byte 0x00E of R425 and PART_STATE give it: 0 absent, 1 created, 2 sealed, 3 releasing,
4 operator. -/
def stateCode (s : State) (p : Nat) : Nat :=
  match partState s p with
  | none => 0 | some .created => 1 | some .sealed => 2 | some .releasing => 3 | some .operator => 4

/-- The value of a register that is formed when it is read; none for one that is stored. -/
def derivedHub (s : State) (a : Nat) : Option Nat :=
  if a = Reg.TB_COUNT_LO then some (s.tb % 2 ^ 32)
  else if a = Reg.TB_COUNT_HI then some (s.tb / 2 ^ 32 % 2 ^ 32)
  else if a = Reg.HUB_STANDS then
    some (putBits (regGet s a).toNat 15 8 ((standsInService s).map (2 ^ ·)).sum)
  else if a = Reg.QE_STAT then some s.host.outstanding.length
  else if a = Reg.QE_QUEUES then some (ioQueues s.host.cqs * 65536 + ioQueues s.host.sqs)
  else if a = Reg.DSP_STAT then
    some (min (s.jobs.filter fun e => !e.2.isBound && !e.2.finished).length 0x7FF * 65536
      + (s.jobs.filter fun e => e.2.isBound && !e.2.finished).length)
  else if a = Reg.DSP_ELIG then
    some (((List.range 32).filter fun g => standPresent s (g / 4) && !gladeExcluded s g).length * 256
      + ((List.range 128).filter (copseOk s)).length)
  else if a = Reg.DSP_WP_MAX then some (s.alms.foldl (fun m x => x.2.waits.foldl (fun m w => max m w.budget) m) 0)
  else if a = Reg.VAL_STAT then some s.alms.length
  else if a = Reg.VAL_SEL_INFO then
    some (match selAlm s with
      | some x => 2 ^ 31 + (if x.plan.isSome then 2 ^ 30 else 0) + (if x.owner = 4095 then 2 ^ 29 else 0) + x.owner * 65536 + x.loadNo % 65536
      | none => 0)
  else if Reg.VAL_DIGEST ≤ a ∧ a < Reg.VAL_DIGEST + 64 then
    some (match selAlm s with | some x => leAt x.digest (a - Reg.VAL_DIGEST) 4 | none => 0)
  else if Reg.VAL_RPDIGEST ≤ a ∧ a < Reg.VAL_RPDIGEST + 64 then
    some (match (selAlm s).bind (·.plan) with | some p => leAt p.digest (a - Reg.VAL_RPDIGEST) 4 | none => 0)
  else if a = Reg.MIG_PINNED then
    some (((s.mem.resident ++ s.mem.window).filter fun e => e.2.pins > 0).length)
  else if a = Reg.MIG_RESIDENT then some (s.mem.resident.length + s.mem.window.length)
  else if a = Reg.QUOTA_NOVER then
    some (s.parts.filter fun e => (List.range 8).any (overQuota e.2)).length
  else if a = Reg.COMMONS_STAT then some (putBits (regGet s a).toNat 9 0 (getPart s 4095).extents.length)
  else if a = Reg.SRCH_STAT then
    some (min (s.searches.filter fun e => e.2.phase == .waiting).length 0xFFFF * 65536
      + (s.searches.filter fun e => e.2.phase == .running || e.2.phase == .stopped || e.2.phase == .scanned || e.2.phase == .peers).length)
  else if a = Reg.TBL_INFO then
    some (match selTable s with
      | some t => t.versions.length * 2 ^ 29 + (if t.building.isSome then 2 ^ 28 else 0)
      | none => 0)
  else if a = Reg.TBL_EPOCH then some (match selTable s with | some t => t.current | none => 0)
  else if a = Reg.TBL_HOT_CTL then some (match selTable s with | some t => t.interval | none => 0)
  else if a = Reg.TBL_HOT_CNT then
    some (match selTable s with | some t => t.target.length * 65536 + t.staged.length | none => 0)
  else if a = Reg.ADPT_STAT then
    some (s.gangs.length * 65536 + (s.adapters.filter fun e => e.2.pages.isSome).length)
  else if a = Reg.SEC_SESS then
    let l := s.parts.flatMap (·.2.sessions)
    some ((l.filter (·.isPending)).length * 65536 + (l.filter fun x => !x.isPending).length)
  else if a = Reg.PART_STATE then
    let p := getF s Reg.PART_SEL Fld.PART_SEL_partition
    let q := getPart s p
    some (stateCode s p * 2 ^ 29 + (if q.dataKey.isSome then 2 ^ 28 else 0) + (if q.hasIndexKey then 2 ^ 27 else 0)
      + q.sessions.length * 65536 + q.loads % 65536)
  else if a = Reg.PART_CFG then
    let p := getF s Reg.PART_SEL Fld.PART_SEL_partition
    some (if aHas s.parts p then (getPart s p).cfg else 0)
  else if a = Reg.FOREST_EC_PENDING then some s.forest.journal.length
  else if a = Reg.MGMT_STAT then
    let now : Bool := match s.mgmt.lastMsg with | some t => decide (s.tb ≤ t + 100000000) | none => false
    some (putBits (regGet s a).toNat 30 30 (if now then 1 else 0))
  else if a = Reg.RAS_EVLOG_STAT then some (unreadCount s.ras)
  else if a = Reg.TRC_STAT then some ((if s.trace.buf.isEmpty then 0 else 2 ^ 31) + s.trace.buf.length)
  else none

def derivedBlock (s : State) (p : PageInst) (off : Nat) : Option Nat :=
  let g := 4 * p.stand + p.glade
  let k := 4 * g + p.copse
  let ch := 16 * p.stand + p.chan
  if p.kind = .copse0 then
    if off = Reg.COPSE_RINGVIEW_LO then some (ringShown s k % 2 ^ 32)
    else if off = Reg.COPSE_RINGVIEW_HI then some (ringShown s k / 2 ^ 32)
    else if off = Reg.COPSE_VIEWSTAT then some (if ringMasked s k then 1 else 0)
    else if off = Reg.COPSE_STATE then some (copseState s k)
    else if off = Reg.COPSE_SLOTS then
      let c := getCopse s k
      let b := if c.slotA.isSome ∧ c.slotB.isNone then slotTag c.slotBorrower else slotTag c.slotB
      some (b * 65536 + (if c.slotA.isNone then slotTag c.slotBorrower else slotTag c.slotA))
    else if off = Reg.COPSE_RINGOWN then
      let c := getCopse s k
      some ((match c.borrower with | some b => b.partition | none => 0) * 2 ^ 20
        + (if c.lendEn then 2 ^ 16 + borrowMask * 256 else 0) + ownerMask c)
    else if off = Reg.COPSE_SPLIT then some (getCopse s k).borrowWin
    else none
  else if p.kind = .glade ∧ off = Reg.GLADE_RET_STAT then some (getGlade s g).retention.length
  else if p.kind = .ranger ∧ off = Reg.RANGER_BUF then
    let c := getChan s ch
    let used := (s.mem.regions.filter fun r => r.live && locRanger ch ≤ r.start && r.start < locRanger ch + 524288).map (·.len)
    some (used.sum / 65536 * 16 + c.pf.length)
  else if p.kind = .ranger ∧ off = Reg.RANGER_KEYS then
    some (putBits (regGet s (rangerPage ch + off)).toNat 15 0
      ((((getChan s ch).keys.zipIdx).filter fun x => x.1.inUse).map fun x => 2 ^ x.2).sum)
  else if p.kind = .channel ∧ Reg.CH_ERASE_ACTIVE ≤ off ∧ off < Reg.CH_ERASE_ACTIVE + 32 then
    let d := (off - Reg.CH_ERASE_ACTIVE) / 4
    some (putBits (regGet s (chanPage ch + off)).toNat 30 30
      (match aGet? (getChan s ch).ops d with | some o => if o.kind = 2 ∧ o.suspended then 1 else 0 | none => 0))
  else if p.kind = .stackPort ∧ off = Reg.STACK_ALLOC then
    some ((s.mem.pages.filter fun e => e.2.live && e.1 / 2 ^ 20 == 3 * p.stand + p.stack).length)
  else if p.kind = .chowen ∧ off = Reg.CHW_STAT then
    some (putBits (regGet s (chowenPage p.port + off)).toNat 6 0 ((s.forest.assocs.filter fun a => a.port == p.port && a.state == 3).length))
  else none

/-- A read of a register (R524 apart): zero where no page or no register is there (R526), where the field is
write-only, else its value. -/
def readReg (s : State) (a : Nat) : Word :=
  match livePage s a with
  | none => 0
  | some p =>
    let off := a % 4096
    if off = 0x14 then BitVec.ofNat 32 (blkState s p * 2 ^ 29)
    else if off = 0x3C then BitVec.ofNat 32 (ownerWord s p)
    else
      match (if p.stand = 0x1F ∧ p.kind ≠ .chowen then derivedHub s a else derivedBlock s p off) with
      | some v => BitVec.ofNat 32 v
      | none => regGet s a

/-! Pairs (R524) -/

/-- Offsets of the _LO registers of a page. -/
def loOffsets : PageKind → List Nat
  | .timebase => [0x40, 0x48] | .queue => [0x4C] | .dispatcher => [0x70] | .quota => [0x48, 0x50, 0x58]
  | .ftl => [0x58, 0x60, 0x68] | .commons => [0x48, 0xA4, 0xAC] | .search => [0x48, 0x50]
  | .adapter => [0x48, 0x50, 0x58, 0x60] | .fault => [0x78, 0x80] | .dump => [0x44, 0x4C, 0x54] | .debug => [0x48]
  | .trace => [0x4C] | .chowen => [0x48, 0x50] | .copse0 => [0x44, 0x60] | .copse1 => [0x60] | .channel => [0xA4]
  | .stackPort => [0x50, 0x58]
  | _ => []

def isLo (p : PageInst) (off : Nat) : Bool := off == 0x30 || (loOffsets p.kind).contains off

/-- A requester's shadow for a page: requester, page, address of the _HI register, its value. -/
def shadowKey (r : Requester) (a : Nat) : Nat := r.code * 2 ^ 32 + a / 4096

/-- A read by a requester: the value it gets, and the shadow it leaves for its path in the page (R524). -/
def readBy (s : State) (r : Requester) (a : Nat) : State × Word :=
  match livePage s a with
  | none => (s, 0)
  | some p =>
    let k := shadowKey r a
    let v := match s.shadow.find? fun x => x.1 == k && x.2.1 == a with
      | some x => x.2.2
      | none => readReg s a
    let rest := s.shadow.filter fun x => x.1 != k
    ({ s with shadow := if isLo p (a % 4096) then (k, a + 4, readReg s (a + 4)) :: rest else rest }, v)

/-! Writes: limits (R46 to R48, R210) -/

/-- A TMO_LIMIT word in ticks of 10 ns. -/
def limitTicks (w : Nat) : Nat :=
  let c := bitsOf w 29 0
  let u := bitsOf w 31 30
  if u = 0 then c else if u = 1 then c * 100 else c * 100000

def unitTicks (w : Nat) : Nat := let u := bitsOf w 31 30; if u = 0 then 1 else if u = 1 then 100 else 100000

/-- The limit of a page. -/
def limitOf (s : State) (page : Nat) : Nat := limitTicks (regGet s (page + Reg.TMO_LIMIT)).toNat

def listMax (l : List Nat) : Nat := l.foldl max 0
def listMin (d : Nat) (l : List Nat) : Nat := l.foldl min d

def noLimit : Nat := 2 ^ 62

/-- The worst-case time of a channel's operations under its suspension limits, in ticks (R210). -/
def suspTime (w : Nat) : Nat :=
  let hold := bitsOf w 15 0
  max (1000000 + bitsOf w 27 24 * (hold + 100) * 100) (500000 + bitsOf w 23 20 * (hold + 100) * 100)

/-- The least and the greatest limit in ticks that the levels below and above a page allow it (R47, R48). -/
def limitBounds (s : State) (p : PageInst) : Nat × Nat :=
  let live := presentStands s
  let chans := fun (st : Nat) => (List.range 16).map fun k => limitOf s (chanPage (16 * st + k))
  let copses := live.flatMap fun st => (List.range 16).map fun k => limitOf s (copsePage (16 * st + k))
  let stands := live.map fun st => limitOf s (standBase st)
  match p.kind with
  | .channel =>
    (suspTime (regGet s (chanPage (16 * p.stand + p.chan) + Reg.CH_SUSP_CFG)).toNat, limitOf s (standBase p.stand) / 17)
  | .copse0 => (1, limitOf s pgDispatcher / 3)
  | .stand => (17 * listMax (chans p.stand), min (limitOf s pgQueue / 2) (limitOf s pgDispatcher / 2))
  | .queue => (2 * listMax stands, noLimit)
  | .dispatcher =>
    (max (max (2 * listMax stands) (3 * listMax copses))
      (max ((s.alms.foldl (fun m x => x.2.waits.foldl (fun m w => max m w.budget) m) 0) * 100 + 1)
        ((regGet s Reg.FOREST_RED_CFG).toNat * 100 + 1)), noLimit)
  | _ => (0, noLimit)

/-- A write of TMO_LIMIT (R46, R48). -/
def writeLimit (s : State) (p : PageInst) (a : Nat) (v : Word) : State :=
  let w := v.toNat
  if bitsOf w 31 30 = 3 ∨ bitsOf w 29 0 = 0 then refuse s a v
  else
    let (lo, hi) := limitBounds s p
    let t := limitTicks w
    let u := unitTicks w
    let unit := bitsOf w 31 30 * 2 ^ 30
    if t > hi then post s (a / 4096 * 4096) 0x0002 0 w (unit + hi / u)
    else if t < lo then
      post s (a / 4096 * 4096) 0x0002 0 w (unit + min ((lo + u - 1) / u) (hi / u))
    else setReg s a v

/-- The largest hold_us at which both worst-case times of a word fit a limit (R210). -/
def fitHold (w lim : Nat) : Option Nat :=
  let room := fun (base n : Nat) => if n = 0 then (if base ≤ lim then 65535 else 0)
    else if lim < base then 0 else (lim - base) / (n * 100) - 100
  let h := min (min (room 1000000 (bitsOf w 27 24)) (room 500000 (bitsOf w 23 20))) 65535
  if h = 0 ∨ suspTime (putBits w 15 0 h) > lim then none else some h

/-- A write of CH_SUSP_CFG (R210, R229). -/
def writeSusp (s : State) (a : Nat) (v : Word) : State :=
  let page := a / 4096 * 4096
  let w := v.toNat &&& 0x0FF0FFFF
  if bitsOf w 15 0 = 0 then refuse s a v
  else if suspTime w > limitOf s page then
    post s page 0x0002 0 v.toNat (match fitHold w (limitOf s page) with | some h => putBits w 15 0 h | none => (regGet s a).toNat)
  else setReg s a (BitVec.ofNat 32 w)

/-! Writes of ordinary fields -/

/-- Values that a field refuses: page kind, offset, low bit of the field, the field's value, the whole word. -/
def fieldRefused (k : PageKind) (off lo v w : Nat) : Bool :=
  match k with
  | .stand => off == 0x48 && lo == 0 && (v < 10 || v > 24)
  | .copse1 => off == 0x84 && lo == 0 && v ≥ 40
  | .glade => (off == 0x44 && lo == 0 && v == 0) || (off == 0x40 && lo == 16 && v > 16)
  | .channel => off == 0x4C && v == 0
  | .ftl => (off == 0x48 && ((lo == 20 && v == 0) || (lo < 20 && (bitsOf w 7 0 ≥ bitsOf w 15 8 || bitsOf w 7 0 == 0))))
      || (off == 0x4C && v == 0) || (off == 0x50 && v == 0)
  | .commons => off == 0x9C && v == 0
  | .search => off == 0x40 && (v == 0 || v > 4096)
  | .adapter => off == 0x44 && (v == 0 || v > 240)
  | .security => off == 0x50 && v == 0
  | .chowen => off == 0x44 && v == 0
  | .forest => off == 0x48 && v == 0
  | .power => (off == 0x48 && ((lo == 16 && v == 0) || (lo == 0 && (v < 600 || v > 1800))))
      || (off == 0x4C && !(List.contains [620, 650, 700, 750, 800] v)) || (off == 0x50 && (v < 70 || v > 105))
  | .fault => (off == 0x40 && ((lo == 16 && v == 0) || (lo == 0 && (v == 0 || v > 168)))) || (off == 0x44 && (v < 10 || v > 10000))
  | .migration => off == 0x40 && v > 4096
  | _ => false

/-- Store the RW fields of a word that are not refused; one event where any is (R6, R7, R11). -/
def writeFields (s : State) (p : PageInst) (a : Nat) (fs : List FieldRow) (v : Word) : State :=
  let off := a % 4096
  let rw := fs.filter fun f => f.access == .rw || f.access == .rws
  let bad := rw.filter fun f => fieldRefused p.kind off f.lo (bitsOf v.toNat f.hi f.lo) v.toNat
  let w := (rw.filter fun f => !bad.contains f).foldl (fun w f => putBits w f.hi f.lo (bitsOf v.toNat f.hi f.lo)) (regGet s a).toNat
  let s1 := setReg s a (BitVec.ofNat 32 w)
  if bad.isEmpty then s1 else refuse s1 a v

/-! The header's actions (R8, R517, R530) -/

/-- Clear the error counts and the last error of a page in one action. -/
def clearErrors (s : State) (page : Nat) : State :=
  setReg (setReg (setReg (setReg (setReg s (page + Reg.ERR_CE_COUNT) 0) (page + Reg.ERR_UE_COUNT) 0) (page + Reg.ERR_LAST_CODE) 0)
    (page + Reg.ERR_LAST_ADDR_LO) 0) (page + Reg.ERR_LAST_ADDR_HI) 0

/-- Clear event-cause bits (W1C). -/
def clearCause (s : State) (page : Nat) (v : Word) : State :=
  setReg s (page + Reg.EVT_CAUSE) (regGet s (page + Reg.EVT_CAUSE) &&& ~~~v)

/-- Post forced events, category by category (R517). -/
def forceEvents (s : State) (page : Nat) (v : Word) : State :=
  (List.range 11).foldl (fun s n => if bitOf v.toNat n then postFlags s page (n * 256 + 0xFF) 0 0 0 1 else s) s

/-- The register at an offset has a field that software writes (R7, R526). -/
def writable (a : Nat) : Bool :=
  a % 4096 == 0x10 || (fieldsAt a).any fun f => !(f.access == .ro || f.access == .ros)

/-- A write that reaches a register: the page there, refused where the requester may not make it. -/
def reach (s : State) (r : Requester) (a : Nat) (v : Word) (k : PageInst → State) : State :=
  match livePage s a with
  | none => s
  | some p =>
    if a % 4 ≠ 0 then refuse s (a / 4 * 4) v
    else if operatorOnly p.kind (a % 4096) && writable a && !isOperator s r then refuse s a v
    else k p

end Sys2Proof.Machine
end

