-- ==== Sys2Proof/Machine/Tables.lean ====
section
/-! DEFINITION. The meanings of the commands on embedding tables: VZ-TABLE forms CREATE to DISCARD, VZ-LOOKUP, the hot-row
registers, refreshes, copies and write-backs of hot rows (R310 to R331). -/

namespace Sys2Proof.Machine

/-! VZ-TABLE (R310, R319, R320, R329) -/

def tableOf (s : State) (q : Req) : Option Table := aGet? s.tables (tabKey q.part q.c.handle)

/-- CREATE: a descriptor within the rules of R310 makes a table with the lowest free handle and an empty building
version. -/
def createTable (s : State) (q : Req) : State × Option Reply :=
  let b := q.pay
  let rows := leAt b 0 4
  let dim := leAt b 4 2
  let fmt := leAt b 6 1
  let hot := leAt b 8 2
  let h := ((List.range 255).map (· + 1)).find? fun h => !aHas s.tables (tabKey q.part h)
  guards s [(q.c.cdw11 != 0 || bitsOf q.c.cdw13.toNat 15 4 != 0 || b.length != 64, stInvalidField),
      (rows == 0 || dim < 16 || dim > 4096 || dim % 16 != 0 || fmt > 1 || hot > 4096 || hot % 64 != 0
        || !allZero b 7 1 || !allZero b 10 54, stInvalidField),
      (unsealed s q.part, stNotSealed), (h.isNone, stQuota)] fun _ =>
    let h := h.getD 0
    let t : Table := { rows := rows, dim := dim, fmt := fmt, hotKib := hot, current := 0, nextEpoch := 1, versions := [],
                       building := none, staged := [], target := [], interval := 0 }
    let k := tabKey q.part h
    match startBuilding { s with tables := aPut s.tables k t } k 0 none with
    | none => fail s stQuota
    | some s1 => done s1 h

def execTableCreate (c : Cmd) (o : Opened) (s : State) : Host.Outcome State Fault Refusal :=
  runForm c 2 (runSealed c 0x8D true false false o createTable) s

/-- LOAD: rows into the building version, started as a copy of the current epoch where there is none. -/
def loadTable (s : State) (q : Req) : State × Option Reply :=
  let k := tabKey q.part q.c.handle
  let first := leAt q.pay 0 8
  let n := leAt q.pay 8 4
  guards s [(!formFields q.c || !allZero q.pay 12 4 || q.pay.length < 16, stInvalidField), (unsealed s q.part, stNotSealed),
      ((tableOf s q).isNone, stInvalidField)] fun _ =>
    match tableOf s q with
    | none => fail s stInvalidField
    | some t =>
      guards s [(q.pay.length != 16 + n * t.stride || first + n > t.rows, stInvalidField),
          ((match t.building with | some b => b.job.isSome | none => false), stSequence)] fun _ =>
        match (if t.building.isSome then some s else startBuilding s k t.current none) with
        | none => fail s stQuota
        | some s1 =>
          match writeBuild k (t.npages + 2) s1 (first * t.stride) (q.pay.drop 16) with
          | none => fail s stQuota
          | some s2 => done s2 n

def execTableLoad (c : Cmd) (o : Opened) (s : State) : Host.Outcome State Fault Refusal :=
  runForm c 3 (runSealed c 0x8D true false false o loadTable) s

/-- The checks that INSTALL, DELETE and DISCARD share: no payload, a table of the partition. -/
def tableChecks (s : State) (q : Req) : List (Bool × Status) :=
  [(!formFields q.c || q.pay.length != 0, stInvalidField), (unsealed s q.part, stNotSealed),
   ((tableOf s q).isNone, stInvalidField)]

/-- The building version is absent, or a running job's. -/
def noBuilding (s : State) (q : Req) : Bool :=
  match (tableOf s q).bind (·.building) with | some b => b.job.isSome | none => true

def installCmd (s : State) (q : Req) : State × Option Reply :=
  guards s (tableChecks s q ++ [(noBuilding s q, stSequence)]) fun _ =>
    match installTable s (tabKey q.part q.c.handle) with
    | none => fail (bump s Reg.TBL_EPOCH_REFUSED 1) stEpoch
    | some (s1, e) => done s1 e

def execTableInstall (c : Cmd) (o : Opened) (s : State) : Host.Outcome State Fault Refusal :=
  runForm c 4 (runSealed c 0x8D true false false o installCmd) s

/-- DELETE: a table that no batch pins goes with its pages. -/
def deleteCmd (s : State) (q : Req) : State × Option Reply :=
  let k := tabKey q.part q.c.handle
  guards s (tableChecks s q ++ [((tableOf s q).any fun t => t.versions.any fun v => !v.2.pins.isEmpty, stSequence)]) fun _ =>
    match aGet? s.tables k with
    | none => fail s stInvalidField
    | some t =>
      let s1 := shrinkTable s k t { t with versions := [], building := none }
      done { s1 with tables := aDel s1.tables k } 0

def execTableDelete (c : Cmd) (o : Opened) (s : State) : Host.Outcome State Fault Refusal :=
  runForm c 5 (runSealed c 0x8D true false false o deleteCmd) s

def discardCmd (s : State) (q : Req) : State × Option Reply :=
  guards s (tableChecks s q ++ [((tableOf s q).any fun t => t.building.any fun b => b.job.isSome, stSequence)]) fun _ =>
    done (discardTable s (tabKey q.part q.c.handle)) 0

def execTableDiscard (c : Cmd) (o : Opened) (s : State) : Host.Outcome State Fault Refusal :=
  runForm c 6 (runSealed c 0x8D true false false o discardCmd) s

/-! VZ-LOOKUP (R330) -/

/-- The header of a lookup's answer. -/
def lookupHead (count epoch oor : Nat) : List Byte :=
  [0x54#8, 0x42#8, 0x4C#8, 0x52#8] ++ toLe 2 1 ++ zeros 2 ++ toLe 4 count ++ toLe 4 epoch ++ toLe 4 oor ++ zeros 44

/-- The page of the glade whose sorter runs a lookup: every lookup completes in its row, so that none is in flight and
the lowest glade takes it. -/
def lookupPage (s : State) : Nat :=
  match (List.range 32).find? fun i => standPresent s (i / 4) && !gladeExcluded s i with
  | some i => gladePage i
  | none => pgTable

def lookup (s : State) (q : Req) : State × Option Reply :=
  let opt := bitsOf q.c.cdw13.toNat 1 0
  let n := leAt q.pay 0 4
  guards s [(q.c.cdw11 != 0 || bitsOf q.c.cdw13.toNat 15 2 != 0, stInvalidField),
      (q.pay.length < 16 || n == 0 || n > 1048576 || !allZero q.pay 4 12 || q.pay.length != 16 + 4 * n, stInvalidField),
      (unsealed s q.part, stNotSealed), ((tableOf s q).isNone, stInvalidField)] fun _ =>
    match tableOf s q with
    | none => fail s stInvalidField
    | some t =>
      let sp := rowSpacing t.dim t.fmt opt
      guards s [(!roomFor q (64 + n * sp), stInvalidField), (t.current == 0, stSequence)] fun _ =>
        let pages := (aGetD t.versions t.current ⟨[], []⟩).pages
        let l := (List.range n).map fun i => leAt q.pay (16 + 4 * i) 4
        let ok := (l.filter fun r => decide (r < t.rows)).foldr insertNat []
        if ok.any (fun r => pagesPoisoned s.mem pages (r * t.stride) t.stride) then fail s stPoisoned
        else
          let rows := ok.map fun r => (r, tableRow s.mem t pages r)
          let outs := rows.map fun r => (r.1, rowOut t.dim t.fmt opt r.2)
          let body := l.flatMap fun r => match aGet? outs r with | some b => b ++ zeros (sp - b.length) | none => zeros sp
          let bad := l.filter fun r => decide (t.rows ≤ r)
          let nans := if opt = 3 then 0 else (rows.filter fun r => rowNan r.2).length
          let s1 := match bad.head? with
            | some r => bump (post s (lookupPage s) 0x0509 q.part q.c.handle r) Reg.TBL_OOR bad.length
            | none => s
          answerReply (bump s1 Reg.TBL_NAN nans) q stSuccess n 0 (lookupHead n t.current bad.length ++ body)

def execVzLookup (c : Cmd) (o : Opened) (s : State) : Host.Outcome State Fault Refusal :=
  runSealed c 0x8B true false false o lookup s

/-! Hot rows (R324 to R328) -/

/-- A resident row that leaves the target: a dirty one is written back under a token, another goes at once (R326). -/
def evictHot (pin : TablePin) : TablePin × Nat :=
  let gone := fun (e : Nat × HotRow) => !pin.target.contains e.1
  let wb := (pin.hot.filter fun e => gone e && e.2.state == 2 && e.2.dirty).length
  ({ pin with hot := (pin.hot.filter fun e => !(gone e) || e.2.state == 3 || (e.2.state == 2 && e.2.dirty)).map fun e =>
      if (gone e && e.2.state == 2) = true then (e.1, { e.2 with state := 3 }) else e }, wb)

/-- Reconcile the hot regions of a job for a table with a new target (R324). -/
def reconcileJob (s : State) (n h : Nat) (t : Table) : State :=
  match getJob s n with
  | none => s
  | some j =>
    let pins := j.tables.map fun pin =>
      if pin.table = h then
        let (p1, wb) := evictHot { pin with target := t.target }
        (migrateIn s j p1 t, wb)
      else (pin, 0)
    bump (updJob s n fun x => { x with tables := pins.map (·.1) }) Reg.TBL_HOT_WB (pins.map (·.2)).sum

/-- A refresh: the staged list becomes the target list, and every hot region of the table follows it (R324). -/
def refreshHot (s : State) (k : Nat) : State :=
  match aGet? s.tables k with
  | none => s
  | some t =>
    let t1 := { t with target := t.staged }
    (s.jobs.map (·.1)).foldl (fun s n => match getJob s n with
      | some j => if j.isBound ∧ j.partition = k / 256 then reconcileJob s n (k % 256) t1 else s
      | none => s) { s with tables := aPut s.tables k t1 }

/-- The table that TBL_SEL names. -/
def selKey (s : State) : Nat := tabKey (getF s Reg.TBL_SEL Fld.TBL_SEL_partition) (getF s Reg.TBL_SEL Fld.TBL_SEL_handle)

def execTblHotApply (r : Requester) (s : State) : Host.Outcome State Fault Refusal :=
  .next (reach s r Reg.TBL_HOT_CTL 0x80000000 fun _ => refreshHot s (selKey s))

def clearStaged (s : State) : State := updTable s (selKey s) fun t => { t with staged := [] }

def execTblHotClear (r : Requester) (s : State) : Host.Outcome State Fault Refusal :=
  .next (reach s r Reg.TBL_HOT_CTL 0x40000000 fun _ => clearStaged s)

/-- Append a row to the staged list (R331). -/
def stageRow (s : State) (v : Word) : State :=
  match aGet? s.tables (selKey s) with
  | none => s
  | some t =>
    if t.staged.contains v.toNat ∧ v.toNat < t.rows then s
    else if v.toNat ≥ t.rows ∨ t.staged.length ≥ hotCap t then refuse s Reg.TBL_HOT_ROW v
    else updTable s (selKey s) fun t => { t with staged := t.staged ++ [v.toNat] }

def execTblHotRowWrite (r : Requester) (row : Word) (s : State) : Host.Outcome State Fault Refusal :=
  .next (reach s r Reg.TBL_HOT_ROW row fun _ => stageRow s row)

/-- HOT_REFRESH_INTERVAL: the timer of a table whose interval is not zero. -/
def execHotRefreshInterval (partition table : Nat) (s : State) : Host.Outcome State Fault Refusal :=
  .next (
    let k := tabKey partition table
    match aGet? s.tables k with
    | some t => if t.interval = 0 then s else refreshHot s k
    | none => s)

/-- The first pin of a job for a table whose row is in a state. -/
def pinWith (j : Job) (table row state : Nat) : Option (TablePin × Nat) :=
  j.tables.zipIdx.find? fun x => x.1.table == table && (match aGet? x.1.hot row with | some h => h.state == state | none => false)

/-- HOT_ROW_COPY_LANDED: the copy drains its log in order, and the directory flips to hot (R325). -/
def execHotRowCopyLanded (job table row : Nat) (s : State) : Host.Outcome State Fault Refusal :=
  .next (
    match getJob s job with
    | none => s
    | some j =>
      match pinWith j table row 0 with
      | none => s
      | some (pin, i) =>
        let h := aGetD pin.hot row { state := 0, dirty := false, copy := [], log := [] }
        let hot : HotRow := { state := 2, dirty := false, copy := h.log.getLastD h.copy, log := [] }
        let s1 := updPin s job i fun p => { p with hot := aPut p.hot row hot }
        bump (bump s1 Reg.TBL_LOG_APPLIED h.log.length) Reg.TBL_HOT_MIG 1)

/-- HOT_ROW_WRITEBACK_LANDED: the home copy holds the row, the token clears; a row that is in the target again migrates
in (R326). -/
def execHotRowWritebackLanded (job table row : Nat) (s : State) : Host.Outcome State Fault Refusal :=
  .next (
    match getJob s job with
    | none => s
    | some j =>
      match pinWith j table row 3, aGet? s.tables (tabKey j.partition table) with
      | some (pin, i), some t =>
        let h := aGetD pin.hot row { state := 3, dirty := false, copy := [], log := [] }
        match writeHome s job pin t row h.copy with
        | none => endJob s job stQuota 0
        | some s1 =>
          let s2 := updPin s1 job i fun p => { p with hot := aDel p.hot row }
          if pin.target.contains row then
            match getJob s2 job with
            | none => s2
            | some j2 => updPin s2 job i fun p => migrateIn s2 j2 p t
          else s2
      | _, _ => s)

end Sys2Proof.Machine
end

