-- ==== Sys2Proof/Machine/Validator.lean ====
section
/-! DEFINITION. The validator: reading an almanac and its row plan, and the load checks 0x01 to 0x12, 0x15 to 0x17, 0x1A to
0x1C in the order of their codes (R120 to R143, R155, R263 to R273, R317, R340, R352, R353). -/

namespace Sys2Proof.Machine

/-- What a failed check reports: its code, the item's index, where the item lies (R540), the unit. -/
structure Reject where
  code : Nat
  index : Nat
  kind : Nat
  unit : Nat
  deriving DecidableEq, Repr

/-- The first check of a list that fails. -/
def firstReject : List (Unit → Option Reject) → Option Reject
  | [] => none
  | c :: r => match c () with | some x => some x | none => firstReject r

/-- The first item of a list that is bad, as a rejection by its index. -/
def badItem {α : Type} (l : List α) (code kind : Nat) (bad : Nat → α → Bool) : Option Reject :=
  match l.zipIdx.find? fun x => bad x.2 x.1 with
  | some x => some ⟨code, x.2, kind, 0⟩
  | none => none

/-- The first entry of the calendars that is bad, as a rejection by its index within its calendar. -/
def badEntry (cals : List CalDef) (code : Nat) (bad : Nat → CalDef → Nat → Nat → Bool) : Option Reject :=
  cals.zipIdx.findSome? fun c =>
    match c.1.entries.zipIdx.find? fun e => bad c.2 c.1 e.2 e.1 with
    | some e => some ⟨code, e.2, 1, c.1.unit⟩
    | none => none

/-! Reading (R120 to R126, R263) -/

/-- A section descriptor: offset, count, item size (R121). -/
def sectionOf (b : List Byte) (i : Nat) : Nat × Nat × Nat :=
  (leAt b (0x60 + 16 * i) 8, leAt b (0x68 + 16 * i) 4, leAt b (0x6C + 16 * i) 4)

def itemSizes : List Nat := [16, 16, 32, 16, 16]
def itemLimits : List Nat := [2 ^ 32, 65536, 4096, 65536, 2 ^ 24]

/-- The offsets of the items of a section. -/
def itemsOf (b : List Byte) (i : Nat) : List Nat :=
  let x := sectionOf b i
  (List.range x.2.1).map fun k => x.1 + k * x.2.2

def readCal (b : List Byte) (o : Nat) : CalDef :=
  let off := leAt b (o + 8) 8
  { unit := leAt b o 2, glade := leAt b (o + 2) 2,
    entries := (List.range (leAt b (o + 4) 4)).map fun k => leAt b (off + 16 * k) 16 }

def readChan (b : List Byte) (o : Nat) : ChanDef :=
  { producer := leAt b o 2, consumer := leAt b (o + 2) 2, capacity := leAt b (o + 4) 1, initial := leAt b (o + 5) 1,
    rank := leAt b (o + 8) 4 }

def readBuf (b : List Byte) (o : Nat) : BufDef :=
  { tier := leAt b o 1, kind := leAt b (o + 1) 1, home := leAt b (o + 2) 2, owner := bitsOf (leAt b (o + 4) 2) 11 0,
    bank := bitsOf (leAt b (o + 6) 2) 1 0, offset := leAt b (o + 8) 8, size := leAt b (o + 16) 8,
    handle := leAt b (o + 24) 8 }

def readWait (b : List Byte) (o : Nat) : WaitDef :=
  { buf := leAt b o 2, tag := leAt b (o + 2) 2, budget := leAt b (o + 4) 4, source := leAt b (o + 8) 1 }

def readItem (b : List Byte) (o : Nat) : RowItem :=
  { buf := leAt b o 2, role := leAt b (o + 2) 1, esize := leAt b (o + 3) 1, lines := leAt b (o + 4) 4,
    routeOff := leAt b (o + 8) 4, groups := leAt b (o + 12) 2 }

/-- The bytes of a row plan behind an almanac, where its magic stands (R263). -/
def planBytes (b : List Byte) (len : Nat) : Option (List Byte) :=
  let o := (len + 63) / 64 * 64
  if b.length > o ∧ sub b o 4 = [0x43#8, 0x4D#8, 0x52#8, 0x50#8] then some (b.drop o) else none

def readPlan (p : List Byte) : RowPlan :=
  let n := leAt p 7 1
  { kind := leAt p 6 1, maxRows := leAt p 8 4, inLen := leAt p 12 4,
    items := (List.range n).map fun i => readItem p (64 + 16 * i), digest := sub p (64 + 16 * n) 64 }

/-- The content of an almanac. -/
def readAlm (b : List Byte) (owner : Nat) : Alm :=
  let len := leAt b 8 8
  { owner := owner, loadNo := 0, bytes := b.take len, digest := sub b (len - 64) 64, minStands := leAt b 0x10 1,
    minStacks := leAt b 0x11 1, ringMask := leAt b 0x14 1, nCopse := leAt b 0x18 2, nGlade := leAt b 0x1A 2,
    nRanger := leAt b 0x1C 2, nHub := leAt b 0x1E 1,
    res := [leAt b 0x20 8, leAt b 0x28 8, leAt b 0x50 4, leAt b 0x30 8, leAt b 0x38 8, leAt b 0x40 8, leAt b 0x48 8],
    cals := (itemsOf b 0).map (readCal b), chans := (itemsOf b 1).map (readChan b), bufs := (itemsOf b 2).map (readBuf b),
    waits := (itemsOf b 3).map (readWait b), days := (itemsOf b 4).map fun o => leAt b (o + 8) 4,
    plan := (planBytes b len).map readPlan, pages := [] }

/-! 0x01 to 0x05 -/

/-- A rising list of ranges has no overlap. -/
def disjoint : List (Nat × Nat) → Bool
  | [] => true
  | [_] => true
  | x :: y :: r => decide (x.1 + x.2 ≤ y.1) && disjoint (y :: r)

/-- The header's fixed fields and the placement of sections and calendars (R120, R121). -/
def check01 (b : List Byte) : Option Reject :=
  let len := leAt b 8 8
  let secs := (List.range 5).map (sectionOf b)
  let placed := fun (o n : Nat) => n == 0 || (o % 16 == 0 && decide (256 ≤ o) && decide (o + n ≤ len - 64))
  if b.length < 320 ∨ sub b 0 4 ≠ [0x41#8, 0x4C#8, 0x4D#8, 0x4E#8] ∨ leAt b 6 2 ≠ 256 ∨ len % 16 ≠ 0 ∨ len < 320 ∨ len > b.length then
    some ⟨1, 0, 0, 0⟩
  else if (secs.zip (itemSizes.zip itemLimits)).any fun x => x.1.2.2 != x.2.1 || decide (x.1.2.1 > x.2.2) then some ⟨1, 0, 0, 0⟩
  else if (sectionOf b 4).2.1 = 0 ∨ secs.any (fun x => !placed x.1 (x.2.1 * x.2.2)) then some ⟨1, 0, 0, 0⟩
  else
    let cals := (itemsOf b 0).map fun o => (leAt b (o + 8) 8, 16 * leAt b (o + 4) 4)
    match cals.findIdx? fun x => !placed x.1 x.2 with
    | some i => some ⟨1, i, 1, leAt b ((itemsOf b 0).getD i 0) 2⟩
    | none =>
      let ranges := ((secs.map fun x => (x.1, x.2.1 * x.2.2)) ++ cals).filter (·.2 != 0)
      if disjoint (ranges.foldr insertRange []) then none else some ⟨1, 0, 0, 0⟩

/-- The family's parameters and the counts (R120). -/
def check03 (s : State) (a : Alm) : Option Reject :=
  if a.minStands = 0 ∨ a.minStands > getF s Reg.HUB_FAMILY Fld.HUB_FAMILY_stands ∨ a.minStacks = 0
      ∨ a.minStacks > getF s Reg.HUB_FAMILY Fld.HUB_FAMILY_stacks_per_stand ∨ a.nCopse > 128 ∨ a.nGlade > 32 ∨ a.nRanger > 128
      ∨ a.nHub > 1 ∨ listAt a.res 2 > 128 then some ⟨3, 0, 0, 0⟩ else none

/-- Units of each type that the header counts. -/
def unitCount (a : Alm) (kind : Nat) : Nat :=
  if kind = 0 then a.nCopse else if kind = 1 ∨ kind = 2 then a.nGlade else if kind = 3 then a.nRanger else if kind = 4 then a.nHub else 0

/-- A directory item is bad (R122). -/
def badCal (a : Alm) (i : Nat) (c : CalDef) : Bool :=
  let before := a.cals.take i
  c.kind > 4 || (before.any fun d => d.unit == c.unit) || c.entries.isEmpty || c.entries.length > 2 ^ 24
    || c.index ≥ unitCount a c.kind
    || (if c.kind = 0 then c.glade ≥ a.nGlade || (before.filter fun d => d.kind == 0 && d.glade == c.glade).length ≥ 4
        else if c.kind = 1 ∨ c.kind = 2 then c.glade != c.index else c.glade != 0xFFFF)

/-- A counted unit without a calendar; vector units are optional. -/
def missingUnit (a : Alm) : Option Nat :=
  [0, 1, 3, 4].findSome? fun k => (List.range (unitCount a k)).findSome? fun i =>
    if a.cals.any fun c => c.unit == k * 4096 + i then none else some (k * 4096 + i)

def check05 (a : Alm) : Option Reject :=
  match a.cals.zipIdx.find? fun x => badCal a x.2 x.1 with
  | some x => some ⟨5, x.2, 1, x.1.unit⟩
  | none => (missingUnit a).map fun u => ⟨5, a.cals.length, 1, u⟩

/-! 0x06: reserved fields and encodings -/

def vecOpOk (op : Nat) : Bool :=
  (1 ≤ op && op ≤ 0xC) || (0x10 ≤ op && op ≤ 0x13) || op == 0x18 || (0x20 ≤ op && op ≤ 0x24) || (0x28 ≤ op && op ≤ 0x2C)

/-- A table handle that names a table or a function of the commons (R273, R310, R344). -/
def handleOk (h : Nat) : Bool := (1 ≤ h && h ≤ 255) || h ≥ 0xFFFC

/-- An entry has a reserved field that is not zero or a reserved encoding. -/
def badEncoding (e : Nat) : Bool :=
  let c := entryClass e
  if c = 1 then fld e 120 120 != 0 || fld e 39 0 != 0
  else if c = 2 then
    fld e 96 96 != 0 || fld e 73 64 != 0 || fld e 31 0 != 0 || fld e 107 106 == 3 || fld e 104 102 > 4 || fld e 101 100 == 3
      || fld e 99 98 == 3 || (List.range 8).any fun r => fld e (81 + 2 * r) (80 + 2 * r) == 3
  else if c = 3 then
    fld e 112 112 != 0 || fld e 23 0 != 0 || fld e 120 119 == 3 || fld e 118 116 > 4 || fld e 115 114 == 3
  else if c = 4 then fld e 17 0 != 0 || fld e 123 122 == 3
  else if c = 5 then fld e 21 0 != 0 || !handleOk (fld e 123 108)
  else if c = 6 then fld e 21 0 != 0 || fld e 23 22 > 1 || !handleOk (fld e 123 108)
  else if c = 7 then fld e 1 0 != 0 || !vecOpOk (fld e 123 118) || fld e 117 116 == 3
  else if c = 8 then fld e 16 0 != 0 || fld e 123 122 == 3
  else if c = 9 ∨ c = 10 then fld e 101 0 != 0
  else if c = 11 then fld e 107 0 != 0
  else if c = 12 then fld e 99 0 != 0
  else if c = 13 then fld e 123 0 != 0
  else true

/-- The reserved fields of the tables, read from the almanac's bytes. -/
def check06 (b : List Byte) (a : Alm) : Option Reject :=
  firstReject [
    fun _ => if !allZero b 0x15 3 || !allZero b 0x1F 1 || !allZero b 0x54 12 || !allZero b 0xB0 80 || leAt b 0x12 2 > 1
      then some ⟨6, 0, 0, 0⟩ else none,
    fun _ => badEntry a.cals 6 fun _ _ _ e => badEncoding e,
    fun _ => badItem (itemsOf b 1) 6 2 fun _ o => !allZero b (o + 6) 2 || !allZero b (o + 12) 4 || leAt b o 2 / 4096 > 4 || leAt b (o + 2) 2 / 4096 > 4,
    fun _ => badItem (itemsOf b 2) 6 3 fun _ o => leAt b o 1 > 6 || leAt b (o + 1) 1 > 4 || leAt b (o + 4) 2 / 4096 != 0 || leAt b (o + 6) 2 / 4 != 0,
    fun _ => badItem (itemsOf b 3) 6 4 fun _ o => leAt b (o + 8) 1 > 2 || !allZero b (o + 9) 7,
    fun _ => badItem (itemsOf b 4) 6 5 fun _ o => leAt b (o + 4) 4 > 1 || !allZero b (o + 12) 4]

/-- The classes that each unit type may carry (R128). -/
def classOk (kind cls : Nat) : Bool :=
  if cls = 9 ∨ cls = 10 ∨ cls = 12 ∨ cls = 13 then true
  else if cls = 11 then kind != 3
  else if 1 ≤ cls ∧ cls ≤ 3 then kind == 0
  else if cls = 4 then kind == 1 || kind == 3 || kind == 4
  else if cls = 5 ∨ cls = 6 then kind == 1
  else if cls = 7 ∨ cls = 8 then kind == 2
  else false

/-! 0x08: the rules of the classes -/

/-- The contexts of a copse calendar's passes: entry of the pass, entry of the first context of its dwell set, entry of
its own (R89, R96). -/
def passContexts (c : CalDef) : AMap (Nat × Nat) :=
  (c.entries.zipIdx.foldl (fun (acc : Option (Nat × Nat) × AMap (Nat × Nat)) x =>
    let cls := entryClass x.1
    if cls = 12 then (none, acc.2)
    else if cls = 2 then
      (match acc.1 with
        | some p => some (if fld x.1 76 74 = 0 then x.2 else p.1, x.2)
        | none => some (x.2, x.2), acc.2)
    else if cls = 1 then (match acc.1 with | some p => (acc.1, aPut acc.2 x.2 p) | none => acc)
    else acc) (none, [])).2

/-- A dwell set being read (R87): its size, members seen, passes seen, the rings they write, what they share. -/
structure DwellScan where
  size : Nat
  ctxs : Nat
  passes : Nat
  rings : List Nat
  shared : Option (Nat × Nat × Nat)

/-- A CTX breaks its own rules (R72, R88, R90). -/
def badCtx (e : Nat) : Bool :=
  let look := fld e 107 106 != 0
  (look && (fld e 105 105 != 0 || fld e 101 100 != 0 || fld e 99 98 != 0))
    || (fld e 101 100 != 0 && fld e 99 98 == 2 && fld e 97 97 == 1) || (!look && fld e 79 77 != 0)
    || (fld e 79 77 == 0 && fld e 76 74 != 0)

/-- A HARV breaks its own rules (R92). -/
def badHarv (e : Nat) : Bool :=
  let wide := fld e 120 119 == 1 || fld e 120 119 == 2
  let row := 2 * targetBytes (fld e 118 116) * (if fld e 120 119 = 2 then 2 else 1)
  (wide && fld e 123 121 > 4) || (fld e 118 116 == 4 && fld e 115 114 != 0) || fld e 79 64 < row

/-- One entry of a copse calendar under the dwell rules: the set after it, whether it is bad. -/
def dwellStep (hasCtx : Bool) (d : Option DwellScan) (e : Nat) : Option DwellScan × Bool :=
  let c := entryClass e
  if c = 2 then
    match d with
    | some x => (some { x with ctxs := x.ctxs + 1 },
        badCtx e || x.passes != x.ctxs || fld e 79 77 + 1 != x.size || fld e 76 74 != x.ctxs)
    | none =>
      if fld e 79 77 = 0 then (none, badCtx e)
      else (some ⟨fld e 79 77 + 1, 1, 0, [], none⟩, badCtx e || fld e 76 74 != 0)
  else if c = 1 then
    match d with
    | none => (none, !hasCtx)
    | some x =>
      let key := (fld e 119 104, fld e 71 60, fld e 59 40)
      let bad := !hasCtx || x.passes + 1 != x.ctxs || x.rings.contains (fld e 123 121)
        || (match x.shared with | some k => k != key | none => false) || decide (fld e 119 104 + 1 > 65536 / x.size)
      if x.passes + 1 = x.size then (none, bad)
      else (some { x with passes := x.passes + 1, rings := fld e 123 121 :: x.rings, shared := some key }, bad)
  else if c = 3 then (d, badHarv e)
  else if c = 12 then (none, d.isSome)
  else (d, false)

/-- The first bad entry of a copse calendar. -/
def badCopse (c : CalDef) : Option Nat :=
  let ctxs := passContexts c
  let r := c.entries.zipIdx.foldl (fun (acc : Option DwellScan × Option Nat) x =>
    let (d, bad) := dwellStep (aHas ctxs x.2) acc.1 x.1
    (d, if bad ∧ acc.2.isNone then some x.2 else acc.2)) (none, none)
  match r.2 with
  | some i => some i
  | none => if r.1.isSome then some (c.entries.length - 1) else none

/-- Rings that a copse calendar's entries name (R120). -/
def ringsNamed (c : CalDef) : Nat :=
  c.entries.foldl (fun m e =>
    if entryClass e = 1 then m ||| 2 ^ fld e 123 121
    else if entryClass e = 3 then
      m ||| ((if fld e 120 119 = 1 ∨ fld e 120 119 = 2 then 0xF else 1) * 2 ^ fld e 123 121 % 256)
    else m) 0

/-- The tiers a unit reaches (R129). -/
def reaches (a : Alm) (c : CalDef) (b : BufDef) : Bool :=
  if c.kind = 1 then
    b.tier == 3 || ((b.tier == 1 || b.tier == 2) && b.home == c.glade)
      || (b.tier == 0 && a.cals.any fun d => d.kind == 0 && d.index == b.home && d.glade == c.glade)
  else if c.kind = 3 then b.tier == 1 || b.tier == 4 || (b.tier == 6 && b.home == c.index)
  else true

/-- A VEC operation that reads operand b (R133). -/
def vecUsesB (op : Nat) : Bool := (1 ≤ op && op ≤ 5) || op == 0xB || op == 0xC || op == 0x12 || op == 0x13 || op == 0x18

/-- An RNG entry stands before an entry in its day (R135). -/
def rngBefore (c : CalDef) (i : Nat) : Bool :=
  ((c.entries.take i).foldl (fun r e => if entryClass e = 12 then false else r || entryClass e == 8) false)

/-- An entry of a mover, ranger or vector calendar, or a token entry, breaks the rules of its class. -/
def badRule (a : Alm) (c : CalDef) (i e : Nat) : Bool :=
  let cls := entryClass e
  if cls = 4 then
    let d := a.bufs[fld e 73 62]?
    (fld e 121 106 != 0 && (fld e 61 42 != 0 || !(d.any fun b => b.kind == 4)))
      || (match a.bufs[fld e 105 94]? with | some b => !reaches a c b | none => false)
      || (match d with | some b => !reaches a c b | none => false)
  else if cls = 7 then
    (fld e 117 116 == 2 && fld e 115 115 == 0 && !rngBefore c i)
      || (!vecUsesB (fld e 123 118) && (fld e 81 70 != 0 || fld e 69 50 != 0))
  else if cls = 8 then fld e 123 122 == 2 && (fld e 72 61 != 0 || fld e 60 41 != 0 || fld e 40 17 != 0)
  else if cls = 9 ∨ cls = 10 then fld e 123 108 ≥ a.chans.length
  else if cls = 11 then fld e 123 108 ≥ a.waits.length
  else false

/-- Calendars that name a table, and whether one scatters into it (R317). -/
def badTables (a : Alm) : Option Reject :=
  (almTables a).findSome? fun h =>
    if almScatters a h then
      let users := a.cals.filter fun c => (calTables c).any fun x => x.1 == h
      match users with
      | _ :: d :: _ =>
        let i := (d.entries.findIdx? fun e => (entryClass e == 5 || entryClass e == 6) && fld e 123 108 == h).getD 0
        some ⟨8, i, 1, d.unit⟩
      | _ => none
    else none

def check08 (a : Alm) : Option Reject :=
  firstReject [
    fun _ => a.cals.findSome? fun c =>
      let rule := c.entries.zipIdx.find? fun e => badRule a c e.2 e.1
      let copse := if c.kind = 0 then badCopse c else none
      match rule, copse with
      | some e, some i => some ⟨8, min e.2 i, 1, c.unit⟩
      | some e, none => some ⟨8, e.2, 1, c.unit⟩
      | none, some i => some ⟨8, i, 1, c.unit⟩
      | none, none => none,
    fun _ => if (rangerGroups a).any fun g => decide (g.length > 4) then
        some ⟨8, 0, 1, ((a.cals.find? fun c => c.kind == 3).map (·.unit)).getD 0⟩ else none,
    fun _ => badTables a,
    fun _ => if (a.cals.any fun c => c.kind == 0 && (ringsNamed c ||| a.ringMask) != a.ringMask) then some ⟨8, 0, 0, 0⟩ else none]

/-! 0x09 to 0x0C: channels and tokens -/

def isToken (e : Nat) : Bool := entryClass e == 9 || entryClass e == 10
def tokenChan (e : Nat) : Nat := fld e 123 108
def tokenCount (e : Nat) : Nat := fld e 107 102 + 1

def ChanDef.blank : ChanDef := { producer := 0, consumer := 0, capacity := 0, initial := 0, rank := 0 }

def check09 (a : Alm) : Option Reject :=
  firstReject [
    fun _ => badItem a.chans 9 2 fun _ c => c.capacity == 0 || c.capacity > 64 || c.initial > c.capacity,
    fun _ => badEntry a.cals 9 fun _ c _ e =>
      isToken e && (let ch := a.chans.getD (tokenChan e) ChanDef.blank
        c.unit != (if entryClass e = 9 then ch.producer else ch.consumer) || decide (tokenCount e > ch.capacity))]

/-- Cut a calendar at its DAY entries: for each day its entries with their indices. -/
def daysOf (l : List (Nat × Nat)) (cur : List (Nat × Nat)) : List (List (Nat × Nat)) :=
  match l with
  | [] => if cur.isEmpty then [] else [cur.reverse]
  | x :: r => if entryClass x.1 = 12 then (x :: cur).reverse :: daysOf r [] else daysOf r (x :: cur)

def calDays (c : CalDef) : List (List (Nat × Nat)) := daysOf c.entries.zipIdx []

/-- Tokens put less tokens taken on a channel by entries. -/
def tokenBalance (l : List (Nat × Nat)) (ch : Nat) : Int :=
  (l.map fun x => if isToken x.1 && tokenChan x.1 == ch then (if entryClass x.1 = 9 then (tokenCount x.1 : Int) else -(tokenCount x.1 : Int)) else 0).sum

def dayCount (a : Alm) : Nat := (a.cals.map fun c => (calDays c).length).foldl max 0

def check0A (a : Alm) : Option Reject :=
  (List.range (dayCount a)).findSome? fun d =>
    let l := a.cals.flatMap fun c => (calDays c).getD d []
    let chs := ((l.filter fun x => isToken x.1).map fun x => tokenChan x.1).dedup
    if chs.any fun ch => tokenBalance l ch != 0 then some ⟨0x0A, d, 5, 0⟩ else none

/-- The first entry of a day that puts on a forward channel whose rank does not exceed that of one taken before (R142). -/
def badRank (a : Alm) (l : List (Nat × Nat)) : Option Nat :=
  (l.foldl (fun (acc : Option Nat × Option Nat) x =>
    if !isToken x.1 then acc
    else
      let ch := a.chans.getD (tokenChan x.1) ChanDef.blank
      if ch.initial ≠ 0 then acc
      else if entryClass x.1 = 10 then (some (match acc.1 with | some m => max m ch.rank | none => ch.rank), acc.2)
      else match acc.1 with
        | some m => (acc.1, if m ≥ ch.rank ∧ acc.2.isNone then some x.2 else acc.2)
        | none => acc) (none, none)).2

def check0B (a : Alm) : Option Reject :=
  a.cals.findSome? fun c => ((calDays c).findSome? (badRank a)).map fun i => ⟨0x0B, i, 1, c.unit⟩

/-- Run a calendar's day as far as the tokens allow. -/
def runTokens (a : Alm) : List (Nat × Nat) → List Nat → List (Nat × Nat) × List Nat
  | [], t => ([], t)
  | x :: r, t =>
    let ch := tokenChan x.1
    let n := tokenCount x.1
    let have0 := t.getD ch 0
    if entryClass x.1 = 9 then
      if have0 + n ≤ (a.chans.getD ch ChanDef.blank).capacity then runTokens a r (t.set ch (have0 + n)) else (x :: r, t)
    else if entryClass x.1 = 10 then
      if n ≤ have0 then runTokens a r (t.set ch (have0 - n)) else (x :: r, t)
    else runTokens a r t

/-- One round over all calendars. -/
def tokenRound (a : Alm) : List (List (Nat × Nat)) → List Nat → List (List (Nat × Nat)) × List Nat
  | [], t => ([], t)
  | l :: r, t =>
    let (l1, t1) := runTokens a l t
    let (r1, t2) := tokenRound a r t1
    (l1 :: r1, t2)

/-- Rounds until the fuel, one more than the entries left, is spent. -/
def tokenRun (a : Alm) : Nat → List (List (Nat × Nat)) → List Nat → List (List (Nat × Nat))
  | 0, l, _ => l
  | n + 1, l, t => let (l1, t1) := tokenRound a l t; tokenRun a n l1 t1

def check0C (a : Alm) : Option Reject :=
  (List.range (dayCount a)).findSome? fun d =>
    let l := a.cals.map fun c => ((calDays c).getD d []).filter fun x => isToken x.1
    let left := tokenRun a ((l.map (·.length)).sum + 1) l (initToks a)
    if left.any fun x => !x.isEmpty then some ⟨0x0C, d, 5, 0⟩ else none

/-! 0x0D: buffers and accesses -/

/-- Bytes of a tier that a home may hold (R124, R166, R168, R223); for tier 4 the extent's length, none where its handle
names none. -/
def tierRoom (s : State) (a : Alm) (b : BufDef) : Option Nat :=
  if b.tier = 0 then some (if b.home < a.nCopse then 4194304 else 0)
  else if b.tier = 1 then some (if b.home < a.nGlade then 31457280 else 0)
  else if b.tier = 2 then some (if b.home < a.nGlade then 524288 else 0)
  else if b.tier = 3 then some (listAt a.res 3)
  else if b.tier = 4 then (extentOf s b).map (·.length)
  else if b.tier = 5 then some (listAt a.res 5)
  else some (if b.home < a.nRanger then 524288 else 0)

/-- What two buffers must share to lie in one region. -/
def regionKey (b : BufDef) : Nat × Nat × Nat × Nat :=
  if b.tier = 3 then (3, 0, 0, 0)
  else if b.tier = 4 ∨ b.tier = 5 then (b.tier, b.owner, b.handle, 0)
  else (b.tier, b.home, if b.tier = 2 then b.bank else 0, 0)

def overlaps (x y : BufDef) : Bool :=
  regionKey x == regionKey y && x.offset < y.offset + y.size && y.offset < x.offset + x.size
    && (x.owner == y.owner || x.tier != 3)

/-- The ranges an entry reads and writes: whether it writes, buffer, start, length. The contexts of a PASS say its
operands' sizes (R89 to R92, R129 to R134). -/
def accessOf (c : CalDef) (ctx : Option (Nat × Nat)) (e : Nat) : List (Bool × Nat × Nat × Nat) :=
  let cls := entryClass e
  if cls = 1 then
    match ctx with
    | none => []
    | some p =>
      let f := c.entries.getD p.1 0
      let n := fld e 119 104 + 1
      [(false, fld e 103 92, 64 * fld e 91 72, n * (if fld f 107 106 = 1 then 128 else 256)),
       (false, fld e 71 60, 64 * fld e 59 40, n * (if fld f 104 102 ≥ 3 then 256 else 128))]
  else if cls = 2 then
    [(false, fld e 63 52, 64 * fld e 51 32, if fld e 107 106 = 0 then 640 else if fld e 107 106 = 1 then 672 else 1152)]
  else if cls = 3 then [(true, fld e 111 100, 64 * fld e 99 80, 255 * (64 * fld e 79 64) + harvRowBytes e)]
  else if cls = 4 then
    let n := 64 * (fld e 41 18 + 1)
    [(false, fld e 105 94, 64 * fld e 93 74, n), (true, fld e 73 62, 64 * fld e 61 42, n)]
  else if cls = 5 ∨ cls = 6 then
    let r := rowFields e
    [(false, r.ibuf, r.ioff, (if r.table ≥ 0xFFFC then 64 else 0) + (if r.table ≤ 255 ∨ r.table = 0xFFFF then 4 * r.count else 0)),
     (cls == 5, r.dbuf, r.doff, 64)]
  else if cls = 7 then
    let op := fld e 123 118
    let n := 256 * (fld e 17 2 + 1)
    let d := (fld e 49 38, 64 * fld e 37 18, if op = 0x10 ∨ op = 0x11 then 4 else n * vecDstBytes op)
    [(false, fld e 113 102, 64 * fld e 101 82, n * vecSrcBytes op)]
      ++ (if vecUsesB op then [(false, fld e 81 70, 64 * fld e 69 50, if op = 0x12 ∨ op = 0x13 then 4 else if op = 0x18 then n else 4 * n)] else [])
      ++ (if op = 4 then [(false, d.1, d.2.1, d.2.2)] else []) ++ [(true, d.1, d.2.1, d.2.2)]
  else if cls = 8 then
    [(false, fld e 104 93, 64 * fld e 92 73, 32)]
      ++ (if fld e 123 122 = 2 then [] else
        [(true, fld e 72 61, 64 * fld e 60 41, (fld e 40 17 + 1) * (if fld e 123 122 = 0 then 2 else 1))])
  else []

/-- Every access of an almanac: calendar, entry's index, entry, access. -/
def accesses (a : Alm) : List (CalDef × Nat × Nat × (Bool × Nat × Nat × Nat)) :=
  a.cals.flatMap fun c =>
    let ctxs := passContexts c
    c.entries.zipIdx.flatMap fun x => (accessOf c (aGet? ctxs x.2) x.1).map fun y => (c, x.2, x.1, y)

/-- The first access that is bad. -/
def badAccess (a : Alm) (code : Nat) (bad : CalDef → Nat → (Bool × Nat × Nat × Nat) → Bool) : Option Reject :=
  match (accesses a).find? fun x => bad x.1 x.2.2.1 x.2.2.2 with
  | some x => some ⟨code, x.2.1, 1, x.1.unit⟩
  | none => none

def check0D (s : State) (a : Alm) : Option Reject :=
  firstReject [
    fun _ => badItem a.bufs 0x0D 3 fun _ b =>
      b.size % 64 != 0 || (match tierRoom s a b with | some r => decide (b.offset + b.size > r) | none => false),
    fun _ => badItem a.bufs 0x0D 3 fun i b => (a.bufs.take i).any (overlaps b),
    fun _ => badAccess a 0x0D fun _ _ x =>
      match a.bufs[x.2.1]? with | some b => decide (x.2.2.1 + x.2.2.2 > b.size) | none => true]

/-! 0x0E to 0x11 -/

def check0E (s : State) (b : List Byte) (a : Alm) : Option Reject :=
  if (leAt b 0x12 2 % 2 == 1) != (a.owner == 4095) || (a.plan.isSome && a.owner != 4095) then some ⟨0x0E, 0, 0, 0⟩
  else badItem a.bufs 0x0E 3 fun _ x =>
    (x.owner != a.owner && !(x.kind == 1 && x.owner == 4095)) || (x.tier == 4 && (extentOf s x).isNone)

def check0F (s : State) (a : Alm) : Option Reject :=
  (List.range 7).findSome? fun t =>
    if listAt a.res t > listAt (getPart s a.owner).quota t then some ⟨0x0F, t, 0, 0⟩ else none

def check10 (s : State) (a : Alm) : Option Reject :=
  badItem a.waits 0x10 4 fun _ w =>
    w.tag == 0 || w.budget == 0 || decide (w.budget * 100 ≥ limitOf s pgDispatcher)
      || !((a.bufs[w.buf]?).any fun b => b.kind == 4)

/-- The preload rule of a ring for a PASS: 0 zero, 1 keep, 2 load (R90). -/
def preloadRule (c : CalDef) (ctxs : AMap (Nat × Nat)) (i r : Nat) : Nat :=
  match aGet? ctxs i with
  | some p => fld (c.entries.getD p.2 0) (81 + 2 * r) (80 + 2 * r)
  | none => 1

/-- Rings opened so far in the day, day number, and the first bad entry of a calendar (R143). -/
def dayScan (c : CalDef) : List Nat × Nat × Option Nat :=
  let ctxs := passContexts c
  c.entries.zipIdx.foldl (fun (acc : List Nat × Nat × Option Nat) x =>
    let (opened, d, bad) := acc
    let mark := fun (b : Bool) => if b ∧ bad.isNone then some x.2 else bad
    if entryClass x.1 = 12 then ([], d + 1, mark (fld x.1 123 100 != d))
    else if entryClass x.1 = 1 then
      let r := fld x.1 123 121
      if preloadRule c ctxs x.2 r = 1 then (opened, d, mark (!opened.contains r)) else (r :: opened, d, bad)
    else if entryClass x.1 = 3 then
      let r := fld x.1 123 121
      let rs := if fld x.1 120 119 = 1 ∨ fld x.1 120 119 = 2 then [r, r + 1, r + 2, r + 3] else [r]
      (opened, d, mark (rs.any fun q => !opened.contains q))
    else acc) ([], 0, none)

def check11 (b : List Byte) (a : Alm) : Option Reject :=
  let os := itemsOf b 4
  firstReject [
    fun _ => badItem os 0x11 5 fun i o => leAt b o 4 != i || (leAt b (o + 4) 4 == 1) != (i + 1 == os.length),
    fun _ => a.cals.findSome? fun c =>
      match (dayScan c).2.2 with
      | some i => some ⟨0x11, i, 1, c.unit⟩
      | none =>
        if (dayScan c).2.1 ≠ os.length ∨ entryClass (c.entries.getLastD 0) ≠ 12 then some ⟨0x11, c.entries.length - 1, 1, c.unit⟩
        else none]

/-! 0x15 to 0x17: commons almanacs (R257, R265 to R269, R273) -/

def check15 (a : Alm) : Option Reject :=
  firstReject [
    fun _ => badItem a.bufs 0x15 3 fun _ b => b.kind == 3 || (a.plan.isSome && b.kind == 2),
    fun _ => if a.plan.isNone then none else badEntry a.cals 0x15 fun _ _ _ e =>
      (entryClass e == 4 && (a.bufs[fld e 73 62]?).any fun b => b.tier == 4)
        || (entryClass e == 6 && fld e 123 108 ≤ 255)]

/-- An item of a row plan is bad (R263, R264). -/
def badPlanItem (a : Alm) (p : RowPlan) (raw : List Byte) (i : Nat) (it : RowItem) : Bool :=
  let route := it.role == 1 || it.role == 2
  it.role > 3 || it.esize > 2 || (it.role == 3 && p.kind != 1) || it.lines == 0 || it.lines > 65536 || it.groups == 0
    || (it.routeOff != 0 && !(route && p.kind == 1)) || !allZero raw (64 + 16 * i + 14) 2
    || ((p.items.take i).any fun x => x.buf == it.buf)
    || (match a.bufs[it.buf]? with
        | some b => b.tier > 3 || b.size != it.groups * it.group
        | none => true)
    || (route && it.groups * 128 != p.maxRows)

def check16 (a : Alm) (raw : List Byte) : Option Reject :=
  match a.plan with
  | none => none
  | some p =>
    let n := p.items.length
    let ins := p.items.filter (·.role == 1)
    let outs := p.items.filter (·.role == 2)
    if leAt raw 4 2 ≠ 1 ∨ p.kind = 0 ∨ p.kind > 3 ∨ n = 0 ∨ n > 32 ∨ p.maxRows % 128 ≠ 0 ∨ p.maxRows = 0 ∨ p.maxRows > 1048576
        ∨ (p.kind = 1 ∧ p.inLen ≠ 0) ∨ (p.kind ≠ 1 ∧ (p.inLen < 256 ∨ p.inLen > 65536)) ∨ !allZero raw 16 48
        ∨ raw.length < 128 + 16 * n ∨ sha512 (raw.take (64 + 16 * n)) ≠ p.digest then some ⟨0x16, 0, 6, 0⟩
    else
      match badItem p.items 0x16 6 (badPlanItem a p raw) with
      | some r => some r
      | none =>
        if p.kind ≠ 1 ∧ (ins.length ≠ 1 ∨ outs.length ≠ 1 ∨ !(ins.all fun it => it.esize == 1 && it.lines == p.inLen)) then some ⟨0x16, 0, 6, 0⟩
        else none

/-- A range lies on whole lines of one group. -/
def wholeLines (it : RowItem) (o n : Nat) : Bool :=
  decide (512 ≤ o % it.group) && (o % it.group - 512) % it.line == 0 && n % it.line == 0 && decide (o % it.group + n ≤ it.group)

/-- The item of a tagged buffer. -/
def tagged (a : Alm) (bn : Nat) : Option RowItem := (planItem a bn).map (·.2)

/-- A copse's entry keeps columns apart (R267). -/
def badColumns (a : Alm) (c : CalDef) (ctx : Option (Nat × Nat)) (e : Nat) : Bool :=
  if entryClass e = 1 then
    match accessOf c ctx e with
    | [w, x] =>
      let f := match ctx with | some p => c.entries.getD p.1 0 | none => 0
      (match tagged a x.2.1 with
        | some it => !wholeLines it x.2.2.1 x.2.2.2 || it.esz != (if fld f 104 102 ≥ 3 then 2 else 1)
            || (match tagged a w.2.1 with | some wi => wi.role != 3 | none => false)
        | none => (match tagged a w.2.1 with | some wi => wi.role != 3 | none => false))
    | _ => false
  else
    match tagged a (fld e 111 100) with
    | none => false
    | some it =>
      let o := 64 * fld e 99 80
      fld e 120 119 == 2 || fld e 118 116 == 4 || 64 * fld e 79 64 != it.line || !wholeLines it o (256 * it.line)

/-- A vector entry keeps columns apart (R268). -/
def badVecColumns (a : Alm) (e : Nat) : Bool :=
  let op := fld e 123 118
  let n := 256 * (fld e 17 2 + 1)
  let ta := tagged a (fld e 113 102)
  let tb := if vecUsesB op then tagged a (fld e 81 70) else none
  let td := tagged a (fld e 49 38)
  match ta with
  | none => tb.isSome
  | some it =>
    op == 0x10 || op == 0x11 || it.esz != vecSrcBytes op || !wholeLines it (64 * fld e 101 82) (n * vecSrcBytes op)
      || ((op == 0x12 || op == 0x13) && tb.isSome)
      || (match tb with | some ib => !wholeLines ib (64 * fld e 69 50) (n * ib.esz) | none => false)
      || (match td with | some d => d.esz != vecDstBytes op || !wholeLines d (64 * fld e 37 18) (n * d.esz) | none => true)

/-- A MOVE keeps groups whole (R269). -/
def badMoveColumns (a : Alm) (e : Nat) : Bool :=
  let n := 64 * (fld e 41 18 + 1)
  match tagged a (fld e 105 94), tagged a (fld e 73 62) with
  | none, none => false
  | some x, some y =>
    x.lines != y.lines || x.esize != y.esize || 64 * fld e 93 74 % x.group != 0 || 64 * fld e 61 42 % x.group != 0 || n % x.group != 0
  | _, _ => true

/-- A function handle is used as R273 allows; kind 1 is a gang almanac. -/
def badHandle (a : Alm) (e : Nat) : Bool :=
  let r := rowFields e
  let scatter := entryClass e == 6
  if r.table < 0xFFFC then false
  else if a.owner ≠ 4095 then true
  else if r.table = 0xFFFC then scatter || !(a.plan.any fun p => p.kind == 1)
  else if r.table = 0xFFFF then
    r.count % 128 != 0 || (match tagged a r.dbuf with | some it => scatter && r.opt == 0 && it.esize != 2 | none => true)
  else scatter || (tagged a r.dbuf).isSome

def check17 (a : Alm) : Option Reject :=
  a.cals.findSome? fun c =>
    let ctxs := passContexts c
    let bad := fun (x : Nat × Nat) =>
      let cls := entryClass x.1
      if cls = 1 ∨ cls = 3 then a.plan.isSome && badColumns a c (aGet? ctxs x.2) x.1
      else if cls = 7 then a.plan.isSome && badVecColumns a x.1
      else if cls = 4 then a.plan.isSome && badMoveColumns a x.1
      else if cls = 5 ∨ cls = 6 then badHandle a x.1
      else false
    match c.entries.zipIdx.find? bad with
    | some x => some ⟨0x17, x.2, 1, c.unit⟩
    | none => none

/-! 0x1A to 0x1C -/

/-- A gang almanac's slots and sections (R340). -/
def check1A (a : Alm) : Option Reject :=
  match a.plan with
  | none => none
  | some p =>
    if p.kind ≠ 1 then none
    else
      let R := rowsPerSlot p
      if gangSlots p = 0 ∨ gangSlots p > 256 ∨ p.maxRows > 1048320 ∨ p.maxRows % gangSlots p ≠ 0 ∨ R % 128 ≠ 0 ∨ R > 65536 ∨ R = 0 then
        some ⟨0x1A, 0, 6, 0⟩
      else
        let role3 := fun (b : Nat) => match tagged a b with | some it => if it.role = 3 then some it else none | none => none
        firstReject [
          fun _ => badAccess a 0x1A fun _ e x => entryClass e == 1 &&
            (match role3 x.2.1 with
              | some it => !(decide (512 ≤ x.2.2.1 % it.group) && decide (x.2.2.1 % it.group + x.2.2.2 ≤ it.group))
              | none => false),
          fun _ => badEntry a.cals 0x1A fun _ _ _ e => entryClass e == 5 && fld e 123 108 == 0xFFFC && (role3 (fld e 75 64)).isNone]

/-- Host offload (R353). -/
def check1B (a : Alm) : Option Reject :=
  let t5 := fun (b : Nat) => (a.bufs[b]?).any fun x => x.tier == 5
  firstReject [
    fun _ => badItem a.bufs 0x1B 3 fun _ b =>
      b.tier == 5 && (a.plan.isSome || b.kind != 0 || b.offset % 65536 != 0 || b.size % 65536 != 0),
    fun _ => badAccess a 0x1B fun c e x => t5 x.2.1 &&
      (c.kind != 4 || entryClass e != 4 || fld e 123 122 != 0 || x.2.2.1 % 65536 != 0 || x.2.2.2 % 65536 != 0)]

/-- The ranges that compress MOVEs write: buffer, start, length. -/
def compressed (a : Alm) : List (Nat × Nat × Nat) :=
  (accesses a).filterMap fun x =>
    if entryClass x.2.2.1 = 4 ∧ fld x.2.2.1 123 122 = 1 ∧ x.2.2.2.1 then some x.2.2.2.2 else none

/-- Compression (R352). -/
def check1C (a : Alm) : Option Reject :=
  let cs := compressed a
  let shape := fun (b : Nat) => (tagged a b).map fun it => (it.lines, it.esize)
  firstReject [
    fun _ => badEntry a.cals 0x1C fun _ _ _ e => entryClass e == 4 && fld e 123 122 == 1
      && (fld e 61 42 % 1024 != 0 || !((a.bufs[fld e 73 62]?).any fun b => b.tier == 3)),
    fun _ => badAccess a 0x1C fun _ e x => !x.1 && cs.any fun r =>
      r.1 == x.2.1 && decide (x.2.2.1 < r.2.1 + r.2.2) && decide (r.2.1 < x.2.2.1 + x.2.2.2)
        && !(entryClass e == 4 && fld e 123 122 == 2 && r == x.2),
    fun _ => badEntry a.cals 0x1C fun _ _ _ e => entryClass e == 4 && fld e 123 122 == 2
      && shape (fld e 105 94) != shape (fld e 73 62)]

/-- Every load check, in the order of its code (R155). -/
def validate (s : State) (b : List Byte) (a : Alm) : Option Reject :=
  let commons := a.owner == 4095
  firstReject [
    fun _ => check01 b,
    fun _ => if leAt b 4 2 = 1 then none else some ⟨2, 0, 0, 0⟩,
    fun _ => check03 s a,
    fun _ => if sha512 (a.bytes.take (a.bytes.length - 64)) = a.digest then none else some ⟨4, 0, 0, 0⟩,
    fun _ => check05 a,
    fun _ => check06 b a,
    fun _ => badEntry a.cals 7 fun _ c _ e => !classOk c.kind (entryClass e),
    fun _ => check08 a, fun _ => check09 a, fun _ => check0A a, fun _ => check0B a, fun _ => check0C a,
    fun _ => check0D s a, fun _ => check0E s b a, fun _ => check0F s a, fun _ => check10 s a, fun _ => check11 b a,
    fun _ => if s.alms.length < 256 then none else some ⟨0x12, 0, 0, 0⟩,
    fun _ => if commons then check15 a else none,
    fun _ => if commons then check16 a ((planBytes b (leAt b 8 8)).getD []) else none,
    fun _ => check17 a,
    fun _ => check1A a, fun _ => check1B a, fun _ => check1C a]

end Sys2Proof.Machine
end

