-- ==== Sys2Proof/Machine/Almanacs.lean ====
section
/-! DEFINITION. The meanings of ALMANAC-LOAD and its unload form (R155, R156, R263, R382). -/

namespace Sys2Proof.Machine

/-- Answer a rejection: Quota Exceeded for check 0x0F, else Almanac Rejected; the validator page records it (R155, R540). -/
def rejectCmd (s : State) (part : Nat) (r : Reject) : State × Option Reply :=
  failDw (recordReject s r.code r.index r.kind r.unit part) (if r.code = 0x0F then stQuota else stRejected)
    (r.code + r.index % 2 ^ 24 * 256)

/-- The lowest handle not in use, from 1 (R156). -/
def freeHandle (s : State) : Nat := aLowestFree s.alms (s.alms.length + 1) 1

/-- Keep a validated almanac: the handle of an equal one of the partition, else a copy in stacked memory. -/
def keepAlmanac (s : State) (a : Alm) : State × Option Reply :=
  let s1 := bump s Reg.VAL_LOADS 1
  match s.alms.find? fun x => x.2.owner == a.owner && x.2.digest == a.digest with
  | some x => done s1 x.1
  | none =>
    match allocPages s a.owner (pagesFor a.bytes.length) with
    | none => rejectCmd s a.owner ⟨0x0F, 3, 0, 0⟩
    | some (s2, pages) =>
      let h := freeHandle s
      let s3 := bump (pagesWrite s2 pages 0 a.bytes) Reg.VAL_LOADS 1
      done { s3 with alms := aPut s3.alms h { a with loadNo := s3.loadNo + 1, pages := pages }, loadNo := s3.loadNo + 1 } h

def loadAlmanac (s : State) (q : Req) : State × Option Reply :=
  let b := q.pay
  guards s [(q.c.cdw11 != 0 || bitsOf q.c.cdw13.toNat 31 4 != 0 || decide (leAt b 8 8 > 2 ^ 32), stInvalidField)] fun _ =>
    match check01 b with
    | some r => rejectCmd s q.part r
    | none =>
      let a := readAlm b q.part
      match validate s b a with
      | some r => rejectCmd s q.part r
      | none => keepAlmanac s a

def execAlmanacLoad (c : Cmd) (s : State) : Host.Outcome State Fault Refusal :=
  runForm c 0 (runPlain c 0xC9 false loadAlmanac) s

/-- A job of the almanac is in the dispatcher, or a register of the commons names it (R284, R382). -/
def almInUse (s : State) (h : Nat) : Bool :=
  (s.jobs.any fun j => j.2.handle == h) || (s.gangs.any fun g => g.2.alm == h)
    || getF s Reg.COMMONS_IDX_ALM Fld.COMMONS_IDX_ALM_handle == h || getF s Reg.COMMONS_QRY_ALM Fld.COMMONS_QRY_ALM_handle == h

def unloadAlmanac (s : State) (q : Req) : State × Option Reply :=
  let h := q.c.handle
  guards s [(!formFields q.c || q.c.cdw10 != 0, stInvalidField)] fun _ =>
    match aGet? s.alms h with
    | none => rejectCmd s q.part ⟨0x13, 0, 7, h⟩
    | some a =>
      if a.owner ≠ q.part then rejectCmd s q.part ⟨0x13, 0, 7, h⟩
      else if almInUse s h then fail s stSequence
      else
        let s1 := releasePages s a.owner a.pages
        done { s1 with alms := aDel s1.alms h } h

def execAlmanacUnload (c : Cmd) (s : State) : Host.Outcome State Fault Refusal :=
  runForm c 1 (runPlain c 0xC9 false unloadAlmanac) s

end Sys2Proof.Machine
end

