-- ==== Sys2Proof/Machine/Residence.lean ====
section
/-! DEFINITION. The meanings of RETIRE, of changes of a migration window, of idle retention, of prefetches and deferred
evictions (R170, R174 to R177, R186, R190 to R195, R384). -/

namespace Sys2Proof.Machine

/-! RETIRE (R174, R384) -/

/-- A page of the module's address space moves: every object that lies in it names its new location (R186). -/
def renamePage (s : State) (old new : Nat) : State :=
  let r := fun (p : Nat) => if p = old then new else p
  { s with
    jobs := s.jobs.map fun e => (e.1, { e.2 with pages := e.2.pages.map r, work := e.2.work.map fun w => (w.1, r w.2) })
    alms := s.alms.map fun e => (e.1, { e.2 with pages := e.2.pages.map r })
    tables := s.tables.map fun e => (e.1, { e.2 with
      versions := e.2.versions.map fun v => (v.1, { v.2 with pages := v.2.pages.map r })
      building := e.2.building.map fun b => { b with pages := b.pages.map r } })
    adapters := s.adapters.map fun e => (e.1, { e.2 with pages := e.2.pages.map (·.map r) })
    rowsets := s.rowsets.map fun e => (e.1, { e.2 with pages := e.2.pages.map r })
    searches := s.searches.map fun e => (e.1, { e.2 with pages := e.2.pages.map r })
    index := s.index.map fun e => (e.1, { e.2 with stagingPages := e.2.stagingPages.map r })
    parts := s.parts.map fun e => (e.1, { e.2 with windowPages := e.2.windowPages.map r })
    commons := { s.commons with resident := s.commons.resident.map fun e => (e.1, r e.2) }
    mem := { s.mem with resident := s.mem.resident.map fun e => (e.1, { e.2 with place := r e.2.place }) } }

def markRetired (s : State) (p : Nat) : State :=
  let a := stackPage (p / 2 ^ 20) + Reg.STACK_RETIRED
  bumpF { s with mem := { s.mem with
    retired := insertNat p s.mem.retired, pages := aUpd s.mem.pages p fun u => { u with live := false } } } a Fld.STACK_RETIRED_pages 1

/-- Retire a stack page: an allocated one is copied to a free page first, on its own stack where that has one. -/
def retirePage (s : State) (p : Nat) : Option State :=
  match aGet? s.mem.pages p with
  | none => some (markRetired s p)
  | some u =>
    if !u.live then some (markRetired s p)
    else
      let k := p / 2 ^ 20
      match firstPage s (k :: (liveStacks s).filter (· != k)) with
      | none => none
      | some q =>
        let s1 := memCopy (takePage s u.owner q) (locPage p) (locPage q) 65536
        some (markRetired (renamePage (swapPlaces s1 p q) p q) p)

/-- RETIRE's dwords (R384): no partition, no handle, nothing reserved in CDW10 but the fields given. -/
def retireFields (c : Cmd) (mask : Word) : Bool :=
  c.partOf == 0 && bitsOf c.cdw13.toNat 31 4 == 0 && c.cdw10 &&& ~~~mask == 0

def retireStack (s : State) (q : Req) : State × Option Reply :=
  let w := q.c.cdw10.toNat
  let st := bitsOf w 20 16
  let k := 3 * st + bitsOf w 9 8
  let pg := q.c.cdw11.toNat
  let p := k * 2 ^ 20 + pg
  guards s [(!retireFields q.c 0x001F0300 || !standPresent s st || bitsOf w 9 8 > 2 || pg ≥ stackPages k, stInvalidField)] fun _ =>
    if s.mem.retired.contains p then done s 0
    else
      guards s [(decide ((s.mem.retired.filter fun x => x / 2 ^ 20 == k).length ≥ 4096), stQuota)] fun _ =>
        match retirePage s p with
        | none => fail s stQuota
        | some s1 => done s1 0

def execRetireStackPage (c : Cmd) (s : State) : Host.Outcome State Fault Refusal :=
  runForm c 0 (runPlain c 0xCC false retireStack) s

/-- The retirement waits until the glade holds no binding; until then it takes no new one. -/
def pendRetire (s : State) (g n : Nat) : State :=
  updGlade s g fun x => { x with pendingRetire := if x.pendingRetire.contains n then x.pendingRetire else x.pendingRetire ++ [n] }

def retireBank (s : State) (q : Req) : State × Option Reply :=
  let w := q.c.cdw10.toNat
  let st := bitsOf w 20 16
  guards s [(!retireFields q.c 0x001F303F || q.c.cdw11 != 0 || !standPresent s st, stInvalidField)] fun _ =>
    done (pendRetire s (4 * st + bitsOf w 13 12) (bitsOf w 5 0)) 0

def execRetireGladeBank (c : Cmd) (s : State) : Host.Outcome State Fault Refusal :=
  runForm c 1 (runPlain c 0xCC false retireBank) s

/-- A copse's bank, named 128 + the copse's place in the glade. -/
def retireCopseBank (s : State) (q : Req) : State × Option Reply :=
  let w := q.c.cdw10.toNat
  let st := bitsOf w 20 16
  guards s [(!retireFields q.c 0x001F331F || q.c.cdw11 != 0 || !standPresent s st, stInvalidField)] fun _ =>
    done (pendRetire s (4 * st + bitsOf w 13 12) (128 + bitsOf w 9 8)) 0

def execRetireCopseScratchBank (c : Cmd) (s : State) : Host.Outcome State Fault Refusal :=
  runForm c 2 (runPlain c 0xCC false retireCopseBank) s

/-! BANK_RETIREMENT -/

/-- Evict a window copy (R194): a pinned one is deferred, its charge passing to partition 4,095. -/
def evictWindow (s : State) (k : Nat) : State :=
  match aGet? s.mem.window k with
  | none => s
  | some c =>
    if c.pins = 0 then bump (dropWindow s k) Reg.MIG_EVICT 1
    else if c.deferred then s
    else
      let s1 := charge (credit s c.charged 1 65536) 4095 1 65536
      bump { s1 with mem := { s1.mem with window := aPut s1.mem.window k { c with deferred := true, charged := 4095 } } } Reg.MIG_DEFER 1

/-- Evict a resident extent page (R194). -/
def evictCopy (s : State) (k : Nat) : State :=
  match aGet? s.mem.resident k with
  | none => s
  | some c =>
    if c.pins = 0 then bump (dropCopy s k) Reg.MIG_EVICT 1
    else if c.deferred then s
    else
      let s1 := charge (credit s c.charged 3 65536) 4095 3 65536
      bump { s1 with mem := { s1.mem with resident := aPut s1.mem.resident k { c with deferred := true, charged := 4095 } } } Reg.MIG_DEFER 1

/-- A byte offset of tier 1 lies in a bank (R168). -/
def inBank (o bank : Nat) : Bool := o / 4096 % 60 == bank

/-- Zero a glade bank (R168): banks 60 to 63 are the exchange banks. -/
def zeroBank (s : State) (g bank : Nat) : State :=
  if bank ≥ 60 then memZero s (locBank g (bank - 60)) 524288
  else
    let hit := fun (a : Nat) => locStore a == 1 && locGladeNo a == g && inBank (locOff a) bank
    { s with mem := { s.mem with bytes := s.mem.bytes.filter fun e => !hit e.1, poison := s.mem.poison.filter fun l => !hit l,
                                 raw := s.mem.raw.filter fun e => !hit e.1 } }

/-- Window copies of a glade that reach into a bank: their content goes with it. -/
def dropBankWindow (s : State) (g bank : Nat) : State :=
  (s.mem.window.filter fun e => e.1 / 2 ^ 40 == g && (List.range 16).any fun i =>
    inBank (locOff (windowLoc s g e.2.place) + 4096 * i) bank).foldl (fun s e => evictWindow s e.1) s

/-- One pending retirement takes effect: the lowest unused spare replaces the bank and is zeroed, or the glade is excluded;
a copse is excluded. -/
def applyRetire (s : State) (g n : Nat) : State :=
  if n ≥ 128 then updGlade s g fun x => { x with retired := insertNat n x.retired }
  else
    let a := gladePage g + Reg.GLADE_REPAIR
    let used := getF s a Fld.GLADE_REPAIR_banks_used
    if used ≥ 4 then setF s a Fld.GLADE_REPAIR_excluded 1
    else
      let s1 := updGlade s g fun x => { x with bankMap := aPut x.bankMap n (64 + used), retired := insertNat n x.retired }
      zeroBank (dropBankWindow (setF s1 a Fld.GLADE_REPAIR_banks_used (used + 1)) g n) g n

def execBankRetirement (g : GladePath) (s : State) : Host.Outcome State Fault Refusal :=
  .next (
    let i := g.index
    if g.ok ∧ !gladeBusy s i then
      updGlade ((getGlade s i).pendingRetire.foldl (fun s n => applyRetire s i n) s) i fun x => { x with pendingRetire := [] }
    else s)

/-! The migration window (R169, R170) -/

/-- Store a requested window size; above 16 it is refused. -/
def writeWindow (s : State) (g : Nat) (v : Word) : State :=
  let a := gladePage g + Reg.GLADE_SCR_CFG
  if bitsOf v.toNat 20 16 > 16 then refuse s a v
  else setF s a Fld.GLADE_SCR_CFG_mig_win_req (bitsOf v.toNat 20 16)

def execMigWinReqWrite (r : Requester) (g : GladePath) (value : Word) (s : State) : Host.Outcome State Fault Refusal :=
  .next (if g.ok then reach s r (gladePage g.index + Reg.GLADE_SCR_CFG) value fun _ => writeWindow s g.index value else s)

/-- The requested window takes effect while the glade holds no binding: copies in the part removed are evicted. Places
are counted from the window's start, so that the copies that stay keep their locations; the part removed is zeroed
(R165). -/
def changeWindow (s : State) (g : Nat) : State :=
  let a := gladePage g + Reg.GLADE_SCR_CFG
  let old := windowSize s g
  let new := getF s a Fld.GLADE_SCR_CFG_mig_win_req * 8
  let gone := s.mem.window.filter fun e => e.1 / 2 ^ 40 == g && decide (e.2.place + new < old)
  let s1 := gone.foldl (fun s e => evictWindow s e.1) s
  let moved := s1.mem.window.map fun e => if e.1 / 2 ^ 40 = g then (e.1, { e.2 with place := e.2.place + new - old }) else e
  let s2 := memZero s1 (locGlade g + 31457280 - old * 65536) ((old - new) * 65536)
  setF { s2 with mem := { s2.mem with window := moved } } a Fld.GLADE_SCR_CFG_mig_win (new / 8)

def execMigWinChange (g : GladePath) (s : State) : Host.Outcome State Fault Refusal :=
  .next (if g.ok ∧ standPresent s g.stand ∧ !gladeBusy s g.index then changeWindow s g.index else s)

/-! Idle retention (R175, R177) -/

/-- The bank holds no allocated buffer and no window page: glade banks 0 to 59, and 64 + 32 × c + b for scratch bank b of
copse c. -/
def bankIdle (s : State) (g bank : Nat) : Bool :=
  if bank < 60 then
    let live := s.mem.regions.any fun r => r.live && locStore r.start == 1 && locGladeNo r.start == g &&
      (List.range (min 60 (r.len / 4096 + 2))).any fun i => inBank (locOff r.start + 4096 * i) bank
        && decide ((locOff r.start + 4096 * i) / 4096 * 4096 < locOff r.start + r.len)
    !live && !(s.mem.window.any fun e => e.1 / 2 ^ 40 == g && (List.range 16).any fun i =>
      inBank (locOff (windowLoc s g e.2.place) + 4096 * i) bank)
  else if 64 ≤ bank ∧ bank < 192 then
    !(s.mem.regions.any fun r => r.live && locStore r.start == 0 && locCopseNo r.start == 4 * g + (bank - 64) / 32)
  else false

/-- IDLE_RETENTION_ENTRY: an idle copse scratch or glade bank enters retention in PS0 or PS1. -/
def execIdleRetentionEntry (g : GladePath) (bank : Nat) (s : State) : Host.Outcome State Fault Refusal :=
  .next (
    let i := g.index
    if g.ok ∧ standPresent s g.stand ∧ ready s ∧ s.power.ps < 2 ∧ bankIdle s i bank
        ∧ getF s (gladePage i + Reg.GLADE_RET_CTL) Fld.GLADE_RET_CTL_idle_en = 1 then
      updGlade s i fun x => { x with retention := insertNat bank x.retention }
    else s)

/-! PREFETCH (R190) -/

/-- The MOVEs ahead that read cached extents: day, place in the calendar, calendar, and the pages each reads. -/
def prefetchPlan (s : State) (j : Job) (a : Alm) : List (Nat × Nat × Nat × List Nat) :=
  (a.cals.zipIdx).flatMap fun c =>
    if c.1.kind ≠ 3 ∧ c.1.kind ≠ 4 then []
    else
      let pc := match j.cals[c.2]? with | some r => r.pc | none => 0
      (c.1.entries.zipIdx.filterMap fun e =>
        if entryClass e.1 ≠ 4 ∨ e.2 < pc then none
        else
          match a.bufs[fld e.1 105 94]? with
          | none => none
          | some b =>
            if b.tier ≠ 4 then none
            else match extentOf s b with
              | none => none
              | some x =>
                let day := (c.1.entries.take e.2).countP fun y => entryClass y == 12
                let off := x.offset + b.offset + 64 * fld e.1 93 74
                let n := 64 * (fld e.1 41 18 + 1)
                if x.policy = 1 ∧ day ≤ j.day + 1 then
                  some (day, e.2, c.2, (List.range ((off + n + 65535) / 65536 - off / 65536)).map fun i => extentKey b.owner (off / 65536 + i))
                else none)

def planLe (x y : Nat × Nat × Nat × List Nat) : Bool :=
  if x.1 ≠ y.1 then x.1 < y.1 else if x.2.1 ≠ y.2.1 then x.2.1 < y.2.1 else x.2.2.1 ≤ y.2.2.1

def insertPlan (x : Nat × Nat × Nat × List Nat) : List (Nat × Nat × Nat × List Nat) → List (Nat × Nat × Nat × List Nat)
  | [] => [x]
  | y :: r => if planLe x y then x :: y :: r else y :: insertPlan x r

/-- The next page to prefetch: the key of its entry in pfDone and the page, neither done nor resident. -/
def nextPrefetch (s : State) (j : Job) (a : Alm) : Option (Nat × Nat) :=
  ((prefetchPlan s j a).foldr insertPlan []).findSome? fun x =>
    (x.2.2.2.find? fun pg => !(j.pfDone.any fun d => d.2 == pg) && !(hasCopy s (pg / 2 ^ 40) (pg % 2 ^ 40))).map fun pg =>
      (x.2.2.1 * 2 ^ 24 + x.2.1, pg)

/-- PREFETCH: the next page within the job's depth is made resident with a prefetch pin, or skipped. -/
def prefetchStep (s : State) (n : Nat) : State :=
  match getJob s n with
  | none => s
  | some j =>
    match jobAlm s j with
    | none => s
    | some a =>
      if !j.isBound ∨ j.finished ∨ (s.mem.resident.filter fun e => e.2.prefetched == some n).length ≥ j.pfDepth then s
      else match nextPrefetch s j a with
        | none => s
        | some (k, pg) =>
          let s1 := updJob s n fun x => { x with pfDone := x.pfDone ++ [(k, pg)] }
          match makeResident s1 (pg / 2 ^ 40) (pg % 2 ^ 40) j.partition (some n) with
          | some s2 => s2
          | none => bump s1 Reg.MIG_PF_SKIP 1

def execPrefetch (job : Nat) (s : State) : Host.Outcome State Fault Refusal :=
  .next (if engineOn s then prefetchStep s job else s)

/-- DEFERRED_EVICTION: a deferred page whose pins are released is evicted and partition 4,095 credited; the page is named
by its key in the directory. -/
def execDeferredEviction (page : Nat) (s : State) : Host.Outcome State Fault Refusal :=
  .next (
    match aGet? s.mem.resident page, aGet? s.mem.window page with
    | some c, _ => if c.deferred ∧ c.pins = 0 then bump (dropCopy s page) Reg.MIG_EVICT 1 else s
    | none, some c => if c.deferred ∧ c.pins = 0 then bump (dropWindow s page) Reg.MIG_EVICT 1 else s
    | none, none => s)

end Sys2Proof.Machine
end

