-- ==== Sys2Proof/Machine/SessionOps.lean ====
section
/-! DEFINITION. What sessions, releases and aborts share: how an outstanding command ends before its time (R21, R393,
R433), the close of a session, the graph descriptor's fields (R286, R287), the image of an adapter, the evidence record
(R425 to R427). -/

namespace Sys2Proof.Machine

/-! The end of an outstanding command -/

/-- End a search before its time: its rows are withdrawn from the query batch it is in (R272). -/
def cutSearch (s : State) (k : Nat) (st : Status) : State :=
  let s1 := withdraw s fun j t => j.kind == 3 && t.source == k
  endSearch { s1 with commons := { s1.commons with
    gather := s1.commons.gather.filter (· != k)
    queryJobs := s1.commons.queryJobs.map fun q => (q.1, q.2.filter (· != k)) } } k (replySt st)

/-- LBAs of a host read that are there: those before every unit it still waits for or found poisoned. -/
def readPrefix (w : ReadWait) : Nat :=
  match w.waits.map (·.2) ++ w.poisonedAt.toList with
  | [] => 0
  | x :: r => r.foldl min x

/-- The record of a read that stops counts what is there (R393, R398). -/
def noteRead (s : State) (sqid cid : Nat) : State :=
  match s.ftl.reads.find? fun e => e.2.sqid == sqid && e.2.cid == cid with
  | some e => updProg s sqid cid fun r => { r with units := readPrefix e.2 }
  | none => s

/-- End the command of a queue and identifier with a status: the day of its job, its search or its STEP ends uncommitted,
and what it still waits for is dropped. -/
def abortAt (s : State) (sqid cid : Nat) (st : Status) : State :=
  match s.gangs.find? fun e => e.2.sqid == sqid && e.2.cid == cid with
  | some e => endGang s e.1 st
  | none =>
    match s.jobs.find? fun e => e.2.command && e.2.sqid == sqid && e.2.cid == cid with
    | some e => endJob s e.1 st 0
    | none =>
      match s.searches.find? fun e => e.2.peerOf.isNone && e.2.sqid == sqid && e.2.cid == cid with
      | some e => cutSearch s e.1 st
      | none =>
        let reads := (s.ftl.reads.filter fun e => e.2.sqid == sqid && e.2.cid == cid).map (·.1)
        let s0 := dropAccess (noteRead s sqid cid) fun e => e.asker == 0 && reads.contains e.waiter
        let f := { s0.ftl with
          waiting := s0.ftl.waiting.filter fun w => !(w.sqid == sqid && w.cid == cid)
          flushes := s0.ftl.flushes.filter fun w => !(w.reply.sqid == sqid && w.reply.cid == cid)
          reads := s0.ftl.reads.filter fun e => !reads.contains e.1 }
        let s1 := { s0 with ftl := f, index := s0.index.map fun e => (e.1, { e.2 with
          closing := e.2.closing.map fun c => if c.sqid = sqid ∧ c.cid = cid then { c with command := false } else c }) }
        completeAt s1 sqid cid (replySt st)

/-- End every outstanding command that a choice names, in order. -/
def abortAll (s : State) (sel : Outstanding → Bool) (st : Status) : State :=
  (s.host.outstanding.filter sel).foldl (fun s o => abortAt s o.cmd.sqid o.cmd.cid st) s

/-! Sessions -/

/-- Close a session (R21): the commands sealed under it that have not completed end with Key Not Present, the gang
members whose tickets it opened are withdrawn (R369), its slots are erased. -/
def closeSession (s : State) (p n : Nat) : State :=
  let s1 := withdrawMembers s fun m => m.partition == p && m.session == n
  let s2 := abortAll s1 (fun o => o.vendor && o.cmd.partOf == p && o.sealedBy == some n) stKey
  updPart s2 p fun q => { q with sessions := q.sessions.filter (·.num != n) }

def closeSessions (s : State) (p : Nat) (l : List Nat) : State := l.foldl (fun s n => closeSession s p n) s

def sessionNums (s : State) (p : Nat) : List Nat := (getPart s p).sessions.map (·.num)

def sessionCount (s : State) : Nat := (s.parts.map fun e => e.2.sessions.length).sum

/-! The graph descriptor (R286, R287) -/

def gDims (d : List Byte) : Nat := leAt d 0 2
def gFmt (d : List Byte) : Nat := leAt d 2 1
def gMetric (d : List Byte) : Nat := leAt d 3 1
def gAttrs (d : List Byte) : Nat := leAt d 4 1
def gDeg (d : List Byte) : Nat := leAt d 5 1
def gBitmap (d : List Byte) : Nat := leAt d 6 1
def gCap (d : List Byte) : Nat := leAt d 8 8
def gStaging (d : List Byte) : Nat := leAt d 0x10 4
def gBuild (d : List Byte) : Nat := leAt d 0x14 2

/-- The descriptor keeps every rule of R286. -/
def descOk (d : List Byte) : Bool :=
  64 ≤ gDims d && gDims d ≤ 4096 && gDims d % 64 == 0 && gFmt d ≤ 2 && gMetric d ≤ 2 && gAttrs d ≤ 64 && gAttrs d % 8 == 0
    && 8 ≤ gDeg d && gDeg d ≤ 64 && gDeg d % 8 == 0 && (gBitmap d == 255 || decide (gBitmap d < gAttrs d))
    && allZero d 7 1 && 1 ≤ gCap d && gCap d ≤ 2 ^ 36 && 1024 ≤ gStaging d && gStaging d ≤ 16777216
    && 64 ≤ gBuild d && gBuild d ≤ 4096 && allZero d 0x16 2 && (gFmt d == 1 || allZero d 0x18 16) && allZero d 0x28 24

/-- V: bytes of a vector. -/
def gVec (d : List Byte) : Nat := if gFmt d = 0 then gDims d else if gFmt d = 1 then gDims d / 2 else 2 * gDims d

/-- RS: bytes of a node record. -/
def gRecord (d : List Byte) : Nat := (16 + gVec d + gAttrs d + 8 * gDeg d + 63) / 64 * 64

/-- rpp: records of a node page. -/
def gPerPage (d : List Byte) : Nat := 16320 / gRecord d

/-- P_n: node pages. -/
def gNodePages (d : List Byte) : Nat := (gCap d + gPerPage d - 1) / gPerPage d

/-- Index pages of a whole graph: header, node and bitmap pages (R289). -/
def gPages (d : List Byte) : Nat :=
  1 + gNodePages d + (if gBitmap d = 255 then 0 else 256 * ((gCap d + 130559) / 130560))

/-- The charge of the staging graph and its tombstone table (R304). -/
def stagingBytes (d : List Byte) : Nat := pagesFor (gStaging d * (gRecord d + 8)) * 65536

/-! Adapter images (R334 to R337) -/

/-- The committed plaintext of an adapter's image, resident or at home. -/
def adapterImage (s : State) (a : Adapter) : List Byte :=
  match a.pages with
  | some pg => pagesRead s.mem pg 0 a.size
  | none => (readNs s a.partition a.home a.size).1

/-! Evidence (R425 to R427) -/

def dieEntry (kind index stepping status : Nat) (ident : List Byte) : List Byte :=
  toLe 1 kind ++ toLe 1 index ++ toLe 2 stepping ++ toLe 1 status ++ zeros 3 ++ sub ident 0 16 ++ zeros 8

/-- 0 in service, 1 failed, 2 absent. -/
def standStatus (s : State) (i : Nat) : Nat :=
  if bitOf (getF s Reg.HUB_STANDS Fld.HUB_STANDS_failed) i then 1 else if standPresent s i then 0 else 2

def dieTable (s : State) : List Byte :=
  dieEntry 0 0 (regGet s Reg.HUB_STEPPING).toNat 0 ((List.range 4).flatMap fun i => toLe 4 (regGet s (Reg.HUB_DIE_ID + 4 * i)).toNat)
    ++ (List.range 8).flatMap fun i => dieEntry 1 i (Config.dieStepping i) (standStatus s i) (Config.dieIdentifier (1 + i))

/-- The almanacs that a partition's manifest lists: its own and the commons'; every one for partition 0. -/
def manifestAlms (s : State) (p : Nat) : List (Nat × Alm) :=
  if partState s p = none then [] else s.alms.filter fun e => p == 0 || e.2.owner == p || e.2.owner == 4095

def almEntry (h : Nat) (a : Alm) : List Byte :=
  toLe 2 h ++ toLe 2 a.owner ++ toLe 4 (if a.plan.isSome then 1 else 0) ++ zeros 8 ++ sub a.digest 0 64
    ++ (match a.plan with | some p => sub p.digest 0 64 | none => zeros 64)

def manifestAdapters (s : State) (p : Nat) : List (Nat × Adapter) :=
  if p = 0 ∨ p = 4095 then [] else s.adapters.filter fun e => e.2.partition == p

def adapterEntry (s : State) (n : Nat) (a : Adapter) : List Byte :=
  let img := adapterImage s a
  toLe 2 n ++ zeros 6 ++ sub img 0x240 8 ++ sha512 img

def almManifest (s : State) (p : Nat) : List Byte := (manifestAlms s p).flatMap fun e => almEntry e.1 e.2
def adapterManifest (s : State) (p : Nat) : List Byte := (manifestAdapters s p).flatMap fun e => adapterEntry s e.1 e.2

/-- The module's mode: 0 normal, 1 degraded, 2 safe start. -/
def moduleMode (s : State) : Nat :=
  if s.power.safe then 2 else if getF s Reg.FTL_STAT Fld.FTL_STAT_redund ≠ 0 then 1 else 0

def modelDigest (s : State) : List Byte :=
  if getF s Reg.COMMONS_STAT Fld.COMMONS_STAT_model = 2 then
    (List.range 16).flatMap fun i => toLe 4 (regGet s (Reg.COMMONS_MODEL_DIGEST + 4 * i)).toNat
  else zeros 64

/-- Bytes 0x000 to 0xDFF of an evidence record: partition, reason, nonce. -/
def evidenceBody (s : State) (p reason : Nat) (nonce : List Byte) : List Byte :=
  let q := getPart s p
  [0x45#8, 0x56#8, 0x49#8, 0x44#8] ++ toLe 2 1 ++ toLe 2 4096
    ++ toLe 1 (getF s Reg.HUB_FAMILY Fld.HUB_FAMILY_member) ++ toLe 1 ((List.range 8).filter (standPresent s)).length
    ++ toLe 1 (getF s Reg.HUB_FAMILY Fld.HUB_FAMILY_stacks_per_stand) ++ toLe 1 (moduleMode s)
    ++ toLe 2 p ++ toLe 1 (stateCode s p) ++ toLe 1 reason ++ sub nonce 0 32 ++ toLe 8 s.tb
    ++ toLe 4 (regGet s Reg.START_COLD).toNat ++ toLe 4 (regGet s Reg.START_WARM).toNat ++ dieTable s
    ++ sub (Config.recordDigest 0) 0 64 ++ sha512 Config.identityCertificate ++ modelDigest s
    ++ (if isSealed s p then sha512 q.owner else zeros 64)
    ++ sha512 (almManifest s p) ++ sha512 (adapterManifest s p)
    ++ toLe 4 (manifestAlms s p).length ++ toLe 4 (manifestAdapters s p).length ++ toLe 4 q.loads
    ++ toLe 1 ((if q.dataKey.isSome then 1 else 0) + (if q.hasIndexKey then 2 else 0)) ++ toLe 1 (q.cfg % 8)
    ++ toLe 2 (q.sessions.filter fun x => !x.isPending).length ++ toLe 1 (getF s Reg.COMMONS_STAT Fld.COMMONS_STAT_model)
    ++ zeros 15 ++ toLe 4 (readReg s Reg.SEC_STAT).toNat ++ toLe 4 (readReg s Reg.SEC_DEBUG).toNat
    ++ toLe 4 (readReg s Reg.SEC_IDE).toNat ++ toLe 4 (readReg s Reg.SEC_TDISP).toNat ++ zeros 48 ++ zeros 2752

/-- A signed evidence record; SEC_EVID counts it. -/
def evidenceRecord (s : State) (p reason : Nat) (nonce : List Byte) : State × List Byte :=
  let b := evidenceBody s p reason nonce
  (bump s Reg.SEC_EVID 1, b ++ sub (Config.signature b) 0 512)

/-- Zero bytes up to a multiple of 64. -/
def padLine (l : List Byte) : List Byte := l ++ zeros ((64 - l.length % 64) % 64)

def evidence (s : State) (q : Req) : State × Option Reply :=
  let flags := leAt q.pay 32 1
  guards s [(s.power.keysErased, stInternal), (q.c.cdw11 != 0 || q.c.cdw13 != 0 || decide (q.c.bufLen < 64) || decide (flags > 1) || !allZero q.pay 33 31, stInvalidField)] fun _ =>
    let (s1, r) := evidenceRecord s q.part 0 (sub q.pay 0 32)
    let chain := Config.certificateChain 0
    let out := padLine (r ++ almManifest s q.part ++ adapterManifest s q.part
      ++ (if flags = 1 then toLe 4 chain.length ++ chain else []))
    if out.length > q.c.bufLen then fail s stInvalidField else (s1, some (replyData out.length out))

/-- EVIDENCE (R427): any partition, absent ones too. -/
def execEvidence (c : Cmd) (s : State) : Host.Outcome State Fault Refusal := runPlain c 0xD3 true evidence s

end Sys2Proof.Machine
end

