-- ==== Sys2Proof/Machine/Sessions.lean ====
section
/-! DEFINITION. The meanings of the tenant session protocol's messages (R415 to R424): OPEN, FINISH, SEAL, KEY, CLOSE, and
the expiry of a pending session. -/

namespace Sys2Proof.Machine

def msgMagic : List Byte := [0x54#8, 0x53#8, 0x4D#8, 0x31#8]

/-- Bytes of each request up to its last field, its whole size, and the size of its answer (R416). -/
def msgSizes (n : Nat) : Nat × Nat × Nat :=
  if n = 1 then (145, 192, 6336) else if n = 2 then (2112, 2112, 64) else if n = 3 then (576, 576, 64)
  else if n = 4 then (96, 128, 64) else (48, 64, 64)

/-- The session number that a message names. -/
def msgSession (c : Cmd) : Nat := leAt c.buf 0x0A 2

/-- The 16-byte header of R415 is well formed and the buffer holds the message and its answer. -/
def headerOk (c : Cmd) (n : Nat) : Bool :=
  let b := c.buf
  let (least, whole, ans) := msgSizes n
  let len := leAt b 0x0C 4
  c.cdw11 == 0 && bitsOf c.cdw13.toNat 31 4 == 0 && sub b 0 4 == msgMagic && leAt b 4 2 == 1 && leAt b 6 1 == n
    && allZero b 7 1 && leAt b 8 2 == c.partOf && (n != 1 || msgSession c == 0) && least ≤ len && len ≤ whole
    && len ≤ c.bufLen && max whole ans ≤ c.bufLen && allZero b least (c.bufLen - least)

/-- The header of an answer. -/
def ansHead (p n msg len : Nat) : List Byte :=
  msgMagic ++ toLe 2 1 ++ toLe 1 msg ++ zeros 1 ++ toLe 2 p ++ toLe 2 n ++ toLe 4 len

def padTo (n : Nat) (l : List Byte) : List Byte := sub l 0 n

/-- The checks that every message meets first. -/
def msgChecks (q : Req) (n : Nat) : List (Bool × Status) :=
  [(!headerOk q.c n || q.part == 0 || q.part == 4095, stInvalidField)]

/-- Run a message: its row is the one its number names. -/
def runMsg (c : Cmd) (n : Nat) (body : State → Req → State × Option Reply) (s : State) : Host.Outcome State Fault Refusal :=
  runForm c n (runPlain c 0xC7 false fun s q => guards s (msgChecks q n) fun _ => body s q) s

/-! OPEN -/

/-- The next number from a start on that no session of the partition uses, counting 1 to 65,535 with wrap. -/
def nextNum (l : List Nat) : Nat → Nat → Nat
  | 0, k => k
  | fuel + 1, k => if l.contains k then nextNum l fuel (if k ≥ 65535 then 1 else k + 1) else k

def openMsg (pointOk : Bool) (s : State) (q : Req) : State × Option Reply :=
  let p := getPart s q.part
  guards s [(!pointOk, stInvalidField), (!trngOk s, stInternal), (decide (p.sessions.length ≥ 16), stQuota),
      (decide (sessionCount s ≥ 8192), stQuota)] fun _ =>
    let n := nextNum (p.sessions.map (·.num)) (p.sessions.length + 1) p.nextSession
    let req := sub q.c.buf 0 192
    let (s1, ev) := evidenceRecord s q.part 1 (sub q.c.buf 16 32)
    let head := ansHead q.part n 1 6336 ++ ev ++ sub (Config.exchangeValue 0 s1.fresh) 0 97
      ++ sub (Config.exchangeValue 1 s1.fresh) 0 1568
    let ans := padTo 6336 (head ++ sub (Config.signature (req ++ head)) 0 512)
    let x : Session := { num := n, isPending := true, owned := false, opened := s.tb, request := req, answer := head,
                         lastMsg := 0, answers := 0, highNonce := 0, tickets := [] }
    let s2 := updPart { s1 with fresh := s1.fresh + 1 } q.part fun p =>
      { p with sessions := p.sessions ++ [x], nextSession := if n ≥ 65535 then 1 else n + 1 }
    (s2, some (replyData 6336 ans))

def execOpenSession (c : Cmd) (pointOk : Bool) (s : State) : Host.Outcome State Fault Refusal := runMsg c 1 (openMsg pointOk) s

/-! FINISH -/

def dropSession (s : State) (p n : Nat) : State :=
  updPart s p fun q => { q with sessions := q.sessions.filter (·.num != n) }

/-- The proof and the tag are checked; in a partition that is not sealed the proof is 512 zero bytes. -/
def finishMsg (proofOk tagOk : Bool) (s : State) (q : Req) : State × Option Reply :=
  let n := msgSession q.c
  match findSession (getPart s q.part) n with
  | none => fail s stKey
  | some x =>
    if !x.isPending then fail s stKey
    else
      let proof := if isSealed s q.part then proofOk else allZero q.c.buf 1584 512
      if !proof || !tagOk then fail (dropSession s q.part n) stSeal
      else
        let s1 := updSession s q.part n fun x => { x with isPending := false, owned := isSealed s q.part }
        let ans := padTo 64 (ansHead q.part n 2 64 ++ sub (Config.confirmTag s.fresh) 0 16)
        ({ s1 with fresh := s1.fresh + 1 }, some (replyData 64 ans))

def execFinish (c : Cmd) (proofOk tagOk : Bool) (s : State) : Host.Outcome State Fault Refusal :=
  runMsg c 2 (finishMsg proofOk tagOk) s

/-! Sealed messages (R421, R423) -/

/-- The sequence number of a sealed message. -/
def msgSeq (c : Cmd) : Nat := leAt c.buf 16 8

/-- The checks of a sealed message after its header: its session is open, its IV, its tag, its sequence number. -/
def sealedMsg (s : State) (q : Req) (o : Opened) (k : Session → State × Option Reply) : State × Option Reply :=
  match openSess (getPart s q.part) (msgSession q.c) with
  | none => fail s stKey
  | some x =>
    guards s [(!allZero q.c.buf 28 4, stInvalidField),
        (leAt q.c.buf 24 2 != 1 || !allZero q.c.buf 26 2 || !o.tagOk || decide (msgSeq q.c ≤ x.lastMsg), stSeal)] fun _ => k x

/-- Accept a sealed message: its number is the last one of its session. -/
def acceptMsg (s : State) (q : Req) : State :=
  updSession s q.part (msgSession q.c) fun x => { x with lastMsg := msgSeq q.c }

/-- A sealed answer of 64 bytes under the session's result key. -/
def sealedAnswer (s : State) (q : Req) (msg : Nat) (pay : List Byte) : State × Option Reply :=
  let n := msgSession q.c
  let k := match findSession (getPart s q.part) n with | some x => x.answers + 1 | none => 1
  let ans := padTo 64 (ansHead q.part n msg 64 ++ toLe 8 k ++ zeros 8 ++ pay ++ zeros 16)
  (updSession s q.part n fun x => { x with answers := k },
    some ⟨stSuccess, 64, 0, ans, some ⟨q.part, n, k⟩⟩)

/-! SEAL -/

/-- 4,096 bits with the top bit set, odd. -/
def modulusOk (m : List Byte) : Bool := bitOf (leAt m 511 1) 7 && bitOf (leAt m 0 1) 0

/-- PART_CFG after a seal: fan-out in bit 2, clear ingest in bit 1, scrub_min in bit 0. -/
def sealCfg (cfg policy scrub : Nat) : Nat :=
  policy / 2 % 2 * 4 + policy % 2 * 2 + (if scrub = 1 then 1 else cfg % 2)

def sealMsg (o : Opened) (s : State) (q : Req) : State × Option Reply :=
  sealedMsg s q o fun x =>
    let m := sub o.plain 0 512
    let scrub := leAt o.plain 512 1
    let policy := leAt o.plain 513 1
    guards s [(x.owned, stSequence), (!modulusOk m || decide (scrub > 1) || decide (policy > 3) || !allZero o.plain 514 14, stInvalidField)] fun _ =>
      let s1 := acceptMsg s q
      let s2 := updPart s1 q.part fun p => { p with owner := m, policy := policy, cfg := sealCfg p.cfg policy scrub }
      let s3 := updSession { s2 with life := aPut s2.life q.part .sealed } q.part x.num fun y => { y with owned := true }
      sealedAnswer (closeSessions s3 q.part ((sessionNums s3 q.part).filter (· != x.num))) q 3 []

def execSealPartition (c : Cmd) (o : Opened) (s : State) : Host.Outcome State Fault Refusal := runMsg c 3 (sealMsg o) s

/-! KEY -/

/-- Ranger slots that hold the partition's keys follow its data slot (R16, R222). -/
def refreshKeySlots (s : State) (p : Nat) (loaded : Bool) : State :=
  let held := (s.chans.filter fun e => e.2.keys.any fun (k : KeySlot) => k.inUse && k.partition == p).map (·.1)
  let s1 := { s with chans := s.chans.map fun e => (e.1, { e.2 with keys := e.2.keys.map fun k =>
    if k.inUse ∧ k.partition = p then { k with hasData := loaded } else k }) }
  if loaded then held.foldl (fun s ch => bumpF s (rangerPage ch + Reg.RANGER_KEYS) Fld.RANGER_KEYS_loads 1) s1 else s1

def keyMsg (o : Opened) (s : State) (q : Req) : State × Option Reply :=
  sealedMsg s q o fun x =>
    let flags := leAt o.plain 32 1
    let erase := bitOf flags 0
    guards s [(!x.owned, stSequence), (decide (flags > 1) || !allZero o.plain 33 15, stInvalidField)] fun _ =>
      let s1 := acceptMsg s q
      let loads := ((getPart s q.part).loads + 1) % 2 ^ 32
      let s2 := updPart s1 q.part fun p =>
        { p with dataKey := if erase then none else some (BitVec.ofNat 256 (leAt o.plain 0 32)), loads := loads }
      sealedAnswer (refreshKeySlots s2 q.part (!erase)) q 4 (toLe 4 loads)

def execKey (c : Cmd) (o : Opened) (s : State) : Host.Outcome State Fault Refusal := runMsg c 4 (keyMsg o) s

/-! CLOSE -/

def closeMsg (o : Opened) (s : State) (q : Req) : State × Option Reply :=
  sealedMsg s q o fun x =>
    let (s1, r) := sealedAnswer (acceptMsg s q) q 5 []
    (closeSession s1 q.part x.num, r)

def execClose (c : Cmd) (o : Opened) (s : State) : Host.Outcome State Fault Refusal := runMsg c 5 (closeMsg o) s

/-! PENDING_SESSION_EXPIRY (R417, R422) -/

def execPendingSessionExpiry (partition session : Nat) (s : State) : Host.Outcome State Fault Refusal :=
  .next (
    match findSession (getPart s partition) session with
    | some x => if x.isPending then dropSession s partition session else s
    | none => s)

end Sys2Proof.Machine
end

