-- ==== Sys2Proof/Machine/Partitions.lean ====
section
/-! DEFINITION. The meanings of PARTITION-CREATE, PARTITION-RELEASE and QUOTA-SET (R196, R197, R232, R234, R374, R382,
R383, R409, R410, R433 to R436), and of the end of a map range's zeroing. -/

namespace Sys2Proof.Machine

/-- A quota record (R383): eight values in the order of R196. -/
def quotaRecord (b : List Byte) : List Nat := (List.range 8).map fun i => leAt b (8 * i) 8

def keepQuota : Nat := 2 ^ 64 - 1

/-- 375 TB (R234). -/
def namespaceLimit : Nat := 375000000000000

/-- The namespace charges of every partition but one. -/
def otherNamespaces (s : State) (p : Nat) : Nat :=
  (s.parts.map fun e => if e.1 = p then 0 else listAt e.2.charge 7).sum

/-- A namespace's list in the Changed Namespace List log, and its event (R374). -/
def namespaceChanged (s : State) (p : Nat) : State :=
  aen { s with host := { s.host with changedNs := insertNat (nsidOf p) s.host.changedNs } } 2 0

def rangeOf (n : Nat) (used : List (Nat × Nat)) : Option (List (Nat × Nat)) :=
  if n = 0 then some [] else (lowestFit n used 0).map fun a => [(a, n)]

/-- The map ranges of a new namespace and of its index pages, given the ranges in use (R232). -/
def createRanges (used : List (Nat × Nat)) (units index : Nat) : Option (List (Nat × Nat) × List (Nat × Nat)) :=
  match rangeOf units used with
  | none => none
  | some a => match rangeOf index (a.foldr insertRange used) with | none => none | some b => some (a, b)

/-- Bytes of the deduplication window (R391). -/
def windowBytes : Nat := 9 * 65536

/-- The create record's checks in order; then its partition (R382, R383, R286, R234). -/
def createChecks (s : State) (q : Req) : List (Bool × Status) :=
  let l := quotaRecord q.pay
  let fmt := leAt q.pay 0x80 1
  let lba := if fmt = 1 then 16384 else 4096
  [(q.part == 0 || q.part == 4095 || q.c.cdw11 != 0 || q.c.cdw13 != 0 || decide (q.c.bufLen < 192) || decide (fmt > 1)
      || !allZero q.pay 0x81 63 || !descOk (sub q.pay 0x40 64) || l.contains keepQuota || listAt l 7 % lba != 0, stInvalidField),
   (aHas s.life q.part, stSequence), (!trngOk s, stInternal),
   (decide (otherNamespaces s q.part + unitsFor (listAt l 7) * unitSize > namespaceLimit)
      || decide (windowBytes + stagingBytes (sub q.pay 0x40 64) > listAt l 3), stQuota)]

/-- Make the partition (R410). -/
def makePartition (s : State) (q : Req) (ranges : List (Nat × Nat) × List (Nat × Nat)) : State × Option Reply :=
  let d := sub q.pay 0x40 64
  let l := quotaRecord q.pay
  let n := aGetD s.creations q.part 0 + 1
  let (k, s1) := draw s
  let p : Part := { Part.blank with
    quota := l, desc := d, lbaFmt := leAt q.pay 0x80 1, creation := n, hasIndexKey := true, indexKey := k,
    ranges := ranges.1, idxRanges := ranges.2 }
  let s2 := { s1 with parts := aPut s1.parts q.part p, life := aPut s1.life q.part .created, creations := aPut s1.creations q.part n }
  match allocPages s2 q.part 9 with
  | none => fail s stQuota
  | some (s3, w) =>
    match allocPages s3 q.part (stagingBytes d / 65536) with
    | none => fail s stQuota
    | some (s4, g) =>
      let s5 := charge (updPart s4 q.part fun p => { p with windowPages := w }) q.part 7 (unitsFor (listAt l 7) * unitSize)
      let ix : Index := { version := 0, flash := [(0, ⟨[], 0, []⟩)], staging := [], tombs := [], freeIds := [], nextId := 0,
                          season := 1, ingest := [], held := [], tagFails := 0, fullPosted := false, closing := none, stagingPages := g }
      done (namespaceChanged { s5 with index := aPut s5.index q.part ix } q.part) (nsidOf q.part)

/-- Index pages of the partition that a create record describes. -/
def createRangesOf (q : Req) (used : List (Nat × Nat)) : Option (List (Nat × Nat) × List (Nat × Nat)) :=
  createRanges used (unitsFor (leAt q.pay 56 8)) (gPages (sub q.pay 0x40 64))

def createPart (s : State) (q : Req) : State × Option Reply :=
  guards s (createChecks s q) fun _ =>
    match createRangesOf q (usedRanges s) with
    | none => fail s stQuota
    | some r => makePartition s q r

/-- The create needs map indices that an earlier release still zeroes, and nothing else stops it (R410). -/
def createWaits (s : State) (q : Req) : Bool :=
  vendorFields q.c false && !inWindow s q.part q.c.nonce && !((createChecks s q).any (·.1))
    && (createRangesOf q (usedRanges s)).isNone && (createRangesOf q (ownedRanges s)).isSome

def execPartitionCreate (c : Cmd) (s : State) : Host.Outcome State Fault Refusal :=
  match beginCmd s c 0xC1 with
  | .stop s1 => .next s1
  | .go s1 _ =>
    let q : Req := ⟨c, 0xC1, c.partOf, none, c.buf⟩
    if createWaits s1 q then .next (updOut s1 c.sqid c.cid fun o => { o with started := false })
    else .next (runChecked s1 q false true createPart)

/-! PARTITION_RELEASE -/

/-- Jobs and searches of a partition that no command of the host still waits for. -/
def endStrays (s : State) (p : Nat) : State :=
  let s1 := (s.jobs.filter fun e => e.2.partition == p).foldl (fun s e => endJob s e.1 stAborted 0) s
  (s1.searches.filter fun e => e.2.partition == p).foldl (fun s e => cutSearch s e.1 stAborted) s1

/-- Unmap every entry of ranges. -/
def unmapRanges (s : State) (l : List (Nat × Nat)) : State :=
  (s.ftl.map.filter fun e => inRanges l e.1).foldl (fun s e => mapSet s e.1 none) s

/-- Crypto-erase a partition's flash (R433 step 5): buffered units are discarded (R241 case 3), the map ranges freed and
zeroed in the background. -/
def eraseFlash (s : State) (p : Nat) : State :=
  let q := getPart s p
  let l := q.ranges ++ q.idxRanges
  let s1 := (s.ftl.buf.filter fun b => b.partition == p).foldl (fun s b => dropBuffered s b false 3) s
  let s2 := unmapRanges s1 l
  { s2 with ftl := { s2.ftl with zeroing := s2.ftl.zeroing ++ l.map fun r => (p, r.1, r.2) } }

/-- Zero the stack pages whose last owner a partition is; they are free afterwards. -/
def scrubPages (s : State) (p : Nat) : State :=
  (s.mem.pages.filter fun e => e.2.owner == p).foldl (fun s e => freePages (memZero s (locPage e.1) 65536) [e.1]) s

/-- Zero the lines of a held dump's window that a partition owned. -/
def scrubDump (d : Dump) (p : Nat) : Dump :=
  { d with window := d.window.map fun x => if x.1 = p then (x.1, zeros x.2.length) else x }

def scrubDumps (s : State) (p : Nat) : State :=
  { s with ras := { s.ras with
      dumpHeld := s.ras.dumpHeld.map fun d => scrubDump d p
      slots := s.ras.slots.map fun x => { x with dump := x.dump.map fun d => scrubDump d p } } }

/-- On-chip memory last owned by a partition: zeroed, or marked released. -/
def scrubRegions (s : State) (p : Nat) (full : Bool) : State :=
  let mine := s.mem.regions.filter fun r => r.owner == p
  if full then
    let s1 := mine.foldl (fun s r => memZero s r.start r.len) s
    { s1 with mem := { s1.mem with regions := s1.mem.regions.filter fun r => r.owner != p } }
  else { s with mem := { s.mem with regions := s.mem.regions.map fun r => if r.owner = p then { r with live := false, released := true } else r } }

/-- Rings, checksum rings and scale sets of copses last bound to a partition. In an external-only scrub they are marked:
they read as masked, and hold zeros before the next binding. -/
def scrubCopse (c : Copse) (p : Nat) (full : Bool) : Copse :=
  let rs := (c.ringOwner.filter fun e => e.2 == p).map (·.1)
  let mine := fun (r : Nat) => rs.contains r
  { c with
    rings := c.rings.filter fun e => !mine (e.1 / 32768)
    chkRow := c.chkRow.filter fun e => !mine (e.1 / 128)
    chkCol := c.chkCol.filter fun e => !mine (e.1 / 256)
    corner := c.corner.filter fun e => !mine e.1
    sat := c.sat.filter fun x => !mine (x / 32768)
    held := c.held.filter fun x => !mine (x / 32768)
    sets := c.sets.filter fun e => !mine e.1
    ringOwner := if full then c.ringOwner.filter fun e => e.2 != p else c.ringOwner }

/-- Prefetch slots and branch-cache lines of a partition. -/
def scrubRanger (c : Channel) (p : Nat) : Channel :=
  { c with pf := c.pf.filter fun x => x.partition != p, branch := c.branch.filter fun x => x.partition != p }

/-- The scrub of R434. -/
def scrub (s : State) (p : Nat) (full : Bool) : State :=
  let s1 := scrubRegions (scrubDumps (scrubPages s p) p) p full
  { s1 with copses := s1.copses.map fun e => (e.1, scrubCopse e.2 p full)
            chans := s1.chans.map fun e => (e.1, scrubRanger e.2 p) }

/-- Everything that names a partition goes with it (R433 step 7). -/
def forgetPartition (s : State) (p : Nat) : State :=
  { s with
    tables := s.tables.filter fun e => e.1 / 256 != p
    rowsets := s.rowsets.filter fun e => e.1 / 256 != p
    adapters := s.adapters.filter fun e => e.2.partition != p
    alms := s.alms.filter fun e => e.2.owner != p
    index := aDel s.index p
    mem := { s.mem with resident := s.mem.resident.filter fun e => e.1 / 2 ^ 40 != p }
    parts := aDel s.parts p
    life := aDel s.life p }

/-- A release, Format or Sanitize holds the partition (R436). -/
def partHeld (s : State) (p : Nat) : Bool :=
  s.host.formatting.contains p || s.host.sanitizing || partState s p == some .releasing

/-- Copies charged to the partition that a reader of another still pins pass to partition 4,095; of its own pages none
stays. -/
def dropCopies (s : State) (p : Nat) : State :=
  (s.mem.resident.filter fun e => e.1 / 2 ^ 40 == p).foldl (fun s e => dropCopy s e.1)
    ((s.mem.window.filter fun e => e.2.charged == p).foldl (fun s e => evictWindow s e.1)
      ((s.mem.resident.filter fun e => e.2.charged == p && e.1 / 2 ^ 40 != p).foldl (fun s e => evictCopy s e.1) s))

/-- Release a partition (R433), the command given apart from those that end with it. -/
def releaseAll (s : State) (p : Nat) (full : Bool) (sqid cid : Nat) : State :=
  let s1 := { s with life := aPut s.life p .releasing }
  let s2 := closeSessions s1 p (sessionNums s1 p)
  let s3 := withdrawMembers (withdrawPart s2 p) fun m => m.partition == p
  let mine := fun (o : Outstanding) => o.part == some p && !(o.cmd.sqid == sqid && o.cmd.cid == cid)
  let s4 := endStrays (abortAll s3 mine stAborted) p
  let s5 := dropKeys (updPart s4 p fun x => { x with dataKey := none, hasIndexKey := false, indexKey := 0 }) p
  let s6 := dropCopies (eraseFlash s5 p) p
  namespaceChanged (forgetPartition (scrub s6 p full) p) p

def releasePart (s : State) (q : Req) : State × Option Reply :=
  let p := q.part
  guards s [(p == 0 || p == 4095 || q.c.cdw11 != 0 || bitsOf q.c.cdw13.toNat 31 1 != 0, stInvalidField),
      (partHeld s p, stSequence)] fun _ =>
    done (releaseAll s p (!bitOf q.c.cdw13.toNat 0 || bitOf (getPart s p).cfg 0) q.c.sqid q.c.cid) 0

def execPartitionRelease (c : Cmd) (s : State) : Host.Outcome State Fault Refusal := runPlain c 0xC4 false releasePart s

/-- The indices that a released partition's ranges held are free. -/
def execMapRangeZeroingComplete (partition : Nat) (s : State) : Host.Outcome State Fault Refusal :=
  .next { s with ftl := { s.ftl with zeroing := s.ftl.zeroing.filter fun x => x.1 != partition } }

/-! QUOTA_SET -/

/-- Ranges of a namespace grown by n units (R232). -/
def growRanges (s : State) (l : List (Nat × Nat)) (n : Nat) : Option (List (Nat × Nat)) :=
  if n = 0 then some l
  else
    let used := usedRanges s
    let append := (lowestFit n used 0).bind fun a => if l.length ≥ 4096 then none else some (l ++ [(a, n)])
    match l.getLast? with
    | none => append
    | some r =>
      let e := r.1 + r.2
      let free := e + n ≤ mapIndices && !(used.any fun x => x.1 < e + n && e < x.1 + x.2)
      if free then some (l.dropLast ++ [(r.1, r.2 + n)]) else append

/-- Evict unpinned pages charged to the partition until the charge of a tier fits its quota; the fuel bounds them. -/
def shrinkTo (p tier : Nat) : Nat → State → State
  | 0, s => s
  | fuel + 1, s =>
    let q := getPart s p
    if listAt q.charge tier ≤ listAt q.quota tier then s
    else if tier = 3 then
      match leastRead s.mem.resident fun _ c => c.charged == p with
      | none => s
      | some k => shrinkTo p tier fuel (evictCopy s k)
    else
      match leastRead s.mem.window fun _ c => c.charged == p with
      | none => s
      | some k => shrinkTo p tier fuel (evictWindow s k)

/-- The protected namespaces would hold more than the configured units (R452). -/
def aboveProtected (s : State) (p cap : Nat) : Bool :=
  match repl s with
  | none => false
  | some r =>
    let others := (s.parts.filter fun e => e.1 != p && isProtected r e.1).map fun e => nsUnits e.2
    isProtected r p && decide (unitsFor cap > nsUnits (getPart s p)) && decide (others.sum + unitsFor cap > r.units)

def setQuotas (s : State) (q : Req) : State × Option Reply :=
  let l := quotaRecord q.pay
  let old := getPart s q.part
  let new := (List.range 8).map fun i => if listAt l i = keepQuota then listAt old.quota i else listAt l i
  let cap := listAt old.quota 7
  let units := unitsFor (listAt new 7) - unitsFor cap
  guards s [(q.c.cdw11 != 0 || q.c.cdw13 != 0 || decide (q.c.bufLen < 64) || listAt new 7 % lbaSize old != 0
        || decide (listAt new 7 < cap) || aboveProtected s q.part (listAt new 7), stInvalidField),
      (decide (otherNamespaces s q.part + listAt old.charge 7 + units * unitSize > namespaceLimit), stQuota)] fun _ =>
    match growRanges s old.ranges units with
    | none => fail s stQuota
    | some r =>
      let s1 := charge (updPart s q.part fun p => { p with quota := new, ranges := r }) q.part 7 (units * unitSize)
      let s2 := shrinkTo q.part 1 (s1.mem.window.length + 1) (shrinkTo q.part 3 (s1.mem.resident.length + 1) s1)
      done (if listAt new 7 > cap then namespaceChanged s2 q.part else s2) 0

def execQuotaSet (c : Cmd) (s : State) : Host.Outcome State Fault Refusal := runPlain c 0xCD false setQuotas s

end Sys2Proof.Machine
end

