-- ==== Sys2Proof/Machine/NvmeOps.lean ====
section
/-! DEFINITION. What the NVMe admin commands share (R372 to R377, R400 to R408): the data that Identify returns, the log
pages, the features. The layouts are those of NVM Express Base 2.1, which R372 names; bytes that the spec gives no value
are free. -/

namespace Sys2Proof.Machine

/-- Put fields, each an offset and its bytes, over a list. -/
def overlay (l : List Byte) (fs : List (Nat × List Byte)) : List Byte :=
  fs.foldl (fun l f => sub l 0 f.1 ++ f.2 ++ l.drop (f.1 + f.2.length)) l

/-- n bytes of an NVMe structure that the spec leaves to the part. -/
def openBytes (which n : Nat) : List Byte := sub (Config.nvmeField which n) 0 n

/-! Identify -/

/-- A power state descriptor (R401): the MP field, its flags, the latencies in µs. -/
def powerState (mp flags en ex : Nat) : List Byte := toLe 2 mp ++ zeros 1 ++ toLe 1 flags ++ toLe 4 en ++ toLe 4 ex ++ zeros 20

def powerStates : List Byte :=
  powerState 0xFFFF 0 0 0 ++ powerState 0xFFFF 0 50 50 ++ powerState 25000 0 1000 2000 ++ powerState 6000 0 20000 40000
    ++ powerState 1800 2 200000 400000

/-- The Identify Controller data. -/
def identifyController : List Byte :=
  overlay (openBytes 1 4096) [(77, [0#8]), (80, toLe 4 0x00020100), (256, toLe 2 0x0002), (262, [255#8]), (263, [4#8]),
    (265, [1#8]), (328, toLe 4 1), (512, [0x66#8, 0x44#8]), (516, toLe 4 4096), (520, toLe 2 0x000C), (522, toLe 2 0),
    (524, [4#8, 0#8]), (2048, powerStates)]

/-- The Identify Namespace data (R372, R374, R375). -/
def identifyNamespace (q : Part) : List Byte :=
  let n := toLe 8 (listAt q.quota 7 / lbaSize q)
  overlay (openBytes 0 4096) [(0, n ++ n), (25, [1#8]), (26, toLe 1 q.lbaFmt), (27, zeros 3), (31, [0#8]), (33, [1#8]),
    (128, toLe 2 0 ++ [12#8] ++ zeros 1 ++ toLe 2 0 ++ [14#8] ++ zeros 1)]

/-- Namespaces that exist, above a number, in rising order. -/
def namespaceList (s : State) (above : Nat) : List Byte :=
  sub ((s.life.filter fun e => nsidOf e.1 > above).flatMap fun e => toLe 4 (nsidOf e.1)) 0 4096

/-- A namespace that exists. -/
def nsExists (s : State) (nsid : Nat) : Bool := 1 ≤ nsid && nsid ≤ 4096 && aHas s.life (nsid - 1)

/-! Logs (R404 to R407) -/

def maxTj (s : State) : Nat :=
  listMax (((List.range 8).filter (standPresent s)).map fun i => getF s (standBase i + Reg.STAND_TJ) Fld.STAND_TJ_tj_max)

def spare (s : State) : Nat := 100 * (1024 - getF s Reg.FTL_SB Fld.FTL_SB_retired) / 1024

/-- Percentage Used: the mean erase count of the QLC blocks that serve, against the rated count. -/
def percentUsed (s : State) : Nat :=
  let l := s.ftl.blocks.filter fun e => e.1 % 2 ^ 14 ≥ 256
  min 255 ((l.map (·.2.erases)).sum * 100 / (24960 / 8 * 4 * 1024) / max 1 Config.ratedErases)

/-- A stand's temperature is at or above the throttle threshold (R405 bit 1; notes/assumptions/30.md). -/
def tooHot (s : State) : Bool := decide (maxTj s ≥ getF s Reg.PWR_TEMP Fld.PWR_TEMP_throttle)

def criticalWarning (s : State) : Nat :=
  (if spare s < 10 then 1 else 0) + (if tooHot s then 2 else 0)
    + (if getF s Reg.FTL_STAT Fld.FTL_STAT_redund ≠ 0 then 4 else 0) + (if writeProtected s then 8 else 0)
    + (if getF s Reg.FTL_HOLDUP Fld.FTL_HOLDUP_result = 2 then 16 else 0)

def smartLog (s : State) : List Byte :=
  overlay (openBytes 2 512) [(0, toLe 1 (criticalWarning s)), (1, toLe 2 (maxTj s + 273)), (3, toLe 1 (spare s)), (4, [10#8]),
    (5, toLe 1 (percentUsed s)), (160, toLe 16 s.host.mediaErrors),
    (176, toLe 16 (match s.host.errorLog.getLast? with | some e => e.1 | none => 0))]

def errorEntry (e : Nat × Nat × Nat) : List Byte :=
  toLe 8 e.1 ++ toLe 2 (e.2.1 / 65536) ++ toLe 2 (e.2.1 % 65536) ++ toLe 2 e.2.2 ++ zeros 50

/-- The Error Information log, the newest entry first. -/
def errorInfoLog (s : State) : List Byte := sub (s.host.errorLog.reverse.flatMap errorEntry) 0 16384

/-- Commands Supported and Effects: bit 0 for each opcode supported. -/
def effectsLog : List Byte :=
  let entry := fun (admin : Bool) (op : Nat) =>
    if supported admin op then toLe 4 (leAt (openBytes (0x10000 + (if admin then 256 else 0) + op) 4) 0 4 / 2 * 2 + 1) else zeros 4
  (List.range 256).flatMap (entry true) ++ (List.range 256).flatMap (entry false) ++ zeros 2048

def sanitizeLog (s : State) : List Byte :=
  overlay (openBytes 5 512) [(0, if s.host.sanitizing then openBytes 6 2 else toLe 2 0xFFFF), (2, toLe 2 s.host.sanitize)]

def deferredLog (q : Part) : List Byte :=
  toLe 2 q.undurable.length ++ toLe 1 (if q.undurableOver then 1 else 0) ++ zeros 61
    ++ q.undurable.flatMap fun e => toLe 8 e.first ++ toLe 8 e.count ++ toLe 1 e.cause ++ zeros 7 ++ toLe 8 e.stamp

def blocksOf (t : AMap (List Nat)) (d : Nat) : List Nat := (aGetD t d []).foldr insertNat []

/-- A bad-block log (R406). -/
def badBlockLog (ch : Nat) (t : AMap (List Nat)) : List Byte :=
  sub (toLe 1 (ch / 16) ++ toLe 1 (ch % 16) ++ (List.range 8).flatMap fun d => toLe 2 (blocksOf t d).length) 0 64
    ++ (List.range 8).flatMap fun d => (blocksOf t d).flatMap fun b => toLe 4 (d * 2 ^ 29 + b)

/-- An event record (R516). -/
def eventBytes (e : EventRec) : List Byte :=
  toLe 8 e.stamp ++ toLe 8 e.seq ++ toLe 2 e.code ++ toLe 2 (e.partition % 4096) ++ toLe 4 e.blk ++ toLe 1 e.flags ++ zeros 7
    ++ toLe 8 e.arg0 ++ toLe 8 e.arg1 ++ zeros 16

def unreadEvents (s : State) : List EventRec := s.ras.log.filter (·.unread)

/-- Records of a log whose entries of n bytes follow a 64-byte header, wholly inside the bytes read: first, count. -/
def inWindowRead (n off len : Nat) : Nat × Nat :=
  let first := (off - 64 + n - 1) / n
  let last := (off + len - 64) / n
  (first, last - first)

/-- The event log as Get Log Page returns it (R519). -/
def eventLog (s : State) (off len : Nat) : List Byte :=
  let l := unreadEvents s
  let (a, n) := inWindowRead 64 off len
  let first := match ((l.drop a).take n).head? with | some e => e.seq | none => 0
  toLe 4 l.length ++ toLe 4 (regGet s Reg.RAS_EVLOG_LOST).toNat ++ toLe 8 first ++ zeros 48 ++ l.flatMap eventBytes

def ceBytes (e : Option CeEntry) : List Byte :=
  match e with
  | none => zeros 32
  | some x => toLe 8 x.loc ++ toLe 4 x.count
      ++ toLe 1 (1 + (if x.test then 2 else 0) + (if x.thresh then 4 else 0)) ++ zeros 3 ++ toLe 8 x.first ++ toLe 8 x.latest

/-- Log C4h (R493). -/
def ceLog (ce : List (Option CeEntry)) : List Byte :=
  toLe 2 (ce.filterMap id).length ++ zeros 62 ++ ce.flatMap ceBytes

/-- Put zeros up to a multiple of 4 KiB. -/
def pad4k (l : List Byte) : List Byte := l ++ zeros ((4096 - l.length % 4096) % 4096)

/-- The pages of a dump's first section: each 64-byte prefix and its 4 KiB. -/
def dumpPages (d : Dump) : List Byte :=
  ((d.regs.map fun e => e.1 / 4096).dedup.foldr insertNat []).flatMap fun p =>
    toLe 8 (p * 4096) ++ zeros 56 ++ (List.range 1024).flatMap fun i =>
      toLe 4 (match d.regs.find? fun e => e.1 == p * 4096 + 4 * i with | some e => e.2 | none => 0)

/-- A dump's sections in type order. -/
def dumpSections (d : Dump) : List (List Byte) :=
  [dumpPages d, d.log.flatMap eventBytes, d.records.flatMap progBytes, d.window.flatMap (·.2), d.poison.flatMap (toLe 8), ceLog d.ce]

/-- The section entries of a slot header: type, offset, length. -/
def sectionTable : Nat → Nat → List (List Byte) → List Byte
  | _, _, [] => []
  | ty, off, l :: r => toLe 4 ty ++ zeros 4 ++ toLe 8 off ++ toLe 8 l.length ++ zeros 8 ++ sectionTable (ty + 1) (off + (pad4k l).length) r

/-- A dump slot (R513), empty space after its sections reading zero. -/
def slotBytes (x : DumpSlot) : List Byte :=
  match x.dump with
  | none => [0x44#8, 0x55#8, 0x4D#8, 0x50#8] ++ toLe 2 1 ++ toLe 1 x.state ++ zeros 4089
  | some d =>
    [0x44#8, 0x55#8, 0x4D#8, 0x50#8] ++ toLe 2 1 ++ toLe 1 x.state ++ zeros 1 ++ toLe 8 d.seq ++ toLe 2 d.code ++ zeros 6
      ++ toLe 8 d.stamp ++ toLe 4 d.coldStarts ++ zeros 28 ++ sectionTable 1 4096 (dumpSections d) ++ zeros 3840
      ++ (dumpSections d).flatMap pad4k

/-- Log C6h (R407). -/
def countLog (s : State) : List Byte :=
  (List.range 4096).flatMap fun p =>
    let q := getPart s p
    toLe 8 q.submitted ++ toLe 8 q.completed ++ toLe 8 q.failed ++ zeros 8

/-- A log and its length: identifier, namespace, log specific identifier, the bytes read. -/
def logOf (s : State) (lid nsid lsi off len : Nat) : Status × List Byte × Nat :=
  let whole := fun (l : List Byte) => (stSuccess, l, l.length)
  if s.power.safe ∧ !([0x01, 0x02, 0xC3, 0xC5].contains lid) then (stLogPage, [], 0)
  else if lid = 0x01 then whole (errorInfoLog s)
  else if lid = 0x02 then whole (smartLog s)
  else if lid = 0x04 then whole (sub (s.host.changedNs.flatMap (toLe 4)) 0 4096)
  else if lid = 0x05 then whole effectsLog
  else if lid = 0x81 then whole (sanitizeLog s)
  else if lid = 0xC0 then (if nsExists s nsid then whole (deferredLog (getPart s (nsid - 1))) else (stInvalidNs, [], 0))
  else if lid = 0xC1 ∨ lid = 0xC2 then
    if lsi ≥ 128 ∨ !standPresent s (lsi / 16) then (stInvalidField, [], 0)
    else whole (badBlockLog lsi (if lid = 0xC1 then (getChan s lsi).factory else (getChan s lsi).grown))
  else if lid = 0xC3 then whole (eventLog s off len)
  else if lid = 0xC4 then whole (ceLog s.ras.ce)
  else if lid = 0xC5 then
    (match s.ras.slots[lsi]? with | some x => (stSuccess, slotBytes x, 2 ^ 32) | none => (stInvalidField, [], 0))
  else if lid = 0xC6 then whole (countLog s)
  else (stLogPage, [], 0)

/-- What a read with LSP bit 0 clears (R396, R493, R519), and what a read without Retain Asynchronous Event clears. -/
def afterLog (s : State) (lid nsid off len : Nat) (clear retain : Bool) : State :=
  let s1 :=
    if !clear then s
    else if lid = 0xC0 then
      updPart s (nsid - 1) fun q =>
        let (a, n) := inWindowRead 32 off len
        { q with undurable := q.undurable.take a ++ q.undurable.drop (a + n), undurableOver := false }
    else if lid = 0xC3 then
      let (a, n) := inWindowRead 64 off len
      let seqs := (((unreadEvents s).drop a).take n).map (·.seq)
      { s with ras := { s.ras with log := s.ras.log.map fun e => if seqs.contains e.seq then { e with unread := false } else e } }
    else if lid = 0xC4 then { s with ras := { s.ras with ce := List.replicate 32 none } }
    else s
  let s2 := if retain then s1
    else { s1 with host := { s1.host with
      changedNs := if lid = 0x04 then [] else s1.host.changedNs
      heldAens := s1.host.heldAens.filter fun e => aenLog e.1 e.2 != lid } }
  if lid = 0xC3 ∧ unreadCount s2.ras > 0 then aen s2 7 1 else s2

/-! Features (R402) -/

/-- Entry i of the APST table: the state to enter in bits 7 to 3, the idle time in ms in bits 31 to 8. -/
def apstWord (h : HostIf) (i : Nat) : Nat :=
  aGetD h.features (0xC00 + i) (if i ≤ 1 then 200 * 256 + 2 * 8 else if i = 2 then 30000 * 256 + 3 * 8 else 0)

def apstTable (h : HostIf) : List Byte := (List.range 32).flatMap fun i => toLe 8 (apstWord h i)

/-- Features that keep the dword they are set to. -/
def plainFeature (f : Nat) : Bool := [0x01, 0x04, 0x05, 0x08, 0x0A, 0x0B, 0x10, 0x11].contains f

def setFeature (s : State) (k v : Nat) : State := { s with host := { s.host with features := aPut s.host.features k v } }

/-- Set Features of power management: PS0 is entered at once, another state by its POWER_STATE_ENTRY (R402, R483). -/
def setPower (s : State) (ps : Nat) : State :=
  if ps = 0 then
    let s1 := wakeUp s
    applyCapMeasured { s1 with power := { s1.power with ps := 0, lastOperational := 0, wanted := none } }
  else { s with power := { s.power with wanted := some ps } }

/-! Namespaces erased (R376, R377, R435) -/

/-- The place of a map index in the concatenation of ranges. -/
def unitOfIdx : List (Nat × Nat) → Nat → Option Nat
  | [], _ => none
  | (a, n) :: r, i => if a ≤ i ∧ i < a + n then some (i - a) else (unitOfIdx r i).map (· + n)

/-- Units of the home ranges of a partition's live adapters (R335). -/
def homeRanges (s : State) (p : Nat) : List (Nat × Nat) :=
  (s.adapters.filter fun e => e.2.partition == p).map fun e => (e.2.home / unitSize, unitsFor e.2.size)

def isHomeUnit (s : State) (p u : Nat) : Bool := inRanges (homeRanges s p) u

/-- Set every data unit of a namespace outside the adapters' homes to unmapped; buffered ones are discarded, as undurable
where the namespace is crypto-erased. -/
def emptyNamespace (s : State) (p : Nat) (crypto : Bool) : State :=
  let q := getPart s p
  let s1 := if crypto then
      (s.ftl.buf.filter fun b => b.partition == p && b.kind == 0 && !isHomeUnit s p b.unit).foldl (fun s b => dropBuffered s b false 3) s
    else s
  let us := (s1.ftl.map.filterMap fun e => unitOfIdx q.ranges e.1)
    ++ (s1.ftl.buf.filter fun b => b.partition == p && b.kind == 0).map (·.unit)
  (us.dedup.filter fun u => !isHomeUnit s p u).foldl (fun s u => unmapUnit s p u) s1

/-- Erase a partition's data slot (R435). -/
def eraseDataSlot (s : State) (p : Nat) : State :=
  refreshKeySlots (updPart s p fun q => { q with dataKey := none }) p false

/-- COMMONS_STAT.model becomes 0 and the digest registers zero (R262). -/
def unmeasure (s : State) : State :=
  (List.range 16).foldl (fun s i => setReg s (Reg.COMMONS_MODEL_DIGEST + 4 * i) 0) (setF s Reg.COMMONS_STAT Fld.COMMONS_STAT_model 0)

/-- The commons model set may not change (R261). -/
def modelFrozen (s : State) : Bool := getF s Reg.COMMONS_STAT Fld.COMMONS_STAT_model != 0

end Sys2Proof.Machine
end

