-- ==== Sys2Proof/Machine/NvmeAdmin.lean ====
section
/-! DEFINITION. The meanings of the NVMe admin commands (R372 to R377, R393, R402 to R408). -/

namespace Sys2Proof.Machine

/-! IDENTIFY -/

def identifyCmd (c : Cmd) (s : State) : State × Option Reply :=
  let cns := bitsOf c.cdw10.toNat 7 0
  if cns = 1 then (s, some (replyData 0 identifyController))
  else if cns = 0 then
    (if nsExists s c.nsid then (s, some (replyData 0 (identifyNamespace (getPart s (c.nsid - 1))))) else fail s stInvalidNs)
  else if cns = 2 ∨ cns = 7 then (s, some (replyData 0 (namespaceList s c.nsid)))
  else if cns = 3 ∨ cns = 5 ∨ cns = 8 then
    (if nsExists s c.nsid then (s, some (replyData 0 (openBytes (256 + cns) 4096))) else fail s stInvalidNs)
  else if cns = 6 ∨ cns = 0x1C then (s, some (replyData 0 (openBytes (256 + cns) 4096)))
  else fail s stInvalidField

def execIdentify (c : Cmd) (s : State) : Host.Outcome State Fault Refusal := runCmd c 0x06 (identifyCmd c) s

/-! GET_FEATURES and SET_FEATURES -/

/-- 65,535 I/O queues of each kind, counted from zero. -/
def queueCount : Nat := 65534 + 65534 * 65536

/-- The value of a feature: dword 0 and the data. -/
def featureValue (s : State) (h : HostIf) (f sel arg : Nat) : Option (Nat × List Byte) :=
  if sel = 3 then (if f = 0x02 ∨ f = 0x07 ∨ f = 0x09 ∨ f = 0x0C ∨ plainFeature f then some (4, []) else none)
  else if f = 0x02 then some (if sel = 0 then s.power.ps else 0, [])
  else if f = 0x07 then some (queueCount, [])
  else if f = 0x0C then some (aGetD h.features 0x0C 1, apstTable h)
  else if f = 0x09 then (if arg > 2047 then none else some (arg + bitsOf (aGetD h.features (0x900 + arg) 0) 16 16 * 65536, []))
  else if plainFeature f then some (aGetD h.features f 0, [])
  else none

def getFeatures (c : Cmd) (s : State) : State × Option Reply :=
  let sel := bitsOf c.cdw10.toNat 10 8
  let h := if sel = 0 then s.host else HostIf.blank
  if sel > 3 then fail s stInvalidField
  else match featureValue s h (bitsOf c.cdw10.toNat 7 0) sel (bitsOf c.cdw11.toNat 15 0) with
    | some (d, l) => (s, some (replyData d l))
    | none => fail s stInvalidField

def execGetFeatures (c : Cmd) (s : State) : Host.Outcome State Fault Refusal := runCmd c 0x0A (getFeatures c) s

/-- Set the table of autonomous transitions. -/
def setApst (s : State) (v : Nat) (buf : List Byte) : State :=
  (List.range 32).foldl (fun s i => setFeature s (0xC00 + i) (leAt buf (8 * i) 8)) (setFeature s 0x0C (v % 2))

def setFeatures (c : Cmd) (s : State) : State × Option Reply :=
  let f := bitsOf c.cdw10.toNat 7 0
  let v := c.cdw11.toNat
  if bitOf c.cdw10.toNat 31 then fail s stFeatureSave
  else if f = 0x02 then (if v % 32 > 4 then fail s stInvalidField else done (setPower s (v % 32)) 0)
  else if f = 0x07 then
    (if bitsOf v 15 0 = 65535 ∨ bitsOf v 31 16 = 65535 then fail s stInvalidField
     else if ioQueues s.host.sqs + ioQueues s.host.cqs > 0 then fail s stSequence
     else done s queueCount)
  else if f = 0x0C then done (setApst s v c.buf) 0
  else if f = 0x09 then
    (if bitsOf v 15 0 > 2047 then fail s stInvalidField else done (setFeature s (0x900 + bitsOf v 15 0) (bitsOf v 16 16 * 65536)) 0)
  else if plainFeature f then done (setFeature s f v) 0
  else fail s stInvalidField

def execSetFeatures (c : Cmd) (s : State) : Host.Outcome State Fault Refusal := runCmd c 0x09 (setFeatures c) s

/-! GET_LOG_PAGE -/

def getLogPage (c : Cmd) (s : State) : State × Option Reply :=
  let w := c.cdw10.toNat
  let lid := bitsOf w 7 0
  let len := (bitsOf w 31 16 + bitsOf c.cdw11.toNat 15 0 * 65536 + 1) * 4
  let off := c.cdw12.toNat + c.cdw13.toNat * 2 ^ 32
  let (st, l, n) := logOf s lid c.nsid (bitsOf c.cdw11.toNat 31 16) off len
  if st ≠ stSuccess then fail s st
  else if off > n ∨ off % 4 ≠ 0 then fail s stInvalidField
  else (afterLog s lid c.nsid off len (bitOf w 8) (bitOf w 15), some (replyData 0 (sub l off len)))

def execGetLogPage (c : Cmd) (s : State) : Host.Outcome State Fault Refusal := runCmd c 0x02 (getLogPage c) s

/-! I/O queues -/

def badQid (q : Nat) : Bool := q == 0 || decide (q > 65535)

def createSq (c : Cmd) (s : State) : State × Option Reply :=
  let qid := bitsOf c.cdw10.toNat 15 0
  let size := bitsOf c.cdw10.toNat 31 16
  let cq := bitsOf c.cdw11.toNat 31 16
  guards s [(badQid qid || aHas s.host.sqs qid, stQueueId), (cq == 0 || !aHas s.host.cqs cq, stCqInvalid),
      (size == 0 || decide (size > 4095), stQueueSize), (!bitOf c.cdw11.toNat 0, stInvalidField)] fun _ =>
    done { s with host := { s.host with sqs := aPut s.host.sqs qid { size := size + 1, cqid := cq, tail := 0, head := 0 } } } 0

def execCreateIoSubmissionQueue (c : Cmd) (s : State) : Host.Outcome State Fault Refusal := runCmd c 0x01 (createSq c) s

def createCq (c : Cmd) (s : State) : State × Option Reply :=
  let qid := bitsOf c.cdw10.toNat 15 0
  let size := bitsOf c.cdw10.toNat 31 16
  let iv := bitsOf c.cdw11.toNat 31 16
  guards s [(badQid qid || aHas s.host.cqs qid, stQueueId), (size == 0 || decide (size > 4095), stQueueSize),
      (decide (iv > 2047), stVector), (!bitOf c.cdw11.toNat 0, stInvalidField)] fun _ =>
    done { s with host := { s.host with
      cqs := aPut s.host.cqs qid { size := size + 1, vector := iv, irq := bitOf c.cdw11.toNat 1, tail := 0, head := 0 } } } 0

def execCreateIoCompletionQueue (c : Cmd) (s : State) : Host.Outcome State Fault Refusal := runCmd c 0x05 (createCq c) s

/-- Command Aborted due to SQ Deletion (NVMe). -/
def stSqDeleted : Status := ⟨0, 0x08⟩

def deleteSq (c : Cmd) (s : State) : State × Option Reply :=
  let qid := bitsOf c.cdw10.toNat 15 0
  guards s [(badQid qid || !aHas s.host.sqs qid, stQueueId)] fun _ =>
    let s1 := abortAll s (fun o => o.cmd.sqid == qid) stSqDeleted
    done { s1 with host := { s1.host with sqs := aDel s1.host.sqs qid } } 0

def execDeleteIoSubmissionQueue (c : Cmd) (s : State) : Host.Outcome State Fault Refusal := runCmd c 0x00 (deleteSq c) s

def deleteCq (c : Cmd) (s : State) : State × Option Reply :=
  let qid := bitsOf c.cdw10.toNat 15 0
  guards s [(badQid qid || !aHas s.host.cqs qid, stQueueId), (s.host.sqs.any fun e => e.2.cqid == qid, stQueueDelete)] fun _ =>
    done { s with host := { s.host with cqs := aDel s.host.cqs qid } } 0

def execDeleteIoCompletionQueue (c : Cmd) (s : State) : Host.Outcome State Fault Refusal := runCmd c 0x04 (deleteCq c) s

/-! ABORT (R393) -/

/-- The status an aborted command takes and its effect: a vendor command's day ends uncommitted; an NVM command stops where
its committed units end; an event request is taken back. -/
def abortCmd (c : Cmd) (s : State) : State × Option Reply :=
  let sqid := bitsOf c.cdw10.toNat 15 0
  let cid := bitsOf c.cdw10.toNat 31 16
  match findOut s sqid cid with
  | none => done s 1
  | some _ =>
    if sqid = c.sqid ∧ cid = c.cid then done s 1
    else
      let s1 := { s with host := { s.host with aers := s.host.aers.filter fun a => !(a.1 == sqid && a.2 == cid) } }
      done (abortAt s1 sqid cid stAborted) 0

def execAbort (c : Cmd) (s : State) : Host.Outcome State Fault Refusal := runCmd c 0x08 (abortCmd c) s

/-! ASYNCHRONOUS_EVENT_REQUEST (R408) -/

/-- The request waits for an event, or takes the oldest one that is held. -/
def eventRequest (c : Cmd) (s : State) : State × Option Reply :=
  match s.host.heldAens with
  | (ty, info) :: rest =>
    ({ s with host := { s.host with heldAens := rest } }, some (replyDw stSuccess (ty + info * 256 + aenLog ty info * 65536)))
  | [] => ({ s with host := { s.host with aers := s.host.aers ++ [(c.sqid, c.cid)] } }, none)

def execAsynchronousEventRequest (c : Cmd) (s : State) : Host.Outcome State Fault Refusal := runCmd c 0x0C (eventRequest c) s

/-! FORMAT_NVM (R376, R435) -/

/-- A command to the namespace is outstanding, another than this one, or a job of its partition is bound. -/
def namespaceBusy (s : State) (p sqid cid : Nat) : Bool :=
  (s.host.outstanding.any fun o => o.part == some p && !(o.cmd.sqid == sqid && o.cmd.cid == cid))
    || s.jobs.any fun e => e.2.partition == p && e.2.isBound

def formatCmd (c : Cmd) (s : State) : State × Option Reply :=
  let w := c.cdw10.toNat
  let lbaf := bitsOf w 3 0 + bitsOf w 13 12 * 16
  let ses := bitsOf w 11 9
  let p := c.nsid - 1
  guards s [(!nsExists s c.nsid, stInvalidNs), (bitsOf w 8 4 != 0 || bitsOf w 31 14 != 0 || !(ses == 0 || ses == 2), stInvalidField),
      (decide (lbaf > 1) || listAt (getPart s p).quota 7 % (if lbaf = 1 then 16384 else 4096) != 0, stFormat),
      (namespaceBusy s p c.sqid c.cid || partHeld s p, stSequence), (p == 4095 && modelFrozen s || writeProtected s, stWriteProtected)] fun _ =>
    let s1 := emptyNamespace s p (ses == 2)
    let s2 := if ses = 2 then eraseDataSlot s1 p else s1
    done (updPart s2 p fun q => { q with lbaFmt := lbaf }) 0

def execFormatNvm (c : Cmd) (s : State) : Host.Outcome State Fault Refusal := runCmd c 0x80 (formatCmd c) s

/-! SANITIZE (R377, R435) -/

/-- Release every tenant partition with full scrub. -/
def releaseTenants (s : State) (sqid cid : Nat) : State :=
  ((s.life.filter fun e => e.1 != 0 && e.1 != 4095).map (·.1)).foldl (fun s p => releaseAll s p true sqid cid) s

/-- A sanitize begins: it ends when every block that held a unit has been erased; grown-bad blocks never are. -/
def startSanitize (s : State) (sqid cid : Nat) : State :=
  let blocks := ((s.ftl.pages.map fun e => blockKey e.1).dedup).filter fun k => !isGrown s k && dieUp s (addrChan (k * 4096)) (addrDie (k * 4096))
  let s1 := releaseTenants s sqid cid
  let s2 := unmeasure (emptyNamespace (emptyNamespace s1 0 true) 4095 true)
  let s3 := blocks.foldl (fun s k => updBlock s k fun b => { b with needErase := true }) (eraseDataSlot (eraseDataSlot s2 0) 4095)
  let s4 := { s3 with ftl := { s3.ftl with
      opened := [], sbs := s3.ftl.sbs.map fun e => (e.1, if e.2.state ≤ 2 then { e.2 with state := 4, nextSlot := 0 } else e.2) } }
  let s5 := flashSettle s4
  { s5 with host := { s5.host with
      sanitizing := !blocks.isEmpty, sanitizeBlocks := blocks, sanitize := if blocks.isEmpty then 1 else 2 } }

def sanitizeCmd (c : Cmd) (s : State) : State × Option Reply :=
  let act := bitsOf c.cdw10.toNat 2 0
  if act = 1 then done s 0
  else guards s [(act != 4, stInvalidField), (s.host.sanitizing, stSanitize)] fun _ => done (startSanitize s c.sqid c.cid) 0

def execSanitize (c : Cmd) (s : State) : Host.Outcome State Fault Refusal := runCmd c 0x84 (sanitizeCmd c) s

end Sys2Proof.Machine
end

