-- ==== Sys2Proof/Machine/Nvm.lean ====
section
/-! DEFINITION. The NVM commands: reads, writes, flushes, zeroing, and the grant of write-buffer slots (R232, R238 to
R240, R375, R398, R459). -/

namespace Sys2Proof.Machine

/-! Ranges -/

def slbaOf (c : Cmd) : Nat := c.cdw10.toNat + c.cdw11.toNat * 2 ^ 32
/-- LBAs of a Read, a Write or a Write Zeroes: a 0's based count. -/
def nlbOf (c : Cmd) : Nat := bitsOf c.cdw12.toNat 15 0 + 1

/-- LBAs of a namespace. -/
def nsLbas (q : Part) : Nat := listAt q.quota 7 / lbaSize q

/-- A byte range of a namespace meets one of the unit ranges. -/
def meetsUnits (l : List (Nat × Nat)) (off len : Nat) : Bool :=
  l.any fun r => decide (off < (r.1 + r.2) * unitSize) && decide (r.1 * unitSize < off + len)

/-- The fragment store's range in namespace 1 (R458). -/
def meetsStore (s : State) (p off len : Nat) : Bool :=
  match repl s with
  | none => false
  | some r => p == 0 && decide (off < r.storeOff + r.storeLen) && decide (r.storeOff < off + len)

/-- A range of an extent of partition 4,095 while its model is measured (R261). -/
def meetsFrozen (s : State) (p off len : Nat) : Bool :=
  p == 4095 && modelFrozen s
    && (getPart s p).extents.any fun e => decide (off < e.2.offset + e.2.length) && decide (e.2.offset < off + len)

/-- A range that a write may not change (R237, R261, R335, R458). -/
def rangeProtected (s : State) (p off len : Nat) : Bool :=
  writeProtected s || meetsUnits (homeRanges s p) off len || meetsFrozen s p off len || meetsStore s p off len

/-- The units that a byte range touches. -/
def unitsTouched (off len : Nat) : List Nat :=
  (List.range ((off + len + unitSize - 1) / unitSize - off / unitSize)).map (off / unitSize + ·)

/-- A unit of the range waits for the map share of a lost stand (R252). -/
def waitsForShare (s : State) (p off len : Nat) : Bool :=
  s.ftl.shareWaiting && (unitsTouched off len).any fun u => match unitIdx s p u with | some i => inLostShare s i | none => false

/-- A command that cannot start yet stays outstanding: its row comes again. -/
def holdCmd (s : State) (c : Cmd) : State × Option Reply := (updOut s c.sqid c.cid fun o => { o with started := false }, none)

/-! Forest degraded reads (R459) -/

/-- Rebuild a poisoned unit of a protected namespace from eight of the other ten fragments, checked against a ninth
where one is available, and write it back. Answers whether that succeeded. -/
def forestRead (s : State) (p u idx : Nat) : State × Bool :=
  match repl s with
  | none => (s, false)
  | some r =>
    match protectedNo s r p u with
    | none => (s, false)
    | some n =>
      if n ≥ r.units then (s, false)
      else
        let d := selfSlot s r
        let t := stripeOf d n
        let up := (List.range 11).filter fun k => k != d && (peersUp s).contains (r.slots.getD k 0)
        let frag := fun k => sub (Config.fragment s.fresh t k) 0 16384
        let frs := (up.take 8).map fun k => (k, frag k)
        let s1 := { s with fresh := s.fresh + 1 }
        let checked := match up[8]? with | some k => rebuildFragment t k frs == frag k | none => true
        if up.length < 8 ∨ !checked then (bump s1 Reg.FOREST_EC_POISON 1, false)
        else
          let v : UnitVal := { bytes := bOfList (rebuildFragment t d frs), form := 0, key := 0, nonce := 0 }
          let (s2, o) := enterUnit s1 p u idx 0 0 v
          let s3 := { s2 with ftl := { s2.ftl with buf := s2.ftl.buf.map fun b => if b.order = o then { b with rebuilt := true } else b } }
          (bump (staleCopy s3 p (u / 4)) Reg.FOREST_EC_READS 1, true)

/-- Rebuild the poisoned units of a range, where that can be done. -/
def forestReads (s : State) (p off len : Nat) : State :=
  (unitsTouched off len).foldl (fun s u =>
    match unitIdx s p u with
    | some i => if readUnit s i == .poisoned then (forestRead s p u i).1 else s
    | none => s) s

/-! NVM_READ (R232, R398, R497) -/

/-- Bytes of a range as a read without keys finds them. -/
def rangeBytes (s : State) (p off len : Nat) : List Byte :=
  let us := unitsTouched off len
  let all := us.flatMap fun u => match (unitIdx s p u).bind (unitVal s ·) with | some v => unitBytes v | none => zeros unitSize
  sub all (off % unitSize) len

/-- The first poisoned unit of a range. -/
def firstPoisoned (s : State) (p off len : Nat) : Option Nat :=
  (unitsTouched off len).find? fun u => match unitIdx s p u with | some i => readUnit s i == .poisoned | none => false

/-- LBAs of a range that lie before a unit. -/
def lbasBefore (lba off u : Nat) : Nat := (u * unitSize - off) / lba

/-- A read that met a poisoned unit: its record counts the LBAs before it (R497). -/
def poisonedReply (s : State) (sqid cid lbas : Nat) : State :=
  let s1 := updProg s sqid cid fun r => { r with units := lbas }
  { s1 with host := { s1.host with mediaErrors := s1.host.mediaErrors + 1 } }

def readCmd (c : Cmd) (s : State) : State × Option Reply :=
  let p := c.nsid - 1
  let lba := lbaSize (getPart s p)
  let off := slbaOf c * lba
  let len := nlbOf c * lba
  guards s [(!nsExists s c.nsid, stInvalidNs), (decide (slbaOf c + nlbOf c > nsLbas (getPart s p)), stLbaRange)] fun _ =>
    if waitsForShare s p off len then holdCmd s c
    else
      let s0 := forestReads s p off len
      match firstPoisoned s0 p off len with
      | some u => fail (poisonedReply s0 c.sqid c.cid (lbasBefore lba off u)) stPoisoned
      | none =>
        let s1 := updProg s0 c.sqid c.cid fun r => { r with units := nlbOf c }
        let flash := (unitsTouched off len).filterMap fun u =>
          match (unitIdx s1 p u).map fun i => (i, readUnit s1 i) with
          | some (i, .flash _ a) => some (u, i, a)
          | _ => none
        let data := rangeBytes s1 p off len
        if flash.isEmpty then (s1, some (replyData 0 data))
        else
          let id := match s1.ftl.reads.getLast? with | some e => e.1 + 1 | none => 1
          let (s2, waits) := flash.foldl (fun (acc : State × List (Nat × Nat)) x =>
            let s' := startAccess acc.1 false 0 id x.2.1 x.2.2
            (s', acc.2 ++ [((s'.ftl.accesses.getLast?.map (·.1)).getD 0, lbasBefore lba off x.1)])) (s1, [])
          let w : ReadWait := { sqid := c.sqid, cid := c.cid, data := data, waits := waits, poisonedAt := none }
          ({ s2 with ftl := { s2.ftl with reads := aPut s2.ftl.reads id w } }, none)

def execNvmRead (c : Cmd) (s : State) : Host.Outcome State Fault Refusal := runCmd c 0x02 (readCmd c) s

/-- Complete a host read once no media access of it is left. -/
def finishRead (s : State) (id : Nat) : State :=
  match aGet? s.ftl.reads id with
  | none => s
  | some w =>
    if !w.waits.isEmpty then s
    else
      let s1 := { s with ftl := { s.ftl with reads := aDel s.ftl.reads id } }
      match w.poisonedAt with
      | some n => completeAt (poisonedReply s1 w.sqid w.cid n) w.sqid w.cid (replySt stPoisoned)
      | none => completeAt s1 w.sqid w.cid (replyData 0 w.data)

/-- Put the rebuilt content of a unit into the data of a read. -/
def patchRead (s : State) (w : ReadWait) (c : Cmd) (lbas : Nat) : List Byte :=
  let p := c.nsid - 1
  let lba := lbaSize (getPart s p)
  let a := lbas * lba
  let n := min (w.data.length - a) (unitSize - (slbaOf c * lba + a) % unitSize)
  w.data.take a ++ rangeBytes s p (slbaOf c * lba + a) n ++ w.data.drop (a + n)

/-- A media access of a host read has ended: its unit is there, or is poisoned, which a forest degraded read may mend
(R232, R459). -/
def deliverRead (s : State) (id access : Nat) (ok : Bool) : State :=
  match aGet? s.ftl.reads id with
  | none => s
  | some w =>
    let lbas := ((w.waits.find? (·.1 == access)).map (·.2)).getD 0
    let left := w.waits.filter (·.1 != access)
    let put := fun (s : State) (w : ReadWait) => finishRead { s with ftl := { s.ftl with reads := aPut s.ftl.reads id w } } id
    if ok then put s { w with waits := left }
    else
      let bad := put s { w with waits := left, poisonedAt := some (match w.poisonedAt with | some n => min n lbas | none => lbas) }
      match findOut s w.sqid w.cid with
      | none => bad
      | some o =>
        let p := o.cmd.nsid - 1
        let u := (slbaOf o.cmd + lbas) * lbaSize (getPart s p) / unitSize
        match unitIdx s p u with
        | none => bad
        | some i =>
          let (s1, mended) := forestRead s p u i
          if mended then put s1 { w with waits := left, data := patchRead s1 w o.cmd lbas }
          else put s1 { w with waits := left, poisonedAt := some (match w.poisonedAt with | some n => min n lbas | none => lbas) }

/-! NVM_WRITE, BUFFER_SLOT_GRANTED (R238, R240) -/

def piecesLen (l : List (Nat × Nat × List Byte)) : Nat := (l.map fun x => x.2.2.length).sum

/-- A piece's unit is still to be written by a write that came earlier: the later one waits behind it (R240). -/
def behind (s : State) (p : Nat) (earlier : List WaitingWrite) (x : Nat × Nat × List Byte) : Bool :=
  (earlier.any fun w => w.partition == p && w.pieces.any fun y => y.1 == x.1)
    || (match unitIdx s p x.1 with | some i => inLostShare s i | none => false)

/-- Enter the pieces of a write in ascending order until one must wait or meets a poisoned unit (R232, R398): the state,
the versions entered, the pieces left, whether a poisoned unit stopped it. -/
def acceptPieces (p : Nat) (earlier : List WaitingWrite) : List (Nat × Nat × List Byte) → State → List Nat →
    State × List Nat × List (Nat × Nat × List Byte) × Bool
  | [], s, os => (s, os, [], false)
  | x :: r, s, os =>
    if behind s p earlier x then (s, os, x :: r, false)
    else if pieceBlocked s p x then (s, os, x :: r, true)
    else match enterPiece s p x with
      | none => (s, os, x :: r, false)
      | some (s1, o) => acceptPieces p earlier r (bumpPair s1 Reg.FTL_HOST_UNITS_LO 1) (os ++ [o])

/-- Go on with a write: acknowledged once every piece is in the buffer, or durable where it asks for that. The write's
record counts the LBAs entered. -/
def pushWrite (s : State) (w : WaitingWrite) (earlier : List WaitingWrite) : State :=
  let lba := lbaSize (getPart s w.partition)
  let (s1, os, left, bad) := acceptPieces w.partition earlier w.pieces s w.orders
  let s2 := updProg s1 w.sqid w.cid fun r => { r with units := r.units + (piecesLen w.pieces - piecesLen left) / lba }
  let gone := { s2 with ftl := { s2.ftl with waiting := s2.ftl.waiting.filter fun x => !(x.sqid == w.sqid && x.cid == w.cid) } }
  if bad then completeAt gone w.sqid w.cid (replySt stPoisoned)
  else if left.isEmpty then
    match findOut gone w.sqid w.cid with
    | none => gone
    | some o =>
      let ok : Reply := ⟨stSuccess, w.dw0, w.dw1, [], none⟩
      if w.durable ∨ bankWeak s then
        match whenDurable gone o.cmd os ok with
        | (s3, some r) => completeAt s3 w.sqid w.cid r
        | (s3, none) => s3
      else completeAt gone w.sqid w.cid ok
  else
    let w1 := { w with pieces := left, orders := os }
    let l := s2.ftl.waiting
    let l1 := if l.any fun x => x.sqid == w.sqid && x.cid == w.cid then
        l.map fun x => if x.sqid = w.sqid ∧ x.cid = w.cid then w1 else x
      else l ++ [w1]
    { s2 with ftl := { s2.ftl with waiting := l1 } }

/-- Begin a write of pieces, in whose order the translation layer takes them. -/
def beginWrite (s : State) (c : Cmd) (p : Nat) (pieces : List (Nat × Nat × List Byte)) (durable : Bool) : State :=
  pushWrite s { sqid := c.sqid, cid := c.cid, partition := p, pieces := pieces, orders := [], durable := durable,
                dw0 := 0, dw1 := 0 } s.ftl.waiting

def writeCmd (c : Cmd) (s : State) : State × Option Reply :=
  let p := c.nsid - 1
  let lba := lbaSize (getPart s p)
  let off := slbaOf c * lba
  let len := nlbOf c * lba
  let pieces := piecesOf off (sub c.buf 0 len)
  guards s [(!nsExists s c.nsid, stInvalidNs), (bitsOf c.cdw12.toNat 23 20 != 0, stInvalidField),
      (decide (slbaOf c + nlbOf c > nsLbas (getPart s p)), stLbaRange), (rangeProtected s p off len, stWriteProtected)] fun _ =>
    if waitsForShare s p off len then holdCmd s c
    else if pieces.any (pieceBlocked s p) then fail (poisonedReply s c.sqid c.cid 0) stPoisoned
    else (beginWrite s c p pieces c.durable, none)

def execNvmWrite (c : Cmd) (s : State) : Host.Outcome State Fault Refusal := runCmd c 0x01 (writeCmd c) s

/-- Writes that came before one. -/
def earlierWrites (s : State) (w : WaitingWrite) : List WaitingWrite :=
  s.ftl.waiting.takeWhile fun x => !(x.sqid == w.sqid && x.cid == w.cid)

def execBufferSlotGranted (sqid cid : Nat) (s : State) : Host.Outcome State Fault Refusal :=
  match s.ftl.waiting.find? fun w => w.sqid == sqid && w.cid == cid with
  | some w => .next (if serving s then pushWrite (assignSlots s) w (earlierWrites s w) else s)
  | none => .next s

/-! FLUSH (R240) -/

def flushCmd (c : Cmd) (s : State) : State × Option Reply :=
  let all := c.nsid == 0xFFFFFFFF
  guards s [(!all && !nsExists s c.nsid, stInvalidNs)] fun _ =>
    whenDurable s c ((s.ftl.buf.filter fun b => b.kind == 0 && (all || b.partition == c.nsid - 1)).map (·.order)) replyOk

def execFlush (c : Cmd) (s : State) : Host.Outcome State Fault Refusal := runCmd c 0x00 (flushCmd c) s

/-! WRITE_ZEROES, DATASET_MANAGEMENT (R375) -/

/-- The parts of a range: the units it covers whole, and the pieces of zeros of those it covers in part. -/
def zeroParts (off len : Nat) : List Nat × List (Nat × Nat × List Byte) :=
  let ps := piecesOf off (zeros len)
  ((ps.filter fun x => x.2.2.length == unitSize).map (·.1), ps.filter fun x => x.2.2.length != unitSize)

/-- Unmap the units of a range that it covers whole; the partial pieces, those of poisoned units left out. -/
def deallocate (s : State) (p off len : Nat) : State × List (Nat × Nat × List Byte) × Bool :=
  let (whole, part) := zeroParts off len
  let s1 := whole.foldl (fun s u => unmapUnit s p u) s
  (s1, part.filter fun x => !pieceBlocked s1 p x, part.any (pieceBlocked s1 p))

/-- A unit of the range is still to be written by a write that waits: the zeroing comes after it (R240). -/
def zeroWaits (s : State) (p off len : Nat) : Bool :=
  waitsForShare s p off len || (unitsTouched off len).any fun u => s.ftl.waiting.any fun w => w.partition == p && w.pieces.any (·.1 == u)

def zeroesCmd (c : Cmd) (s : State) : State × Option Reply :=
  let p := c.nsid - 1
  let lba := lbaSize (getPart s p)
  let off := slbaOf c * lba
  let len := nlbOf c * lba
  guards s [(!nsExists s c.nsid, stInvalidNs), (decide (slbaOf c + nlbOf c > nsLbas (getPart s p)), stLbaRange),
      (rangeProtected s p off len, stWriteProtected)] fun _ =>
    if zeroWaits s p off len then holdCmd s c
    else
      let (s1, pieces, bad) := deallocate s p off len
      let s2 := updProg s1 c.sqid c.cid fun r => { r with units := (len - piecesLen pieces) / lba }
      if bad then
        fail (poisonedReply (pieces.foldl (fun s x => (writeNow s p (x.1 * unitSize + x.2.1) x.2.2).1) s2) c.sqid c.cid
          (lbasBefore lba off ((((zeroParts off len).2.find? (pieceBlocked s p)).map (·.1)).getD 0))) stPoisoned
      else (beginWrite s2 c p pieces c.durable, none)

def execWriteZeroes (c : Cmd) (s : State) : Host.Outcome State Fault Refusal := runCmd c 0x08 (zeroesCmd c) s

/-- The ranges of a Dataset Management: starting LBA, length in LBAs. -/
def dsmRanges (c : Cmd) : List (Nat × Nat) :=
  (List.range (bitsOf c.cdw10.toNat 7 0 + 1)).map fun i => (leAt c.buf (16 * i + 8) 8, leAt c.buf (16 * i + 4) 4)

def dsmCmd (c : Cmd) (s : State) : State × Option Reply :=
  let p := c.nsid - 1
  let lba := lbaSize (getPart s p)
  let rs := dsmRanges c
  guards s [(!nsExists s c.nsid, stInvalidNs)] fun _ =>
    if !bitOf c.cdw11.toNat 2 then done s 0
    else
      guards s [(rs.any fun r => decide (r.1 + r.2 > nsLbas (getPart s p)), stLbaRange),
          (rs.any fun r => rangeProtected s p (r.1 * lba) (r.2 * lba), stWriteProtected)] fun _ =>
        if rs.any fun r => zeroWaits s p (r.1 * lba) (r.2 * lba) then holdCmd s c
        else
          let (s1, pieces) := rs.foldl (fun (acc : State × List (Nat × Nat × List Byte)) r =>
            let (s', ps, _) := deallocate acc.1 p (r.1 * lba) (r.2 * lba)
            (s', acc.2 ++ ps)) (s, [])
          let total := (rs.map (·.2)).sum
          let s2 := updProg s1 c.sqid c.cid fun r => { r with units := total - piecesLen pieces / lba }
          (beginWrite s2 c p pieces false, none)

def execDatasetManagement (c : Cmd) (s : State) : Host.Outcome State Fault Refusal := runCmd c 0x09 (dsmCmd c) s

end Sys2Proof.Machine
end

