-- ==== Sys2Proof/Machine/RangerOps.lean ====
section
/-! DEFINITION. The prefetch slots and the branch cache of a ranger, as searches use them (R223, R226, R227). -/

namespace Sys2Proof.Machine

/-- The prefetch slots of a ranger that a search read may take: 8 to 11, and those of 0 to 7 that no job holds (R223). -/
def searchSlots (s : State) (ch : Nat) : List Nat :=
  let held := s.mem.regions.filter fun r => r.live && locRanger ch ≤ r.start && r.start < locRanger ch + 524288
  (List.range 12).filter fun i => i ≥ 8 ||
    held.all fun r => decide (locRanger ch + (i + 1) * 65536 ≤ r.start) || decide (r.start + r.len ≤ locRanger ch + i * 65536)

/-- The page address that names a wide read: one page in the four blocks of a group (R226). -/
def wideAddr (a : Nat) : Nat := a / 16384 * 16384 + a % 4096

/-- The slots of a ranger that still hold search data. -/
def liveSlots (s : State) (ch : Nat) : List PfSlot := (getChan s ch).pf.filter fun x => (searchSlots s ch).contains x.slot

/-- A page is in a slot, for this partition and this graph version. -/
def slotHit (s : State) (part version addr : Nat) : Bool :=
  (liveSlots s (addrChan addr)).any fun x => x.partition == part && x.version == version && x.page == wideAddr addr

/-- A read served from its slot. -/
def useSlot (s : State) (part version addr : Nat) : State :=
  let ch := addrChan addr
  let touch := fun (x : PfSlot) => if x.partition = part ∧ x.version = version ∧ x.page = wideAddr addr then { x with lastUse := s.tb } else x
  bump (updChan s ch fun c => { c with pf := c.pf.map touch }) (rangerPage ch + Reg.RANGER_PF_HIT) 1

/-- A wide read has arrived: it takes a free slot, else the least recently used one. -/
def fillSlot (s : State) (part version addr : Nat) : State :=
  let ch := addrChan addr
  let l := (liveSlots s ch).filter fun x => !(x.partition == part && x.version == version && x.page == wideAddr addr)
  let free := (searchSlots s ch).filter fun i => l.all (·.slot != i)
  let oldest := l.foldl (fun (m : Option PfSlot) x => match m with | none => some x | some y => if x.lastUse < y.lastUse then some x else some y) none
  let i := match free.getLast?, oldest with | some i, _ => i | none, some x => x.slot | none, none => 8
  let x : PfSlot := { slot := i, partition := part, version := version, page := wideAddr addr, lastUse := s.tb }
  updChan s ch fun c => { c with pf := l.filter (·.slot != i) ++ [x] }

/-- The branch cache is enabled. -/
def branchOn (s : State) (ch : Nat) : Bool := getF s (rangerPage ch + Reg.RANGER_CTL) Fld.RANGER_CTL_bc_en == 1

/-- Look a node's list up: a line hits when partition, version and node match (R227). -/
def branchLookup (s : State) (ch part version node : Nat) : State × Bool :=
  let hit := fun (l : BranchLine) => l.partition == part && l.version == version && l.node == node
  if branchOn s ch ∧ (getChan s ch).branch.any hit then
    (bump (updChan s ch fun c => { c with branch := c.branch.map fun l => if hit l then { l with lastUse := s.tb } else l })
      (rangerPage ch + Reg.RANGER_BC_HIT) 1, true)
  else (bump s (rangerPage ch + Reg.RANGER_BC_MISS) 1, false)

/-- Place a node's list: in its set of 8 ways, over the least recently used line where the set is full. -/
def branchFill (s : State) (ch part version node : Nat) (list : List Byte) : State :=
  if !branchOn s ch then s
  else updChan s ch fun c =>
    let rest := c.branch.filter fun l => !(l.partition == part && l.version == version && l.node == node)
    let set := rest.filter fun l => l.node % 64 == node % 64
    let oldest := set.foldl (fun (m : Option BranchLine) x => match m with | none => some x | some y => if x.lastUse < y.lastUse then some x else some y) none
    let kept := match (if set.length ≥ 8 then oldest else none) with | some o => rest.filter (· != o) | none => rest
    { c with branch := kept ++ [{ partition := part, version := version, node := node, list := list, lastUse := s.tb }] }

end Sys2Proof.Machine
end

