-- ==== Sys2Proof/Machine/NandReads.lean ====
section
/-! DEFINITION. Reads of flash: the attempts of a media access, its end, its cancellation, and the periodic reads of the
channels (R49, R209, R221 to R228, R250, R251). -/

namespace Sys2Proof.Machine

def updAccess (s : State) (id : Nat) (f : Access → Access) : State :=
  { s with ftl := { s.ftl with accesses := aUpd s.ftl.accesses id f } }

/-! NAND_READ_COMPLETE (R221, R225, R228) -/

/-- The translation layer holds a second copy of the unit (R232). -/
def isMirrored (s : State) (a : Access) : Bool :=
  match mapGet s a.idx with | some e => e.state == 2 && e.addr == a.addr | none => false

/-- The attempts a media access has (R225): a second copy adds one to the bulk order. -/
def lastAttempt (s : State) (a : Access) : Nat := if isMirrored s a then 17 else 16

/-- Attempt n of an access is a ladder step; it reads the mirror. -/
def isMirrorTry (s : State) (a : Access) (n : Nat) : Bool := isMirrored s a && (if a.search then n == 3 else n == 17)
def isLadder (s : State) (a : Access) (n : Nat) : Bool := decide (n ≥ 2) && !isMirrorTry s a n

/-- Note the corrected bits of one codeword (R228): above the threshold it is counted, its block is to be refreshed, and
one read-warning event is posted per block until its next erase. -/
def noteBits (s : State) (k bits : Nat) : State :=
  let page := chanPage (addrChan (k * 4096))
  if bits ≤ getF s (page + Reg.CH_ECC_WARN) ⟨8, 0⟩ then s
  else
    let s1 := bump s (page + Reg.CH_WARN_COUNT) 1
    let s2 := { s1 with ftl := { s1.ftl with refreshQueue := insertNat k s1.ftl.refreshQueue } }
    if (getBlock s2 k).warned then s2 else post (updBlock s2 k fun b => { b with warned := true }) page 0x0102 0 0 0

/-- The codewords that failed an attempt: of those it read, in order. -/
def failedOf (read : List Nat) (results : List CodewordResult) : List Nat :=
  (read.zip results).filterMap fun x => match x.2 with | .failed => some x.1 | .passed _ => none

def passedBits (results : List CodewordResult) : List Nat :=
  results.filterMap fun r => match r with | .passed b => some b | .failed => none

/-- A read of a block: counted, and refreshed above its limit (R250). -/
def countBlockRead (s : State) (k : Nat) : State :=
  let s1 := updBlock s k fun b => { b with reads := b.reads + 1 }
  let lim := 1000 * getF s Reg.FTL_RD_LIMIT (if k % 2 ^ 14 < 256 then Fld.FTL_RD_LIMIT_slc_k else Fld.FTL_RD_LIMIT_qlc_k)
  if (getBlock s1 k).reads > lim then { s1 with ftl := { s1.ftl with refreshQueue := insertNat k s1.ftl.refreshQueue } } else s1

/-- A read of a search has ended: its page is in a slot of the ranger, or cannot be read (R226, R296). -/
def deliverSearch (s : State) (a : Access) (ok : Bool) : State :=
  match aGet? s.searches a.waiter with
  | none => s
  | some x =>
    if ok then fillSlot s x.partition x.version a.addr
    else { s with searches := aUpd s.searches a.waiter fun x => { x with lost := a.idx :: x.lost } }

/-- An access has ended for whoever waits for it: with its unit, or with the unit poisoned. -/
def endAccess (s : State) (id : Nat) (a : Access) (ok : Bool) : State :=
  let s1 := resumeDies { s with ftl := { s.ftl with accesses := aDel s.ftl.accesses id } }
  flashSettle (if a.asker = 0 then deliverRead s1 a.waiter id ok else if a.asker = 2 then deliverSearch s1 a ok else s1)

/-- The partition an access reads for: of its host read, its job, its search. -/
def accessPart (s : State) (a : Access) : Option Nat :=
  if a.asker = 0 then (aGet? s.ftl.reads a.waiter).bind fun w => (findOut s w.sqid w.cid).map fun o => o.cmd.nsid - 1
  else if a.asker = 1 then (getJob s (a.waiter / 2 ^ 40)).map (·.partition)
  else if a.asker = 2 then (aGet? s.searches a.waiter).map (·.partition)
  else none

/-- The unit that arrived belongs to another partition than the one that reads, the commons apart (R19). -/
def tagDiffers (s : State) (a : Access) : Bool :=
  match accessPart s a, aGet? s.ftl.pages a.addr with
  | some p, some pg => pg.partition != p && pg.partition != 4095
  | _, _ => false

/-- Data with the wrong tag is dropped: the mover posts the event and ends the day of its job; a host read ends as for a
unit that is lost (DESIGN CHOICE). -/
def dropTagged (s : State) (id : Nat) (a : Access) : State :=
  let s1 := endAccess s id a false
  if a.asker = 1 then tagMismatch s1 (a.waiter / 2 ^ 40) (rangerPage (addrChan a.addr))
  else post s1 (rangerPage (addrChan a.addr)) 0x0501 ((accessPart s a).getD 0) 0 0

/-- One attempt of a media access has been read and decoded. -/
def readDone (s : State) (id : Nat) (a : Access) (results : List CodewordResult) (gcmOk : Bool) : State :=
  let ch := addrChan a.addr
  let k := blockKey a.addr
  let n := a.attempt + 1
  let read := if a.attempt = 0 then [0, 1, 2, 3] else a.failed
  let bad := failedOf read results
  let s1 := countBlockRead s k
  let s2 := if isLadder s a n then bump s1 (chanPage ch + Reg.CH_RETRY) 1 else s1
  let s3 := (passedBits results).foldl (fun s b => noteBits s k b) s2
  let s4 := updAccess s3 id fun x => { x with attempt := n, failed := bad }
  let isIndex : Bool := match aGet? s.ftl.pages a.addr with | some p => p.kind == 1 | none => false
  if !bad.isEmpty then s4
  else if isIndex ∧ !gcmOk then endAccess (bump s4 (rangerPage ch + Reg.RANGER_TAGFAIL) 1) id a false
  else if tagDiffers s a then dropTagged s4 id a
  else if a.search ∧ isMirrorTry s a n then bump s4 (rangerPage ch + Reg.RANGER_MIRROR) 1
  else s4

/-- More attempts are left and the last one failed, or none was made. -/
def wantsRead (s : State) (a : Access) : Bool :=
  !a.cancelled && decide (a.attempt < lastAttempt s a) && (a.attempt == 0 || !a.failed.isEmpty)
    && dieUp s (addrChan a.addr) (addrDie a.addr)

def execNandReadComplete (access : Nat) (results : List CodewordResult) (gcmOk : Bool) (s : State) :
    Host.Outcome State Fault Refusal :=
  match aGet? s.ftl.accesses access with
  | none => .next s
  | some a =>
    let need := if a.attempt = 0 then 4 else a.failed.length
    if wantsRead s a ∧ dieReadable s (addrChan a.addr) (addrDie a.addr) ∧ results.length = need then
      .next (readDone s access a results gcmOk)
    else .next s

/-! MEDIA_ACCESS_COMPLETE (R225, R251, R252) -/

/-- The degraded access: the unit is rebuilt through channel parity, else through cross-stand parity, which a super-block
opened after a loss does not have and a unit on the lost stand alone has; else its entry becomes poisoned. -/
def degraded (s : State) (id : Nat) (a : Access) (chOk crossOk : Bool) : State :=
  let lost := lostStand s
  let onLost := lost == some (addrStand a.addr)
  let after := match (sbOfBlock s (blockKey a.addr)).bind (getSb s) with | some sb => sb.afterLoss | none => false
  let served := (chOk && !onLost) || (crossOk && !after && (onLost || lost.isNone))
  let s1 := bump s Reg.FTL_DEGRADED 1
  match mapGet s1 a.idx with
  | some e =>
    if e.addr = a.addr ∧ e.state ≠ 3 then
      if served then endAccess (queueRelocs s1 [(a.idx, e)]) id a true
      else endAccess (mapSet s1 a.idx (some poisonedEntry)) id a false
    else endAccess s1 id a served
  | none => endAccess s1 id a served

/-- The access is over: its last attempt passed, or none is left. A unit on a failed stand, channel or die is read
through parity at once. -/
def accessDone (s : State) (id : Nat) (a : Access) (chOk crossOk : Bool) : State :=
  if !dieUp s (addrChan a.addr) (addrDie a.addr) then degraded s id a chOk crossOk
  else if a.attempt = 0 then s
  else if a.failed.isEmpty then endAccess s id a true
  else if a.attempt < lastAttempt s a then s
  else degraded (bump s (chanPage (addrChan a.addr) + Reg.CH_UNCORR) 1) id a chOk crossOk

def execMediaAccessComplete (access : Nat) (channelParityOk crossParityOk : Bool) (s : State) :
    Host.Outcome State Fault Refusal :=
  match aGet? s.ftl.accesses access with
  | none => .next s
  | some a => .next (if a.cancelled then s else accessDone s access a channelParityOk crossParityOk)

/-! MEDIA_ACCESS_TIMEOUT, CANCELLATION_STOP (R47, R49, R51) -/

def execMediaAccessTimeout (access : Nat) (s : State) : Host.Outcome State Fault Refusal :=
  match aGet? s.ftl.accesses access with
  | none => .next s
  | some a => .next (if a.cancelled then s else updAccess s access fun x => { x with cancelled := true })

/-- The cancelled operation has stopped: a success inside the window is discarded and counted; what still waits for the
unit goes on to its degraded access. -/
def cancelStop (s : State) (id : Nat) (a : Access) (success : Bool) : State :=
  let s1 := if success ∧ standPresent s (addrStand a.addr) then
      bump s (standBase (addrStand a.addr) + Reg.STAND_TMO_DISCARD) 1 else s
  if a.asker = 3 then endAccess s1 id a false
  else updAccess s1 id fun x => { x with cancelled := false, attempt := lastAttempt s a, failed := if x.failed.isEmpty then [0] else x.failed }

def execCancellationStop (access : Nat) (success : Bool) (s : State) : Host.Outcome State Fault Refusal :=
  match aGet? s.ftl.accesses access with
  | none => .next s
  | some a => .next (if a.cancelled then cancelStop s access a success else s)

/-! SUSPEND_HOLD_EXPIRY, ZQ_CALIBRATION, BACKGROUND_SCAN, REFRESH (R204, R209, R250) -/

def execSuspendHoldExpiry (d : DiePath) (s : State) : Host.Outcome State Fault Refusal :=
  let ch := 16 * d.stand + d.chan
  match dieOp s ch d.die with
  | none => .next s
  | some o =>
    if o.suspended ∧ !(getChan s ch).brownOut then .next (setDieOp s ch d.die (some { o with suspended := false })) else .next s

/-- A ZQ calibration leaves no state that the spec names. -/
def execZqCalibration (_ch : ChanPath) (s : State) : Host.Outcome State Fault Refusal := .next s

/-- Pages of a block that hold data. -/
def pagesIn (s : State) (k : Nat) : Nat := (s.ftl.pages.filter fun e => blockKey e.1 == k).length

/-- A scan reads each programmed page of a block; a codeword above the warning threshold has the block refreshed. -/
def scanBlock (s : State) (k : Nat) (above : Bool) : State :=
  let s1 := updBlock s k fun b => { b with reads := b.reads + pagesIn s k }
  if above then noteBits s1 k 512 else s1

def execBackgroundScan (b : BlockPath) (overThreshold : Bool) (s : State) : Host.Outcome State Fault Refusal :=
  let ch := 16 * b.stand + b.chan
  let k := blockAt ch b.die b.block
  if operational s ∧ dieUp s ch b.die ∧ !isGrown s k ∧ !(aGetD (getChan s ch).factory b.die []).contains b.block then
    .next (scanBlock s k overThreshold)
  else .next s

/-- A block is due for a refresh: over its read limit or named by a read-warning (R250). -/
def refreshDue (s : State) (k : Nat) : Bool := s.ftl.refreshQueue.contains k

/-- Refresh a block: its valid units are to be relocated. -/
def refreshBlock (s : State) (k : Nat) : State :=
  let s1 := { s with ftl := { s.ftl with refreshQueue := s.ftl.refreshQueue.filter (· != k) } }
  bump (queueRelocs s1 (unitsInBlock s1 k)) Reg.FTL_REFRESH 1

def execRefresh (b : BlockPath) (s : State) : Host.Outcome State Fault Refusal :=
  let k := blockAt (16 * b.stand + b.chan) b.die b.block
  .next (if operational s ∧ refreshDue s k then refreshBlock s k else s)

end Sys2Proof.Machine
end

