-- ==== Sys2Proof/Machine/NandPrograms.lean ====
section
/-! DEFINITION. Programs and erases of flash, bad blocks, brown-out, the background work of the translation layer and the
raw diagnostic commands (R207 to R220, R238 to R250). -/

namespace Sys2Proof.Machine

/-! WORDLINE_PROGRAM (R206, R207) -/

/-- A die can take a program now. -/
def dieFree (s : State) (ch die : Nat) : Bool :=
  dieUp s ch die && (dieOp s ch die).isNone && !(getChan s ch).brownOut && operational s

/-- The blocks of a group may be programmed at a wordline: erase verified with its clear record durable, or open, and the
write pointer there (R207, R213). -/
def groupOpen (s : State) (ch die group w : Nat) : Bool :=
  (groupBlocks s ch die group).all fun k =>
    let b := getBlock s k
    b.clear && !b.closed && !isGrown s k && b.wp == w && (b.verified || w != 0)

/-- Units that a stand still owes an SLC copy (R239, R240): those sent to staging that have none there. -/
def stagingUnits (s : State) (st upto : Nat) : List BufUnit :=
  (s.ftl.buf.filter fun b => b.staging && b.order < upto && !stagedDurable b && !(b.staged.any fun c => c / 16 == st)).take 4

/-- Journal records of which a stand holds no copy yet (R243); a wordline takes 4,096. -/
def journalUnits (s : State) (st upto : Nat) : List JournalRec :=
  (s.ftl.journal.filter fun j => j.no < upto && !journalDurable j && !j.stands.contains st).take 4096

/-- Start the program of the wordline at a block group's write pointer: of an open super-block of host data, whose
super-wordline it closes to further units, or of an SLC group of the journal and the staging area. -/
def startProgram (s : State) (ch die group : Nat) : State :=
  if group ≥ 64 then
    let B := sbOfGroup die group
    match getSb s B with
    | none => s
    | some sb =>
      let w := sb.wordline
      if sb.state = 1 ∧ sb.stream = 0 ∧ !sb.done.contains ch ∧ (sbChannels s sb.afterLoss).contains ch
          ∧ sb.nextSlot > w * slotsPerWordline ∧ groupOpen s ch die group w then
        setDieOp (updSb s B fun x => { x with nextSlot := max x.nextSlot ((w + 1) * slotsPerWordline) }) ch die (some (newOp s 1 group w))
      else s
  else if group < 2 ∨ group = 63 then s
  else
    let w := (getBlock s (blockAt ch die (4 * group))).wp
    let work := !(stagingUnits s (ch / 16) s.ftl.nextOrder).isEmpty || !(journalUnits s (ch / 16) s.ftl.nextOrder).isEmpty
    if w < 576 ∧ groupOpen s ch die group w ∧ work then setDieOp s ch die (some (newOp s 3 group w)) else s

def execWordlineProgram (ch : ChanPath) (die group : Nat) (s : State) : Host.Outcome State Fault Refusal :=
  .next (if dieFree s ch.index die then startProgram s ch.index die group else s)

/-! NAND_PROGRAM_COMPLETE (R208, R239) -/

/-- The blocks of a group after one of its wordlines was programmed: programmed, no longer verified as erased. -/
def advance (s : State) (ch die group w : Nat) : State :=
  (groupBlocks s ch die group).foldl (fun s k => updBlock s k fun b => { b with wp := w + 1, verified := false }) s

/-- An SLC wordline holds staging copies, or else journal records. -/
def slcDone (s : State) (ch upto : Nat) : State :=
  let us := stagingUnits s (ch / 16) upto
  let f := s.ftl
  if !us.isEmpty then
    let os := us.map (·.order)
    let s1 := { s with ftl := { f with
      sinceCkpt := f.sinceCkpt + us.length
      buf := f.buf.map fun b => if os.contains b.order then { b with staged := b.staged ++ [ch] } else b } }
    settle (bumpPair s1 Reg.FTL_MEDIA_UNITS_LO us.length)
  else
    let ns := (journalUnits s (ch / 16) upto).map (·.no)
    { s with ftl := { f with
      journal := f.journal.map fun j => if ns.contains j.no then { j with stands := j.stands ++ [ch / 16] } else j } }

/-- A program succeeded. -/
def programPass (s : State) (ch die : Nat) (o : DieOp) : State :=
  let s1 := advance (setDieOp s ch die none) ch die o.block o.wordline
  if o.kind = 1 then
    let B := sbOfGroup die o.block
    let s2 := (channelUnits s1 B o.wordline ch).foldl (fun s b => match bufAddr s b with | some a => programUnit s b a | none => s) s1
    wordlineDone s2 B ch
  else slcDone s1 ch o.access

/-- A program failed: its blocks are retired, the units it held are written elsewhere, or, where that write fails too,
are undurable (R208, R241 case 2). One FAIL bit per LUN retires the four blocks of the group (DESIGN CHOICE). -/
def programFail (s : State) (ch die : Nat) (o : DieOp) (relocatedFails : Bool) : State :=
  let s1 := setDieOp s ch die none
  let s2 := (groupBlocks s1 ch die o.block).foldl growBlock s1
  if o.kind = 1 then
    let B := sbOfGroup die o.block
    let us := channelUnits s1 B o.wordline ch
    let s3 := if relocatedFails then us.foldl (fun s b => dropBuffered s b true 2) s2
      else reslot s2 fun b => us.any (·.order == b.order)
    wordlineDone s3 B ch
  else s2

def execNandProgramComplete (d : DiePath) (statusFail relocatedFails : Bool) (s : State) :
    Host.Outcome State Fault Refusal :=
  let ch := 16 * d.stand + d.chan
  match dieOp s ch d.die with
  | none => .next s
  | some o =>
    if (o.kind = 1 ∨ o.kind = 3) ∧ !o.suspended then
      .next (flashSettle (if statusFail then programFail s ch d.die o relocatedFails else programPass s ch d.die o))
    else .next s

/-! Erases (R216) -/

/-- The log page with the set record is programmed: the erase pulse starts. -/
def execFlagLogProgramComplete (d : DiePath) (s : State) : Host.Outcome State Fault Refusal :=
  let ch := 16 * d.stand + d.chan
  match dieOp s ch d.die with
  | none => .next s
  | some o =>
    if o.kind = 4 ∧ !o.suspended then .next (setDieOp s ch d.die (some (newOp s 2 o.block 0))) else .next s

/-- A block is no longer one whose erase a sanitize waits for; the last one ends the sanitize (R435). -/
def sanitizeStep (s : State) (k : Nat) : State :=
  let l := s.host.sanitizeBlocks.filter (· != k)
  if s.host.sanitizing ∧ l.isEmpty then { s with host := { s.host with sanitizeBlocks := l, sanitizing := false, sanitize := 1 } }
  else { s with host := { s.host with sanitizeBlocks := l } }

def eraseInactive (s : State) (ch die : Nat) : State :=
  setF s (chanPage ch + Reg.CH_ERASE_ACTIVE + 4 * die) Fld.CH_ERASE_ACTIVE_valid 0

/-- An erase was verified: the block is empty, and its clear record goes to the next log page. -/
def erasePass (s : State) (ch die block : Nat) : State :=
  let k := blockAt ch die block
  let s1 := { s with ftl := { s.ftl with pages := s.ftl.pages.filter fun e => blockKey e.1 != k
                                         refreshQueue := s.ftl.refreshQueue.filter (· != k) } }
  let s2 := updBlock s1 k fun b => { b with verified := true, wp := 0, reads := 0, erases := b.erases + 1, warned := false, closed := false }
  eraseInactive (setDieOp s2 ch die (some (newOp s 5 block 0))) ch die

/-- An erase failed: the block is retired (R208, R211). -/
def eraseFail (s : State) (ch die block : Nat) : State :=
  let k := blockAt ch die block
  let s1 := updBlock (setDieOp s ch die none) k fun b => { b with needErase := false }
  sanitizeStep (sweepErased (growBlock (eraseInactive s1 ch die) k)) k

def execNandEraseComplete (d : DiePath) (statusFail : Bool) (s : State) : Host.Outcome State Fault Refusal :=
  let ch := 16 * d.stand + d.chan
  match dieOp s ch d.die with
  | none => .next s
  | some o =>
    if o.kind = 2 ∧ !o.suspended then
      .next (flashSettle (if statusFail then eraseFail s ch d.die o.block else erasePass s ch d.die o.block))
    else .next s

/-- The page with the clear record is programmed: the block may be allocated. -/
def clearDurable (s : State) (ch die block : Nat) : State :=
  let k := blockAt ch die block
  let s1 := updBlock (setDieOp s ch die none) k fun b => { b with clear := true, pendingFlag := false, needErase := false }
  sanitizeStep (sweepErased s1) k

def execClearRecordDurable (d : DiePath) (s : State) : Host.Outcome State Fault Refusal :=
  let ch := 16 * d.stand + d.chan
  match dieOp s ch d.die with
  | none => .next s
  | some o => if o.kind = 5 ∧ !o.suspended then .next (flashSettle (clearDurable s ch d.die o.block)) else .next s

/-! NAND_OP_TIMEOUT (R211) -/

/-- The oldest read of a die that wants a further attempt. -/
def dieRead (s : State) (ch die : Nat) : Option (Nat × Access) :=
  s.ftl.accesses.find? fun e => addrChan e.2.addr == ch && addrDie e.2.addr == die && wantsRead s e.2

/-- The LUN is reset: a read counts as a failed attempt, a program as failed, an erase is made once more; the program of
a log page is made again. -/
def opTimeout (s : State) (ch die : Nat) (eraseAgainOk : Bool) : State :=
  match dieOp s ch die with
  | none =>
    match dieRead s ch die with
    | none => s
    | some (id, a) => readDone s id a (List.replicate (if a.attempt = 0 then 4 else a.failed.length) .failed) true
  | some o =>
    if o.kind = 1 ∨ o.kind = 3 then programFail s ch die o false
    else if o.kind = 2 then (if eraseAgainOk then erasePass s ch die o.block else eraseFail s ch die o.block)
    else setDieOp s ch die (some { o with retried := true })

def execNandOpTimeout (d : DiePath) (eraseAgainOk : Bool) (s : State) : Host.Outcome State Fault Refusal :=
  let ch := 16 * d.stand + d.chan
  .next (if dieUp s ch d.die then flashSettle (opTimeout s ch d.die eraseAgainOk) else s)

/-! BROWN_OUT, BROWN_OUT_EXIT (R214, R215) -/

def brownOut (s : State) (ch : Nat) : State :=
  let s1 := updChan s ch fun c => { c with brownOut := true, ops := c.ops.map fun o => (o.1, { o.2 with suspended := true, interrupted := true }) }
  post (bump s1 (chanPage ch + Reg.CH_BROWNOUT) 1) (chanPage ch) 0x0705 0 0 0

def execBrownOut (ch : ChanPath) (s : State) : Host.Outcome State Fault Refusal :=
  .next (if chanUp s ch.index ∧ !(getChan s ch.index).brownOut then brownOut s ch.index else s)

/-- A program that brown-out interrupted: its block group is closed, its units are written elsewhere (R215). -/
def interruptedProgram (s : State) (ch die : Nat) (o : DieOp) : State :=
  let s1 := (groupBlocks s ch die o.block).foldl (fun s k => updBlock s k fun b => { b with closed := true, verified := false }) (setDieOp s ch die none)
  if o.kind = 1 then
    let us := channelUnits s1 (sbOfGroup die o.block) o.wordline ch
    wordlineDone (reslot s1 fun b => us.any (·.order == b.order)) (sbOfGroup die o.block) ch
  else s1

def brownOutExit (s : State) (ch : Nat) : State :=
  let s1 := updChan s ch fun c => { c with brownOut := false }
  (getChan s ch).ops.foldl (fun s e =>
    if (e.2.kind = 1 ∨ e.2.kind = 3) ∧ e.2.interrupted then interruptedProgram s ch e.1 e.2
    else setDieOp s ch e.1 (some { e.2 with suspended := false, interrupted := false })) s1

def execBrownOutExit (ch : ChanPath) (s : State) : Host.Outcome State Fault Refusal :=
  .next (if (getChan s ch.index).brownOut then flashSettle (brownOutExit s ch.index) else s)

/-! RECLAIM, RELOCATION, WEAR_LEVEL, CHECKPOINT (R244, R247 to R249) -/

/-- Take a closed super-block for reclaim: its valid units are queued for relocation; the number of them is kept where
the next slot was. -/
def takeForReclaim (s : State) (B : Nat) : State :=
  let us := unitsInSb s B
  queueRelocs (updSb s B fun x => { x with state := 4, nextSlot := us.length }) us

/-- The closed super-block with the fewest valid units, the lower index on a tie (R247). -/
def reclaimPick (s : State) : Option Nat :=
  ((s.ftl.sbs.filter (·.2.state == 2)).foldl (fun (b : Option (Nat × Nat)) e =>
    let n := (unitsInSb s e.1).length
    match b with
    | none => some (e.1, n)
    | some x => if n < x.2 then some (e.1, n) else b) none).map (·.1)

def execReclaim (s : State) : Host.Outcome State Fault Refusal :=
  if operational s ∧ getF s Reg.FTL_SB Fld.FTL_SB_free < getF s Reg.FTL_GC_CFG Fld.FTL_GC_CFG_low_wm then
    match reclaimPick s with
    | some B => .next (flashSettle (takeForReclaim s B))
    | none => .next s
  else .next s

/-- Erase counts of the super-blocks of the module (R249). -/
def sbEraseCount (s : State) (B : Nat) : Nat := aGetD s.ftl.sbErases B 0

/-- The closed super-block with the lowest erase count, where the spread is above wl_delta. A super-block never erased
has count 0. -/
def wearPick (s : State) : Option Nat :=
  let hi := (s.ftl.sbErases.map (·.2)).foldl max 0
  let lo := if s.ftl.sbErases.length < 24960 then 0 else (s.ftl.sbErases.map (·.2)).foldl min hi
  if hi - lo ≤ getF s Reg.FTL_GC_CFG Fld.FTL_GC_CFG_wl_delta then none
  else ((s.ftl.sbs.filter (·.2.state == 2)).foldl (fun (b : Option (Nat × Nat)) e =>
    let n := sbEraseCount s e.1
    match b with
    | none => some (e.1, n)
    | some x => if n < x.2 then some (e.1, n) else b) none).map (·.1)

def execWearLevel (s : State) : Host.Outcome State Fault Refusal :=
  match (if operational s then wearPick s else none) with
  | some B => .next (flashSettle (takeForReclaim s B))
  | none => .next s

/-- A unit is copied to the relocation stream, and its entry changes only if it still holds the old address (R248). -/
def relocate (s : State) (r : Reloc) : State :=
  match takeSlot s 2 with
  | (_, none) => s
  | (s1, some k) =>
    let B := k / 2 ^ 20
    let a := slotAddr s1 B (k % 2 ^ 20) ((getSb s1 B).elim false (·.afterLoss))
    let pg : NandPage := { idx := r.idx, partition := r.partition, kind := r.kind, seq := s1.ftl.seq + 1, val := r.val, rawData := none }
    let f := s1.ftl
    let s2 := bumpPair { s1 with ftl := { f with seq := f.seq + 1, sinceCkpt := f.sinceCkpt + 1, pages := aPut f.pages a pg,
                                                 relocs := f.relocs.filter (·.idx != r.idx) } } Reg.FTL_MEDIA_UNITS_LO 1
    match mapGet s2 r.idx with
    | some e => if e.addr = r.old ∧ e.state ≠ 3 then mapSet s2 r.idx (some { e with addr := a }) else bump s2 Reg.FTL_RELOC_LOST 1
    | none => bump s2 Reg.FTL_RELOC_LOST 1

def execRelocation (index : Nat) (s : State) : Host.Outcome State Fault Refusal :=
  match s.ftl.relocs.find? (·.idx == index) with
  | some r => .next (if operational s then flashSettle (relocate s r) else s)
  | none => .next s

/-- Full SLC groups whose staging copies and journal records are no longer needed are erased for their next use. -/
def slcRecycle (s : State) : State :=
  ((s.ftl.blocks.filter fun e => e.1 % 2 ^ 14 < 256 && e.2.wp == 576 && !e.2.needErase).map (·.1)).foldl (fun s k =>
    let ch := addrChan (k * 4096)
    let used := (s.ftl.buf.any fun b => b.staged.contains ch) || (s.ftl.journal.any fun j => j.stands.contains (ch / 16))
    if used then s else updBlock s k fun b => { b with needErase := true }) s

def checkpoint (s : State) : State :=
  let f := s.ftl
  let seg := fun (idx : Nat) => decide ((segmentOf idx + 8192 - f.ckptNext) % 8192 < 128)
  let keep := f.ckpt.filter fun e => !seg e.1
  let s1 := { s with ftl := { f with
    ckpt := (f.map.filter fun e => seg e.1).foldl (fun m e => aPut m e.1 e.2) keep
    journal := f.journal.filter fun j => !seg j.idx
    ckptNext := (f.ckptNext + 128) % 8192
    sinceCkpt := f.sinceCkpt - 4194304 } }
  slcRecycle (setPair s1 Reg.FTL_CKPT_SEQ_LO f.seq)

def execCheckpoint (s : State) : Host.Outcome State Fault Refusal :=
  .next (if operational s ∧ s.ftl.sinceCkpt ≥ 4194304 then flashSettle (checkpoint s) else s)

/-! Raw diagnostic commands (R212, R213, R229) -/

def rawDie (v : Nat) : Nat := bitsOf v 28 26
def rawBlock (v : Nat) : Nat := bitsOf v 25 12
def rawPage (v : Nat) : Nat := bitsOf v 11 0

/-- End a raw command with a result. -/
def rawResult (s : State) (ch r maxBits : Nat) : State :=
  setReg s (chanPage ch + Reg.CH_RAW_STAT) (BitVec.ofNat 32 (r * 2 ^ 29 + min maxBits 0x1FF))

/-- A rejected raw command: no NAND command is issued (R213). -/
def rawReject (s : State) (ch v r : Nat) : State :=
  post (bump (rawResult s ch r 0) (chanPage ch + Reg.CH_REJECT) 1) (chanPage ch) 0x0507 0 (argPair (rawDie v) (rawBlock v))
    (argPair (rawPage v) r)

/-- No such block, or one marked bad at manufacture: never addressed (R219). -/
def neverAddressed (s : State) (ch v : Nat) : Bool :=
  decide (rawBlock v ≥ 13248) || (aGetD (getChan s ch).factory (rawDie v) []).contains (rawBlock v)

/-- A write of CH_RAW_CMD by the operator: its fields are stored; with go set the command runs, go reads 0 once it has
ended. -/
def rawCommand (s : State) (r : Requester) (ch : ChanPath) (v : Word) (op : Nat) (run : State → State) : State :=
  let a := chanPage ch.index + Reg.CH_RAW_CMD
  reach s r a v fun _ =>
    if bitsOf v.toNat 31 30 ≠ op then s
    else if getF s a Fld.CH_RAW_CMD_go = 1 then refuse s a v
    else
      let s1 := setReg s a (v &&& 0xDFFFFFFF#32)
      if bitOf v.toNat 29 then run s1 else s1

/-- The 18,432 bytes that a page holds as stored: media ciphertext, CRC and parity. -/
def storedPage (s : State) (a : Nat) : List Byte :=
  match aGet? s.ftl.pages a with
  | some p => (match p.rawData with | some l => sub l 0 18432 | none => sub (Config.nandStored a (unitBytes p.val)) 0 18432)
  | none => sub (Config.nandStored a []) 0 18432

def rawAddr (ch v : Nat) (page : Nat) : Nat := blockAt ch (rawDie v) (rawBlock v) * 4096 + page

/-- A raw read of one page to host memory. -/
def runRawRead (s : State) (ch v maxBits : Nat) : State :=
  if neverAddressed s ch v ∨ rawPage v ≥ 2304 then rawReject s ch v 5
  else
    let k := blockAt ch (rawDie v) (rawBlock v)
    let s1 := countBlockRead s k
    rawResult { s1 with host := { s1.host with
      dma := s1.host.dma ++ [(getPair s1 (chanPage ch + Reg.CH_RAW_ADDR_LO), storedPage s1 (rawAddr ch v (rawPage v)))] } } ch 2 maxBits

def execRawRead (r : Requester) (ch : ChanPath) (value : Word) (maxBits : Nat) (s : State) : Host.Outcome State Fault Refusal :=
  .next (rawCommand s r ch value 0 fun s => runRawRead s ch.index value.toNat maxBits)

/-- A raw program of one QLC wordline of one block. -/
def runRawProgram (s : State) (ch v : Nat) (data : List Byte) (failed : Bool) : State :=
  let k := blockAt ch (rawDie v) (rawBlock v)
  let b := getBlock s k
  if neverAddressed s ch v then rawReject s ch v 5
  else if !b.verified then rawReject s ch v 3
  else if rawPage v ≠ 4 * b.wp ∨ b.wp ≥ 576 then rawReject s ch v 4
  else if !isGrown s k then rawReject s ch v 5
  else
    let s1 := updBlock s k fun b => { b with wp := b.wp + 1, verified := false }
    let s2 := (List.range 4).foldl (fun s i =>
      let pg : NandPage := { idx := 0, partition := 0, kind := 3, seq := 0, val := UnitVal.zero, rawData := some (sub data (18432 * i) 18432) }
      { s with ftl := { s.ftl with pages := aPut s.ftl.pages (rawAddr ch v (rawPage v + i)) pg } }) s1
    rawResult s2 ch (if failed then 6 else 2) 0

def execRawProgram (r : Requester) (ch : ChanPath) (value : Word) (data : List Byte) (statusFail : Bool) (s : State) :
    Host.Outcome State Fault Refusal :=
  .next (rawCommand s r ch value 1 fun s => runRawProgram s ch.index value.toNat data statusFail)

def runRawErase (s : State) (ch v : Nat) (failed : Bool) : State :=
  let k := blockAt ch (rawDie v) (rawBlock v)
  if neverAddressed s ch v ∨ !isGrown s k then rawReject s ch v 5
  else if failed then rawResult (updBlock s k fun b => { b with verified := false }) ch 6 0
  else
    let s1 := { s with ftl := { s.ftl with pages := s.ftl.pages.filter fun e => blockKey e.1 != k } }
    rawResult (updBlock s1 k fun b => { b with verified := true, wp := 0, reads := 0, erases := b.erases + 1 }) ch 2 0

def execRawErase (r : Requester) (ch : ChanPath) (value : Word) (statusFail : Bool) (s : State) :
    Host.Outcome State Fault Refusal :=
  .next (rawCommand s r ch value 2 fun s => runRawErase s ch.index value.toNat statusFail)

def execChSuspCfgWrite (r : Requester) (ch : ChanPath) (value : Word) (s : State) : Host.Outcome State Fault Refusal :=
  let a := chanPage ch.index + Reg.CH_SUSP_CFG
  .next (reach s r a value fun _ => writeSusp s a value)

end Sys2Proof.Machine
end

