-- ==== Sys2Proof/Machine/Forest.lean ====
section
/-! DEFINITION. The forest configuration, the restore of a replication slot, parity deltas and fragments (R452 to R459). -/

namespace Sys2Proof.Machine

/-! The configuration record (R452) -/

def forestMagic : List Byte := [0x46#8, 0x43#8, 0x46#8, 0x47#8]

def parsePeer (b : List Byte) (o : Nat) : PeerCfg := { num := leAt b o 2, ports := leAt b (o + 2) 1, mac := leAt b (o + 4) 6, digest := sub b (o + 32) 64 }

def parseGroup (b : List Byte) (o : Nat) : GroupCfg :=
  { num := leAt b o 2, members := (List.range (leAt b (o + 2) 2)).map fun i => leAt b (o + 16 + 2 * i) 2 }

def parseRepl (b : List Byte) (o : Nat) : ReplCfg :=
  { slots := (List.range 11).map fun i => leAt b (o + 2 * i) 2, units := leAt b (o + 32) 8, storeOff := leAt b (o + 40) 8,
    storeLen := leAt b (o + 48) 8, bitmap := sub b (o + 64) 512 }

def parseFan (b : List Byte) (o : Nat) : FanCfg := { own := leAt b o 2, peer := leAt b (o + 2) 2, peerPart := leAt b (o + 4) 2 }

/-- Where the sections of a record begin: peers, groups, replication, fan-out, and its end. -/
def forestOffsets (b : List Byte) : Nat × Nat × Nat × Nat :=
  let g := 64 + 96 * leAt b 0x16 2
  let r := g + 528 * leAt b 0x18 2
  let f := r + 576 * leAt b 0x1C 1
  (g, r, f, f + 8 * leAt b 0x1A 2)

def parseForest (b : List Byte) : ForestCfg :=
  let (g, r, f, _) := forestOffsets b
  { self := leAt b 6 2, forestId := leAt b 8 8, switched := leAt b 0x10 1, mtu := leAt b 0x12 2, tag := leAt b 0x14 2,
    peers := (List.range (leAt b 0x16 2)).map fun i => parsePeer b (64 + 96 * i)
    groups := (List.range (leAt b 0x18 2)).map fun i => parseGroup b (g + 528 * i)
    repl := if leAt b 0x1C 1 = 1 then some (parseRepl b r) else none
    fans := (List.range (leAt b 0x1A 2)).map fun i => parseFan b (f + 8 * i) }

def noRepeat (l : List Nat) : Bool := l.dedup.length == l.length

/-- Reserved bytes of the record are zero (R11). -/
def forestZeros (b : List Byte) : Bool :=
  let (g, r, f, _) := forestOffsets b
  allZero b 0x11 1 && allZero b 0x1D 35
    && ((List.range (leAt b 0x16 2)).all fun i => allZero b (64 + 96 * i + 3) 1 && allZero b (64 + 96 * i + 10) 22)
    && ((List.range (leAt b 0x18 2)).all fun i => allZero b (g + 528 * i + 4) 12
        && ((List.range 256).all fun k => k < leAt b (g + 528 * i + 2) 2 || leAt b (g + 528 * i + 16 + 2 * k) 2 == 0xFFFF))
    && (leAt b 0x1C 1 == 0 || (allZero b (r + 22) 10 && allZero b (r + 56) 8))
    && ((List.range (leAt b 0x1A 2)).all fun i => allZero b (f + 8 * i + 6) 2)

/-- The header's numbers are in range and the record fits the buffer. -/
def forestHeader (c : Cmd) : Bool :=
  let b := c.buf
  let (_, _, _, e) := forestOffsets b
  sub b 0 4 == forestMagic && leAt b 4 2 == 1 && leAt b 6 2 ≤ 255 && leAt b 8 8 != 0 && leAt b 0x10 1 ≤ 15
    && (leAt b 0x12 2 == 1500 || leAt b 0x12 2 == 9000) && leAt b 0x16 2 ≤ 255 && leAt b 0x18 2 ≤ 64 && leAt b 0x1A 2 ≤ 4094
    && leAt b 0x1C 1 ≤ 1 && decide (e ≤ c.bufLen)

/-- The peers of a port. -/
def portPeers (f : ForestCfg) (port : Nat) : List PeerCfg := f.peers.filter fun p => bitOf p.ports port

/-- The sections keep the rules of R442 and R452. -/
def forestSections (s : State) (f : ForestCfg) : Bool :=
  let nums := f.peers.map (·.num)
  let known := fun m => m == f.self || nums.contains m
  f.peers.all (fun p => p.num ≤ 255 && p.num != f.self && 1 ≤ p.ports && p.ports ≤ 15) && noRepeat nums
    && (List.range 4).all (fun p => decide ((portPeers f p).length ≤ (if bitOf f.switched p then 64 else 1)))
    && f.groups.all (fun g => 1 ≤ g.members.length && g.members.length ≤ 256 && g.members.all known && noRepeat g.members && g.members.contains f.self)
    && noRepeat (f.groups.map (·.num))
    && f.fans.all (fun x => 1 ≤ x.own && x.own ≤ 4094 && 1 ≤ x.peerPart && x.peerPart ≤ 4094 && nums.contains x.peer)
    && (match f.repl with
      | none => true
      | some r =>
        r.slots.all known && noRepeat r.slots && r.slots.contains f.self && r.storeOff % 16384 == 0
          && decide (r.storeOff + r.storeLen ≤ nsCapacity s 0) && decide (3 * ((r.units + 7) / 8) * 16384 ≤ r.storeLen)
          && decide (((s.parts.filter fun e => isProtected r e.1).map fun e => nsUnits e.2).sum ≤ r.units))

/-- The fragment store holds parity. -/
def storeHolds (s : State) : Bool :=
  (s.ftl.buf.any fun b => b.val.form == 3) || s.ftl.map.any fun e =>
    match aGet? s.ftl.pages e.2.addr with | some p => e.2.state == 1 && p.val.form == 3 | none => false

/-- A STEP over several modules or a fan-out search runs. -/
def forestBusy (s : State) : Bool :=
  (s.gangs.any fun e => decide (e.2.count > 1)) || s.searches.any fun e => e.2.peerOf.isSome || bitOf e.2.flags 3

/-- Open the associations of a configuration: those whose peer stays keep on where the module itself stays the same; the
others close or begin (R452). -/
def openAssocs (s : State) (old : Option ForestCfg) (f : ForestCfg) : State :=
  let same := match old with | some o => o.self == f.self && o.forestId == f.forestId | none => false
  let pairs := (List.range 4).flatMap fun port => (portPeers f port).map fun p => (port, p)
  let stays := fun (a : Assoc) => same && pairs.any fun x => x.1 == a.port && x.2.num == a.peer
      && (match old with | some o => o.peers.any fun y => y == x.2 | none => false)
  let s1 := (s.forest.assocs.filter fun a => !stays a).foldl (fun s a => assocDown s a.port a.peer) s
  let kept := s1.forest.assocs.filter stays
  let fresh := pairs.filter fun x => !(kept.any fun a => a.port == x.1 && a.peer == x.2.num)
  { s1 with forest := { s1.forest with
      assocs := kept ++ fresh.map fun x => Assoc.start x.1 x.2.num 0
      outbox := s1.forest.outbox.filter fun m => f.peers.any (·.num == m.peer) } }

/-- The lower-numbered module sends HELLO on an association that is down and whose port is trained (R448). -/
def initiate (s : State) (port peer : Nat) : State :=
  match findAssoc s port peer with
  | none => s
  | some a =>
    if a.state = 3 ∨ portLanes s port = 0 ∨ selfNo s ≥ peer then s
    else sendBare (updAssoc s port peer fun a => { a with state := 1 }) port peer

def initiateAll (s : State) (port : Nat) : State :=
  (s.forest.assocs.filter fun a => a.port == port && a.state == 0).foldl (fun s a => initiate s port a.peer) s

/-- Take a configuration as one action. -/
def loadForest (s : State) (f : ForestCfg) : State :=
  let old := s.forest.cfg
  let s1 := openAssocs { s with forest := { s.forest with cfg := some f, cfgNo := s.forest.cfgNo + 1 } } old f
  pump (refreshForest ((List.range 4).foldl initiateAll s1))

def forestFields (c : Cmd) : Bool := c.partOf == 0 && bitsOf c.cdw13.toNat 31 4 == 0

def configLoad (s : State) (q : Req) : State × Option Reply :=
  let f := parseForest q.c.buf
  let changes := match repl s with
    | some r => (match f.repl with | some x => x.slots != r.slots | none => true)
    | none => false
  guards s [(!forestFields q.c || q.c.cdw11 != 0 || !forestHeader q.c || !forestZeros q.c.buf || !forestSections s f, stInvalidField),
      (forestBusy s || (changes && storeHolds s), stSequence)] fun _ =>
    let s1 := loadForest s f
    done s1 s1.forest.cfgNo

def execForestConfigLoad (c : Cmd) (s : State) : Host.Outcome State Fault Refusal :=
  runForm c 0 (runPlain c 0xD1 false configLoad) s

def configStatus (s : State) (q : Req) : State × Option Reply :=
  guards s [(!forestFields q.c || q.c.cdw10 != 0 || q.c.cdw11 != 0, stInvalidField)] fun _ => done s (peersUp s).length

def execForestConfigStatus (c : Cmd) (s : State) : Host.Outcome State Fault Refusal :=
  runForm c 1 (runPlain c 0xD1 false configStatus) s

/-! Parity units (R456 to R458) -/

/-- The parity unit of a role of a stripe: zeros where it was never written. -/
def parityUnit (s : State) (r : ReplCfg) (t role : Nat) : Option (List Byte) :=
  match unitIdx s 0 (storeUnit r t role) with
  | none => none
  | some i => (unitVal s i).map fun v => bRead v.bytes 0 16384

/-- Write a parity unit through the write path of namespace 1, sealed under the group key: answers its version. -/
def writeParity (s : State) (r : ReplCfg) (t role : Nat) (l : List Byte) : State × Nat :=
  match unitIdx s 0 (storeUnit r t role) with
  | none => (s, 0)
  | some i =>
    enterUnit s 0 (storeUnit r t role) i 0 0 { bytes := bOfList (sub l 0 16384), form := 3, key := Config.groupKey, nonce := s.ftl.nextOrder }

/-- The write buffer has room for the parity unit. -/
def parityRoom (s : State) (r : ReplCfg) (t role : Nat) : Bool :=
  match unitIdx s 0 (storeUnit r t role) with | some i => slotFree s i | none => false

/-- Apply a delta that was not applied before; it is acknowledged once the parity unit is durable. -/
def applyDelta (s : State) (r : ReplCfg) (origin ident t role index : Nat) (delta : List Byte) : State :=
  let s0 := takeInbox s origin 1
  if ident ≤ aGetD s.forest.applied origin 0 then s0
  else
    match parityUnit s r t role with
    | none => s0
    | some p =>
      let (s1, o) := writeParity s0 r t role (xorBytes p (gfScale (cauchy role index) (sub delta 0 16384)))
      settle { s1 with forest := { s1.forest with applied := aPut s1.forest.applied origin ident
                                                  acks := s1.forest.acks ++ [(origin, ident, o)] } }

def execParityDelta (origin ident stripe role index : Nat) (delta : List Byte) (s : State) : Host.Outcome State Fault Refusal :=
  match repl s with
  | none => .next s
  | some r =>
    if ready s ∧ r.slots.contains origin ∧ origin ≠ selfNo s ∧ slotRole (selfSlot s r) stripe = some role ∧ index < 8 ∧ parityRoom s r stripe role then
      .next (applyDelta s r origin ident stripe role index delta)
    else .next s

/-- The journal lets go of a delta that its parity slot acknowledged (R458). -/
def execDeltaAck (ident slot : Nat) (s : State) : Host.Outcome State Fault Refusal :=
  match repl s with
  | none => .next s
  | some r =>
    let peer := r.slots.getD slot 0
    let s1 := takeInbox s peer 1
    .next { s1 with forest := { s1.forest with journal := s1.forest.journal.filter fun d => !(d.ident == ident && d.peer == peer) } }

/-- A parity slot computes the parity of a stale stripe anew from the eight data units (R458). -/
def recompute (s : State) (r : ReplCfg) (t : Nat) (units : List (List Byte)) : State :=
  let s1 := { s with forest := { s.forest with stale := s.forest.stale.filter (· != t) } }
  match slotRole (selfSlot s r) t with
  | none => s1
  | some role => (writeParity s1 r t role (gfSum 16384 (units.zipIdx.map fun x => (cauchy role x.2, sub x.1 0 16384)))).1

/-- Every other module of the replication group is reachable. -/
def groupReachable (s : State) (r : ReplCfg) : Bool := r.slots.all fun m => m == selfNo s || (peersUp s).contains m

def execStaleStripeRecompute (stripe : Nat) (units : List (List Byte)) (s : State) : Host.Outcome State Fault Refusal :=
  match repl s with
  | none => .next s
  | some r => .next (if ready s ∧ groupReachable s r ∧ units.length = 8 then recompute s r stripe units else s)

/-! Fragments (R459) -/

/-- The protected unit of slot d that lies in a stripe, where the stripe has one of it. -/
def unitOfStripe (d t : Nat) : Option Nat :=
  let k := (t % 11 + 21 - d) % 11
  if k < 8 then some (8 * (t / 11) + k) else none

/-- The place of a protected number: its partition and its unit. -/
def placeOfNo (l : List (Nat × Nat)) (n : Nat) : Option (Nat × Nat) :=
  match l with
  | [] => none
  | (p, k) :: rest => if n < k then some (p, n) else placeOfNo rest (n - k)

def protectedSpan (s : State) (r : ReplCfg) : List (Nat × Nat) :=
  (s.parts.filter fun e => isProtected r e.1).map fun e => (e.1, nsUnits e.2)

/-- The fragment that this module holds of a stripe: a parity unit or a data unit, none where it is poisoned. -/
def fragmentOf (s : State) (r : ReplCfg) (t : Nat) : Option (List Byte) :=
  let d := selfSlot s r
  match slotRole d t with
  | some role => parityUnit s r t role
  | none =>
    match (unitOfStripe d t).bind (placeOfNo (protectedSpan s r) ·) with
    | none => some (zeros 16384)
    | some (p, u) => ((unitIdx s p u).bind (unitVal s ·)).map unitBytes

/-- Serve a peer's request: the stripe and the role, then the fragment; an answer without one where it is poisoned. -/
def serveFragment (s : State) (r : ReplCfg) (peer t role : Nat) : State :=
  sendMsg (takeInbox s peer 1) peer 1 (toLe 8 t ++ toLe 2 role ++ zeros 54 ++ (fragmentOf s r t).getD []) none

def execFragmentRequest (peer : Nat) (stripe role : Nat) (s : State) : Host.Outcome State Fault Refusal :=
  match repl s with
  | none => .next s
  | some r =>
    .next (if ready s ∧ r.slots.contains peer ∧ peer ≠ selfNo s ∧ ((slotRole (selfSlot s r) stripe).getD 3 = min role 3) then
      serveFragment s r peer stripe role else s)

/-! FOREST-CONFIG RESTORE (R459) -/

/-- The fragments that the reachable slots of a stripe send, at most nine. -/
def fetchFragments (s : State) (r : ReplCfg) (t : Nat) : List (Nat × List Byte) :=
  let d := selfSlot s r
  (((List.range 11).filter fun k => k != d && (peersUp s).contains (r.slots.getD k 0)).take 9).map
    fun k => (k, sub (Config.fragment s.fresh t k) 0 16384)

/-- This slot's fragment of a stripe, rebuilt from eight others and checked against a ninth; none where that fails. -/
def ownFragment (s : State) (r : ReplCfg) (t : Nat) : Option (List Byte) :=
  let frs := fetchFragments s r t
  let eight := frs.take 8
  if frs.length < 8 then none
  else match frs[8]? with
    | some x => if rebuildFragment t x.1 eight == x.2 then some (rebuildFragment t (selfSlot s r) eight) else none
    | none => some (rebuildFragment t (selfSlot s r) eight)

/-- Restore one stripe: the data unit or the parity unit of this slot is written back. -/
def restoreStripe (r : ReplCfg) (s : State) (t : Nat) : State :=
  let frag := ownFragment s r t
  let s1 := { s with fresh := s.fresh + 1 }
  match frag, slotRole (selfSlot s r) t with
  | none, _ => bump s1 Reg.FOREST_EC_POISON 1
  | some l, some role => (writeParity s1 r t role l).1
  | some l, none =>
    match (unitOfStripe (selfSlot s r) t).bind (placeOfNo (protectedSpan s r) ·) with
    | none => s1
    | some (p, u) =>
      match unitIdx s1 p u with
      | none => s1
      | some i =>
        let (s2, o) := enterUnit s1 p u i 0 0 { bytes := bOfList l, form := 0, key := 0, nonce := 0 }
        { s2 with ftl := { s2.ftl with buf := s2.ftl.buf.map fun b => if b.order = o then { b with rebuilt := true } else b } }

def configRestore (s : State) (q : Req) : State × Option Reply :=
  guards s [(!forestFields q.c || q.c.cdw10 != 0 || q.c.cdw11 != 0, stInvalidField), ((repl s).isNone, stSequence)] fun _ =>
    match repl s with
    | none => fail s stSequence
    | some r =>
      let n := 11 * ((r.units + 7) / 8)
      done (refreshForest ((List.range n).foldl (restoreStripe r) s)) n

def execForestConfigRestore (c : Cmd) (s : State) : Host.Outcome State Fault Refusal :=
  runForm c 2 (runPlain c 0xD1 false configRestore) s

end Sys2Proof.Machine
end

