-- ==== Sys2Proof/Machine/ForestLinks.lean ====
section
/-! DEFINITION. The peer links: training, handshakes, frames and their acknowledgement (R441 to R450, R462). -/

namespace Sys2Proof.Machine

/-! Ports (R441, R462) -/

/-- Lanes that a port trains on: all four, or a healthy pair 0–1 or 2–3. -/
def trainedLanes (l : List Bool) : Nat :=
  let h := fun i => l.getD i false
  if h 0 && h 1 && h 2 && h 3 then 4 else if (h 0 && h 1) || (h 2 && h 3) then 2 else 0

/-- A port has trained on its healthy lanes, or stays in training with too few. -/
def trainPort (s : State) (port : Nat) (lanes : List Bool) : State :=
  let n := trainedLanes lanes
  let s1 := setF { s with forest := { s.forest with cables := aPut s.forest.cables port n } } (chwReg port Reg.CHW_STAT) Fld.CHW_STAT_state 1
  pump (refreshForest (if n = 0 then s1 else initiateAll s1 port))

def execCableAttach (port : Nat) (healthyLanes : List Bool) (s : State) : Host.Outcome State Fault Refusal :=
  .next (if port < 4 ∧ ready s then trainPort s port healthyLanes else s)

def execCableRemove (port : Nat) (s : State) : Host.Outcome State Fault Refusal :=
  .next (if port < 4 then
    refreshForest (setF { s with forest := { s.forest with cables := aDel s.forest.cables port } } (chwReg port Reg.CHW_STAT) Fld.CHW_STAT_state 0)
  else s)

def execLinkRetrain (port : Nat) (uncorrectable : Nat) (healthyLanes : List Bool) (s : State) : Host.Outcome State Fault Refusal :=
  .next (if port < 4 ∧ ready s ∧ aHas s.forest.cables port then
    trainPort (bump s (chwReg port Reg.CHW_FEC_UNCORR) uncorrectable) port healthyLanes else s)

/-! Handshakes (R448, R449) -/

/-- The reason a check of a handshake message fails: 1 chain, 2 certificate digest, 3 forest, 4 signature, 5 no common
generation; chain and signature are in REPLY and CONFIRM, forest and generations in HELLO and REPLY. -/
def refusal (s : State) (h : Handshake) (sealedMsg names : Bool) : Option Nat :=
  let forest := match s.forest.cfg with | some c => c.forestId == h.forestId.toNat | none => false
  if sealedMsg ∧ !h.chainOk then some 1
  else if sealedMsg ∧ !h.certOk then some 2
  else if names ∧ !forest then some 3
  else if sealedMsg ∧ !h.sigOk then some 4
  else if names ∧ !h.generations.getLsbD 1 then some 5
  else none

/-- A refused association stays down, and its port posts why. -/
def refusePeer (s : State) (port peer reason : Nat) : State :=
  post (updAssoc s port peer fun a => { Assoc.start port peer 0 with parts := a.parts, finished := a.finished })
    (chowenPage port) 0x0508 0 peer reason

/-- The association is open: under generation 1, with new keys, at frame 0 and epoch 0. -/
def openAssoc (s : State) (port peer : Nat) : State :=
  let s1 := updAssoc s port peer fun a => { Assoc.start port peer 3 with generation := 1, finished := a.finished }
  pump (refreshForest s1)

def linkUp (s : State) (port : Nat) : Bool := decide (port < 4) && decide (portLanes s port > 0) && ready s

/-- HELLO reaches the responder: an association that was up starts anew. -/
def execHello (port peer : Nat) (h : Handshake) (s : State) : Host.Outcome State Fault Refusal :=
  match findAssoc s port peer with
  | none => .next s
  | some _ =>
    if !linkUp s port ∨ peer ≥ selfNo s then .next s
    else
      let s1 := assocDown s port peer
      match refusal s1 h false true with
      | some n => .next (refusePeer s1 port peer n)
      | none => .next (sendBare (updAssoc s1 port peer fun a => { a with state := 2 }) port peer)

/-- REPLY reaches the initiator that sent HELLO; it answers CONFIRM. -/
def execReply (port peer : Nat) (h : Handshake) (s : State) : Host.Outcome State Fault Refusal :=
  match findAssoc s port peer with
  | none => .next s
  | some a =>
    if !linkUp s port ∨ a.state ≠ 1 then .next s
    else match refusal s h true true with
      | some n => .next (refusePeer s port peer n)
      | none => .next (openAssoc (sendBare s port peer) port peer)

/-- CONFIRM reaches the responder that sent REPLY. -/
def execConfirm (port peer : Nat) (h : Handshake) (s : State) : Host.Outcome State Fault Refusal :=
  match findAssoc s port peer with
  | none => .next s
  | some a =>
    if !linkUp s port ∨ a.state ≠ 2 then .next s
    else match refusal s h true false with
      | some n => .next (refusePeer s port peer n)
      | none => .next (openAssoc s port peer)

/-- A refused or down association tries again: the initiator sends HELLO, the responder waits for one. -/
def execHandshakeRetry (port peer : Nat) (s : State) : Host.Outcome State Fault Refusal :=
  match findAssoc s port peer with
  | none => .next s
  | some a =>
    if !linkUp s port ∨ a.state = 3 then .next s
    else .next (initiate (updAssoc s port peer fun a => { a with state := 0 }) port peer)

/-! Received frames (R444, R445) -/

/-- What the checks of a frame before its sequence number say. -/
inductive FrameCheck where
  | lost | bad | badTag | good
  deriving DecidableEq, Repr

def checkFrame (s : State) (f : Frame) (a : Option Assoc) : FrameCheck :=
  match a with
  | none => if f.crcOk then .bad else .lost
  | some x =>
    if !f.crcOk then .lost
    else if x.state ≠ 3 ∨ f.generation ≠ x.generation ∨ f.dst ≠ selfNo s then .bad
    else if !f.tagOk ∨ !(f.epoch == x.rxEpoch || f.epoch == x.rxEpoch + 1) then .badTag
    else .good

/-- A tag failure: the sixteenth within one second takes the association down, which then shakes hands again. -/
def tagFailure (s : State) (port peer : Nat) : State :=
  let s1 := bump s (chwReg port Reg.CHW_BADTAG) 1
  let s2 := updAssoc s1 port peer fun a => { a with tagFails := (a.tagFails.filter fun t => s.tb < t + 100000000) ++ [s.tb] }
  match findAssoc s2 port peer with
  | some a => if a.tagFails.length ≥ 16 then initiate (assocDown s2 port peer) port peer else s2
  | none => s2

/-- Take a frame through its checks; go on with it where they pass: its acknowledgement is taken, and the first frame of
the next epoch erases the old key (R450). -/
def receiveFrame (s : State) (port : Nat) (f : Frame) (k : State → Assoc → State) : State :=
  let a := findAssoc s port f.src
  match checkFrame s f a, a with
  | .lost, _ => bump s (chwReg port Reg.CHW_CRC) 1
  | .badTag, _ => tagFailure s port f.src
  | .good, some x =>
    k (handleAck (updAssoc s port f.src fun a => { a with rxEpoch := max a.rxEpoch f.epoch }) port f.src f.ack) x
  | _, _ => bump s (chwReg port Reg.CHW_BAD) 1

/-- Put a frame's payload into its message; a message number completed before is ignored (R453). -/
def deliverPayload (s : State) (port : Nat) (f : Frame) : State :=
  let seen := s.forest.assocs.any fun a => a.peer == f.src && a.finished.contains f.msgNo
  if seen then s
  else
    match findAssoc s port f.src with
    | none => s
    | some a =>
      let have0 := aGetD a.parts f.msgNo []
      let l := sub have0 0 (64 * f.msgOff) ++ f.payload
      if f.last then
        let s1 := updAssoc s port f.src fun a => { a with parts := aDel a.parts f.msgNo, finished := a.finished ++ [f.msgNo] }
        { s1 with forest := { s1.forest with inbox := s1.forest.inbox ++ [(f.src, f.channel, l)] } }
      else updAssoc s port f.src fun a => { a with parts := aPut a.parts f.msgNo l }

/-- The frame in order is accepted and delivered. -/
def acceptFrame (s : State) (port : Nat) (f : Frame) : State :=
  let s1 := updAssoc (bumpPair s (chwReg port Reg.CHW_RX_LO) 1) port f.src fun a =>
    { a with expect := (a.expect + 1) % 2 ^ 24, unackedRx := a.unackedRx + 1 }
  if f.kind = 0 then deliverPayload s1 port f else s1

/-- A frame out of order: a nak goes out, at most once per ack_us. -/
def outOfOrder (s : State) (port peer : Nat) (a : Assoc) : State :=
  let s1 := bump s (chwReg port Reg.CHW_OOO) 1
  let gap := 100 * getF s (chwReg port Reg.CHW_LINK_CFG) Fld.CHW_LINK_CFG_ack_us
  let due := match a.nakAt with | some t => decide (t + gap ≤ s.tb) | none => true
  if due then sendBare (updAssoc s1 port peer fun a => { a with nakAt := some s.tb }) port peer else s1

def numbered (s : State) (port : Nat) (f : Frame) (room : Bool) (a : Assoc) : State :=
  if f.seq = a.expect then (if room then acceptFrame s port f else s)
  else if seqBefore f.seq a.expect then sendAck (bump s (chwReg port Reg.CHW_DUP) 1) port f.src
  else outOfOrder s port f.src a

def execDataFrameReceive (port : Nat) (f : Frame) (room : Bool) (s : State) : Host.Outcome State Fault Refusal :=
  .next (if linkUp s port ∧ (f.kind = 0 ∨ f.kind = 4) then receiveFrame s port f (fun s a => numbered s port f room a) else s)

def execAckFrameReceive (port : Nat) (f : Frame) (s : State) : Host.Outcome State Fault Refusal :=
  .next (if linkUp s port ∧ f.kind = 1 then
    receiveFrame s port f (fun s _ => bumpPair s (chwReg port Reg.CHW_RX_LO) 1) else s)

def execNakFrameReceive (port : Nat) (f : Frame) (s : State) : Host.Outcome State Fault Refusal :=
  .next (if linkUp s port ∧ f.kind = 2 then
    receiveFrame s port f (fun s _ => resend (bumpPair s (chwReg port Reg.CHW_RX_LO) 1) port f.src) else s)

/-- A key-update frame in order (R450): the receiver goes on to the next epoch and erases the old key at its first frame. -/
def execKeyUpdateFrame (port peer : Nat) (s : State) : Host.Outcome State Fault Refusal :=
  match findAssoc s port peer with
  | none => .next s
  | some a =>
    if !linkUp s port ∨ a.state ≠ 3 ∨ a.rxEpoch ≥ 255 then .next s
    else
      let f : Frame := { crcOk := true, tagOk := true, kind := 4, channel := 3, generation := a.generation, seq := a.expect,
                         epoch := a.rxEpoch, ack := a.txSeq, src := peer, dst := selfNo s, msgNo := 0, msgOff := 0, last := true, payload := [] }
      .next (updAssoc (acceptFrame s port f) port peer fun a => { a with rxEpoch := a.rxEpoch + 1 })

/-! Acknowledgement (R446) -/

def execAckFrameSend (port peer : Nat) (s : State) : Host.Outcome State Fault Refusal :=
  match findAssoc s port peer with
  | none => .next s
  | some a => .next (if linkUp s port ∧ a.state = 3 ∧ a.unackedRx > 0 then sendAck s port peer else s)

/-- The oldest unacknowledged frame is older than ack_us: all are sent again; after retry_max timeouts in a row the
association goes down. -/
def execResendTimeout (port peer : Nat) (s : State) : Host.Outcome State Fault Refusal :=
  match findAssoc s port peer with
  | none => .next s
  | some a =>
    if a.state ≠ 3 ∨ a.replay.isEmpty then .next s
    else if a.timeouts + 1 ≥ getF s (chwReg port Reg.CHW_LINK_CFG) Fld.CHW_LINK_CFG_retry_max then .next (assocDown s port peer)
    else .next (resend (updAssoc s port peer fun a => { a with timeouts := a.timeouts + 1 }) port peer)

end Sys2Proof.Machine
end

