-- ==== Sys2Proof/Machine/VendorIo.lean ====
section
/-! DEFINITION. The meanings of the vendor I/O commands on objects, progress records and extents, and of VZ-RUN (R157,
R187, R387, R388, R397 to R400, R564). -/

namespace Sys2Proof.Machine

/-! VZ_INGEST (R22, R25, R305, R387) -/

/-- An append of n container bytes at an LBA may not go on. -/
def appendChecks (s : State) (q : Req) (slba n : Nat) : List (Bool × Status) :=
  let p := getPart s q.part
  let lba := lbaSize p
  let lbas := (n + lba - 1) / lba
  [(q.c.cdw11 != 0 || bitsOf q.c.cdw13.toNat 31 4 != 0 || decide (q.pay.length < 64) || !allZero q.pay 16 48
      || decide (64 + n > q.pay.length) || (getIndex s q.part).isNone, stInvalidField),
    (unsealed s q.part, stNotSealed), (decide (n < 28 + gAttrs p.desc), stInvalidField),
    (decide (slba + lbas > nsLbas p), stLbaRange), (rangeProtected s q.part (slba * lba) (lbas * lba), stWriteProtected)]

/-- Number an object and enter it in the ingest list of the season that is open. -/
def enterObject (s : State) (p slba n : Nat) : State × Nat × Nat :=
  let obj := (getPart s p).nextObject
  let season := match getIndex s p with | some x => x.season | none => 0
  let o : Listed := { slba := slba, length := n, season := season, auth := none, plain := [], formed := 0, vectors := [] }
  let s1 := updPart s p fun q => { q with nextObject := q.nextObject + 1 }
  (updIndex s1 p fun x => { x with ingest := aPut x.ingest obj o }, obj, season)

def ingestAppend (s : State) (q : Req) : State × Option Reply :=
  let slba := leAt q.pay 0 8
  let n := leAt q.pay 8 8
  let lba := lbaSize (getPart s q.part)
  let off := slba * lba
  let pieces := piecesOf off (sub q.pay 64 ((n + lba - 1) / lba * lba))
  guards s (appendChecks s q slba n) fun _ =>
    if waitsForShare s q.part off (piecesLen pieces) then holdCmd s q.c
    else if pieces.any (pieceBlocked s q.part) then fail s stPoisoned
    else
      let (s1, obj, season) := enterObject (accept s q.c q.opcode q.session) q.part slba n
      let w : WaitingWrite := { sqid := q.c.sqid, cid := q.c.cid, partition := q.part, pieces := pieces, orders := [],
                                durable := q.c.durable, dw0 := BitVec.ofNat 32 obj,
                                dw1 := BitVec.ofNat 32 (obj / 2 ^ 32 % 2 ^ 16 + season % 2 ^ 16 * 2 ^ 16) }
      (pushWrite s1 w s1.ftl.waiting, none)

/-- Clear-mode ingest is allowed to the command's partition (R419). -/
def clearIngest (s : State) (c : Cmd) : Bool := bitOf (getPart s c.partOf).cfg 1

def execVzIngestAppend (c : Cmd) (o : Opened) (s : State) : Host.Outcome State Fault Refusal :=
  runForm c 0 (runSealed c 0x81 true (clearIngest s c) false o ingestAppend) s

/-- The nodes of an object that no tombstone names: those of the current version, those in staging. -/
def objectNodes (x : Index) (obj : Nat) : List Nat :=
  let live := fun (e : Nat × NodeRec) => e.2.object == obj && e.2.state == 1 && !x.tombs.contains e.1
  let flash := match aGet? x.flash x.version with | some v => (v.nodes.filter live).map (·.1) | none => []
  flash ++ ((x.staging.filter live).map (·.1)).filter fun n => !flash.contains n

def ingestDelete (s : State) (q : Req) : State × Option Reply :=
  let obj := leAt q.pay 0 8
  guards s [(q.c.cdw11 != 0 || bitsOf q.c.cdw13.toNat 31 4 != 0 || decide (q.pay.length < 64) || !allZero q.pay 8 56,
      stInvalidField), (unsealed s q.part, stNotSealed)] fun _ =>
    match getIndex s q.part with
    | none => fail s stInvalidField
    | some x =>
      if aHas x.ingest obj then done (updIndex s q.part fun x => { x with ingest := aDel x.ingest obj }) 0
      else
        let l := objectNodes x obj
        if l.isEmpty then fail s stInvalidField
        else if x.tombs.length + l.length > gStaging (getPart s q.part).desc then fail s stQuota
        else done (updIndex s q.part fun x => { x with tombs := x.tombs ++ l }) l.length

def execVzIngestDelete (c : Cmd) (o : Opened) (s : State) : Host.Outcome State Fault Refusal :=
  runForm c 1 (runSealed c 0x81 true (clearIngest s c) false o ingestDelete) s

/-! VZ_PROGRESS (R397, R399, R400) -/

/-- The record of a command as it stands: of a running one, that of its entry among the outstanding commands. -/
def liveRecord (s : State) (r : ProgRec) : ProgRec :=
  if r.fin then r else match findOut s r.sqid r.cid with | some o => o.prog | none => r

/-- The records kept for a partition. -/
def keptRecords (s : State) (p : Nat) : List ProgRec :=
  let q := getPart s p
  let w := q.window.map fun e => liveRecord s e.prog
  let nvm := (s.host.outstanding.filter fun o => !o.vendor && o.part == some p).map (·.prog)
  q.records ++ w ++ nvm

/-- The newest of some records. -/
def newest (l : List ProgRec) : Option ProgRec :=
  l.foldl (fun b r => match b with | none => some r | some x => if x.accepted ≤ r.accepted then some r else some x) none

def progressOf (s : State) (c : Cmd) : Option ProgRec :=
  let l := keptRecords s c.partOf
  let v := c.cdw11.toNat
  if bitsOf c.cdw13.toNat 1 0 = 0 then newest (l.filter fun r => r.nonce == c.nonce && c.nonce != 0)
  else newest (l.filter fun r => r.sqid == v / 2 ^ 16 && r.cid == v % 2 ^ 16)

def progressCmd (c : Cmd) (s : State) : State × Option Reply :=
  let key := bitsOf c.cdw13.toNat 1 0
  guards s [(c.cdw12 &&& 0xBFFEF000#32 != 0 || decide (key > 1) || bitsOf c.cdw13.toNat 31 2 != 0
      || (key == 0 && c.cdw11 != 0) || (key == 1 && c.nonce != 0) || decide (c.bufLen < 128), stInvalidField),
      (!aHas s.life c.partOf, stInvalidNs)] fun _ =>
    match progressOf s c with
    | some r => (s, some (replyData 0 (progBytes r)))
    | none => fail s stInvalidField

def execVzProgress (c : Cmd) (s : State) : Host.Outcome State Fault Refusal := runCmd c 0x8A (progressCmd c) s

/-! EXTENT_ADD, EXTENT_REMOVE (R187, R261, R388) -/

/-- The operator's partitions, for which the extent forms are clear. -/
def operatorPart (c : Cmd) : Bool := c.partOf == 0 || c.partOf == 4095

/-- The lowest free handle of a partition. -/
def freeExtent (q : Part) : Option Nat := ((List.range 1023).map (· + 1)).find? fun h => !aHas q.extents h

def extentFrozen (s : State) (p : Nat) : Bool := p == 4095 && modelFrozen s

def addExtent (s : State) (q : Req) : State × Option Reply :=
  let b := q.pay
  let off := leAt b 0 8
  let len := leAt b 8 8
  let policy := leAt b 16 1
  let p := getPart s q.part
  let hit := p.extents.any fun e => decide (off < e.2.offset + e.2.length) && decide (e.2.offset < off + len)
  guards s [(!formFields q.c || q.c.handle != 0 || b.length != 64 || off % 65536 != 0 || len % 65536 != 0 || len == 0
        || decide (len > 2 ^ 40) || decide (policy > 1) || !allZero b 17 47, stInvalidField),
      (unsealed s q.part, stNotSealed), (extentFrozen s q.part, stSequence), (decide (off + len > nsCapacity s q.part), stLbaRange),
      (hit, stInvalidField), ((freeExtent p).isNone || !fits s q.part 4 len, stQuota)] fun _ =>
    let h := (freeExtent p).getD 0
    let x : Extent := { offset := off, length := len, policy := policy }
    done (charge (updPart s q.part fun p => { p with extents := aPut p.extents h x }) q.part 4 len) h

def execExtentAdd (c : Cmd) (o : Opened) (s : State) : Host.Outcome State Fault Refusal :=
  runForm c 0 (runSealed c 0x8D (!operatorPart c) (operatorPart c) false o addExtent) s

/-- The buffer table of a job in the dispatcher names an extent. -/
def extentUsed (s : State) (p h : Nat) : Bool :=
  s.jobs.any fun e => match jobAlm s e.2 with
    | some a => a.bufs.any fun b => b.tier == 4 && b.owner == p && b.handle == h
    | none => false

/-- The resident pages of a range are evicted, those pinned once their pins are released (R194). -/
def evictRange (s : State) (p off len : Nat) : State :=
  ((s.mem.resident.map (·.1)).filter fun k => k / 2 ^ 40 == p && decide (off / 65536 ≤ k % 2 ^ 40)
    && decide (k % 2 ^ 40 < (off + len) / 65536)).foldl (fun s k => staleCopy s p (k % 2 ^ 40)) s

def removeExtent (s : State) (q : Req) : State × Option Reply :=
  let h := q.c.handle
  guards s [(!formFields q.c || q.pay.length != 0, stInvalidField), (unsealed s q.part, stNotSealed),
      (extentFrozen s q.part, stSequence)] fun _ =>
    match aGet? (getPart s q.part).extents h with
    | none => fail s stInvalidField
    | some x =>
      if extentUsed s q.part h then fail s stInvalidField
      else
        let s1 := updPart s q.part fun p => { p with extents := aDel p.extents h }
        done (evictRange (credit s1 q.part 4 x.length) q.part x.offset x.length) 0

def execExtentRemove (c : Cmd) (o : Opened) (s : State) : Host.Outcome State Fault Refusal :=
  runForm c 1 (runSealed c 0x8D (!operatorPart c) (operatorPart c) false o removeExtent) s

/-! VZ_RUN (R157, R386, R564) -/

/-- Bytes that the payload must have. -/
def payloadLen (a : Alm) : Nat :=
  if a.owner = 4095 then 0
  else ((a.bufs.filter fun b => b.tier == 3 && b.kind == 1 && b.owner == a.owner).map (·.size)).sum

/-- Bytes of the longest answer. -/
def answerLen (a : Alm) : Nat := 64 + ((a.bufs.filter (·.kind == 3)).map (·.size)).sum

structure HostRegion where
  num : Nat
  off : Nat
  len : Nat
  deriving DecidableEq, Repr

/-- The host region table at an offset of the data buffer. -/
def regionTable (b : List Byte) (o : Nat) : List HostRegion :=
  (List.range (leAt b o 4)).map fun i =>
    let e := o + 64 + 32 * i
    { num := leAt b e 4, off := leAt b (e + 8) 8, len := leAt b (e + 16) 8 }

/-- Two ranges overlap. -/
def meets (a n b m : Nat) : Bool := decide (a < b + m) && decide (b < a + n)

/-- No two regions share a number or overlap. -/
def regionsApart : List HostRegion → Bool
  | [] => true
  | x :: r => (r.all fun y => x.num != y.num && !meets x.off x.len y.off y.len) && regionsApart r

/-- The host region table of a run keeps R564. busy is how far the payload and the answer reach. -/
def regionsOk (q : Req) (a : Alm) : Bool :=
  let b := q.c.buf
  let o := q.c.cdw11.toNat * 64
  let slots := a.bufs.filter (·.tier == 5)
  if slots.isEmpty then q.c.cdw11 == 0
  else
    let n := leAt b o 4
    let l := regionTable b o
    let busy := max (64 + q.pay.length) (answerLen a)
    let entries := (List.range n).all fun i => allZero b (o + 68 + 32 * i) 4 && allZero b (o + 88 + 32 * i) 8
    q.c.cdw11 != 0 && decide (o + 64 ≤ q.c.bufLen) && 1 ≤ n && n ≤ 256 && allZero b (o + 4) 60
      && decide (o + 64 + 32 * n ≤ q.c.bufLen) && entries && regionsApart l && !meets o (64 + 32 * n) 0 busy
      && (l.all fun x => x.off % 65536 == 0 && x.len % 65536 == 0 && decide (x.off + x.len ≤ q.c.bufLen)
            && !meets x.off x.len 0 busy)
      && slots.all fun d => l.any fun x => x.num == d.handle && decide ((d.offset + d.size) * 1025 / 1024 ≤ x.len)

/-- A GATHER or SCATTER of a table reaches beyond its buffer, or names no table of the partition (R317). -/
def rowsOver (s : State) (a : Alm) (part e : Nat) : Bool :=
  let f := rowFields e
  if (entryClass e = 5 ∨ entryClass e = 6) ∧ 1 ≤ f.table ∧ f.table ≤ 255 then
    match aGet? s.tables (tabKey part f.table), bufOf a f.dbuf with
    | some t, some b => decide (f.doff + rowSpacing t.dim t.fmt (if entryClass e = 6 then 2 else f.opt) * f.count > b.size)
    | _, _ => true
  else false

/-- A buffer in an extent that is not registered, or beyond its length. -/
def extentOver (s : State) (b : BufDef) : Bool :=
  b.tier == 4 && (match extentOf s b with | some x => decide (b.offset + b.size > x.length) | none => true)

/-- Step 3 of R157 fails at an item: the index of the entry within its calendar, or of the buffer within its table (R155). -/
def namesBad (s : State) (a : Alm) : Option Nat :=
  match (a.cals.findSome? fun c => c.entries.findIdx? (rowsOver s a a.owner)) with
  | some i => some i
  | none => a.bufs.findIdx? (extentOver s)

/-- A job of an almanac as it is queued. -/
def Job.queued (a : Alm) (handle cls kind sqid cid : Nat) (session : Option Nat) (command : Bool) : Job :=
  { partition := a.owner, handle := handle, cls := cls, kind := kind, sqid := sqid, cid := cid, session := session,
    command := command, isBound := false, copses := [], glades := [], bases := [], rangers := [], rbases := [],
    borrower := false, cals := [], toks := [], staging := [], pages := [], work := [], held := [], reads := [], input := [],
    day := 0, dayStart := 0, restarts := 0, faultRestarts := 0, copseRestarts := 0, poisonRestarts := 0, sealRestarts := 0,
    dropPosted := false, orders := [], pfDepth := 0, pfDone := [], rows := [], tables := [], jobKey := 0, nextSeq := 1, slots := [],
    prefetched := [], regions := [], segDir := [], gang := none, copy := 0, maxima := [], exps := [], finished := false }

/-- Queue a job: its resources are charged (R157 steps 5 and 6); it takes the prefetch depth now in force (R542). -/
def queueJob (s : State) (a : Alm) (j : Job) : State × Nat :=
  let s1 := chargeAll s j.partition (jobCharges s a)
  let depth := getF s Reg.MIG_PF_CFG (if j.cls = 0 then Fld.MIG_PF_CFG_depth_lc else Fld.MIG_PF_CFG_depth_be)
  ({ s1 with jobs := aPut s1.jobs s1.nextJob { j with pfDepth := depth }, nextJob := s1.nextJob + 1 }, s1.nextJob)

/-- The handle names an almanac that the command may run: of its partition, or a commons almanac for the operator; not
one with a row plan, which the engines of the commons run. -/
def runnable (s : State) (q : Req) : Option Alm :=
  match aGet? s.alms q.c.handle with
  | some a => if a.plan.isNone ∧ (a.owner = q.part ∨ (a.owner = 4095 ∧ operatorPart q.c)) then some a else none
  | none => none

def runAlmanac (s : State) (q : Req) : State × Option Reply :=
  let h := q.c.handle
  guards s [(bitsOf q.c.cdw13.toNat 15 0 != 0, stInvalidField), (unsealed s q.part, stNotSealed)] fun _ =>
    match runnable s q with
    | none => rejectCmd s q.part ⟨0x13, 0, 7, h⟩
    | some a =>
      let cls := if q.c.bestEffort then 1 else 0
      let slots := a.bufs.any (·.tier == 5)
      if q.pay.length ≠ payloadLen a ∨ answerLen a > q.c.bufLen ∨ !regionsOk q a then fail s stInvalidField
      else if (namesBad s a).isSome then rejectCmd s q.part ⟨0x19, (namesBad s a).getD 0, 7, h⟩
      else if !couldBind s a cls then rejectCmd s q.part ⟨0x14, 0, 7, h⟩
      else if !chargesFit s a.owner (jobCharges s a) then fail s stQuota
      else if slots ∧ !trngOk s then fail s stInternal
      else
        let (k, s1) := if slots then draw s else (0, s)
        let j := { Job.queued a h cls 0 q.c.sqid q.c.cid q.session true with input := q.pay, jobKey := k }
        ((queueJob s1 a j).1, none)

def execVzRun (c : Cmd) (o : Opened) (s : State) : Host.Outcome State Fault Refusal :=
  runSealed c 0x87 (!operatorPart c) (operatorPart c) true o runAlmanac s

end Sys2Proof.Machine
end

