-- ==== Sys2Proof/Machine/Graphs.lean ====
section
/-! DEFINITION. Graphs: the distances and their keys, filters, the traversal that searches and entry searches share, the
exhaustive scan, and the layout of graph pages (R286 to R300, R304). -/

namespace Sys2Proof.Machine

/-! Distances (R290, R291) -/

/-- An element of an FP16 vector as a whole number of 2^-24, and 1 where it is not finite and counts as 0. -/
def fp16Elem (c : Nat) : Int × Nat :=
  match fmtFP16.decode c with | .fin n m t => (signed n (m * pow2 (t + 24)), 0) | _ => (0, 1)

/-- The elements of a query. -/
def queryElems (d q : List Byte) : List Int :=
  (List.range (gDims d)).map fun i => if gFmt d = 2 then (fp16Elem (leAt q (2 * i) 2)).1 else int8 (leAt q i 1)

/-- A codebook entry. -/
def bookElem (d : List Byte) (c : Nat) : Int := int8 (leAt d (0x18 + c) 1)

/-- The elements of a node's vector. -/
def nodeElems (d v : List Byte) : List Int :=
  (List.range (gDims d)).map fun i =>
    if gFmt d = 0 then int8 (leAt v i 1)
    else if gFmt d = 1 then bookElem d (let b := leAt v (i / 2) 1; if i % 2 = 0 then b % 16 else b / 16)
    else (fp16Elem (leAt v (2 * i) 2)).1

/-- Stored FP16 elements of a node taken as 0. -/
def badElems (d v : List Byte) : Nat :=
  if gFmt d = 2 then ((List.range (gDims d)).map fun i => (fp16Elem (leAt v (2 * i) 2)).2).sum else 0

def dotProduct (a b : List Int) : Int := ((a.zip b).map fun x => x.1 * x.2).sum

/-- A number that orders FP32 codes as their values, −0 and +0 as one. -/
def fp32Order (c : Nat) : Int := if c ≥ 2 ^ 31 then -((c - 2 ^ 31 : Nat) : Int) else (c : Int)

/-- The FP32 code of an exact value v × 2^-48 rounded once. -/
def fp32OfGrid (v : Int) : Nat := fp32Round .rne 0 (v < 0) v.natAbs (-48)

/-- The FP32 code of P ÷ √(Q × V), 0 where a sum is 0. -/
def cosineCode (p q v : Int) : Nat :=
  if p = 0 ∨ q = 0 ∨ v = 0 then 0
  else (if p < 0 then 2 ^ 31 else 0) + fp32Root .rne 0 (p.natAbs * p.natAbs) (q.natAbs * v.natAbs) 0

/-- The key of a node: the number it is ordered by, and its code. -/
def keyOf (d : List Byte) (q v : List Int) : Int × Nat :=
  let p := dotProduct q v
  if gMetric d = 1 then
    let c := cosineCode p (dotProduct q q) (dotProduct v v)
    let k := if c ≥ 2 ^ 31 then c - 2 ^ 31 else c + 2 ^ 31
    (fp32Order k, k)
  else
    let x : Int := if gMetric d = 0 then -p else ((q.zip v).map fun e => (e.1 - e.2) * (e.1 - e.2)).sum
    if gFmt d = 2 then let k := fp32OfGrid x; (fp32Order k, k) else (x, (BitVec.ofInt 32 x).toNat)

/-- The order of R291. -/
def candBefore (a b : Cand) : Bool := decide (a.ord < b.ord) || (decide (a.ord = b.ord) && decide (a.node < b.node))

def insertCand (x : Cand) : List Cand → List Cand
  | [] => [x]
  | y :: r => if candBefore x y then x :: y :: r else y :: insertCand x r

/-! Filters (R293) -/

def parseOp (b : List Byte) (o : Nat) : FilterOp :=
  let f := leAt b (o + 1) 1
  { op := leAt b o 1, width := 2 ^ (f % 4), isSigned := bitOf f 2, offset := leAt b (o + 2) 1,
    value := leAt b (o + 8) 8 % 2 ^ (8 * 2 ^ (f % 4)) }

def isCompare (op : Nat) : Bool := 1 ≤ op && op ≤ 8

/-- The reserved bytes of an instruction are zero, its op is in the table, its field lies within the attributes. -/
def opOk (b : List Byte) (attrs o : Nat) : Bool :=
  let x := parseOp b o
  decide (leAt b (o + 1) 1 < 8) && allZero b (o + 3) 5 &&
    ((isCompare x.op && decide (x.offset + x.width ≤ attrs)) || x.op == 0x10 || x.op == 0x11 || x.op == 0x12)

/-- The depth of the evaluation stack after a program; none where it pops too much or pushes too deep. -/
def opDepth : List FilterOp → Nat → Option Nat
  | [], n => some n
  | x :: r, n =>
    if isCompare x.op then (if n ≥ 8 then none else opDepth r (n + 1))
    else if x.op = 0x12 then (if n = 0 then none else opDepth r n)
    else if n < 2 then none else opDepth r (n - 1)

/-- The program of n instructions at an offset; none where it breaks R293. -/
def readFilter (b : List Byte) (o n attrs : Nat) : Option (List FilterOp) :=
  let l := (List.range n).map fun i => parseOp b (o + 16 * i)
  if !((List.range n).all fun i => opOk b attrs (o + 16 * i)) then none
  else match opDepth l 0 with
    | some k => if n = 0 ∨ k = 1 then some l else none
    | none => none

/-- A number of w bytes as a signed one. -/
def signedOf (w v : Nat) : Int := if v ≥ 2 ^ (8 * w - 1) then (v : Int) - 2 ^ (8 * w) else v

/-- What a comparing instruction pushes. -/
def evalOp (x : FilterOp) (attrs : List Byte) : Bool :=
  let f := leAt attrs x.offset x.width
  let a : Int := if x.isSigned then signedOf x.width f else f
  let b : Int := if x.isSigned then signedOf x.width x.value else x.value
  if x.op = 1 then f == x.value else if x.op = 2 then f != x.value
  else if x.op = 3 then decide (a < b) else if x.op = 4 then decide (a ≤ b)
  else if x.op = 5 then decide (a > b) else if x.op = 6 then decide (a ≥ b)
  else if x.op = 7 then f &&& x.value == x.value else f &&& x.value != 0

def runFilter (attrs : List Byte) : List FilterOp → List Bool → Bool
  | [], st => st.headD true
  | x :: r, st =>
    if isCompare x.op then runFilter attrs r (evalOp x attrs :: st)
    else match st with
      | a :: b :: t => if x.op = 0x12 then runFilter attrs r ((!a) :: b :: t)
          else runFilter attrs r ((if x.op = 0x10 then a && b else a || b) :: t)
      | [a] => runFilter attrs r [if x.op = 0x12 then !a else a]
      | [] => runFilter attrs r []

/-! Traversal (R295 to R298) -/

/-- What a search sees: its pinned graph version, staging entries and tombstones. -/
structure View where
  desc : List Byte
  nodes : AMap NodeRec
  hw : Nat
  entries : List Nat
  staging : AMap NodeRec
  tombs : List Nat

/-- The record of a node: that of the graph version, else that of staging. -/
def View.get (v : View) (y : Nat) : Option NodeRec :=
  match (if y < v.hw then aGet? v.nodes y else none) with
  | some r => if r.state = 0 then aGet? v.staging y else some r
  | none => aGet? v.staging y

/-- A node of the graph version. -/
def View.onFlash (v : View) (y : Nat) : Bool :=
  y < v.hw && (match aGet? v.nodes y with | some r => r.state != 0 | none => false)

/-- How far a search has come (R295). -/
structure Walk where
  cand : List Cand
  res : List Cand
  seen : List Nat
  hops : Nat
  scored : Nat
  badEdges : Nat
  unreadable : Nat
  badElem : Nat

def Walk.start : Walk := { cand := [], res := [], seen := [], hops := 0, scored := 0, badEdges := 0, unreadable := 0, badElem := 0 }

/-- What a search asks for: its query, k, L and its filter. -/
structure Ask where
  query : List Int
  k : Nat
  L : Nat
  filter : List FilterOp

/-- A node may enter R (R298). -/
def admits (v : View) (a : Ask) (y : Nat) (r : NodeRec) : Bool :=
  r.state == 1 && !v.tombs.contains y && runFilter r.attrs a.filter []

/-- Score a record and offer it to C, where it is a visit, and to R. -/
def scoreNode (v : View) (a : Ask) (queue : Bool) (w : Walk) (y : Nat) (r : NodeRec) : Walk :=
  let (o, c) := keyOf v.desc a.query (nodeElems v.desc r.vec)
  let x : Cand := { ord := o, code := c, node := y, expanded := false }
  { w with
    cand := if queue then (insertCand x w.cand).take a.L else w.cand
    res := if admits v a y r then (insertCand x w.res).take a.k else w.res
    scored := w.scored + 1
    badElem := w.badElem + badElems v.desc r.vec }

/-- visit(y): a node in the seen set is skipped. -/
def visit (v : View) (a : Ask) (readable : Nat → Bool) (w : Walk) (y : Nat) : Walk :=
  if w.seen.contains y then w
  else
    let w1 := { w with seen := y :: w.seen }
    match (if readable y then v.get y else none) with
    | none => { w1 with unreadable := w1.unreadable + 1 }
    | some r => scoreNode v a true w1 y r

/-- The nodes that a search visits first. -/
def entryNodes (v : View) : List Nat := v.entries ++ (v.staging.map (·.1)).take 16

/-- The entries to expand in a round: the best unexpanded ones, those cut off that no longer precede a full R. -/
def roundPick (k H width : Nat) (w : Walk) : List Cand :=
  let l := (w.cand.filter fun c => !c.expanded).take (min width (H - w.hops))
  if w.res.length ≥ k then (match w.res.getLast? with | some z => l.filter fun x => candBefore x z | none => l) else l

/-- A neighbour identifier is a bad edge (R297). -/
def badEdge (v : View) (y : Nat) : Bool := !v.onFlash y && !aHas v.staging y

/-- Expand entries: they are marked, hops counted, bad edges counted; answers the new neighbours in order. -/
def expand (v : View) (w : Walk) (xs : List Cand) : Walk × List Nat :=
  let ids := xs.map (·.node)
  let mark := fun (c : Cand) => if ids.contains c.node then { c with expanded := true } else c
  let w1 := { w with cand := w.cand.map mark
                     hops := w.hops + xs.length }
  let ns := ids.flatMap fun x => match v.get x with | some r => r.nbrs | none => []
  let bad := (ns.filter (badEdge v)).length
  let new := (ns.filter fun y => !badEdge v y && !w.seen.contains y).foldl (fun l y => if l.contains y then l else l ++ [y]) []
  ({ w1 with badEdges := w1.badEdges + bad }, new)

/-- Rounds until nothing is left to expand or the hops are spent; the fuel is the hop budget. -/
def rounds (v : View) (a : Ask) (H width : Nat) (readable : Nat → Bool) : Nat → Walk → Walk
  | 0, w => w
  | fuel + 1, w =>
    if w.hops ≥ H then w
    else
      let xs := roundPick a.k H width w
      if xs.isEmpty then w
      else
        let (w1, ns) := expand v w xs
        rounds v a H width readable fuel (ns.foldl (visit v a readable) w1)

/-- A whole search in one piece: the entry searches of the season engine (R304). -/
def traverse (v : View) (a : Ask) (H width : Nat) (readable : Nat → Bool) : Walk :=
  rounds v a H width readable H ((entryNodes v).foldl (visit v a readable) Walk.start)

/-! The exhaustive scan (R300) -/

/-- The selector names a node, by its attribute byte. -/
def selects (d sel : List Byte) (r : NodeRec) : Bool :=
  let x := leAt r.attrs (gBitmap d) 1
  bitOf (leAt sel (x / 8) 1) (x % 8)

/-- Everything is scanned: the selector is zero, or the graph has no bitmaps. -/
def selectsAll (d sel : List Byte) : Bool := gBitmap d == 255 || allZero sel 0 32

/-- The nodes that a scan visits, in order: those of the graph version, then those of staging. An identifier whose record
is free counts as a visit where every identifier is selected. -/
def scanNodes (v : View) (sel : List Byte) (seen : List Nat) : List Nat :=
  let flash := if selectsAll v.desc sel then (List.range v.hw).filter fun y => v.onFlash y || !aHas v.staging y
    else (v.nodes.filter fun e => decide (e.1 < v.hw) && e.2.state == 1 && selects v.desc sel e.2).map (·.1)
  let stg := (v.staging.filter fun e => (selectsAll v.desc sel || selects v.desc sel e.2) && !flash.contains e.1).map (·.1)
  (flash ++ stg).filter fun y => !seen.contains y

/-- Scan nodes within a budget: answers the walk and the nodes counted. -/
def scan (v : View) (a : Ask) (readable : Nat → Bool) (budget : Nat) (sel : List Byte) (w : Walk) : Walk × Nat :=
  let l := (scanNodes v sel w.seen).take budget
  (l.foldl (fun w y =>
    if !readable y then { w with unreadable := w.unreadable + 1 }
    else match v.get y with
      | some r => scoreNode v a false w y r
      | none => { w with scored := w.scored + 1 }) w, l.length)

/-! Graph pages (R287 to R289) -/

def nodeBytes (d : List Byte) (r : NodeRec) : List Byte :=
  sub (toLe 8 r.object ++ toLe 4 r.chunk ++ toLe 1 (r.state * 64) ++ toLe 1 r.nbrs.length ++ zeros 2 ++ sub r.vec 0 (gVec d)
    ++ sub r.attrs 0 (gAttrs d) ++ sub (r.nbrs.flatMap (toLe 8)) 0 (8 * gDeg d)) 0 (gRecord d)

/-- The page of a node. -/
def nodePageNo (d : List Byte) (y : Nat) : Nat := 1 + y / gPerPage d

/-- A graph page of a version: its nonce, its header and its payload; the tag and the ciphertext are the seal's. -/
def graphPage (kind page version : Nat) (payload : List Byte) : List Byte :=
  toLe 5 page ++ toLe 4 version ++ zeros 3 ++ zeros 16 ++ zeros 4
    ++ [0x47#8, 0x52#8, 0x50#8, 0x47#8] ++ toLe 2 1 ++ toLe 1 kind ++ zeros 1 ++ toLe 8 page ++ toLe 4 version ++ zeros 12
    ++ sub payload 0 16320

def nodePayload (d : List Byte) (g : GraphVersion) (page : Nat) : List Byte :=
  (List.range (gPerPage d)).flatMap fun i =>
    match aGet? g.nodes ((page - 1) * gPerPage d + i) with
    | some r => nodeBytes d r
    | none => zeros (gRecord d)

def headerPayload (d : List Byte) (g : GraphVersion) : List Byte :=
  sub d 0 64 ++ toLe 8 g.nodeHw ++ toLe 8 (g.nodes.filter fun e => e.2.state == 1).length ++ toLe 1 g.entries.length ++ zeros 7
    ++ g.entries.flatMap (toLe 8)

/-- Pages of one bitmap. -/
def bitmapPages (d : List Byte) : Nat := (gCap d + 130559) / 130560

/-- Page k of the bitmap of a value. -/
def bitmapPayload (d : List Byte) (g : GraphVersion) (value k : Nat) : List Byte :=
  let on := (g.nodes.filter fun e => e.2.state == 1 && leAt e.2.attrs (gBitmap d) 1 == value && e.1 / 130560 == k).map (·.1 % 130560)
  let bits : AMap Nat := on.foldl (fun m n => aPut m (n / 8) (aGetD m (n / 8) 0 + 2 ^ (n % 8))) []
  bRead (bits.foldl (fun b e => bPut b e.1 (BitVec.ofNat 8 e.2)) []) 0 16320

/-- The number of a bitmap page, and the value and page within its bitmap that a number names. -/
def bitmapPageNo (d : List Byte) (value k : Nat) : Nat := 1 + gNodePages d + value * bitmapPages d + k

def pagePayload (d : List Byte) (g : GraphVersion) (page : Nat) : Nat × List Byte :=
  if page = 0 then (0, headerPayload d g)
  else if page ≤ gNodePages d then (1, nodePayload d g page)
  else let i := page - 1 - gNodePages d; (2, bitmapPayload d g (i / bitmapPages d) (i % bitmapPages d))

/-! Graph pages on flash (R203, R236) -/

/-- The map index of a graph page. -/
def pageIdx (s : State) (p page : Nat) : Option Nat := rangeAt (getPart s p).idxRanges page

/-- SLC address number i of the pages that hold hot index pages, on the first or second copy's stand: block group 63 of
every die (DESIGN CHOICE). -/
def hotAddr (s : State) (copy i : Nat) : Nat :=
  let st := (presentStands s).getD copy 0
  physAddr st (i / 18432 % 16) (i / 2304 % 8) (252 + i / 576 % 4) (i % 576)

/-- The lowest such address that no map entry holds. -/
def freeHot (s : State) : Nat → Nat → Nat
  | 0, i => i
  | fuel + 1, i => if s.ftl.map.any fun e => e.2.addr == hotAddr s 0 i && e.2.state != 3 then freeHot s fuel (i + 1) else i

/-- Where the two copies of a graph page go: a node page to the node stream and to the mirrors', others to SLC pages on two
stands. -/
def pagePlace (s : State) (kind : Nat) : State × Option (Nat × Nat) :=
  if kind = 1 then
    let (s1, a) := takeSlot s 1
    let (s2, b) := takeSlot s1 3
    let place := fun (k : Nat) => slotAddr s2 (k / 2 ^ 20) (k % 2 ^ 20) ((getSb s2 (k / 2 ^ 20)).elim false (·.afterLoss))
    match a, b with
    | some x, some y => (s2, some (place x, place y))
    | _, _ => (s, none)
  else
    let i := freeHot s (s.ftl.map.length + 1) 0
    (s, some (hotAddr s 0 i, hotAddr s 1 i))

/-- Write a graph page of a version, in two copies; its map entry changes. -/
def writePage (s : State) (p version : Nat) (g : GraphVersion) (page : Nat) : State :=
  let q := getPart s p
  match pageIdx s p page with
  | none => s
  | some idx =>
    let (kind, pay) := pagePayload q.desc g page
    match pagePlace s kind with
    | (_, none) => s
    | (s1, some (a, b)) =>
      let v : UnitVal := { bytes := bOfList (graphPage kind page version pay), form := 1, key := q.indexKey,
                           nonce := page % 2 ^ 40 + version % 2 ^ 32 * 2 ^ 40 }
      let f := s1.ftl
      let pg : NandPage := { idx := idx, partition := p, kind := 1, seq := f.seq + 1, val := v, rawData := none }
      let s2 := { s1 with ftl := { f with seq := f.seq + 1, sinceCkpt := f.sinceCkpt + 2, pages := aPut (aPut f.pages a pg) b pg } }
      let s3 := if (mapGet s2 idx).isSome then s2 else charge s2 p 7 32768
      mapSet (bumpPair s3 Reg.FTL_MEDIA_UNITS_LO 2) idx (some { state := 2, addr := a })

/-- A graph page cannot be read: its unit is poisoned. -/
def pageLost (s : State) (p page : Nat) : Bool :=
  match (pageIdx s p page).bind (mapGet s ·) with | some e => e.state == 3 | none => false

/-- The pages that changed between two versions: the header, the node pages and the bitmap pages of changed nodes. -/
def changedPages (d : List Byte) (old new : GraphVersion) (ids : List Nat) : List Nat :=
  let attr := fun (r : NodeRec) => leAt r.attrs (gBitmap d) 1
  let maps := if gBitmap d = 255 then [] else ids.flatMap fun y =>
    ((aGet? old.nodes y).toList ++ (aGet? new.nodes y).toList).map fun r => bitmapPageNo d (attr r) (y / 130560)
  0 :: ((ids.map (nodePageNo d)) ++ maps).foldr insertNat []

end Sys2Proof.Machine
end

