-- ==== Sys2Proof/Machine/Searches.lean ====
section
/-! DEFINITION. The meanings of the commands of vector search: VZ-SEARCH, its dispatch, rounds, scan and answer, query
batches, and the fan-out to other modules (R283, R292 to R303, R460, R461). -/

namespace Sys2Proof.Machine

def updSearch (s : State) (k : Nat) (f : Search → Search) : State := { s with searches := aUpd s.searches k f }

/-! VZ_SEARCH (R23, R262, R283, R292, R293, R460) -/

/-- Bytes of the query layout of a graph. -/
def queryBytes (d : List Byte) : Nat := if gFmt d = 2 then 2 * gDims d else gDims d

/-- The almanac designated by a commons register, of a kind. -/
def designated (s : State) (reg kind : Nat) : Option (Nat × Alm) :=
  let w := (regGet s reg).toNat
  if !bitOf w 31 then none
  else match aGet? s.alms (w % 65536) with
    | some a => match a.plan with | some p => if p.kind = kind then some (w % 65536, a) else none | none => none
    | none => none

/-- The commons serve: a measured model and an almanac designated in a register. -/
def commonsAlm (s : State) (reg kind : Nat) : Option (Nat × Alm) :=
  if getF s Reg.COMMONS_STAT Fld.COMMONS_STAT_model = 2 then designated s reg kind else none

/-- The output route of a query almanac delivers a vector in the query layout of a graph (R292). -/
def routeFits (a : Alm) (d : List Byte) : Bool :=
  match a.plan with
  | some p => (p.items.filter (·.role == 2)).all fun it => it.lines == gDims d && it.esz == (if gFmt d = 2 then 2 else 1)
  | none => false

def descFlags (b : List Byte) : Nat := leAt b 7 1
/-- Bytes of the filter of a descriptor. -/
def filterLen (b : List Byte) : Nat := 16 * leAt b 0x0C 1

/-- The fields of a search descriptor are within their ranges (R292). -/
def descriptorOk (b : List Byte) : Bool :=
  let k := leAt b 0 2
  let L := leAt b 2 2
  let H := leAt b 4 2
  let w := leAt b 6 1
  let fl := descFlags b
  let budget := leAt b 8 4
  decide (b.length ≥ 64) && 1 ≤ k && k ≤ 1024 && 64 ≤ L && L ≤ 4096 && k ≤ L && 1 ≤ H && H ≤ 16384 && 1 ≤ w && w ≤ 8 && fl < 16
    && (if bitOf fl 0 then 1 ≤ budget && budget ≤ 16777216 else budget == 0) && leAt b 0x0C 1 ≤ 32 && allZero b 0x0D 3
    && allZero b 0x14 12

/-- A query vector holds an element that is not finite. -/
def queryNan (d q : List Byte) : Bool :=
  gFmt d == 2 && (List.range (gDims d)).any fun i => match fmtFP16.decode (leAt q (2 * i) 2) with | .fin _ _ _ => false | _ => true

/-- Fan-out entries of a partition. -/
def fansOf (s : State) (p : Nat) : List FanCfg := match s.forest.cfg with | some c => c.fans.filter (·.own == p) | none => []

/-- Bytes of the longest answer to k entries. -/
def searchAnswerLen (k fl : Nat) : Nat := 64 + k * (if bitOf fl 1 then 96 else 32)

/-- A search as a descriptor asks for it. -/
def Search.ofDesc (p sqid cid session : Nat) (b query : List Byte) (filter : List FilterOp) (phase : Phase) : Search :=
  { partition := p, sqid := sqid, cid := cid, session := session, k := leAt b 0 2, L := leAt b 2 2, H := leAt b 4 2,
    w := leAt b 6 1, flags := descFlags b, budget := leAt b 8 4, filter := filter, query := query, selector := sub b 0x20 32,
    phase := phase, stand := 0, version := 0, staging := [], tombs := [], cand := [], res := [], seen := [], want := [],
    lost := [], hops := 0, scored := 0, nscanned := 0, badEdges := 0, unreadable := 0, scanRun := false, limited := false,
    restarts := 0, pages := [], asked := [], answered := [], refused := [], late := [], foreign := [],
    peerCounts := [0, 0, 0, 0, 0], fanSince := 0, peerOf := none }

def addSearch (s : State) (x : Search) : State :=
  { s with searches := aPut s.searches s.nextSearch x, nextSearch := s.nextSearch + 1 }

/-- Put a search with query bytes into the batch that gathers (R283). -/
def gatherQuery (s : State) : State :=
  let c := s.commons
  { s with commons := { c with gather := c.gather ++ [s.nextSearch], gatherSince := if c.gather.isEmpty then s.tb else c.gatherSince } }

def searchCmd (s : State) (q : Req) : State × Option Reply :=
  let b := q.pay
  let d := (getPart s q.part).desc
  let fl := descFlags b
  let qlen := leAt b 0x10 4
  let query := sub b (64 + filterLen b) qlen
  let alm := commonsAlm s Reg.COMMONS_QRY_ALM 3
  let lenOk := if bitOf fl 2 then (match alm with
      | some (_, a) => match a.plan with | some p => 1 ≤ qlen && qlen ≤ p.inLen | none => false
      | none => false)
    else qlen == queryBytes d
  let filter := readFilter b 64 (leAt b 0x0C 1) (gAttrs d)
  guards s [(q.c.cdw11 != 0 || q.c.cdw13 != 0 || !descriptorOk b, stInvalidField), (unsealed s q.part, stNotSealed),
      ((getIndex s q.part).isNone, stInvalidField), (!dataLoaded s q.part, stKey)] fun _ =>
    if bitOf fl 2 ∧ alm.isNone then failDw s stRejected 0x18
    else
      guards s [(!lenOk || b.length != 64 + filterLen b + qlen || filter.isNone || (!bitOf fl 2 && queryNan d query)
          || (bitOf fl 2 && (match alm with | some (_, a) => !routeFits a d | none => true)), stInvalidField),
          (bitOf fl 3 && (!bitOf (getPart s q.part).cfg 2 || (fansOf s q.part).isEmpty), stInvalidField),
          (!roomFor q (searchAnswerLen (leAt b 0 2) fl), stInvalidField)] fun _ =>
        let x := Search.ofDesc q.part q.c.sqid q.c.cid (q.session.getD 0) b query (filter.getD []) (if bitOf fl 2 then .embedding else .waiting)
        (addSearch (if bitOf fl 2 then gatherQuery s else s) x, none)

def execVzSearch (c : Cmd) (o : Opened) (s : State) : Host.Outcome State Fault Refusal :=
  runSealed c 0x83 true false false o searchCmd s

/-! QUERY_BATCH_START (R262, R271, R283) -/

/-- End the searches of a batch that cannot run. -/
def endBatch (s : State) (l : List Nat) (st : Status) (dw0 : Nat) : State := l.foldl (fun s k => endSearch s k (replyDw st dw0)) s

def startQueries (s : State) : State :=
  match commonsAlm s Reg.COMMONS_QRY_ALM 3 with
  | none => endBatch { s with commons := { s.commons with gather := [] } } s.commons.gather stRejected 0x18
  | some (h, a) =>
    let n := getF s Reg.COMMONS_QRY_CFG Fld.COMMONS_QRY_CFG_max_rows
    let ids := s.commons.gather.take n
    let s1 := { s with commons := { s.commons with gather := s.commons.gather.drop n, gatherSince := s.tb } }
    if !couldBind s1 a 0 then endBatch (recordReject s1 0x14 0 7 h 4095) ids stRejected 0x14
    else if !chargesFit s1 4095 (jobCharges s1 a) then endBatch s1 ids stQuota 0
    else
      let rows : List (Nat × RowTag) := ids.zipIdx.filterMap fun e => (aGet? s1.searches e.1).map fun x =>
        (e.2, { valid := true, slot := 0, partition := x.partition, base := 0, source := e.1, chunk := 0, bytes := x.query })
      let j := { Job.queued a h 0 3 0 0 none false with rows := rows }
      let (s2, jn) := queueJob s1 a j
      bump { s2 with commons := { s2.commons with queryJobs := s2.commons.queryJobs ++ [(jn, ids)] } } Reg.COMMONS_QRY_BATCHES 1

def execQueryBatchStart (s : State) : Host.Outcome State Fault Refusal :=
  .next (if engineOn s ∧ !s.commons.gather.isEmpty then startQueries s else s)

/-! What a search sees -/

def viewOf (s : State) (x : Search) : View :=
  let d := (getPart s x.partition).desc
  match getIndex s x.partition with
  | none => { desc := d, nodes := [], hw := 0, entries := [], staging := [], tombs := [] }
  | some i =>
    let g := aGetD i.flash x.version ⟨[], 0, []⟩
    { desc := d, nodes := g.nodes, hw := g.nodeHw, entries := g.entries,
      staging := i.staging.filter fun e => x.staging.contains e.1, tombs := x.tombs }

def askOf (s : State) (x : Search) : Ask :=
  { query := queryElems (getPart s x.partition).desc x.query, k := x.k, L := x.L, filter := x.filter }

def walkOf (x : Search) : Walk :=
  { cand := x.cand, res := x.res, seen := x.seen, hops := x.hops, scored := x.scored, badEdges := x.badEdges,
    unreadable := x.unreadable, badElem := 0 }

/-- Put a walk back into its search and count what it did (R309). -/
def putWalk (s : State) (id : Nat) (x : Search) (w : Walk) : State :=
  let y := { x with cand := w.cand, res := w.res, seen := w.seen, hops := w.hops, scored := w.scored, badEdges := w.badEdges,
                    unreadable := w.unreadable }
  let s1 := bumpPair (bumpPair { s with searches := aPut s.searches id y } Reg.SRCH_HOPS_LO (w.hops - x.hops))
    Reg.SRCH_SCORED_LO (w.scored - x.scored)
  let s2 := bump (bump s1 Reg.SRCH_BAD_EDGE (w.badEdges - x.badEdges)) Reg.SRCH_UNREADABLE (w.unreadable - x.unreadable)
  updProg (bump s2 Reg.SRCH_BAD_ELEM w.badElem) x.sqid x.cid fun r => if x.peerOf.isSome then r else { r with units := w.hops }

/-! Reads of a round (R226, R227, R296) -/

/-- The unit of a node on flash: its map index and its entry. -/
def nodeUnit (s : State) (x : Search) (y : Nat) : Option (Nat × MapEntry) :=
  match pageIdx s x.partition (nodePageNo (getPart s x.partition).desc y) with
  | none => none
  | some i => (mapGet s i).map fun e => (i, e)

/-- The channel whose ranger scores a node. -/
def nodeChan (s : State) (x : Search) (y : Nat) : Option Nat :=
  match nodeUnit s x y with | some (_, e) => if e.state = 3 then none else some (addrChan e.addr) | none => none

/-- Ask for the page of a node: from its slot, from a read under way, or by a wide read in search class. -/
def fetchNode (id : Nat) (s : State) (y : Nat) : State :=
  match aGet? s.searches id with
  | none => s
  | some x =>
    match nodeUnit s x y with
    | none => s
    | some (i, e) =>
      if e.state = 3 then updSearch s id fun x => { x with lost := i :: x.lost }
      else if slotHit s x.partition x.version e.addr then useSlot s x.partition x.version e.addr
      else if (s.ftl.accesses.any fun a => a.2.asker == 2 && a.2.waiter == id && wideAddr a.2.addr == wideAddr e.addr) then s
      else startAccess s true 2 id i e.addr

def fetchNodes (s : State) (id : Nat) (v : View) (l : List Nat) : State := (l.filter v.onFlash).foldl (fetchNode id) s

/-- The search awaits no read. -/
def readsDone (s : State) (id : Nat) : Bool := (accessesOf s 2 id).isEmpty

/-- Place the lists of newly scored nodes into the branch caches. -/
def fillBranches (s : State) (x : Search) (v : View) (l : List Nat) : State :=
  l.foldl (fun s y => match nodeChan s x y, v.get y with
    | some ch, some r => branchFill s ch x.partition x.version y (r.nbrs.flatMap (toLe 8))
    | _, _ => s) s

/-- A node whose record a search can read: not on a page whose read failed, nor among those that the ranger could not
read. -/
def readable (s : State) (x : Search) (v : View) (unreadable : List Nat) (y : Nat) : Bool :=
  !unreadable.contains y && !(v.onFlash y && (match nodeUnit s x y with | some (i, _) => x.lost.contains i | none => false))

/-- The scores of a round are here: its nodes are visited in order. -/
def settleRound (s : State) (id : Nat) (unreadable : List Nat) : State :=
  match aGet? s.searches id with
  | none => s
  | some x =>
    if !readsDone s id then s
    else
      let v := viewOf s x
      let w := x.want.foldl (visit v (askOf s x) (readable s x v unreadable)) (walkOf x)
      let s1 := fillBranches s x v (x.want.filter fun y => v.onFlash y && readable s x v unreadable y)
      putWalk s1 id { x with want := [], lost := [] } w

/-! SEARCH_DISPATCH (R294, R295, R460) -/

/-- Searches that hold a sequencer. -/
def inFlight (s : State) (st : Option Nat) : Nat :=
  (s.searches.filter fun e => (e.2.phase == .running || e.2.phase == .stopped || e.2.phase == .scanned || e.2.phase == .peers)
    && (match st with | some k => e.2.stand == k | none => true)).length

/-- The stand with the fewest searches, the lower index on a tie. -/
def searchStand (s : State) : Option Nat :=
  ((presentStands s).filter fun k => decide (inFlight s (some k) < 512)).foldl (fun m k => match m with
    | none => some k
    | some j => if inFlight s (some k) < inFlight s (some j) then some k else some j) none

/-- Pages of a search's state. -/
def searchPages (x : Search) : Nat := (1024 * x.H + 16 * (x.L + x.k) + 4096 + 65535) / 65536

/-- A message that asks a peer for a search (the model's layout): which search, the partitions, the digest of the owner key,
the descriptor with bit 3 cleared, the filter's and the query's bytes, the graph descriptor. -/
def fanMessage (s : State) (id : Nat) (x : Search) (peerPart : Nat) : List Byte :=
  let q := getPart s x.partition
  let op := fun (o : FilterOp) => toLe 1 o.op ++ toLe 1 (o.width.log2 + (if o.isSigned then 4 else 0)) ++ toLe 1 o.offset ++ zeros 5 ++ toLe 8 o.value
  toLe 8 id ++ toLe 2 x.partition ++ toLe 2 peerPart ++ zeros 52 ++ sha512 q.owner
    ++ toLe 2 x.k ++ toLe 2 x.L ++ toLe 2 x.H ++ toLe 1 x.w ++ toLe 1 (x.flags % 8) ++ toLe 4 x.budget ++ toLe 1 x.filter.length
    ++ zeros 3 ++ toLe 4 x.query.length ++ zeros 12 ++ x.selector ++ x.filter.flatMap op ++ x.query ++ q.desc

/-- Ask the peers of a search that fans out. -/
def askPeers (s : State) (id : Nat) (x : Search) : State :=
  if !bitOf x.flags 3 ∨ x.peerOf.isSome ∨ !x.asked.isEmpty then s
  else
    let l := fansOf s x.partition
    let s1 := updSearch s id fun x => { x with asked := l.map fun f => (f.peer, f.peerPart), fanSince := s.tb }
    let s2 := updProg s1 x.sqid x.cid fun r => { r with counts := [l.length, 0, 0, 0] }
    l.foldl (fun s f => sendMsg s f.peer 2 (fanMessage s id x f.peerPart) none) s2

/-- A peer's search is refused: the event, the count, the answer that carries the reason (R460). -/
def refuseFan (s : State) (origin originPart peerPart reason : Nat) : State :=
  let s1 := post s pgForest 0x050A peerPart (origin % 2 ^ 16 + originPart % 4096 * 2 ^ 16) reason
  sendMsg (bump s1 Reg.FOREST_FAN_REFUSED 1) origin 2 (toLe 2 originPart ++ toLe 2 reason ++ zeros 60) none

/-- Start a search's traversal on a sequencer: pins, state, entry points. One that starts again keeps its pins (R303). -/
def startSearch (s : State) (id : Nat) (x : Search) (st : Nat) (pages : List Nat) : State :=
  match getIndex s x.partition with
  | none => s
  | some i =>
    let y := if x.restarts > 0 then { x with phase := .running, stand := st, pages := pages }
      else { x with phase := .running, stand := st, version := i.version, staging := i.staging.map (·.1), tombs := i.tombs, pages := pages }
    let v := viewOf s y
    let es := (entryNodes v).dedup
    let s1 := { s with searches := aPut s.searches id { y with want := es } }
    settleRound (fetchNodes (if y.restarts > 0 then s1 else askPeers s1 id y) id v es) id []

def dispatchSearch (s : State) (id : Nat) (x : Search) : State :=
  match searchStand s with
  | none => s
  | some st =>
    let n := if x.restarts > 0 then 0 else searchPages x
    let pages := if fits s x.partition 3 (n * 65536) then
        takePages x.partition ((List.range 3).map (3 * st + ·) ++ liveStacks s) n s else none
    match pages with
    | none => match x.peerOf with
      | some (m, p) => refuseFan { s with searches := aDel s.searches id } m p x.partition 6
      | none => endSearch s id (replySt stQuota)
    | some (s1, l) => startSearch (charge s1 x.partition 3 (n * 65536)) id x st (if x.restarts > 0 then x.pages else l)

def execSearchDispatch (search : Nat) (s : State) : Host.Outcome State Fault Refusal :=
  match aGet? s.searches search with
  | none => .next s
  | some x =>
    let first := s.searches.all fun e => e.2.phase != .waiting || search ≤ e.1
    if engineOn s ∧ x.phase = .waiting ∧ first ∧ inFlight s none < getF s Reg.SRCH_CFG Fld.SRCH_CFG_max_inflight then
      .next (dispatchSearch s search x)
    else .next s

/-! EXPANSION_ROUND (R295 to R299) -/

/-- The search stops: a short one with exhaustive-on-short goes on to its scan. -/
def stopSearch (s : State) (id : Nat) : State :=
  updSearch s id fun x => { x with phase := if x.res.length < x.k ∧ bitOf x.flags 0 then .stopped else .scanned }

/-- Look the lists of the nodes to expand up; those not cached are read again. -/
def listReads (s : State) (id : Nat) (x : Search) (v : View) (l : List Nat) : State :=
  (l.filter v.onFlash).foldl (fun s y => match nodeChan s x y with
    | none => s
    | some ch =>
      let (s1, hit) := branchLookup s ch x.partition x.version y
      if hit then s1 else fetchNode id s1 y) s

def expandRound (s : State) (id : Nat) (unreadable : List Nat) : State :=
  match aGet? s.searches id with
  | none => s
  | some x =>
    let w := walkOf x
    let xs := if w.hops ≥ x.H then [] else roundPick x.k x.H x.w w
    if xs.isEmpty then stopSearch s id
    else
      let v := viewOf s x
      let (w1, ns) := expand v w xs
      let s1 := putWalk s id { x with want := ns } w1
      settleRound (fetchNodes (listReads s1 id x v (xs.map (·.node))) id v ns) id unreadable

def execExpansionRound (search : Nat) (unreadable : List Nat) (s : State) : Host.Outcome State Fault Refusal :=
  match aGet? s.searches search with
  | none => .next s
  | some x =>
    if engineOn s ∧ x.phase = .running ∧ readsDone s search then
      .next (expandRound (settleRound s search unreadable) search unreadable)
    else .next s

/-! EXHAUSTIVE_SCAN (R300) -/

def scanSearch (s : State) (id : Nat) (x : Search) (unreadable : List Nat) : State :=
  let v := viewOf s x
  let ok := fun (y : Nat) => !unreadable.contains y && !(v.onFlash y && (match nodeUnit s x y with | some (_, e) => e.state == 3 | none => false))
  let (w, n) := scan v (askOf s x) ok x.budget x.selector (walkOf x)
  bump (putWalk s id { x with nscanned := n, scanRun := true, phase := .scanned } w) Reg.SRCH_SCAN 1

def execExhaustiveScan (search : Nat) (unreadable : List Nat) (s : State) : Host.Outcome State Fault Refusal :=
  match aGet? s.searches search with
  | none => .next s
  | some x => .next (if engineOn s ∧ x.phase = .stopped then scanSearch s search x unreadable else s)

/-! SEARCH_COMPLETE (R299, R301 to R303, R461) -/

/-- The entries of a search's own results. -/
def ownEntries (s : State) (x : Search) : List AnsEntry :=
  let v := viewOf s x
  x.res.map fun c =>
    let r := (v.get c.node).getD { object := 0, chunk := 0, state := 0, vec := [], attrs := [], nbrs := [] }
    { ord := c.ord, code := c.code, modNo := selfNo s, node := c.node, object := r.object, chunk := r.chunk, attrs := r.attrs }

def entryBefore (a b : AnsEntry) : Bool :=
  decide (a.ord < b.ord) || (decide (a.ord = b.ord) && (decide (a.modNo < b.modNo) || (a.modNo == b.modNo && decide (a.node < b.node))))

def insertEntry (x : AnsEntry) : List AnsEntry → List AnsEntry
  | [] => [x]
  | y :: r => if entryBefore x y then x :: y :: r else y :: insertEntry x r

/-- The entries of the answer, those of peers merged in. -/
def answerEntries (s : State) (x : Search) : List AnsEntry := ((ownEntries s x ++ x.foreign).foldl (fun l e => insertEntry e l) []).take x.k

def keyType (d : List Byte) : Nat := if gFmt d ≠ 2 ∧ gMetric d ≠ 1 then 0 else 1

/-- Hops, scored, scanned, bad edges, unreadable: summed over the modules that answered. -/
def answerCounts (x : Search) : List Nat :=
  ([x.hops, x.scored, x.nscanned, x.badEdges, x.unreadable].zip x.peerCounts).map fun e => e.1 + e.2

def entryBytes (fan attrs : Bool) (e : AnsEntry) : List Byte :=
  toLe 8 (if fan then e.node % 2 ^ 40 + e.modNo % 256 * 2 ^ 48 else e.node) ++ toLe 8 e.object ++ toLe 4 e.chunk ++ toLe 4 e.code ++ zeros 8
    ++ (if attrs then sub e.attrs 0 64 else [])

/-- The plaintext of the answer. -/
def answerBytes (s : State) (x : Search) : List Byte :=
  let l := answerEntries s x
  let c := answerCounts x
  let fl := (if l.length < x.k then 1 else 0) + (if x.scanRun then 2 else 0) + (if listAt c 4 > 0 then 4 else 0)
    + (if x.limited then 8 else 0) + (if bitOf x.flags 1 then 16 else 0)
  [0x41#8, 0x4E#8, 0x53#8, 0x52#8] ++ toLe 2 1 ++ toLe 2 l.length ++ toLe 2 x.k ++ toLe 1 (keyType (getPart s x.partition).desc)
    ++ toLe 1 fl ++ toLe 4 x.version ++ c.flatMap (toLe 4) ++ zeros 28 ++ l.flatMap (entryBytes (bitOf x.flags 3) (bitOf x.flags 1))

/-- The answer of a peer's search goes to its origin (the model's layout). -/
def sendAnswer (s : State) (id : Nat) (x : Search) (m p : Nat) : State :=
  let s1 := sendMsg s m 2 (toLe 2 p ++ zeros 62 ++ answerBytes s x) none
  releasePages { s1 with searches := aDel s1.searches id } x.partition x.pages

/-- Seal and deliver the answer of a search. st is the status where the queue engine's limit stopped it (R302). -/
def deliverAnswer (s : State) (id : Nat) (st : Option Status) : State :=
  match aGet? s.searches id with
  | none => s
  | some x =>
    let s0 := bump s Reg.SRCH_DONE 1
    match x.peerOf with
    | some (m, p) => sendAnswer s0 id x m p
    | none =>
      match findOut s0 x.sqid x.cid with
      | none => releasePages { s0 with searches := aDel s0.searches id } x.partition x.pages
      | some o =>
        let m := (answerEntries s0 x).length
        let fin := match st with
          | some t => t
          | none => if x.restarts > 0 then stRemapped else if m < x.k then stShort else stSuccess
        let s1 := if fin = stShort then bump s0 Reg.SRCH_SHORT 1 else s0
        let s2 := updProg s1 x.sqid x.cid fun r => { r with units := x.hops, restarts := x.restarts }
        let (s3, r) := answerReply s2 ⟨o.cmd, o.opcode, x.partition, some x.session, []⟩ fin m 0 (answerBytes s2 x)
        endSearch s3 id (r.getD replyOk)

/-- Every peer asked has answered, refused or is late. -/
def peersDone (x : Search) : Bool := x.asked.all fun a => x.answered.contains a.1 || x.refused.contains a.1 || x.late.contains a.1

def execSearchComplete (search : Nat) (s : State) : Host.Outcome State Fault Refusal :=
  match aGet? s.searches search with
  | none => .next s
  | some x =>
    if engineOn s ∧ (x.phase = .scanned ∨ x.phase = .peers) then
      .next (if peersDone x then deliverAnswer s search none else updSearch s search fun x => { x with phase := .peers })
    else .next s

/-! FANOUT_REQUEST, FANOUT_ANSWER, FANOUT_WAIT_EXPIRY (R29, R460, R461) -/

/-- Why a peer refuses a search; none where it runs it. -/
def fanRefusal (s : State) (p : Nat) (ownerDigest : List Byte) (x : Search) (graph : List Byte) : Option Nat :=
  let q := getPart s p
  if !isSealed s p then some 1
  else if sha512 q.owner ≠ ownerDigest then some 2
  else if !bitOf q.cfg 2 then some 3
  else if sub q.desc 0 6 ≠ sub graph 0 6 ∨ sub q.desc 0x18 16 ≠ sub graph 0x18 16 then some 4
  else if !dataLoaded s p then some 5
  else if !fits s p 3 (searchPages x * 65536) then some 6
  else none

def execFanoutRequest (origin originPartition peerPartition : Nat) (ownerDigest : BitVec 512) (descriptor query : List Byte)
    (graphDescriptor : List Byte) (s : State) : Host.Outcome State Fault Refusal :=
  if engineOn s ∧ (peersUp s).contains origin then
    let s1 := takeInbox s origin 2
    let d := (getPart s peerPartition).desc
    let flags := descriptor.set 7 (BitVec.ofNat 8 (descFlags descriptor % 4))
    let f := readFilter descriptor 64 (leAt descriptor 0x0C 1) (gAttrs d)
    let x := { Search.ofDesc peerPartition 0 0 0 flags query (f.getD []) .waiting with peerOf := some (origin, originPartition), fanSince := s.tb }
    match fanRefusal s1 peerPartition (toLe 64 ownerDigest.toNat) x graphDescriptor with
    | some r => .next (refuseFan s1 origin originPartition peerPartition r)
    | none => .next (addSearch s1 x)
  else .next s

/-- An entry of a peer's answer as the origin orders it. -/
def peerEntry (d : List Byte) (peer : Nat) (e : PeerEntry) : AnsEntry :=
  { ord := if keyType d = 0 then e.key.toInt else fp32Order e.key.toNat, code := e.key.toNat, modNo := peer, node := e.node,
    object := e.object, chunk := e.chunk, attrs := e.attrs }

/-- The progress record's counts of a search that fanned out: peers asked, answered, refused and late. -/
def noteFan (s : State) (id : Nat) : State :=
  match aGet? s.searches id with
  | none => s
  | some x => updProg s x.sqid x.cid fun r =>
      { r with counts := [x.asked.length, x.answered.length, x.refused.length, x.late.length] }

/-- A peer's answer that is in time. -/
def takeAnswer (s : State) (id peer refusal : Nat) (c : PeerCounts) (es : List PeerEntry) : State :=
  let d := match aGet? s.searches id with | some x => (getPart s x.partition).desc | none => []
  let s1 := updSearch s id fun x =>
    if refusal ≠ 0 then { x with refused := x.refused ++ [peer] }
    else { x with answered := x.answered ++ [peer], foreign := x.foreign ++ es.map (peerEntry d peer)
                  peerCounts := (x.peerCounts.zip [c.hops, c.scored, c.scanned, c.badEdges, c.unreadable]).map fun e => e.1 + e.2 }
  noteFan s1 id

/-- The peer is still awaited by a search. -/
def awaited (x : Search) (peer : Nat) : Bool :=
  (x.asked.any (·.1 == peer)) && !x.answered.contains peer && !x.refused.contains peer && !x.late.contains peer

def execFanoutAnswer (search peer : Nat) (refusal : Nat) (counts : PeerCounts) (entries : List PeerEntry) (s : State) :
    Host.Outcome State Fault Refusal :=
  if !engineOn s then .next s
  else
    let s1 := takeInbox s peer 2
    match aGet? s1.searches search with
    | none => .next (if search < s1.nextSearch then bump s1 Reg.FOREST_FAN_LATE 1 else s1)
    | some x =>
      if awaited x peer then .next (takeAnswer s1 search peer refusal counts entries)
      else if x.late.contains peer then .next (bump s1 Reg.FOREST_FAN_LATE 1)
      else .next s1

/-- A search stops where it stands: the scores still in flight are discarded (R302). -/
def haltSearch (s : State) (id : Nat) : State :=
  let s1 := orphanAccess s fun a => a.asker == 2 && a.waiter == id
  updSearch s1 id fun x => { x with want := [], lost := [], limited := true, phase := .scanned }

def expireFan (s : State) (id : Nat) (x : Search) : State :=
  if x.peerOf.isSome then (if x.phase = .running ∨ x.phase = .stopped then haltSearch s id else s)
  else noteFan (updSearch s id fun x => { x with late := x.late ++ (x.asked.map (·.1)).filter (awaited x) }) id

def execFanoutWaitExpiry (search : Nat) (s : State) : Host.Outcome State Fault Refusal :=
  match aGet? s.searches search with
  | none => .next s
  | some x => .next (if engineOn s then expireFan s search x else s)

end Sys2Proof.Machine
end

