-- ==== Sys2Proof/Machine/Seasons.lean ====
section
/-! DEFINITION. The meanings of VZ-SEASON and of the season engine: authentication, batches, entry into staging, the
merge, the flip and the freeing (R20, R23 to R27, R280 to R282, R304 to R308). -/

namespace Sys2Proof.Machine

/-! VZ_SEASON (R23, R25, R306, R385) -/

def Closing.asked (c : Cmd) : Closing :=
  { sqid := c.sqid, cid := c.cid, command := true, phase := 0, nodes := [], tombs := [], unreadable := false, counts := [], objs := [], next := none }

/-- Close the season: it takes effect once the batches with the partition's chunks have ended. One that comes while an
earlier one is in progress waits for it. -/
def closeSeason (s : State) (q : Req) : State × Option Reply :=
  guards s [(q.c.cdw10 != 0 || q.c.cdw11 != 0 || q.c.cdw13 != 0, stInvalidField), (!isSealed s q.part, stNotSealed)] fun _ =>
    match getIndex s q.part with
    | none => fail s stInvalidField
    | some x =>
      if x.closing.isSome then holdCmd s q.c
      else (updIndex s q.part fun x => { x with closing := some (Closing.asked q.c) }, none)

def execVzSeason (c : Cmd) (s : State) : Host.Outcome State Fault Refusal := runPlain c 0x8C false closeSeason s

/-! OBJECT_AUTHENTICATION (R20, R26, R281) -/

/-- The channel that holds the first unit of an object, by its map entry. -/
def objectChan (s : State) (p : Nat) (o : Listed) : Nat :=
  match (unitIdx s p (o.slba * lbaSize (getPart s p) / 16384)).bind (mapGet s ·) with
  | some e => if e.state = 3 then 0 else addrChan e.addr
  | none => 0

/-- Indexing runs: a measured model and an indexing almanac. -/
def indexAlm (s : State) : Option (Nat × Alm) := commonsAlm s Reg.COMMONS_IDX_ALM 2

/-- The partition is eligible for indexing (R281). -/
def indexable (s : State) (p : Nat) : Bool :=
  engineOn s && isSealed s p && dataLoaded s p && getF s Reg.COMMONS_STAT Fld.COMMONS_STAT_model == 2

/-- An object fails its tag: it leaves the list, the event names the partition alone. -/
def tagFailed (s : State) (p obj : Nat) (o : Listed) : State :=
  let pg := rangerPage (objectChan s p o)
  let s1 := bump (post s pg 0x0502 p 0 0) (pg + Reg.RANGER_TAGFAIL) 1
  updIndex s1 p fun x => { x with ingest := aDel x.ingest obj, tagFails := x.tagFails + 1 }

/-- An object passes: its plaintext, attributes first, as the rangers would read it again; it begins at chunk 0. -/
def tagPassed (s : State) (p obj : Nat) (o : Listed) (content : List Byte) : State :=
  let y := { o with auth := some (getPart s p).loads, plain := sub content 0 (o.length - 28), formed := 0, vectors := [] }
  updIndex s p fun x => { x with ingest := aPut x.ingest obj y }

def execObjectAuthentication (partition object : Nat) (tagOk : Bool) (content : List Byte) (s : State) :
    Host.Outcome State Fault Refusal :=
  match (getIndex s partition).bind fun x => aGet? x.ingest object with
  | none => .next s
  | some o =>
    if indexable s partition ∧ o.auth ≠ some (getPart s partition).loads then
      .next (if tagOk then tagPassed s partition object o content else tagFailed s partition object o)
    else .next s

/-! Chunks (R280) -/

/-- Bytes of an object's content. -/
def contentLen (d : List Byte) (o : Listed) : Nat := o.length - 28 - gAttrs d

/-- Chunks of n bytes, before max_chunks. -/
def chunkCount (n inLen overlap : Nat) : Nat :=
  if n = 0 then 0 else if n ≤ inLen then 1 else 1 + (n - inLen + (inLen - overlap) - 1) / (inLen - overlap)

def idxOverlap (s : State) : Nat := getF s Reg.COMMONS_IDX_CFG Fld.COMMONS_IDX_CFG_overlap
def idxMaxChunks (s : State) : Nat := getF s Reg.COMMONS_IDX_MAX Fld.COMMONS_IDX_MAX_max_chunks

/-- Chunks of an object that are indexed. -/
def objectChunks (s : State) (inLen : Nat) (d : List Byte) (o : Listed) : Nat :=
  min (chunkCount (contentLen d o) inLen (idxOverlap s)) (idxMaxChunks s)

/-- The bytes of chunk c. -/
def chunkBytes (s : State) (inLen : Nat) (d : List Byte) (o : Listed) (c : Nat) : List Byte :=
  ((o.plain.drop (gAttrs d)).drop (c * (inLen - idxOverlap s))).take inLen

/-! BATCH_FORMATION (R23, R281, R282) -/

/-- Objects authenticated under an earlier load count go back to step 2; their rows in running batches become invalid. -/
def staleObjects (s : State) (p : Nat) : State :=
  let loads := (getPart s p).loads
  match getIndex s p with
  | none => s
  | some x =>
    let old := (x.ingest.filter fun e => e.2.auth.isSome && e.2.auth != some loads).map (·.1)
    if old.isEmpty then s
    else
      let s1 := withdraw s fun j t => j.kind == 2 && t.partition == p && old.contains t.source
      updIndex s1 p fun x => { x with ingest := x.ingest.map fun e =>
        (e.1, if old.contains e.1 then { e.2 with auth := none, plain := [], formed := 0, vectors := [] } else e.2) }

/-- The chunks of a partition that wait for a batch, oldest object first: object and chunk. A partition whose season is
about to close adds none. -/
def waitingChunks (s : State) (inLen p limit : Nat) : List (Nat × Nat) :=
  match getIndex s p with
  | none => []
  | some x =>
    let d := (getPart s p).desc
    let shut : Bool := match x.closing with | some c => c.phase == 0 | none => false
    if shut || !indexable s p then []
    else (x.ingest.flatMap fun e =>
      if e.2.auth.isNone then []
      else ((List.range (min limit (objectChunks s inLen d e.2 - e.2.formed))).map fun i => (e.1, e.2.formed + i))).take limit

/-- Partitions in rotating order after the one taken first in the last batch. -/
def rotated (s : State) : List Nat :=
  let l := s.index.map (·.1)
  (l.filter (s.commons.lastFirst < ·)) ++ l.filter (· ≤ s.commons.lastFirst)

/-- The rows of a batch: partition, object, chunk. Each partition has its share, unless only one has chunks. -/
def batchRows (s : State) (inLen maxRows : Nat) : List (Nat × Nat × Nat) :=
  let share := getF s Reg.COMMONS_IDX_CFG Fld.COMMONS_IDX_CFG_share * 128
  let l := (rotated s).filter fun p => !(waitingChunks s inLen p 1).isEmpty
  let lim := if share = 0 ∨ l.length ≤ 1 then maxRows else share
  (l.flatMap fun p => (waitingChunks s inLen p lim).map fun x => (p, x.1, x.2)).take maxRows

/-- The row of a chunk, with its bytes. -/
def chunkRow (s : State) (inLen : Nat) (r : Nat × Nat × Nat) : RowTag :=
  let b := match (getIndex s r.1).bind fun x => aGet? x.ingest r.2.1 with
    | some o => chunkBytes s inLen (getPart s r.1).desc o r.2.2
    | none => []
  { valid := true, slot := 0, partition := r.1, base := 0, source := r.2.1, chunk := r.2.2, bytes := b }

def formBatch (s : State) (h : Nat) (a : Alm) (p : RowPlan) : State :=
  let rows := batchRows s p.inLen p.maxRows
  if rows.isEmpty ∨ !couldBind s a 1 ∨ !chargesFit s 4095 (jobCharges s a) then s
  else
    let tags := rows.zipIdx.map fun x => (x.2, chunkRow s p.inLen x.1)
    let (s1, n) := queueJob s a { Job.queued a h 1 2 0 0 none false with rows := tags }
    let s2 := rows.foldl (fun s r => updIndex s r.1 fun x => { x with ingest := aUpd x.ingest r.2.1 fun o => { o with formed := r.2.2 + 1 } }) s1
    let first := match rows.head? with | some r => r.1 | none => 0
    { s2 with commons := { s2.commons with batches := s2.commons.batches ++ [{ job := n, rows := rows }], lastFirst := first } }

def execBatchFormation (s : State) : Host.Outcome State Fault Refusal :=
  if !engineOn s then .next s
  else
    match indexAlm s with
    | none => .next s
    | some (h, a) =>
      match a.plan with
      | none => .next s
      | some p => .next (formBatch ((s.index.map (·.1)).foldl staleObjects s) h a p)

/-! OBJECT_ENTRY (R280, R304) -/

/-- The n lowest free identifiers; none where the graph has no more. -/
def takeIds (d : List Byte) (x : Index) (n : Nat) : Option (List Nat × Index) :=
  let old := (x.freeIds.foldr insertNat []).take n
  let m := n - old.length
  if x.nextId + m > gCap d then none
  else some (old ++ (List.range m).map (x.nextId + ·), { x with freeIds := x.freeIds.filter fun y => !old.contains y, nextId := x.nextId + m })

/-- The staging graph, the tombstones and the pages as an entry search sees them. -/
def entryView (s : State) (p : Nat) (x : Index) : View :=
  let g := aGetD x.flash x.version ⟨[], 0, []⟩
  { desc := (getPart s p).desc, nodes := g.nodes, hw := g.nodeHw, entries := g.entries, staging := x.staging, tombs := x.tombs }

/-- A node of a graph version whose page is not lost, or a node of staging. -/
def pageReads (s : State) (p : Nat) (v : View) (y : Nat) : Bool := !(v.onFlash y && pageLost s p (nodePageNo v.desc y))

/-- What a vector asks for in its entry search (R304 step 2). -/
def entryAsk (d vec : List Byte) : Ask := { query := nodeElems d vec, k := gDeg d, L := gBuild d, filter := [] }

/-- Link the nodes of an object in chunk order: answers their records and the counts of hops, scored and FP16 elements
taken as 0. -/
def linkNodes (s : State) (p : Nat) (obj : Nat) (attrs : List Byte) : List (Nat × Nat × List Byte) → View → List Nat → View × List Nat
  | [], v, c => (v, c)
  | (y, chunk, vec) :: r, v, c =>
    let w := traverse v (entryAsk v.desc vec) (gBuild v.desc) 1 (pageReads s p v)
    let n : NodeRec := { object := obj, chunk := chunk, state := 1, vec := vec, attrs := attrs, nbrs := w.res.map (·.node) }
    linkNodes s p obj attrs r { v with staging := aPut v.staging y n }
      ((c.zip [w.hops, w.scored, w.badElem, w.badEdges, w.unreadable]).map fun e => e.1 + e.2)

/-- Staging or the identifiers are full: one event a season. -/
def stagingFull (s : State) (p code : Nat) : State :=
  match getIndex s p with
  | some x => if x.fullPosted then s else post (updIndex s p fun x => { x with fullPosted := true }) pgSearch code p 0 0
  | none => s

def countEntry (s : State) (c : List Nat) : State :=
  let s1 := bumpPair (bumpPair s Reg.SRCH_HOPS_LO (listAt c 0)) Reg.SRCH_SCORED_LO (listAt c 1)
  bump (bump (bump s1 Reg.SRCH_BAD_ELEM (listAt c 2)) Reg.SRCH_BAD_EDGE (listAt c 3)) Reg.SRCH_UNREADABLE (listAt c 4)

/-- Enter an object's nodes into staging in one action. -/
def enterNodes (s : State) (p obj : Nat) (x : Index) (o : Listed) (n : Nat) (cut : Bool) : State :=
  let d := (getPart s p).desc
  if x.staging.length + n > gStaging d then stagingFull s p 0x0602
  else
    match takeIds d x n with
    | none => stagingFull s p 0x0603
    | some (ids, x1) =>
      let l := ids.zipIdx.map fun e => (e.1, e.2, sub (aGetD o.vectors e.2 []) 0 (gVec d))
      let (v, c) := linkNodes s p obj (o.plain.take (gAttrs d)) l (entryView s p x) [0, 0, 0, 0, 0]
      let x2 := { x1 with staging := v.staging, ingest := aDel x.ingest obj, held := aPut x.held obj o }
      let s1 := bump (countEntry { s with index := aPut s.index p x2 } c) Reg.COMMONS_OBJ_INDEXED 1
      if cut then bump s1 Reg.COMMONS_OBJ_TRUNC 1 else s1

/-- All the chunks of an object have been delivered. -/
def allDelivered (o : Listed) (n : Nat) : Bool := o.auth.isSome && (List.range n).all fun c => aHas o.vectors c

def execObjectEntry (partition object : Nat) (s : State) : Host.Outcome State Fault Refusal :=
  match getIndex s partition, (indexAlm s).bind (·.2.plan) with
  | some x, some p =>
    match aGet? x.ingest object with
    | none => .next s
    | some o =>
      let d := (getPart s partition).desc
      let n := objectChunks s p.inLen d o
      if engineOn s && isSealed s partition && allDelivered o n then
        .next (enterNodes s partition object x o n (decide (n < chunkCount (contentLen d o) p.inLen (idxOverlap s))))
      else .next s
  | _, _ => .next s

/-! The merge (R306, R307) -/

/-- What a merge works on: the graph's descriptor, version V, the season set, the node pages that cannot be read. -/
structure Merge where
  desc : List Byte
  old : GraphVersion
  new : AMap NodeRec
  dead : List Nat
  lost : List Nat
  deriving DecidableEq, Repr

def Merge.onLost (m : Merge) (y : Nat) : Bool := aHas m.old.nodes y && m.lost.contains (nodePageNo m.desc y)

/-- The record of a live node: of the season set, or of version V. -/
def Merge.live (m : Merge) (y : Nat) : Option NodeRec :=
  if m.dead.contains y then none
  else match aGet? m.new y with
    | some r => some r
    | none => match aGet? m.old.nodes y with
      | some r => if r.state = 1 ∧ !m.onLost y then some r else none
      | none => none

/-- select(u, S). -/
def Merge.pick (m : Merge) (u : Nat) (r : NodeRec) (l : List Nat) : List Nat :=
  let q := nodeElems m.desc r.vec
  let cs : List Cand := l.foldl (fun cs y =>
    if y = u ∨ cs.any fun c => c.node == y then cs
    else match m.live y with
      | none => cs
      | some z => let k := keyOf m.desc q (nodeElems m.desc z.vec); insertCand ⟨k.1, k.2, y, false⟩ cs) []
  (cs.take (gDeg m.desc)).map (·.node)

/-- Step 1: the lists around tombstoned nodes. -/
def Merge.repairs (m : Merge) : List (Nat × List Nat) :=
  m.old.nodes.filterMap fun e =>
    let gone := e.2.nbrs.filter m.dead.contains
    if e.2.state ≠ 1 ∨ m.dead.contains e.1 ∨ m.onLost e.1 ∨ gone.isEmpty then none
    else
      let beyond := gone.flatMap fun y => match aGet? m.old.nodes y with
        | some r => if m.onLost y then [] else r.nbrs
        | none => []
      some (e.1, m.pick e.1 e.2 ((e.2.nbrs.filter fun y => !m.dead.contains y) ++ beyond))

/-- The nodes that step 2 gives added candidates, with those: a neighbour of a new node, in order of the new nodes. -/
def Merge.added (m : Merge) : AMap (List Nat) :=
  (m.new.filter fun e => !m.dead.contains e.1).foldl (fun t e =>
    e.2.nbrs.foldl (fun t u => if (m.live u).isSome then aPut t u (aGetD t u [] ++ [e.1]) else t) t) []

/-- Tombstoned nodes that stay so: those on pages that cannot be read, and those that such pages point to (R307). -/
def Merge.keep (m : Merge) : List Nat :=
  m.dead.filter fun x => m.onLost x || m.old.nodes.any fun e => m.onLost e.1 && e.2.nbrs.contains x

/-- The merged version: its nodes, the nodes that changed, the identifiers freed, the lists repaired. -/
def Merge.run (m : Merge) (hw : Nat) : GraphVersion × List Nat × List Nat × Nat :=
  let fixed := m.repairs
  let new := m.new.filter fun e => !m.dead.contains e.1
  let n1 := fixed.foldl (fun t f => aUpd t f.1 fun r => { r with nbrs := f.2 }) m.old.nodes
  let n2 := new.foldl (fun t e => aPut t e.1 { e.2 with state := 1 }) n1
  let n3 := m.added.foldl (fun t e => aUpd t e.1 fun r => { r with nbrs := m.pick e.1 r (r.nbrs ++ e.2) }) n2
  let keep := m.keep
  let freed := m.dead.filter fun x => !keep.contains x
  let n4 := n3.filter fun e => !freed.contains e.1
  let ids := (fixed.map (·.1)) ++ new.map (·.1) ++ m.added.map (·.1) ++ freed
  let ent := (m.old.entries.filter fun y => (m.live y).isSome) ++ (new.map (·.1)).filter fun y => !m.old.entries.contains y
  ({ nodes := n4, nodeHw := max hw m.old.nodeHw, entries := ent.take 16 }, ids.foldr insertNat [], freed, fixed.length)

/-! SEASON_TAKES_EFFECT (R27, R282, R306) -/

/-- The node pages of version V, and those that new nodes go to, that cannot be read. -/
def lostPages (s : State) (p : Nat) (d : List Byte) (ids : List Nat) : List Nat :=
  ((ids.map (nodePageNo d)).foldr insertNat []).filter (pageLost s p)

/-- The objects still listed go over to the next season: what was held of them is discarded. -/
def carryOver (x : Index) : Index :=
  { x with season := x.season + 1, held := [], tagFails := 0, fullPosted := false
           ingest := x.ingest.map fun e => (e.1, { e.2 with season := x.season + 1, formed := 0, vectors := [] }) }

/-- The merge of a partition: its changed pages are written under the next version. -/
def mergeSeason (s : State) (p : Nat) (x : Index) (c : Closing) : State :=
  let d := (getPart s p).desc
  let old := aGetD x.flash x.version ⟨[], 0, []⟩
  let lost := lostPages s p d ((old.nodes ++ x.staging).map (·.1))
  let m : Merge := { desc := d, old := old, new := x.staging, dead := x.tombs, lost := lost }
  let (g, ids, freed, fixed) := m.run x.nextId
  let news := (x.staging.filter fun e => !x.tombs.contains e.1).length
  let gone := x.tombs.filter fun y => freed.contains y
  let c1 := { c with phase := 2, nodes := x.staging.map (·.1), tombs := gone, unreadable := !lost.isEmpty && !x.tombs.isEmpty, next := some g
                     objs := x.held, counts := [x.held.length, x.ingest.length, x.tagFails, news, freed.length, fixed] }
  let s1 := if x.tombs.isEmpty then s else lost.foldl (fun s _ => post s pgSearch 0x0605 p 0 0) s
  let pages := (changedPages d old g ids).filter fun n => !lost.contains n
  let s2 := pages.foldl (fun s n => writePage s p (x.version + 1) g n) s1
  { s2 with index := aPut s2.index p { carryOver x with closing := some c1 } }

/-- A batch in progress holds chunks of the partition. -/
def batchHolds (s : State) (p : Nat) : Bool := s.commons.batches.any fun b => b.rows.any fun r => r.1 == p

def execSeasonTakesEffect (partition : Nat) (s : State) : Host.Outcome State Fault Refusal :=
  match getIndex s partition with
  | none => .next s
  | some x =>
    match x.closing with
    | none => .next s
    | some c =>
      if engineOn s ∧ isSealed s partition ∧ c.phase = 0 ∧ !batchHolds s partition then .next (mergeSeason s partition x c)
      else .next s

/-! VERSION_FLIP (R306 to R308) -/

/-- A search pins a version that a test names. -/
def pinsVersion (s : State) (p : Nat) (f : Nat → Bool) : Bool :=
  s.searches.any fun e => e.2.partition == p && (e.2.phase != .waiting || e.2.restarts > 0) && e.2.phase != .embedding && f e.2.version

/-- The command of a season completes: DW0 the season closed, its record's counts (R308, R385). -/
def completeSeason (s : State) (x : Index) (c : Closing) : State :=
  if !c.command then s
  else
    let s1 := updProg s c.sqid c.cid fun r => { r with counts := c.counts, units := listAt c.counts 0 }
    completeAt s1 c.sqid c.cid (replyDw stSuccess (x.season - 1))

def flipVersion (s : State) (p : Nat) (x : Index) (c : Closing) (g : GraphVersion) : State :=
  let y := { x with version := x.version + 1, flash := aPut x.flash (x.version + 1) g, closing := some { c with phase := 3, objs := [], next := none } }
  let s1 := bump { s with index := aPut s.index p y } Reg.SEASON_MERGES 1
  completeSeason (bump (bump s1 Reg.SEASON_FREED (listAt c.counts 4)) Reg.SEASON_REPAIRED (listAt c.counts 5)) y c

def execVersionFlip (partition : Nat) (s : State) : Host.Outcome State Fault Refusal :=
  match getIndex s partition with
  | none => .next s
  | some x =>
    match x.closing with
    | none => .next s
    | some c =>
      match c.next with
      | none => .next s
      | some g =>
        if engineOn s ∧ c.phase = 2 ∧ !pinsVersion s partition fun v => decide (v < x.version) then
          .next (flipVersion s partition x c g)
        else .next s

/-! VERSION_FREEING (R306) -/

/-- The season set's staging records and tombstones go, its identifiers are free, version V is dropped. -/
def freeVersion (x : Index) (c : Closing) : Index :=
  let gone := c.tombs
  { x with staging := x.staging.filter fun e => !c.nodes.contains e.1
           tombs := x.tombs.filter fun y => !gone.contains y
           freeIds := (x.freeIds ++ gone).foldr insertNat []
           flash := aDel x.flash (x.version - 1)
           closing := none }

def execVersionFreeing (partition : Nat) (s : State) : Host.Outcome State Fault Refusal :=
  match getIndex s partition with
  | none => .next s
  | some x =>
    match x.closing with
    | none => .next s
    | some c =>
      if engineOn s ∧ c.phase = 3 ∧ !pinsVersion s partition fun v => decide (v < x.version) then
        .next { s with index := aPut s.index partition (freeVersion x c) }
      else .next s

end Sys2Proof.Machine
end

