-- ==== Sys2Proof/Machine/Adapters.lean ====
section
/-! DEFINITION. The meanings of the VZ-GANG forms on adapters and row sets (R332 to R339, R361). -/

namespace Sys2Proof.Machine

/-! Adapters -/

/-- A descriptor and its site table keep R333. -/
def siteOk (b : List Byte) (n t : Nat) : Bool :=
  let o := 64 + 8 * t
  let dim := fun (d : Nat) => 256 ≤ d && d ≤ 16384 && d % 256 == 0
  leAt b o 2 ≤ 4095 && dim (leAt b (o + 2) 2) && dim (leAt b (o + 4) 2) && leAt b (o + 6) 2 / 128 % 256 != 255
    && (List.range n).all fun u => u == t || leAt b (64 + 8 * u) 2 != leAt b o 2

def adapterOk (b : List Byte) : Bool :=
  let n := descSites b
  b.length == 64 + 8 * n && 1 ≤ n && n ≤ 64 && [4, 8, 16, 32, 64].contains (descRank b) && descOpt b ≤ 1
    && leAt b 3 1 ≤ 64 && leAt b 4 1 ≤ 7 && allZero b 5 3 && leAt b 8 8 % 16384 == 0 && allZero b 0x10 48
    && (List.range n).all (siteOk b n)

/-- The home of a new adapter lies in the namespace and meets no other home (R335). -/
def homeFree (s : State) (p home size : Nat) : Bool :=
  decide (home + (size + 16383) / 16384 * 16384 ≤ nsCapacity s p) && !meetsUnits (homeRanges s p) home size

/-- The lowest free adapter identifier. -/
def freeAdapter (s : State) : Option Nat :=
  let k := aLowestFree s.adapters (s.adapters.length + 1) 0
  if k < 65536 then some k else none

def residentCount (s : State) : Nat := (s.adapters.filter fun e => e.2.pages.isSome).length

/-- The image before its masters (R334): the descriptor, the site table, no steps, no scale entries. -/
def imageHead (desc sites : List Byte) : List Byte :=
  sub desc 0 64 ++ sub sites 0 512 ++ toLe 8 0 ++ toLe 4 0x3F800000 ++ toLe 4 0x3F800000 ++ zeros 3504

def adapterCreateCmd (s : State) (q : Req) : State × Option Reply :=
  let b := q.pay
  let desc := b.take 64
  let sites := b.drop 64
  let size := imageSize desc sites
  guards s [(operatorPart q.c || !formFields q.c || q.c.handle != 0 || !adapterOk b, stInvalidField), (unsealed s q.part, stNotSealed),
      (!homeFree s q.part (leAt b 8 8) size, stInvalidField), ((freeAdapter s).isNone || residentCount s ≥ 4096, stQuota)] fun _ =>
    match allocPages s q.part (size / 65536) with
    | none => fail s stQuota
    | some (s1, pages) =>
      let k := (freeAdapter s).getD 0
      let a : Adapter := { partition := q.part, desc := desc, sites := sites, home := leAt b 8 8, size := size, pages := some pages,
                           homeWritten := false, pinnedBy := none }
      let s2 := pages.foldl (fun s p => scramble s (locPage p) 65536) s1
      let s3 := pagesWrite s2 pages 0 (imageHead desc sites ++ zeros (0x20000 - 4096))
      done { s3 with adapters := aPut s3.adapters k a } k

def execAdapterCreate (c : Cmd) (o : Opened) (s : State) : Host.Outcome State Fault Refusal :=
  runForm c 0 (runSealed c 0x8F true false false o adapterCreateCmd) s

/-- The adapter that a command names: its partition's own, or any for the operator (R332, R361). -/
def namedAdapter (s : State) (q : Req) : Option Adapter :=
  match aGet? s.adapters q.c.handle with
  | some a => if a.partition = q.part ∨ operatorPart q.c then some a else none
  | none => none

/-- The checks that the forms on one adapter share. -/
def adapterChecks (s : State) (q : Req) (noPay : Bool) : List (Bool × Status) :=
  [(!formFields q.c || (noPay && q.pay.length != 0), stInvalidField), (unsealed s q.part, stNotSealed), ((namedAdapter s q).isNone, stInvalidField)]

/-- The masters of every site in image order as a payload holds them. -/
def mastersLen (a : Adapter) : Nat :=
  ((List.range (descSites a.desc)).map fun t => 4 * (matLen a.desc a.sites t 0 + matLen a.desc a.sites t 1)).sum

/-- Where the masters of site t begin in a payload. -/
def mastersAt (a : Adapter) (t : Nat) : Nat :=
  ((List.range t).map fun u => 4 * (matLen a.desc a.sites u 0 + matLen a.desc a.sites u 1)).sum

/-- The site part of an image whose masters a payload gives: moments zero. -/
def siteImage (a : Adapter) (pay : List Byte) (t : Nat) : List Byte :=
  let n := 4 * (matLen a.desc a.sites t 0 + matLen a.desc a.sites t 1)
  sub pay (mastersAt a t) n ++ zeros (2 * n)

/-- LOAD (R334). -/
def loadMasters (s : State) (a : Adapter) (pages : List Nat) (pay : List Byte) : State :=
  let body := (List.range (descSites a.desc)).flatMap (siteImage a pay)
  pagesWrite s pages 0 (imageHead a.desc a.sites ++ zeros (0x20000 - 4096) ++ body ++ zeros (a.size - 0x20000 - body.length))

def adapterLoadCmd (s : State) (q : Req) : State × Option Reply :=
  guards s ((operatorPart q.c, stInvalidField) :: adapterChecks s q false) fun _ =>
    match namedAdapter s q with
    | none => fail s stInvalidField
    | some a =>
      guards s [(q.pay.length != mastersLen a, stInvalidField), (a.pages.isNone || a.pinnedBy.isSome, stSequence)] fun _ =>
        done (loadMasters s a (a.pages.getD []) q.pay) 0

def execAdapterLoad (c : Cmd) (o : Opened) (s : State) : Host.Outcome State Fault Refusal :=
  runForm c 1 (runSealed c 0x8F true false false o adapterLoadCmd) s

/-- The masters of a resident image. -/
def masterBytes (m : Mem) (a : Adapter) : List Byte :=
  (List.range (descSites a.desc)).flatMap fun t =>
    imgRead m a (siteBase a.desc a.sites t) (4 * (matLen a.desc a.sites t 0 + matLen a.desc a.sites t 1))

def adapterExportCmd (s : State) (q : Req) : State × Option Reply :=
  guards s ((operatorPart q.c, stInvalidField) :: adapterChecks s q true) fun _ =>
    match namedAdapter s q with
    | none => fail s stInvalidField
    | some a =>
      guards s [(!roomFor q (8 + mastersLen a), stInvalidField), (a.pages.isNone, stSequence),
          (pagesPoisoned s.mem (a.pages.getD []) 0 a.size, stPoisoned)] fun _ =>
        let n := imgSteps s.mem a
        answerReply s q stSuccess n 0 (toLe 8 n ++ masterBytes s.mem a)

def execAdapterExport (c : Cmd) (o : Opened) (s : State) : Host.Outcome State Fault Refusal :=
  runForm c 2 (runSealed c 0x8F true false false o adapterExportCmd) s

/-- Units of an adapter's home. -/
def homeUnits (a : Adapter) : List Nat := (List.range (unitsFor a.size)).map (a.home / 16384 + ·)

/-- Zero an image and give its pages back. -/
def dropImage (s : State) (k : Nat) (a : Adapter) : State :=
  match a.pages with
  | none => s
  | some l =>
    let s1 := l.foldl (fun s p => memZero s (locPage p) 65536) s
    releasePages { s1 with adapters := aPut s1.adapters k { a with pages := none } } a.partition l

/-- DELETE. -/
def adapterDeleteCmd (s : State) (q : Req) : State × Option Reply :=
  guards s ((operatorPart q.c, stInvalidField) :: adapterChecks s q true) fun _ =>
    match namedAdapter s q with
    | none => fail s stInvalidField
    | some a =>
      if a.pinnedBy.isSome then fail s stSequence
      else
        let s1 := dropImage s q.c.handle a
        let s2 := { s1 with adapters := aDel s1.adapters q.c.handle }
        done ((homeUnits a).foldl (fun s u => unmapUnit s a.partition u) s2) 0

def execAdapterDelete (c : Cmd) (o : Opened) (s : State) : Host.Outcome State Fault Refusal :=
  runForm c 3 (runSealed c 0x8F true false false o adapterDeleteCmd) s

/-! RESIDE, EVICT (R335, R336) -/

/-- What the home's units hold; none where one is poisoned. -/
def homeVals (s : State) (a : Adapter) : Option (List UnitVal) :=
  (homeUnits a).mapM fun u => match unitIdx s a.partition u with | some i => unitVal s i | none => none

/-- Bring an image up from its home. -/
def resideImage (s : State) (k : Nat) (a : Adapter) (l : List UnitVal) : Option State :=
  match allocPages s a.partition (a.size / 65536) with
  | none => none
  | some (s1, pages) =>
    let s2 := pagesWrite s1 pages 0 (sub (l.flatMap fun v => bRead v.bytes 0 16384) 0 a.size)
    some { s2 with adapters := aPut s2.adapters k { a with pages := some pages } }

def resideCmd (unitsOk : Bool) (s : State) (q : Req) : State × Option Reply :=
  guards s (adapterChecks s q true) fun _ =>
    match namedAdapter s q with
    | none => fail s stInvalidField
    | some a =>
      guards s [(a.pages.isSome || !a.homeWritten, stSequence), (residentCount s ≥ 4096 || !fits s a.partition 3 a.size, stQuota)] fun _ =>
        match homeVals s a with
        | none => fail s stPoisoned
        | some l =>
          if !unitsOk ∨ l.any (·.form != 2) then fail (bump s Reg.ADPT_SEAL_FAIL 1) stSeal
          else match resideImage s q.c.handle a l with
            | none => fail s stQuota
            | some s1 => done s1 0

def execReside (c : Cmd) (o : Opened) (unitsOk : Bool) (s : State) : Host.Outcome State Fault Refusal :=
  runForm c 4 (runSealed c 0x8F (!operatorPart c) (operatorPart c) false o (resideCmd unitsOk)) s

/-- The nonce of a home unit: identifier, unit index, eviction count, a zero byte, 0x01. -/
def homeNonce (k u n : Nat) : Nat := k % 2 ^ 16 + u % 2 ^ 32 * 2 ^ 16 + n % 2 ^ 32 * 2 ^ 48 + 2 ^ 88

/-- Write an image home: the units enter the buffer; answers their versions. -/
def writeImageHome (s : State) (k n : Nat) (a : Adapter) : State × List Nat :=
  (((homeUnits a).zipIdx).foldl fun (acc : State × List Nat) x =>
    match unitIdx acc.1 a.partition x.1 with
    | none => acc
    | some idx =>
      let v : UnitVal := { bytes := bOfList (imgRead s.mem a (16384 * x.2) 16384), form := 2,
                           key := (getPart s a.partition).indexKey, nonce := homeNonce k x.2 n }
      let (s1, o) := enterUnit acc.1 a.partition x.1 idx 0 0 v
      (staleCopy s1 a.partition (x.1 / 4), acc.2 ++ [o])) (s, [])

def evictCmd (s : State) (q : Req) : State × Option Reply :=
  let k := q.c.handle
  let n := aGetD s.evictions k 0 + 1
  guards s (adapterChecks s q true) fun _ =>
    match namedAdapter s q with
    | none => fail s stInvalidField
    | some a =>
      guards s [(a.pages.isNone || a.pinnedBy.isSome, stSequence), (decide (n > 0xFFFFFFFF), stQuota),
          (pagesPoisoned s.mem (a.pages.getD []) 0 a.size, stPoisoned), (writeProtected s, stWriteProtected)] fun _ =>
        let (s1, os) := writeImageHome { s with evictions := aPut s.evictions k n } k n a
        let s2 := dropImage s1 k { a with homeWritten := true }
        if q.c.durable ∨ bankWeak s2 then whenDurable s2 q.c os replyOk else (s2, some replyOk)

def execEvict (c : Cmd) (o : Opened) (s : State) : Host.Outcome State Fault Refusal :=
  runForm c 5 (runSealed c 0x8F (!operatorPart c) (operatorPart c) false o evictCmd) s

/-! Row sets (R339) -/

/-- The row set handle of a command. -/
def rowHandle (c : Cmd) : Nat := bitsOf c.cdw13.toNat 15 8

/-- CDW11 and the fields of CDW13 that the row-set forms do not use are zero. -/
def rowFieldsOk (c : Cmd) : Bool := c.cdw11 == 0 && c.handle == 0 && bitsOf c.cdw13.toNat 7 4 == 0

def rowSetOf (s : State) (q : Req) : Option RowSet := aGet? s.rowsets (tabKey q.part (rowHandle q.c))

/-- A running STEP uses the row set. -/
def rowSetUsed (s : State) (p h : Nat) : Bool := s.gangs.any fun g => g.2.members.any fun m => m.active && m.partition == p && m.rowset == h

def rowsetCreateCmd (s : State) (q : Req) : State × Option Reply :=
  let rows := leAt q.pay 0 4
  let rb := leAt q.pay 4 4
  let h := ((List.range 255).map (· + 1)).find? fun h => !aHas s.rowsets (tabKey q.part h)
  guards s [(operatorPart q.c || !rowFieldsOk q.c || rowHandle q.c != 0 || q.pay.length != 64 || !allZero q.pay 8 56 || rows == 0
        || decide (rb < 64) || decide (rb > 65536) || rb % 64 != 0, stInvalidField), (unsealed s q.part, stNotSealed), (h.isNone, stQuota)] fun _ =>
    match allocPages s q.part (pagesFor (rows * rb)) with
    | none => fail s stQuota
    | some (s1, l) =>
      let s2 := l.foldl (fun s p => scramble s (locPage p) 65536) s1
      done { s2 with rowsets := aPut s2.rowsets (tabKey q.part (h.getD 0)) { rows := rows, rowBytes := rb, pages := l } } (h.getD 0)

def execRowsetCreate (c : Cmd) (o : Opened) (s : State) : Host.Outcome State Fault Refusal :=
  runForm c 6 (runSealed c 0x8F true false false o rowsetCreateCmd) s

/-- The checks that the other row-set forms share. -/
def rowsetChecks (s : State) (q : Req) : List (Bool × Status) :=
  [(operatorPart q.c || !rowFieldsOk q.c, stInvalidField), (unsealed s q.part, stNotSealed), ((rowSetOf s q).isNone, stInvalidField)]

def rowsetLoadCmd (s : State) (q : Req) : State × Option Reply :=
  let first := leAt q.pay 0 8
  let n := leAt q.pay 8 4
  guards s (rowsetChecks s q) fun _ =>
    match rowSetOf s q with
    | none => fail s stInvalidField
    | some r =>
      guards s [(q.pay.length != 16 + n * r.rowBytes || !allZero q.pay 12 4 || decide (first + n > r.rows), stInvalidField),
          (rowSetUsed s q.part (rowHandle q.c), stSequence)] fun _ =>
        done (pagesWrite s r.pages (first * r.rowBytes) (q.pay.drop 16)) n

def execRowsetLoad (c : Cmd) (o : Opened) (s : State) : Host.Outcome State Fault Refusal :=
  runForm c 7 (runSealed c 0x8F true false false o rowsetLoadCmd) s

def rowsetReadCmd (s : State) (q : Req) : State × Option Reply :=
  let first := leAt q.pay 0 8
  let n := leAt q.pay 8 4
  guards s (rowsetChecks s q) fun _ =>
    match rowSetOf s q with
    | none => fail s stInvalidField
    | some r =>
      guards s [(q.pay.length != 16 || !allZero q.pay 12 4 || decide (first + n > r.rows) || !roomFor q (n * r.rowBytes), stInvalidField),
          (pagesPoisoned s.mem r.pages (first * r.rowBytes) (n * r.rowBytes), stPoisoned)] fun _ =>
        answerReply s q stSuccess n 0 (pagesRead s.mem r.pages (first * r.rowBytes) (n * r.rowBytes))

def execRowsetRead (c : Cmd) (o : Opened) (s : State) : Host.Outcome State Fault Refusal :=
  runForm c 8 (runSealed c 0x8F true false false o rowsetReadCmd) s

def rowsetDeleteCmd (s : State) (q : Req) : State × Option Reply :=
  guards s ((q.pay.length != 0, stInvalidField) :: rowsetChecks s q) fun _ =>
    match rowSetOf s q with
    | none => fail s stInvalidField
    | some r =>
      if rowSetUsed s q.part (rowHandle q.c) then fail s stSequence
      else
        let s1 := releasePages s q.part r.pages
        done { s1 with rowsets := aDel s1.rowsets (tabKey q.part (rowHandle q.c)) } 0

def execRowsetDelete (c : Cmd) (o : Opened) (s : State) : Host.Outcome State Fault Refusal :=
  runForm c 9 (runSealed c 0x8F true false false o rowsetDeleteCmd) s

end Sys2Proof.Machine
end

