-- ==== Sys2Proof/Machine/Gangs.lean ====
section
/-! DEFINITION. The meanings of STEP, of a reduction message and of the update phase (R357 to R369, R454). -/

namespace Sys2Proof.Machine

/-! The header and the bindings (R344, R362) -/

def pad64 (n : Nat) : Nat := (n + 63) / 64 * 64

/-- A binding entry of 8 bytes. -/
def readBinding (b : List Byte) (o : Nat) : Binding :=
  { cls := leAt b o 1, what := leAt b (o + 1) 1, site := leAt b (o + 2) 1, word := leAt b (o + 3) 1, eInit := signedOf 1 (leAt b (o + 4) 1) }

/-- The binding entry of an item keeps R344. -/
def bindOk (b : List Byte) (o slots : Nat) (it : RowItem) : Bool :=
  let x := readBinding b o
  let whats := if x.cls = 0 ∨ x.cls = 1 then 4 else if x.cls = 2 then 2 else 1
  let words := if x.cls = 0 ∨ (x.cls = 1 ∧ x.what < 2) then 3 else 1
  let esz := if x.cls = 0 then 0 else if x.cls = 1 then (if x.what < 2 then 0 else 1) else 2
  decide (x.cls ≤ 3) && decide (x.what < whats) && decide (x.site < 64) && decide (x.word < words)
    && (x.cls == 1 || leAt b (o + 4) 1 == 0) && allZero b (o + 5) 3
    && (x.cls == 3 || (it.groups == slots && it.esize == esz))

/-- The group of a STEP exists, with this module at its rank (R362, R453). -/
def groupOk (s : State) (group rank count : Nat) : Bool :=
  if count = 1 then group == 0 && rank == 0
  else
    match s.forest.cfg.bind fun c => c.groups.find? (·.num == group) with
    | some g => g.members.length == count && rankModule s group rank == selfNo s && decide (rank < count)
    | none => false

/-- The gang almanac that a STEP names. -/
def stepAlm (s : State) (pay : List Byte) : Option (Alm × RowPlan) :=
  match aGet? s.alms (leAt pay 0 2) with
  | some a => if a.owner = 4095 then a.plan.bind fun p => if p.kind = 1 then some (a, p) else none else none
  | none => none

/-- The header, the bindings and the length of a STEP's payload keep their rules. -/
def stepOk (s : State) (b : List Byte) (p : RowPlan) : Bool :=
  let items := (sectionItems p).map (·.1)
  let n := leAt b 2 2
  let binds := leAt b 0x0E 2
  let slots := 64 + pad64 (8 * binds)
  binds == items.length && 1 ≤ n && n ≤ gangSlots p && [1, 2, 4, 8].contains (leAt b 4 1) && leAt b 5 1 == 0 && 1 ≤ leAt b 6 2
    && 1 ≤ leAt b 0x0C 2 && leAt b 0x0C 2 ≤ 256 && groupOk s (leAt b 8 2) (leAt b 0x0A 2) (leAt b 0x0C 2) && allZero b 0x10 48
    && b.length == slots + 192 * n && allZero b (64 + 8 * binds) (pad64 (8 * binds) - 8 * binds)
    && (items.zipIdx).all (fun x => bindOk b (64 + 8 * x.2) (gangSlots p) x.1)
    && (List.range n).all fun i => let o := slots + 192 * i; allZero b (o + 4) 4 && allZero b (o + 0x14) 12 && allZero b (o + 0xB0) 16

/-! Tickets (R363, R364, R424) -/

/-- A finite binary32 code. -/
def finite32 (c : Nat) : Bool := decide (c % 2 ^ 31 ≤ fmtFP32.maxCode)

/-- The hyperparameters of a ticket: lr, β1, β2, ε, wd, grad_scale. -/
def hyperOk (l : List Nat) : Bool :=
  let beta := fun c => decide (c < 0x3F800000) || c == 2 ^ 31
  let eps := l.getD 3 0
  l.all finite32 && beta (l.getD 1 0) && beta (l.getD 2 0) && decide (0 < eps) && decide (eps < 2 ^ 31)

def ticketHyper (t : List Byte) : List Nat := (List.range 6).map fun i => leAt t (0x20 + 4 * i) 4

/-- A ticket's fields keep their rules. -/
def ticketOk (t : List Byte) (rows most : Nat) : Bool :=
  allZero t 1 7 && decide (leAt t 0x10 8 < rows) && 1 ≤ leAt t 0x18 4 && leAt t 0x18 4 ≤ most && 1 ≤ leAt t 0x1C 2
    && allZero t 0x1E 2 && allZero t 0x38 8 && hyperOk (ticketHyper t)

/-- Every bound site of an adapter fits its binding. -/
def sitesFit (a : Adapter) (p : RowPlan) (binds : List Binding) : Bool :=
  ((sectionItems p).zip binds).all fun x =>
    let b := x.2
    b.cls == 3 || (decide (b.site < descSites a.desc)
      && bindFits b.cls b.what x.1.1.lines (rowsPerSlot p) (descRank a.desc) (siteIn a.sites b.site) (siteOut a.sites b.site))

/-- The routes of a plan stay in the rows of a row set. -/
def routesFit (p : RowPlan) (r : RowSet) : Bool :=
  p.items.all fun it => it.role == 3 || decide (it.routeOff + it.lines * it.esz ≤ r.rowBytes)

/-- The status with which a member is excluded; 0 where it is not. taken are the adapters of earlier members. -/
def memberStatus (s : State) (a : Alm) (p : RowPlan) (binds : List Binding) (bindBytes : List Byte) (copies : Nat) (taken : List Nat)
    (part ad : Nat) (auth : Bool) (t : List Byte) : Nat :=
  match aGet? s.adapters ad with
  | none => 1
  | some x =>
    if x.partition ≠ part ∨ x.pages.isNone then 1
    else if x.pinnedBy.isSome ∨ taken.contains ad then 2
    else if !auth then 4
    else if leAt t 8 8 ≠ imgSteps s.mem x then 3
    else if sub t 0x40 32 ≠ sub a.digest 0 32 ∨ sub t 0x60 32 ≠ sub (sha512 bindBytes) 0 32 then 5
    else if !sitesFit x p binds then 6
    else
      match aGet? s.rowsets (tabKey part (leAt t 0 1)) with
      | none => 7
      | some r => if !routesFit p r then 7 else if !ticketOk t r.rows (copies * rowsPerSlot p) then 8 else 0

/-- A member as its slot and its ticket give it: its session is the one that the IV names (R424). -/
def openMember (s : State) (a : Alm) (p : RowPlan) (binds : List Binding) (bindBytes : List Byte) (copies : Nat) (taken : List Nat)
    (slot : List Byte) (o : Opened) : Member :=
  let part := leAt slot 0 2
  let ad := leAt slot 2 2
  let ses := leAt slot 0x10 2
  let auth := o.tagOk && sub slot 0x12 2 == [0x02#8, 0x00#8] && (openSess (getPart s part) ses).isSome
  let t := o.plain
  let st := memberStatus s a p binds bindBytes copies taken part ad auth t
  { partition := part, adapter := ad, session := ses, status := st, active := st == 0, rowset := leAt t 0 1, first := leAt t 0x10 8,
    perStep := leAt t 0x18 4, authorised := leAt t 0x1C 2, hyper := ticketHyper t, run := 0, updates := 0 }

/-- The members of a STEP in slot order. -/
def openMembers (s : State) (a : Alm) (p : RowPlan) (binds : List Binding) (bindBytes : List Byte) (copies : Nat)
    (slots : List (List Byte)) (tickets : List Opened) : List Member :=
  (slots.zipIdx).foldl (fun l x =>
    l ++ [openMember s a p binds bindBytes copies ((l.filter (·.active)).map (·.adapter)) x.1 (tickets.getD x.2 ⟨false, []⟩)]) []

/-! STEP (R362) -/

/-- The charges of the copies. -/
def copyCharges (s : State) (a : Alm) (copies : Nat) : List (Nat × Nat) := (jobCharges s a).map fun x => (x.1, copies * x.2)

/-- A STEP as its payload gives it. -/
def readStep (s : State) (q : Req) (a : Alm) (p : RowPlan) (tickets : List Opened) : Gang :=
  let b := q.pay
  let n := leAt b 0x0E 2
  let bindBytes := sub b 64 (8 * n)
  let binds := (List.range n).map fun i => readBinding b (64 + 8 * i)
  let slots := (List.range (leAt b 2 2)).map fun i => sub b (64 + pad64 (8 * n) + 192 * i) 192
  { sqid := q.c.sqid, cid := q.c.cid, alm := leAt b 0 2, members := openMembers s a p binds bindBytes (leAt b 4 1) slots tickets,
    binds := binds, bindBytes := bindBytes, copies := leAt b 4 1, steps := leAt b 6 2, done := 0, group := leAt b 8 2,
    rank := leAt b 0x0A 2, count := leAt b 0x0C 2, phase := 0, level := 0, jobs := [], committedJobs := [], sums := [], maxima := [],
    remapped := false }

/-- Pin the adapters of the members that run, and count the others (R338, R364, R435). -/
def pinMembers (s : State) (k : Nat) (g : Gang) : State :=
  let s1 := g.members.foldl (fun s m =>
    if m.active then { s with adapters := aUpd s.adapters m.adapter fun a => { a with pinnedBy := some k } } else s) s
  let bad := (g.members.filter (·.status == 4)).length
  bump (bump (bump s1 Reg.ADPT_EXCLUDED (g.members.filter fun m => !m.active).length) Reg.ADPT_SEAL_FAIL bad) Reg.SEC_SEAL_FAIL bad

/-- Queue the copies. -/
def queueCopies (s : State) (k : Nat) (g : Gang) (a : Alm) (p : RowPlan) (cls : Nat) : State :=
  (List.range g.copies).foldl (fun s q =>
    let j := { Job.queued a g.alm cls 1 g.sqid g.cid none false with gang := some k, copy := q, rows := gangRows s g p q }
    let (s1, n) := queueJob s a j
    updGang s1 k fun g => { g with jobs := g.jobs ++ [n] }) { s with gangs := aPut s.gangs k g }

def stepCmd (tickets : List Opened) (s : State) (q : Req) : State × Option Reply :=
  let h := leAt q.pay 0 2
  guards s [(q.part != 4095 || !formFields q.c || q.c.handle != 0 || decide (q.pay.length < 64), stInvalidField)] fun _ =>
    match stepAlm s q.pay with
    | none => fail s stInvalidField
    | some (a, p) =>
      let cls := if q.c.bestEffort then 1 else 0
      let copies := leAt q.pay 4 1
      if !stepOk s q.pay p ∨ !roomFor q (64 + 16 * leAt q.pay 2 2) then fail s stInvalidField
      else if getF s Reg.COMMONS_STAT Fld.COMMONS_STAT_model ≠ 2 then rejectCmd s q.part ⟨0x18, 0, 7, h⟩
      else if (namesBad s a).isSome then rejectCmd s q.part ⟨0x19, (namesBad s a).getD 0, 7, h⟩
      else if !couldBind s a cls then rejectCmd s q.part ⟨0x14, 0, 7, h⟩
      else if !chargesFit s 4095 (copyCharges s a copies) then fail s stQuota
      else
        let g := readStep s q a p tickets
        let k := aLowestFree s.gangs (s.gangs.length + 1) 0
        (queueCopies (pinMembers s k g) k g a p cls, none)

def execStep (c : Cmd) (tickets : List Opened) (s : State) : Host.Outcome State Fault Refusal :=
  runForm c 0xA (runSealed c 0x8F false true true ⟨false, []⟩ (stepCmd tickets)) s

/-! A reduction message (R358, R454) -/

/-- The gang step that a peer's message is for: one that awaits the peer, else one whose group holds it. -/
def gangOfPeer (s : State) (peer : Nat) : Option (Nat × Gang) :=
  let wide := s.gangs.filter fun e => decide (e.2.count > 1)
  match wide.find? fun e => (awaitedRank e.2).any fun r => rankModule s e.2.group r == peer with
  | some e => some e
  | none => wide.find? fun e => (List.range e.2.count).any fun r => rankModule s e.2.group r == peer

/-- The values of a message, in the order of the module's own. -/
def valuesAs (own : AMap Nat) (l : List Word) : AMap Nat := (own.zip l).map fun e => (e.1.1, e.2.toNat)

/-- Take an awaited partial, or the total. -/
def takePartial (s : State) (k : Nat) (g : Gang) (values maxima : List Word) : State :=
  let v := valuesAs g.sums values
  let m := valuesAs g.maxima maxima
  let s1 := match g.jobs.head? with
    | some n => updJob s n fun j => { j with cals := j.cals.map fun r => { r with late := false } }
    | none => s
  if awaitsPartial g then
    redAdvance k 10 (updGang s1 k fun g => { g with sums := addSums g.sums v, maxima := maxMaps g.maxima m, level := g.level + 1 })
  else totalKnown (updGang s1 k fun g => { g with sums := v, maxima := m }) k

/-- REDUCTION_MESSAGE: added, accepted, kept for a level not reached yet, or discarded as stray or late. -/
def reductionMessage (s : State) (peer level : Nat) (tagOk : Bool) (values maxima : List Word) : State :=
  let gone := takeInbox s peer 0
  match gangOfPeer s peer with
  | none => bump gone (if tagOk then Reg.ADPT_RED_LATE else Reg.FOREST_RED_STRAY) 1
  | some (k, g) =>
    if !tagOk then bump gone Reg.FOREST_RED_STRAY 1
    else if g.phase = 0 ∨ (g.phase = 1 ∧ g.level < level) then s
    else if g.phase = 1 ∧ level = g.level ∧ (awaitedRank g).any (fun r => rankModule s g.group r == peer)
        ∧ values.length = g.sums.length ∧ maxima.length = g.maxima.length then
      takePartial gone k g values maxima
    else bump gone Reg.FOREST_RED_STRAY 1

def execReductionMessage (peer level : Nat) (tagMatches : Bool) (values maxima : List Word) (s : State) :
    Host.Outcome State Fault Refusal :=
  .next (reductionMessage s peer level tagMatches values maxima)

/-! The update phase (R359, R360) -/

/-- What the update rule of a step uses: AdamW, lr, β1, β2, ε, wd, 1 − β1, 1 − β2, c1, c2. -/
structure UpdRule where
  adamW : Bool
  lr : Nat
  b1 : Nat
  b2 : Nat
  eps : Nat
  wd : Nat
  k1 : Nat
  k2 : Nat
  c1 : Nat
  c2 : Nat
  deriving DecidableEq, Repr

def one32 : Nat := 0x3F800000

/-- The rule for one member, given b1p and b2p of the step. -/
def updRule (adamW : Bool) (h : List Nat) (b1p b2p : Nat) : UpdRule :=
  let x := fun i => h.getD i 0
  let inv := fun v => fpDiv .rne 0 one32 (fpSub .rne 0 one32 v)
  { adamW := adamW, lr := x 0, b1 := x 1, b2 := x 2, eps := x 3, wd := x 4, k1 := fpSub .rne 0 one32 (x 1), k2 := fpSub .rne 0 one32 (x 2),
    c1 := inv b1p, c2 := inv b2p }

/-- One element: w, m, v after the step (R359). -/
def updElem (u : UpdRule) (gs G w m v : Nat) : Nat × Nat × Nat :=
  let mul := fpMul .rne 0
  let fma := fpFma .rne 0
  let g := mul G gs
  if u.adamW then
    let m1 := fma u.b1 m (mul u.k1 g)
    let v1 := fma u.b2 v (mul (mul u.k2 g) g)
    let d := fpDiv .rne 0 (mul m1 u.c1) (fpAdd .rne 0 (fpSqrt .rne 0 (mul v1 u.c2)) u.eps)
    (fma (fpNeg u.lr) (fma u.wd w d) w, m1, v1)
  else
    let m1 := fma u.b1 m g
    (fma (fpNeg u.lr) (fma u.wd w m1) w, m1, v)

/-- Update A (q = 0) or B (q = 1) of a site, where the step has its gradient. -/
def updMatrix (s : State) (ad : Adapter) (g : Gang) (slot t q : Nat) (u : UpdRule) (scale : Nat) : State :=
  let pages := ad.pages.getD []
  if !aHas g.sums (gradKey slot t q 0) then s
  else
    let gs := if q = 0 then scale else fpMul .rne 0 scale (siteScale ad.desc ad.sites t)
    let W := imgMat s.mem ad t q
    let M := imgMat s.mem ad t (2 + 2 * q)
    let V := imgMat s.mem ad t (3 + 2 * q)
    let R := (List.range W.length).map fun e => updElem u gs (aGetD g.sums (gradKey slot t q e) 0) (W.getD e 0) (M.getD e 0) (V.getD e 0)
    let put := fun (s : State) (m : Nat) (f : Nat × Nat × Nat → Nat) =>
      pagesWrite s pages (matBase ad.desc ad.sites t m) (R.flatMap fun x => toLe 4 (f x))
    put (put (put s q (·.1)) (2 + 2 * q) (·.2.1)) (3 + 2 * q) (·.2.2)

/-- Append a maximum to a scale record, with the exponent of the step (R349). -/
def appendRecord (s : State) (ad : Adapter) (t q top : Nat) (E : Int) : State :=
  let o := recBase t q
  let hist := descHist ad.desc
  let head := imgNat s.mem ad (o + 1) 1
  let n := min (recCount s.mem ad t q + 1) hist
  let s1 := pagesWrite s (ad.pages.getD []) (o + 16 + 4 * head) (toLe 4 top)
  pagesWrite s1 (ad.pages.getD []) o [BitVec.ofNat 8 n, BitVec.ofNat 8 ((head + 1) % hist), BitVec.ofInt 8 E]

/-- The exponent that copy 0 used for a scale record of a slot. -/
def stepExp (s : State) (g : Gang) (p : RowPlan) (slot t q : Nat) : Int :=
  match g.jobs.head?.bind (getJob s ·) with
  | none => 0
  | some j =>
    match (gangItems g p).find? fun x => decide (x.2.cls ≤ 1) && x.2.site == t && bindRec x.2 == q with
    | some x => aGetD j.exps (expKey x.1.2 slot) 0
    | none => 0

/-- The scale records of a member's bound sites take their entries. -/
def appendRecords (s : State) (ad : Adapter) (g : Gang) (p : RowPlan) (slot : Nat) : State :=
  (g.maxima.filter fun e => e.1 / 2 ^ 16 == slot).foldl (fun s e =>
    let t := e.1 % 2 ^ 16 / 8
    let q := e.1 % 8
    appendRecord s ad t q e.2 (stepExp s g p slot t q)) s

/-- The gradients of a member hold a NaN or an infinity. -/
def gradsBad (g : Gang) (slot : Nat) : Bool := g.sums.any fun e => e.1 / 2 ^ 40 == slot && !finite32 e.2

/-- The update of one member's adapter. -/
def updMember (s : State) (g : Gang) (p : RowPlan) (m : Member) (slot : Nat) (ad : Adapter) : State :=
  let pages := ad.pages.getD []
  let b1p := fpMul .rne 0 (imgNat s.mem ad 0x248 4) (m.hyper.getD 1 0)
  let b2p := fpMul .rne 0 (imgNat s.mem ad 0x24C 4) (m.hyper.getD 2 0)
  let u := updRule (descOpt ad.desc == 0) m.hyper b1p b2p
  let s1 := (List.range (descSites ad.desc)).foldl (fun s t =>
    updMatrix (updMatrix s ad g slot t 0 u (m.hyper.getD 5 0)) ad g slot t 1 u (m.hyper.getD 5 0)) s
  let s2 := pagesWrite s1 pages 0x240 (toLe 8 (imgSteps s.mem ad + 1) ++ toLe 4 b1p ++ toLe 4 b2p)
  appendRecords s2 ad g p slot

/-- A member after a step in which its rows ran (R360, R364, R366). -/
def ranMember (m : Member) (skip : Bool) : Member :=
  let m1 := { m with run := m.run + 1, updates := if skip then m.updates else m.updates + 1, status := if skip then 10 else m.status }
  if m1.run ≥ m1.authorised then { m1 with active := false, status := 11 } else m1

/-- The update and the step commit of one member. -/
def updateMember (s : State) (k : Nat) (p : RowPlan) (m : Member) (slot : Nat) : State :=
  match aGet? s.gangs k, aGet? s.adapters m.adapter with
  | some g, some ad =>
    let skip := gradsBad g slot
    let s1 := if skip then bump s Reg.ADPT_SKIP 1 else bumpPair (updMember s g p m slot ad) Reg.ADPT_UPDATES_LO 1
    updGang s1 k fun g => { g with members := g.members.set slot (ranMember m skip) }
  | _, _ => s

/-- An image that the update reads is poisoned. -/
def imagesPoisoned (s : State) (g : Gang) : Bool :=
  (activeMembers g).any fun m => match aGet? s.adapters m.1.adapter with
    | some ad => pagesPoisoned s.mem (ad.pages.getD []) 0 ad.size
    | none => false

/-- A copy of the gang was bound again (R163). -/
def gangRemapped (s : State) (g : Gang) : Bool :=
  g.remapped || g.jobs.any fun n => match getJob s n with | some j => decide (j.restarts > 0) | none => false

/-- The step commits: the members' updates as one action, the counts, then the next step or the end (R359, R366, R368). -/
def commitStep (s : State) (k : Nat) (g : Gang) (p : RowPlan) : State :=
  let s1 := (activeMembers g).foldl (fun s m => updateMember s k p m.1 m.2) s
  let s2 := bumpPair (updGang s1 k fun g => { g with done := g.done + 1 }) Reg.ADPT_STEPS_LO 1
  let s3 := updProg s2 g.sqid g.cid fun r => { r with units := r.units + 1 }
  if g.done + 1 ≥ g.steps then endGang s3 k (if gangRemapped s3 g then stRemapped else stSuccess) else startStep s3 k

/-- UPDATE_PHASE: the update of a gang step whose reduction is done. Poison in an image ends the command (R497). -/
def updatePhase (s : State) (k : Nat) : State :=
  match aGet? s.gangs k with
  | none => s
  | some g =>
    match gangAlm s g with
    | none => s
    | some (_, p) =>
      if !engineOn s ∨ g.phase ≠ 2 then s
      else if imagesPoisoned s g then
        endGang (bump (post s pgDispatcher 0x0202 4095 0 0) Reg.RAS_POISON_CONS 1) k stPoisoned
      else commitStep s k g p

def execUpdatePhase (step : Nat) (s : State) : Host.Outcome State Fault Refusal := .next (updatePhase s step)

end Sys2Proof.Machine
end

