-- ==== Sys2Proof/Machine/CommonsRegs.lean ====
section
/-! DEFINITION. The registers of the commons with their own rules: measurement, unseal, the designated almanacs and
their settings (R259 to R262, R280, R283, R284). -/

namespace Sys2Proof.Machine

/-! The measurement (R260) -/

/-- The bytes of an extent of partition 4,095; none where a unit fails its read. -/
def extentBytes (s : State) (x : Extent) : Option (List Byte) :=
  let u0 := x.offset / 16384
  let n := (x.length + 16383) / 16384
  ((List.range n).mapM fun i => (unitIdx s 4095 (u0 + i)).bind (unitVal s ·)).map fun l =>
    sub (l.flatMap unitBytes) 0 x.length

/-- What the digest covers: each extent's descriptor and its bytes, in rising handle. -/
def modelBytes (s : State) : Option (List Byte) :=
  ((getPart s 4095).extents.mapM fun e => (extentBytes s e.2).map fun b => toLe 8 e.1 ++ toLe 8 e.2.length ++ b).map List.flatten

def modelLength (s : State) : Nat := ((getPart s 4095).extents.map fun e => e.2.length).sum

/-- Write the digest registers. -/
def setDigest (s : State) (d : List Byte) : State :=
  (List.range 16).foldl (fun s n => setReg s (Reg.COMMONS_MODEL_DIGEST + 4 * n) (BitVec.ofNat 32 (leAt d (4 * n) 4))) s

def setModel (s : State) (v : Nat) : State := setF s Reg.COMMONS_STAT Fld.COMMONS_STAT_model v

def measureModel (s : State) (v : Word) : State :=
  if getF s Reg.COMMONS_STAT Fld.COMMONS_STAT_model ≠ 0 then refuse s Reg.COMMONS_MODEL_CTL v else setModel s 1

/-- A tagged job is bound. -/
def taggedBound (s : State) : Bool :=
  s.jobs.any fun e => e.2.isBound && (match jobAlm s e.2 with | some a => a.plan.isSome | none => false)

def unsealModel (s : State) (v : Word) : State :=
  if taggedBound s then refuse s Reg.COMMONS_MODEL_CTL v else setDigest (setModel s 0) (zeros 64)

def execCommonsMeasure (r : Requester) (s : State) : Host.Outcome State Fault Refusal :=
  .next (reach s r Reg.COMMONS_MODEL_CTL 1 fun _ => measureModel s 1)

def execCommonsUnseal (r : Requester) (s : State) : Host.Outcome State Fault Refusal :=
  .next (reach s r Reg.COMMONS_MODEL_CTL 2 fun _ => unsealModel s 2)

/-- MEASUREMENT_COMPLETE: a set that fails a read leaves the model unmeasured (R260). -/
def endMeasurement (s : State) (readOk : Bool) : State :=
  if getF s Reg.COMMONS_STAT Fld.COMMONS_STAT_model ≠ 1 then s
  else
    match modelBytes s, readOk with
    | some b, true => setPair (setDigest (setModel s 2) (sha512 b)) Reg.COMMONS_MODEL_BYTES_LO (modelLength s)
    | _, _ => post (setModel s 0) pgCommons 0x0604 4095 0 0

def execMeasurementComplete (readOk : Bool) (s : State) : Host.Outcome State Fault Refusal := .next (endMeasurement s readOk)

/-! The designated almanacs and their settings (R280, R283, R284) -/

/-- The row plan of a loaded commons almanac of a kind. -/
def commonsPlan (s : State) (h kind : Nat) : Option RowPlan :=
  match aGet? s.alms h with
  | some a => if a.owner = 4095 then a.plan.bind fun p => if p.kind = kind then some p else none else none
  | none => none

def wordHandle (v : Word) : Nat := bitsOf v.toNat 15 0

/-- The bits that the register keeps: valid and handle. -/
def almWord (v : Word) : Word := v &&& 0x8000FFFF

def overlapSet (s : State) : Nat := getF s Reg.COMMONS_IDX_CFG Fld.COMMONS_IDX_CFG_overlap

def writeIdxAlm (s : State) (v : Word) : State :=
  match commonsPlan s (wordHandle v) 2 with
  | some p => if 2 * overlapSet s > p.inLen then refuse s Reg.COMMONS_IDX_ALM v else setReg s Reg.COMMONS_IDX_ALM (almWord v)
  | none => refuse s Reg.COMMONS_IDX_ALM v

def writeQryAlm (s : State) (v : Word) : State :=
  match commonsPlan s (wordHandle v) 3 with
  | some p =>
    if getF s Reg.COMMONS_QRY_CFG Fld.COMMONS_QRY_CFG_max_rows > p.maxRows then refuse s Reg.COMMONS_QRY_ALM v
    else setReg s Reg.COMMONS_QRY_ALM (almWord v)
  | none => refuse s Reg.COMMONS_QRY_ALM v

/-- The row plan of the almanac that a designation register names; none while it names none. -/
def designatedPlan (s : State) (a kind : Nat) : Option RowPlan := (commonsAlm s a kind).bind (·.2.plan)

def writeIdxCfg (s : State) (v : Word) : State :=
  let wide : Bool := match designatedPlan s Reg.COMMONS_IDX_ALM 2 with
    | some p => decide (2 * bitsOf v.toNat 31 16 > p.inLen)
    | none => false
  let keep := if wide then putBits (regGet s Reg.COMMONS_IDX_CFG).toNat 7 0 (bitsOf v.toNat 7 0) else v.toNat
  let s1 := setReg s Reg.COMMONS_IDX_CFG (BitVec.ofNat 32 keep &&& 0xFFFF00FF)
  if wide then refuse s1 Reg.COMMONS_IDX_CFG v else s1

def writeQryCfg (s : State) (v : Word) : State :=
  let g := bitsOf v.toNat 31 16
  let m := bitsOf v.toNat 15 0
  let many : Bool := m == 0 || (match designatedPlan s Reg.COMMONS_QRY_ALM 3 with | some p => decide (m > p.maxRows) | none => false)
  let old := regGet s Reg.COMMONS_QRY_CFG
  let w := (if g = 0 then bitsOf old.toNat 31 16 else g) * 65536 + (if many then bitsOf old.toNat 15 0 else m)
  let s1 := setReg s Reg.COMMONS_QRY_CFG (BitVec.ofNat 32 w)
  if g = 0 ∨ many then refuse s1 Reg.COMMONS_QRY_CFG v else s1

def execCommonsIdxAlmWrite (r : Requester) (value : Word) (s : State) : Host.Outcome State Fault Refusal :=
  .next (reach s r Reg.COMMONS_IDX_ALM value fun _ => writeIdxAlm s value)

def execCommonsQryAlmWrite (r : Requester) (value : Word) (s : State) : Host.Outcome State Fault Refusal :=
  .next (reach s r Reg.COMMONS_QRY_ALM value fun _ => writeQryAlm s value)

def execCommonsIdxCfgWrite (r : Requester) (value : Word) (s : State) : Host.Outcome State Fault Refusal :=
  .next (reach s r Reg.COMMONS_IDX_CFG value fun _ => writeIdxCfg s value)

def execCommonsQryCfgWrite (r : Requester) (value : Word) (s : State) : Host.Outcome State Fault Refusal :=
  .next (reach s r Reg.COMMONS_QRY_CFG value fun _ => writeQryCfg s value)

end Sys2Proof.Machine
end

