-- ==== Sys2Proof/Machine/Days.lean ====
section
/-! DEFINITION. The meanings of the commands of tokens, waits, days and jobs: PUT to DAY, fills, commits, restarts, the
binding of jobs, lending and yielding, and the dispatcher's limits (R50, R112, R113, R136 to R164). -/

namespace Sys2Proof.Machine

def execPut (u : UnitRef) (s : State) : Host.Outcome State Fault Refusal := .next (issuePut s u)
def execTake (u : UnitRef) (s : State) : Host.Outcome State Fault Refusal := .next (issueTake s u)
def execWait (u : UnitRef) (s : State) : Host.Outcome State Fault Refusal := .next (issueWait s u)
def execFence (u : UnitRef) (s : State) : Host.Outcome State Fault Refusal := .next (issueFence s u)
def execDay (u : UnitRef) (s : State) : Host.Outcome State Fault Refusal := .next (issueDay s u)

/-- FILL_COMPLETE: the fill of a staging buffer that is full meets the calendars halted at a WAIT on it. -/
def execFillComplete (job buffer : Nat) (s : State) : Host.Outcome State Fault Refusal := .next (fillWaits s job buffer)

/-- DAY_COMMIT: once the day is done (R144). -/
def execDayCommit (job : Nat) (s : State) : Host.Outcome State Fault Refusal :=
  .next (
    match getJob s job with
    | none => s
    | some j =>
      match jobAlm s j with
      | none => s
      | some a => if engineOn s && dayDone s job j then commitDay s job j a else s)

def execDayFaultRestart (job : Nat) (cause : DayFault) (s : State) : Host.Outcome State Fault Refusal :=
  .next (if engineOn s then dayFault s job cause else s)

/-! JOB_BIND (R157 to R161, R320, R323, R262) -/

/-- Jobs bound now. -/
def runningJobs (s : State) : Nat := (s.jobs.filter fun e => e.2.isBound && !e.2.finished).length

/-- The tables that a job scatters into have no building version (R320). -/
def scatterFree (s : State) (a : Alm) (part : Nat) : Bool :=
  (almTables a).all fun h => !almScatters a h || ((aGet? s.tables (tabKey part h)).bind (·.building)).isNone

/-- The pins of a job: one for each logical glade and table (R318, R323). -/
def jobPins (s : State) (a : Alm) (part : Nat) : List TablePin :=
  (List.range a.nGlade).flatMap fun g => (gladeTables a g).filterMap fun h =>
    (aGet? s.tables (tabKey part h)).map fun t =>
      { table := h, epoch := t.current, scatters := almScatters a h, glade := g, target := t.target, hot := [] }

/-- Pin the tables of a job and start the building versions that it scatters into. -/
def pinTables (s : State) (n : Nat) (a : Alm) (part : Nat) : State :=
  (almTables a).foldl (fun s h =>
    let k := tabKey part h
    match aGet? s.tables k with
    | none => s
    | some t =>
      let s1 := pinTable s k n
      if almScatters a h then (startBuilding s1 k t.current (some n)).getD s1 else s1) s

/-- Bind a queued job where the module can; a job that it never could ends (R161), as does a tagged one while no model
is measured (R262). -/
def bindJob (s : State) (n : Nat) : State :=
  match getJob s n with
  | none => s
  | some j =>
    match jobAlm s j with
    | none => s
    | some a =>
      if j.isBound ∨ j.finished ∨ runningJobs s ≥ 1024 then s
      else if a.plan.isSome ∧ getF s Reg.COMMONS_STAT Fld.COMMONS_STAT_model ≠ 2 then endJob s n stRejected 0x18
      else if !couldBind s a j.cls then endUnbindable s n
      else if !scatterFree s a j.partition then s
      else
        match planJob s a j.cls false with
        | none => s
        | some p =>
          let glades := (List.range a.nGlade).map fun g => (aGetD p.glades g (0, 0)).1
          match planRangers s a glades [] (List.range a.nRanger) [] [] with
          | none => s
          | some (rs, bs) =>
            let j1 := { j with tables := jobPins s a j.partition }
            let s1 := pinTables { s with jobs := aPut s.jobs n j1 } n a j.partition
            match startJob s1 n j1 a p rs bs with
            | none => s
            | some s2 => s2

/-! Lending (R112 to R114) -/

/-- LEND_COPSE: the copse of a bound borrower is lent while its owner is halted outside a dwell set. -/
def execLendCopse (p : CopsePath) (job logical : Nat) (s : State) : Host.Outcome State Fault Refusal :=
  .next (
    let k := p.index
    let c := getCopse s k
    match getJob s job with
    | none => s
    | some j =>
      if p.ok ∧ engineOn s ∧ j.isBound ∧ j.copses[logical]? = some k ∧ isBorrower c job ∧ !c.lent
          ∧ c.harv.isNone ∧ ownerHalted s k ∧ !ownerRunnable s k then
        updCopse s k fun c => { c with lent := true, yielding := false }
      else s)

/-- BORROWER_YIELD: with the owner runnable, the borrower completes its pass or dwell set and gives the copse back. -/
def execBorrowerYield (p : CopsePath) (s : State) : Host.Outcome State Fault Refusal :=
  .next (
    let k := p.index
    let c := getCopse s k
    if p.ok ∧ engineOn s ∧ c.lent ∧ c.borrower.isSome ∧ ownerRunnable s k then
      if c.pass.isSome then updCopse s k fun c => { c with yielding := true }
      else updCopse s k fun c => { c with lent := false, yielding := false }
    else s)

/-! Limits (R50, R151, R164) -/

/-- The wait of a gang step's reduction reached its budget; calendar 0 of copy 0 keeps that it was posted (R455). -/
def gangLate (s : State) (u : UnitRef) : State :=
  match getJob s u.job with
  | none => s
  | some j =>
    let waits : Bool := match j.gang.bind (aGet? s.gangs ·) with
      | some g => g.phase == 1 && j.copy == 0 && decide (g.count > 1)
      | none => false
    match j.cals[u.cal]? with
    | some r =>
      if !j.finished ∨ !waits ∨ u.cal ≠ 0 ∨ r.late then s
      else updCal (bump (post s pgDispatcher 0x0401 4095 0 0) Reg.DSP_LATE_TIER 1) u fun r => { r with late := true }
    | none => s

/-- WAIT_BUDGET_EXPIRY: one late-tier event for a halt that reached its budget; the unit keeps waiting. -/
def waitLate (s : State) (u : UnitRef) : State :=
  match issueOf s u 11 with
  | none => gangLate s u
  | some x =>
    match x.run.halt with
    | .atWait _ =>
      if x.run.late then s
      else
        let s1 := bump (post s pgDispatcher 0x0401 x.job.partition (fld x.entry 123 108) 0) Reg.DSP_LATE_TIER 1
        updCal s1 u fun r => { r with late := true }
    | _ => s

def execWaitBudgetExpiry (u : UnitRef) (s : State) : Host.Outcome State Fault Refusal := .next (waitLate s u)

/-- A calendar of the job is halted at a WAIT. -/
def atSomeWait (j : Job) : Bool := j.cals.any fun r => match r.halt with | .atWait _ => true | _ => false

/-- A logical copse of the job has yielded and waits to be lent again. -/
def yieldedCopse (s : State) (n : Nat) : Bool :=
  s.copses.any fun e => isBorrower e.2 n && !e.2.lent

/-- What the dispatcher's limit ends a day with (R50). -/
def limitStatus (j : Job) (retrying : Bool) : Status :=
  if atSomeWait j ∧ !retrying then stTierLate else stNested

/-- DAY_LIMIT_EXPIRY: the day ends uncommitted and the job with it. Arrivals still awaited are late (R45). A gang step
whose reduction waits for a peer ends in the same way (R455). -/
def execDayLimitExpiry (job : Nat) (accessRetrying : Bool) (s : State) : Host.Outcome State Fault Refusal :=
  .next (
    match getJob s job with
    | none => s
    | some j =>
      if !engineOn s ∨ !j.isBound ∨ (j.cls = 1 ∧ yieldedCopse s job) then s
      else if j.finished then
        match j.gang with
        | some k =>
          if (aGet? s.gangs k).any (·.phase == 1) then endGang s k stTierLate
          else if (aGet? s.gangs k).any (·.phase == 2) then endGang s k stNested else s
        | none => s
      else
        let awaited := (j.staging.filter fun e => e.2.fill == .filling).length
        let s1 := orphanAccess (bump s Reg.DSP_LATE awaited) fun e => e.asker == 1 && e.waiter / 2 ^ 40 == job
        endJob s1 job (limitStatus j accessRetrying) 0)

end Sys2Proof.Machine
end

