-- ==== Sys2Proof/Machine/DebugRead.lean ====
section
/-! DEFINITION. What the debug path returns of memory: whether a location code or a module address names a line, who
owns the line, and in which form it is shown (R185, R437, R492, R548, R549). -/

namespace Sys2Proof.Machine

/-! Location codes (R492) -/

/-- Bytes of a store that a code's offset may reach, from its first; none where the code is outside every store. The
hub's SRAM and recovery memory are left to their users. -/
def storeSpan (s : State) (c : Nat) : Option (Nat × Nat) :=
  let st := locStand c
  let g := bitsOf c 52 51
  let co := bitsOf c 50 49
  let ch := bitsOf c 48 45
  let p := bitsOf c 44 43
  if !standPresent s st ∨ bitsOf c 42 40 ≠ 0 then none
  else if locStore c = 0 then (if ch = 0 ∧ p = 0 then some (0, 4194304) else none)
  else if locStore c = 1 then (if co = 0 ∧ ch = 0 ∧ p = 0 then some (0, 60 * 524288) else none)
  else if locStore c = 2 then (if co = 0 ∧ ch = 0 ∧ p = 0 then some (60 * 524288, 64 * 524288) else none)
  else if locStore c = 3 then (if g = 0 ∧ co = 0 ∧ ch = 0 ∧ p < 3 then some (0, 2 ^ 36) else none)
  else if locStore c = 6 then (if g = 0 ∧ co = 0 ∧ p = 0 then some (0, 1048576) else none)
  else none

/-- A code names a line of a store. -/
def codeOk (s : State) (c : Nat) : Bool :=
  c % 64 == 0 && (match storeSpan s c with | some (a, b) => a ≤ locOff c && locOff c < b | none => false)

/-! Reserved regions of the stacks (R181, R232, R238) -/

/-- The 12 entries of a line of the translation map (R232). -/
def mapLine (s : State) (line : Nat) : List Byte :=
  ((List.range 12).flatMap fun i =>
    toLe 5 (match mapGet s (12 * line + i) with
      | none => 0
      | some e => e.state * 2 ^ 38 + e.addr % 2 ^ 38)) ++ zeros 4

/-- A line of a stand's share of the map. -/
def mapLineNo (c : Nat) : Option Nat :=
  if locStore c = 3 ∧ bitsOf c 44 43 = 0 ∧ locOff c ≥ 48 * 2 ^ 30 then some ((locOff c - 48 * 2 ^ 30) / 64 * 8 + locStand c) else none

/-- The half, slot and offset that a line of the write buffer lies in: home half first (R238). -/
def bufferSlot (c : Nat) : Option (Bool × Nat × Nat) :=
  let base := 2 ^ 36 - 2 ^ 28
  if locStore c = 3 ∧ bitsOf c 44 43 = 1 ∧ locOff c ≥ base then
    let o := locOff c - base
    some (o < 2 ^ 27, o % 2 ^ 27 / 16384, o % 16384)
  else none

/-- The unit that a slot of the write buffer holds: the slots of a half in the order in which their units came (DESIGN
CHOICE). -/
def slotUnit (s : State) (c : Nat) : Option (BufUnit × Bool × Nat) :=
  match bufferSlot c with
  | none => none
  | some (isHome, k, o) =>
    let h := if isHome then locStand c else (locStand c + 7) % 8
    ((s.ftl.buf.filter fun b => homeStand b.idx == h)[k]?).map fun b => (b, isHome, o)

/-! Module addresses (R185) -/

/-- What a module address names: a stack page's line, or a line of a namespace. -/
inductive Place where
  | page (key : Nat) | extent (partition off : Nat)
  deriving DecidableEq, Repr

def placeOf (s : State) (a : Nat) : Option Place :=
  let p := bitsOf a 63 52
  if bitsOf a 51 50 = 0 then
    let pg := bitsOf a 49 0 / 65536
    (s.mem.pages.find? fun e => e.2.live && e.2.owner == p && e.2.place == pg).map fun e => .page (locPage e.1 + a % 65536)
  else if bitsOf a 51 50 = 1 then
    let h := bitsOf a 49 40
    match (if h = 0 then none else aGet? (getPart s p).extents h) with
    | some x => if bitsOf a 39 0 < x.length then some (.extent p (x.offset + bitsOf a 39 0)) else none
    | none => none
  else none

/-- The module address of a line of a namespace, where an extent covers it. -/
def extentAddr (s : State) (p off : Nat) : Nat :=
  match (getPart s p).extents.find? fun e => e.2.offset ≤ off && off < e.2.offset + e.2.length with
  | some e => p * 2 ^ 52 + 2 ^ 50 + e.1 * 2 ^ 40 + (off - e.2.offset)
  | none => p * 2 ^ 52 + 2 ^ 50

/-- The tweak of a line: its module address, or its location code on chip (R437). -/
def lineTweak (s : State) (key : Nat) : Nat :=
  if locStore key = 3 then
    match s.mem.resident.find? fun e => locPage e.2.place ≤ key && key < locPage e.2.place + 65536 with
    | some e => extentAddr s (e.1 / 2 ^ 40) (e.1 % 2 ^ 40 * 65536 + key % 65536)
    | none =>
      match aGet? s.mem.pages (locPageNo key) with
      | some u => u.owner * 2 ^ 52 + u.place * 65536 + key % 65536
      | none => 0
  else codeOfKey key

/-! The answer (R437) -/

/-- A debug answer: the result code of DBG_MEM_STAT (R548), the owner, the 64 bytes. -/
structure DebugLine where
  result : Nat
  owner : Nat
  bytes : List Byte
  deriving DecidableEq, Repr

def maskedLine (owner : Nat) : DebugLine := ⟨4, owner, zeros 64⟩

/-- A line with its owner in the form R437 gives it; cipher is the media ciphertext where the store keeps one. -/
def showLine (s : State) (owner : Nat) (released : Bool) (tweak : Nat) (plain : List Byte) (cipher : Option (List Byte)) : DebugLine :=
  if owner = 0 then ⟨2, 0, plain⟩
  else if released then maskedLine owner
  else if owner = 4095 then (match cipher with | some l => ⟨3, owner, l⟩ | none => maskedLine owner)
  else match (getPart s owner).dataKey with
    | some k => ⟨3, owner, sub (Config.debugCipher k tweak plain) 0 64⟩
    | none => maskedLine owner

/-- A line of a store by its key. -/
def debugKey (s : State) (key : Nat) : DebugLine :=
  let (owner, live, rel) := (locOwner s.mem key).getD (0, false, false)
  let released := rel || (!live && owner != 0 && (partState s owner).isNone)
  if isPoisoned s.mem key then ⟨5, owner, zeros 64⟩
  else
    let plain := memRead s.mem key 64
    let cipher := if locStore key = 3 then some (sub (Config.mediaCipher (locStackNo key) (codeOfKey key) plain) 0 64) else none
    showLine s owner released (lineTweak s key) plain cipher

/-- A line by its location code; the code is taken to be one. -/
def debugCode (s : State) (c : Nat) : DebugLine :=
  match mapLineNo c with
  | some l => ⟨2, 0, mapLine s l⟩
  | none =>
    match bufferSlot c with
    | some _ =>
      match slotUnit s c with
      | none => ⟨2, 0, zeros 64⟩
      | some (b, isHome, o) =>
        if (if isHome then b.homeBad else b.neighbourBad) then ⟨5, b.partition, zeros 64⟩ else
        let plain := bRead b.val.bytes o 64
        showLine s b.partition false c plain (some (sub (Config.mediaCipher (locStackNo c) c plain) 0 64))
    | none => debugKey s (keyOfCode c)

/-- A line of a namespace (R437): its unit's content. -/
def debugExtent (s : State) (p off : Nat) : DebugLine :=
  let a := extentAddr s p off
  if !(nsPoison s p off 64).isEmpty then ⟨5, p, zeros 64⟩
  else
    let plain := bRead (nsSlice s p off 64) 0 64
    showLine s p false a plain (some (sub (Config.mediaCipher 24 a plain) 0 64))

/-- A debug read of a line, none where it is refused (R549). -/
def debugLine (s : State) (byLocation : Bool) (a : Nat) : Option DebugLine :=
  if byLocation then (if codeOk s a then some (debugCode s a) else none)
  else if a % 64 ≠ 0 then none
  else match placeOf s a with
    | some (.page k) => some (debugKey s k)
    | some (.extent p off) => some (debugExtent s p off)
    | none => none

end Sys2Proof.Machine
end

