-- ==== Sys2Proof/Machine/PowerLoss.lean ====
section
/-! DEFINITION. How work ends when the module stops under it: the commands in flight, the jobs, searches and gang steps
(R477, R478), the flush of the write buffer (R246), and the fatal error with its dump (R511 to R515). -/

namespace Sys2Proof.Machine

/-! Commands in flight (R478) -/

/-- A command in flight ends without a completion: its record becomes final with the power-loss status and keeps the
units committed. -/
def loseCmd (s : State) (o : Outstanding) : State :=
  let r := replySt stPowerLoss
  let h := { s.host with outstanding := s.host.outstanding.filter fun x => !(x.cmd.sqid == o.cmd.sqid && x.cmd.cid == o.cmd.cid) }
  countDone (keepRecord { s with host := h } o r) o stPowerLoss

/-- Asynchronous event requests apart, every outstanding command ends so. -/
def loseCmds (s : State) : State :=
  s.host.outstanding.foldl (fun s o => if o.admin ∧ o.opcode = 0x0C then s else loseCmd s o) s

/-- Release a search with its pages. -/
def dropSearch (s : State) (k : Nat) : State :=
  match aGet? s.searches k with
  | none => s
  | some x => releasePages { s with searches := aDel s.searches k } x.partition x.pages

/-- Release a job; an indexing job's objects start again. -/
def dropJob (s : State) (n : Nat) : State :=
  match getJob s n with
  | none => s
  | some j => let s1 := (releaseJob s n).1; if j.kind = 2 then dropBatch s1 n else s1

/-- Everything that runs ends uncommitted: gang steps, jobs, searches, batches, reads (R477, R512). -/
def stopWork (s : State) : State :=
  let s3 := s.gangs.foldl (fun s g => releaseGang s g.1) s
  let s4 := s3.jobs.foldl (fun s j => dropJob s j.1) s3
  let s5 := s4.searches.foldl (fun s x => dropSearch s x.1) s4
  let f := s5.ftl
  { s5 with
    commons := { s5.commons with batches := [], gather := [], gatherSince := 0, queryJobs := [] }
    ftl := { f with waiting := [], reads := [], accesses := [], flushes := [] }
    index := s5.index.map fun e => (e.1, { e.2 with closing := e.2.closing.map fun c => { c with command := false } }) }

/-- The I/O and admin queues are gone, with what waited on them (R471, R477). -/
def dropQueues (s : State) : State :=
  { s with host := { s.host with sqs := [], cqs := [], outstanding := [], waitingCq := [], aers := [], heldAens := [],
                                 aggregating := [], enabled := false, rdy := false, shst := 0 } }

/-- The commands end too (R467, R478). -/
def endWork (s : State) : State :=
  let s1 := loseCmds s
  stopWork { s1 with host := { s1.host with outstanding := [], waitingCq := [], aers := [] } }

/-! The flush (R246) -/

/-- Every home unit that is not durable by (a) goes to the holdup area, and the journal tail is on flash. -/
def flushToHoldup (s : State) : State :=
  { s with ftl := { s.ftl with holdup := s.ftl.buf, cleanRecord := false } }

/-! Fatal errors (R511 to R513) -/

/-- Every page of the register space, by its first offset (R525, R533). -/
def allPages : List Nat :=
  ((List.range 21).map (· * 4096)) ++ ((List.range 4).map chowenPage)
    ++ (List.range 8).flatMap fun st => [standBase st]
      ++ ((List.range 4).flatMap fun g => gladePage (4 * st + g) ::
          (List.range 4).flatMap fun c => [copsePage (16 * st + 4 * g + c), copsePage1 (16 * st + 4 * g + c)])
      ++ ((List.range 16).flatMap fun k => [chanPage (16 * st + k), rangerPage (16 * st + k)])
      ++ (List.range 3).map fun p => stackPage (3 * st + p)

/-- The registers of a page that do not read zero, with what they read. -/
def pageRegs (s : State) (page : Nat) : List (Nat × Nat) :=
  (List.range 1024).filterMap fun i =>
    let v := (readReg s (page + 4 * i)).toNat
    if v = 0 then none else some (page + 4 * i, v)

/-- The first line of the scratch window and the lines it has, cut at the end of its store (R545). -/
def dumpWindow (s : State) : List Nat :=
  let c := getPair s Reg.DUMP_WIN_LO
  let n := (regGet s Reg.DUMP_WIN_LEN).toNat * 1024
  match storeSpan s c with
  | some (a, b) => if locOff c < a ∨ c % 64 ≠ 0 then [] else (List.range (min n ((b - locOff c) / 64))).map fun i => c + 64 * i
  | none => []

/-- Kept progress records in rising partition and acceptance stamp (R399, R513). -/
def insertProg (x : ProgRec) : List ProgRec → List ProgRec
  | [] => [x]
  | y :: r => if x.partition < y.partition ∨ (x.partition = y.partition ∧ x.accepted < y.accepted) then x :: y :: r else y :: insertProg x r

def dumpRecords (s : State) : List ProgRec :=
  ((s.parts.flatMap fun e => e.2.records ++ e.2.window.map (·.prog)) ++ s.host.outstanding.map (·.prog)).foldl (fun l x => insertProg x l) []

/-- The dump that the dump engine writes (R512 step 3, R513). -/
def takeDump (s : State) (code : Nat) : Dump :=
  let w := (dumpWindow s).map fun c => debugCode s c
  { seq := s.ras.dumpSeq + 1, code := code, stamp := s.tb, coldStarts := s.power.coldStarts,
    regs := allPages.flatMap (pageRegs s), log := s.ras.log, records := dumpRecords s,
    window := w.map fun l => (l.owner, l.bytes),
    poison := (((dumpWindow s).zip w).filter fun x => x.2.result == 5).map (·.1), ce := s.ras.ce }

/-- The dump in recovery memory is not in a slot yet. -/
def dumpPending (s : State) : Bool :=
  match s.ras.dumpHeld with
  | some d => !(s.ras.slots.any fun x => match x.dump with | some y => y.seq == d.seq | none => false)
  | none => false

/-- The module is in holdup or past a thermal trip. -/
def inHoldup (s : State) : Bool := List.contains [2, 4] (getF s Reg.PWR_STAT Fld.PWR_STAT_state)

/-- The rails carry what holdup has to save: stacked memory is in use. -/
def carriesData (s : State) : Bool :=
  s.power.rails && !s.power.safe && (!s.power.starting || getF s Reg.START_STAT Fld.START_STAT_kind == 1)

/-- The module has power to act on a hub fault or a fatal error: a start runs, or its rails are up. -/
def hubPowered (s : State) : Bool := s.power.rails || s.power.safe || (s.power.starting && s.power.inputOn)

/-- A fatal error: no further command is fetched, every open day ends uncommitted, the buffer is flushed, the dump goes
to recovery memory, a start that ran goes on no more. Holdup prevails over it, and the dump in progress takes no second error but its record (R515). -/
def fatal (s : State) : State :=
  let s0 := postFlags s pgFault 0x0A01 0 0 0 8
  if inHoldup s ∨ !hubPowered s then s0
  else if s.ras.halted then
    if dumpPending s then { s0 with ras := { s0.ras with dumpHeld := s0.ras.dumpHeld.map fun d => { d with log := s0.ras.log } } } else s0
  else
    let s1 := if carriesData s0 then flushToHoldup (stopWork s0) else stopWork s0
    let s2 := setF s1 Reg.RECOV_STAT Fld.RECOV_STAT_use 3
    let d := takeDump s2 0x0A01
    { s2 with
      ras := { s2.ras with halted := true, dumpHeld := some d, dumpSeq := d.seq }
      ftl := { s2.ftl with holdupComplete := s2.ftl.holdupComplete || carriesData s0 }
      power := { s2.power with starting := false } }

end Sys2Proof.Machine
end

