-- ==== Sys2Proof/Machine/StandLoss.lean ====
section
/-! DEFINITION. The loss of a stand (R17, R252, R253, R303, R507 to R509): its stacked-memory objects, its jobs and
searches, its share of the map and of the write buffer, its flash; and the re-binding of jobs (R161, R163). -/

namespace Sys2Proof.Machine

/-! Re-binding after a loss (R163) -/

/-- The logical units of a job that keep their places: glades and copses, then rangers. -/
def keptUnits (s : State) (n : Nat) (j : Job) (a : Alm) : Plan × AMap (Nat × Nat) :=
  let gs := (List.range a.nGlade).filterMap fun g =>
    if gladeUp s (j.gladeOf g) then some (g, (j.gladeOf g, j.bases.getD g 0)) else none
  let cs := (List.range a.nCopse).filterMap fun c =>
    let home := match a.cals.find? fun x => x.kind == 0 && x.index == c with | some x => x.glade | none => 0
    if gladeUp s (j.copseOf c / 4) ∧ gladeUp s (j.gladeOf home) then some (c, (j.copseOf c, borrowsAt s n (j.copseOf c))) else none
  let rs := (List.range a.nRanger).filterMap fun r => if chanUp s (j.chanOf r) then some (r, (j.chanOf r, j.rbases.getD r 0)) else none
  (⟨cs, gs⟩, rs)

/-- Place the copses of kept glades that were lost: in their glade where it can, else in any. -/
def placeLost (s : State) (a : Alm) (cls : Nat) : List Nat → Plan → Option Plan
  | [], p => some p
  | c :: r, p =>
    if aHas p.copses c then placeLost s a cls r p
    else
      let home := match a.cals.find? fun x => x.kind == 0 && x.index == c with | some x => x.glade | none => 0
      let cands := ((aGetD p.glades home (0, 0)).1 :: List.range 32).flatMap fun i => copseChoices s a cls c i false
      match cands.find? fun k => p.copses.all fun e => e.2.1 != k.1 with
      | none => none
      | some k => placeLost s a cls r { p with copses := aPut p.copses c k }

/-- The new binding of a job, where one can be made now. -/
def rebindPlan (s : State) (n : Nat) (j : Job) (a : Alm) : Option (Plan × List Nat × List Nat) :=
  let (p0, rs) := keptUnits s n j a
  match (planGlades s a j.cls false (List.range a.nGlade) p0).bind (placeLost s a j.cls (List.range a.nCopse)) with
  | none => none
  | some p =>
    let glades := (List.range a.nGlade).map fun g => (aGetD p.glades g (0, 0)).1
    (planRangers s a glades rs (List.range a.nRanger) [] []).map fun x => (p, x.1, x.2)

/-- Give a job its new binding. -/
def applyRebind (s : State) (n : Nat) (j : Job) (a : Alm) (p : Plan) (rs bs : List Nat) : State :=
  let j1 := { j with
    glades := (List.range a.nGlade).map fun g => (aGetD p.glades g (0, 0)).1
    bases := (List.range a.nGlade).map fun g => (aGetD p.glades g (0, 0)).2
    copses := (List.range a.nCopse).map fun c => (aGetD p.copses c (0, false)).1
    rangers := rs, rbases := bs }
  let moved := p.copses.filter fun e => j.copseOf e.1 != e.2.1
  let s1 := moved.foldl (fun s e => leaveCopse s n (j.copseOf e.1)) s
  let s2 := moved.foldl (fun s e => enterCopse s n j1 a e.1 e.2.1 e.2.2) { s1 with jobs := aPut s1.jobs n j1 }
  let regions := (jobRegions s2 n j1 a).filter fun x => x.2 != 0
  let new := regions.filter fun x => !(j.regions.any fun r => r.1 == x.1 && r.2.1 == x.2)
  let s3 := new.foldl (fun s x => scramble (takeRegion s j.partition x.1 x.2) x.1 x.2) s2
  let s4 := updJob s3 n fun x => { x with regions := regions.map fun r => (r.1, r.2, j.partition) }
  let s5 := rs.foldl (fun s r => (loadKeys s r j.partition).getD s) s4
  bump (noteRebind s5 n) Reg.DSP_REMAPS 1

/-- Re-bind a job whose units lay on a lost stand and restart its day; while no place is free it waits, and where the
module could never bind it again it ends (R161). -/
def rebindJob (s : State) (n : Nat) : State :=
  match getJob s n with
  | none => s
  | some j =>
    match jobAlm s j with
    | none => s
    | some a =>
      if !j.isBound ∨ j.finished ∨ unitsUp s j then s
      else if !couldBind s a j.cls then endUnbindable s n
      else match rebindPlan s n j a with
        | none => s
        | some (p, rs, bs) => restartDay (applyRebind s n j a p rs bs) n

/-- JOB_BIND: a queued job is bound; one that waits to be re-bound is tried again (R158, R163). -/
def execJobBind (job : Nat) (s : State) : Host.Outcome State Fault Refusal :=
  .next (
    if !engineOn s then s
    else match getJob s job with
      | some j => if j.isBound ∧ !unitsUp s j then rebindJob s job else bindJob s job
      | none => s)

/-! Stacked-memory objects (R508) -/

def pageOn (st p : Nat) : Bool := p / 2 ^ 20 / 3 == st
def pagesOn (st : Nat) (l : List Nat) : Bool := l.any (pageOn st)

def objectLost (s : State) (owner kind id : Nat) : State := post s pgFault 0x0708 owner kind id

/-- A loaded almanac is unloaded; its jobs end with Almanac Rejected, check code 0x13. -/
def loseAlmanac (s : State) (h : Nat) (a : Alm) : State :=
  let s1 := (s.jobs.filter fun j => j.2.handle == h).foldl (fun s j =>
    endJob (recordReject s 0x13 0 7 h j.2.partition) j.1 stRejected 0x13) (objectLost s a.owner 1 h)
  releasePages { s1 with alms := aDel s1.alms h } a.owner a.pages

def loseTable (s : State) (k : Nat) (t : Table) : State :=
  let s1 := shrinkTable (objectLost s (k / 256) 2 (k % 256)) k t { t with versions := [], building := none }
  { s1 with tables := aDel s1.tables k }

def loseRowSet (s : State) (k : Nat) (r : RowSet) : State :=
  let s1 := withdrawMembers (objectLost s (k / 256) 3 (k % 256)) fun m => m.partition == k / 256 && m.rowset == k % 256
  releasePages { s1 with rowsets := aDel s1.rowsets k } (k / 256) r.pages

def loseAdapter (s : State) (k : Nat) (a : Adapter) : State :=
  let s1 := withdrawMembers (objectLost s a.partition 4 k) fun m => m.adapter == k
  releasePages { s1 with adapters := aPut s1.adapters k { a with pages := none } } a.partition (a.pages.getD [])

/-- A staging object returns to the ingest list unless every node it had there is tombstoned. -/
def returned (x : Index) (l : AMap Listed) : AMap Listed :=
  l.foldl (fun m e =>
    if (x.staging.filter fun r => r.2.object == e.1).any fun r => !x.tombs.contains r.1 then
      aPut m e.1 { e.2 with season := x.season, auth := none, plain := [], formed := 0, vectors := [] }
    else m) x.ingest

/-- The staging graph and the tombstone table are emptied. The nodes of a season that was merged already live in its new
version. -/
def emptyStaging (x : Index) : Index :=
  let merged := match x.closing with | some c => if c.phase ≥ 2 then c.nodes else [] | none => []
  let ids := (x.staging.map (·.1)).filter fun y => !merged.contains y
  { x with ingest := returned x x.held, held := [], staging := [], tombs := [], freeIds := (x.freeIds ++ ids).foldr insertNat [] }

def loseStaging (s : State) (p : Nat) : State := updIndex (objectLost s p 5 0) p emptyStaging

def loseWindow (s : State) (p : Nat) : State := updPart (objectLost s p 6 0) p fun q => { q with window := [] }

/-- Pages that hold persistent or output buffers of a job (kinds 2 and 3). -/
def keptJobPages (a : Alm) (j : Job) : List Nat :=
  ((a.bufs.filter fun b => b.tier == 3 && (b.kind == 2 || b.kind == 3)).flatMap fun b =>
    (pagesOfRange b.offset b.size).filterMap fun x => j.pages[x.1 / 65536]?)

def loseJob (s : State) (n : Nat) (j : Job) : State := endJob (objectLost s j.partition 7 n) n stPoisoned 0

/-- Every object with a page on a lost stand, kind by kind. -/
def loseObjects (s : State) (st : Nat) : State :=
  let s1 := (s.alms.filter fun e => pagesOn st e.2.pages).foldl (fun s e => loseAlmanac s e.1 e.2) s
  let s2 := (s1.tables.filter fun e => pagesOn st e.2.allPages).foldl (fun s e => loseTable s e.1 e.2) s1
  let s3 := (s2.rowsets.filter fun e => pagesOn st e.2.pages).foldl (fun s e => loseRowSet s e.1 e.2) s2
  let s4 := (s3.adapters.filter fun e => pagesOn st (e.2.pages.getD [])).foldl (fun s e => loseAdapter s e.1 e.2) s3
  let s5 := (s4.index.filter fun e => pagesOn st e.2.stagingPages).foldl (fun s e => loseStaging s e.1) s4
  let s6 := (s5.parts.filter fun e => pagesOn st e.2.windowPages).foldl (fun s e => loseWindow s e.1) s5
  (s6.jobs.filter fun e => match jobAlm s6 e.2 with | some a => pagesOn st (keptJobPages a e.2) | none => false).foldl
    (fun s e => loseJob s e.1 e.2) s6

/-! Pages in use that hold nothing that must outlive the stand -/

/-- A page on a lost stand is replaced by a fresh one. -/
def replacePage (s : State) (p : Nat) : State :=
  match aGet? s.mem.pages p with
  | none => s
  | some u =>
    match (if u.live then firstPage s (liveStacks s) else none) with
    | none => s
    | some q => renamePage (swapPlaces (memZero (takePage s u.owner q) (locPage q) 65536) p q) p q

/-- Replace the lost pages of jobs, searches, staging graphs and windows; copies in them are read again from flash. -/
def replacePages (s : State) (st : Nat) : State :=
  let s1 := (s.mem.resident.filter fun e => pageOn st e.2.place).foldl (fun s e => dropCopy s e.1) s
  let s2 := (s1.mem.window.filter fun e => e.1 / 2 ^ 40 / 4 == st).foldl (fun s e => dropWindow s e.1) s1
  let s3 := { s2 with commons := { s2.commons with resident := s2.commons.resident.filter fun e => !pageOn st e.2 } }
  let used := (s3.jobs.flatMap (·.2.pages)) ++ (s3.searches.flatMap (·.2.pages)) ++ (s3.index.flatMap (·.2.stagingPages))
    ++ s3.parts.flatMap (·.2.windowPages)
  (used.filter (pageOn st)).foldl replacePage s3

/-- Everything the stand held is gone: its stacks, its on-chip memory, what its blocks were doing. -/
def forgetStand (s : State) (st : Nat) : State :=
  let here := fun (a : Nat) => locStand a == st && locStore a != 8
  { s with
    mem := { s.mem with
      bytes := s.mem.bytes.filter fun e => !here e.1
      poison := s.mem.poison.filter fun l => !here l
      raw := s.mem.raw.filter fun e => !here e.1
      regions := s.mem.regions.filter fun r => !here r.start
      pages := s.mem.pages.filter fun e => !pageOn st e.1 }
    chans := s.chans.map fun e => (e.1, if e.1 / 16 = st then
      { e.2 with brownOut := false, ops := [], keys := [], pf := [], branch := [] } else e.2)
    glades := s.glades.filter fun e => e.1 / 4 != st }

/-! Searches (R303) -/

/-- A search starts again from its entry points, under the same pins. -/
def restartSearch (s : State) (k : Nat) : State :=
  let s1 := dropAccess s fun a => a.asker == 2 && a.waiter == k
  { s1 with searches := aUpd s1.searches k fun x => { x with
      phase := .waiting, restarts := x.restarts + 1, cand := [], res := [], seen := [], want := [], lost := [], hops := 0,
      scored := 0, nscanned := 0, badEdges := 0, unreadable := 0, scanRun := false, limited := false } }

/-- The sequencer of a search works on a stand. -/
def searchOn (st : Nat) (x : Search) : Bool := x.stand == st && (x.phase == .running || x.phase == .stopped || x.phase == .scanned)

def restartSearches (s : State) (st : Nat) : State :=
  (s.searches.filter fun e => searchOn st e.2).foldl (fun s e => restartSearch s e.1) s

/-! The translation layer (R252, R253) -/

/-- Buffer copies on the stand are gone; a unit with none left is undurable (R241 case 1). -/
def loseCopies (s : State) (st : Nat) : State :=
  let mark := fun (b : BufUnit) => { b with
    homeBad := b.homeBad || homeStand b.idx == st, neighbourBad := b.neighbourBad || (homeStand b.idx + 1) % 8 == st }
  let s1 := { s with ftl := { s.ftl with buf := s.ftl.buf.map mark } }
  (s1.ftl.buf.filter fun b => b.homeBad && b.neighbourBad).foldl (fun s b => dropBuffered s b true 1) s1

/-- A buffered unit's slot lies on a stand. -/
def slotOn (s : State) (st : Nat) (b : BufUnit) : Bool := match bufAddr s b with | some a => addrStand a == st | none => false

/-- Units whose slots lie on the stand take others; a super-wordline whose other channels are done is complete. -/
def loseSlots (s : State) (st : Nat) : State :=
  let hit := fun (b : BufUnit) => slotOn s st b
  let l := s.ftl.buf.map fun b => if hit b then { b with programmed := false } else b
  let s1 := reslot { s with ftl := { s.ftl with buf := l } } hit
  (s1.ftl.sbs.filter fun e => e.2.state == 1).foldl (fun s e => match e.2.done with | ch :: _ => wordlineDone s e.1 ch | [] => s) s1

def loseFlash (s : State) (st : Nat) : State :=
  let units := s.ftl.map.filter fun e => (e.2.state == 1 || e.2.state == 2) && addrStand e.2.addr == st
  if (lostStand s).isNone then
    let s1 := setF (setF s Reg.FTL_STAT Fld.FTL_STAT_lost_stand st) Reg.FTL_STAT Fld.FTL_STAT_redund 1
    let s2 := if ready s then charge { s1 with ftl := { s1.ftl with shareWaiting := true } } 0 3 (2 ^ 34) else s1
    flashSettle (queueRelocs (loseSlots (loseCopies s2 st) st) units)
  else
    let s1 := setF s Reg.FTL_STAT Fld.FTL_STAT_redund 3
    let s2 := units.foldl (fun s e => mapSet s e.1 (some poisonedEntry)) (loseSlots (loseCopies s1 st) st)
    flashSettle { s2 with ftl := { s2.ftl with relocs := s2.ftl.relocs.filter fun r => addrStand r.old != st } }

/-! The declaration (R507) -/

/-- A stand is declared failed. -/
def failStand (s : State) (st : Nat) : State :=
  if !standPresent s st then s
  else
    let s1 := setF s Reg.HUB_STANDS Fld.HUB_STANDS_failed (getF s Reg.HUB_STANDS Fld.HUB_STANDS_failed ||| 2 ^ st)
    let s2 := loseFlash (aen (post s1 pgFault 0x0707 0 (pathCode (standBase st)) 0) 7 2) st
    let s3 := replacePages (loseObjects s2 st) st
    let hurt := (s2.jobs.filter fun e => e.2.isBound && !e.2.finished && pagesOn st e.2.pages).map (·.1)
    let s4 := restartSearches (forgetStand s3 st) st
    let s5 := hurt.foldl (fun s n => match getJob s n with
      | some j => (match jobAlm s j with
        | some a => let s' := loadInputs s n j a; if unitsUp s' j then restartDay s' n else s'
        | none => s)
      | none => s) s4
    let s6 := (s5.jobs.map (·.1)).foldl rebindJob s5
    let s7 := (s6.jobs.filter fun e => !e.2.isBound && !e.2.finished).foldl (fun s e =>
      match jobAlm s e.2 with | some a => if couldBind s a e.2.cls then s else endUnbindable s e.1 | none => s) s6
    if ready s7 ∧ (presentStands s7).isEmpty then fatal s7 else s7

/-- STAND_FAILURE. -/
def execStandFailure (stand : Nat) (_cause : StandFailCause) (s : State) : Host.Outcome State Fault Refusal :=
  .next (if engineOn s then failStand s stand else s)

/-- MAP_SHARE_RELOAD: the lost stand's share of the map is loaded; what waited for it goes on (R252 step 1). -/
def execMapShareReload (s : State) : Host.Outcome State Fault Refusal :=
  .next { s with ftl := { s.ftl with shareWaiting := false } }

/-- REBUILD_COMPLETE: no super-block holds units of the lost stand any more (R252). -/
def execRebuildComplete (s : State) : Host.Outcome State Fault Refusal :=
  .next (
    let s1 := countRebuild s
    if ready s ∧ getF s1 Reg.FTL_STAT Fld.FTL_STAT_redund = 1 ∧ getF s1 Reg.FTL_REBUILD Fld.FTL_REBUILD_sb_left = 0 then
      setF s1 Reg.FTL_STAT Fld.FTL_STAT_redund 2
    else s1)

end Sys2Proof.Machine
end

