-- ==== Sys2Proof/Machine/Starts.lean ====
section
/-! DEFINITION. How a start begins, fails and ends: the cold start (R472 to R475, R480), the warm start (R476), the safe
start (R481), and what each keeps (R477). -/

namespace Sys2Proof.Machine

/-! The beginning of a start (R471) -/

/-- Failed starts in a row as the start log counts them; the fourth attempt is a safe start (R480). -/
def nextKind (s : State) : Nat := if s.power.logFails ≥ 3 then 2 else 0

/-- The module begins a start of a kind: it answers configuration requests with retry status until step 8 (R474). -/
def enterStart (s : State) (kind : Nat) : State :=
  let s1 := setF (setF (setF s Reg.PWR_STAT Fld.PWR_STAT_state 0) Reg.START_STAT Fld.START_STAT_kind kind) Reg.START_STAT Fld.START_STAT_ok 0
  { s1 with host := { s1.host with cfgReady := false }, power := { s1.power with starting := true, safe := false } }

/-- A cold-start cause: work and queues end, the event log is emptied (R477, R519). -/
def beginCold (s : State) : State :=
  let s1 := dropQueues (endWork s)
  enterStart { s1 with ras := { s1.ras with log := [] } } (nextKind s)

/-- What a reset does to the dies: a program counts as interrupted, the clear record of a verified erase is written again,
every other operation is abandoned (R215 to R218). -/
def resetDies (s : State) (ch : Nat) : State :=
  let s1 := updChan s ch fun c => { c with brownOut := false }
  (getChan s ch).ops.foldl (fun s e =>
    if e.2.kind = 1 ∨ e.2.kind = 3 then interruptedProgram s ch e.1 e.2
    else if e.2.kind = 5 then setDieOp s ch e.1 (some (newOp s 5 e.2.block 0))
    else setDieOp s ch e.1 none) s1

/-- A block whose erase was started and not verified, or whose flag is set, needs a second erase (R217, R218). -/
def eraseAgain (s : State) (k : Nat) : State :=
  updBlock s k fun b => { b with needErase := true, pendingFlag := false, verified := false, clear := false, erases := b.erases + 1 }

/-- A warm-start cause (R471, R512): a halted module and one in safe start begin a cold start, one that starts already or
is in holdup goes on (R468). -/
def beginWarm (s : State) : State :=
  if s.ras.halted ∨ s.power.safe then beginCold s
  else if s.power.starting ∨ inHoldup s then s
  else setPair (enterStart (dropQueues (endWork s)) 1) Reg.TB_WARM_LO s.tb

/-! Failed starts (R480) -/

/-- The attempt is recorded and begins again as a cold start, the one after the third failure as a safe start. -/
def failStart (s : State) (step reason : Nat) : State :=
  let n := s.power.logFails + 1
  let s1 := { s with power := { s.power with logFails := n, logReason := reason } }
  let a := Reg.START_STAT
  let s2 := setF (setF (setF s1 a Fld.START_STAT_fail_step step) a Fld.START_STAT_reason reason) a Fld.START_STAT_fails (min n 255)
  enterStart s2 (nextKind s2)

/-- Count an attempted cold start (R487). -/
def countCold (s : State) : State :=
  bump { s with power := { s.power with coldStarts := s.power.coldStarts + 1 } } Reg.START_COLD 1

/-! Registers after a start (R10) -/

/-- Registers that a cold start does not return to the Reset column's value: what the flash, the NOR and the slot headers
keep (R509, R255, R219, R487, R544). -/
def keptCold (a : Nat) : Bool :=
  List.contains [Reg.HUB_STANDS, Reg.FTL_STAT, Reg.FTL_SB, Reg.FTL_CKPT_SEQ_LO, Reg.FTL_CKPT_SEQ_LO + 4, Reg.START_STAT,
    Reg.START_COLD, Reg.DUMP_STAT, Reg.DUMP_SEQ0_LO, Reg.DUMP_SEQ0_LO + 4, Reg.DUMP_SEQ1_LO, Reg.DUMP_SEQ1_LO + 4] a
    || (match pageOf a with | some p => p.kind == .channel && a % 4096 == Reg.CH_BBT | none => false)

def coldRegs (s : State) : State :=
  let s1 := { s with regs := s.regs.filter fun e => keptCold e.1, shadow := [] }
  setF (setF s1 Reg.FTL_STAT Fld.FTL_STAT_map 0) Reg.FTL_SB Fld.FTL_SB_free 0

/-- A register's word after a warm start, field by field. -/
def warmWord (a : Nat) (w : Word) : Word :=
  BitVec.ofNat 32 ((fieldsAt a).foldl (fun x f => match f.warm with
    | .keep => x
    | .reset => putBits x f.hi f.lo f.reset
    | .to v => putBits x f.hi f.lo v) w.toNat)

def warmRegs (s : State) : State :=
  { s with regs := s.regs.foldl (fun m e => regPut m e.1 (warmWord e.1 e.2)) s.regs, shadow := [] }

/-! The map after an unclean loss (R245, R254) -/

/-- The newest journal number and sequence that a unit has. -/
def lastSeq (l : List JournalRec) (idx : Nat) : Nat := ((l.filter (·.idx == idx)).map (·.seq)).foldl max 0

/-- A page of an open super-block prevails where its sequence number is above what the checkpoint and the journal hold. -/
def scanPage (s : State) (l : List JournalRec) (m : AMap MapEntry) (e : Nat × NandPage) : AMap MapEntry :=
  let idx := e.2.idx
  let known := match aGet? m idx with
    | some x => if x.state = 3 then 0 else (match aGet? s.ftl.pages x.addr with | some q => q.seq | none => 0)
    | none => 0
  let seen := (s.ftl.journal.any fun j => j.idx == idx) || decide (e.2.seq > getPair s Reg.FTL_CKPT_SEQ_LO)
  if seen ∧ e.2.seq > max known (lastSeq l idx) then aPut m idx { state := if e.2.kind = 1 then 2 else 1, addr := e.1 } else m

/-- Checkpoint, durable journal, metadata of the open super-blocks. -/
def rebuildMap (s : State) : State :=
  let l := s.ftl.journal.filter journalDurable
  let m1 := l.foldl (fun m j => match j.entry with | some x => aPut m j.idx x | none => aDel m j.idx) s.ftl.ckpt
  let isOpen := fun (e : Nat × NandPage) => e.2.rawData.isNone && (match sbOfBlock s (blockKey e.1) with
    | some B => (match getSb s B with | some x => x.state == 1 | none => false)
    | none => false)
  let m2 := (s.ftl.pages.filter isOpen).foldl (scanPage s l) m1
  { s with ftl := { s.ftl with map := m2, journal := l, cleanRecord := false } }

/-- The buffer after a loss of the stacks: units of the holdup area, else those with two staged copies; every other one is
undurable (R246, R241 case 1). -/
def restoreBuffer (s : State) (buf holdup : List BufUnit) (whole : Bool) : State :=
  let fit := fun (b : BufUnit) => (whole && standPresent s (homeStand b.idx)) || stagedDurable b
  let all := if whole then holdup else buf
  let back := (all.filter fit).map fun b => { b with homeBad := false, neighbourBad := false, slot := none, programmed := false }
  let s1 := { s with ftl := { s.ftl with buf := back } }
  (all.filter fun b => !fit b).foldl (fun s b => dropBuffered s b true 1) s1

/-- The super-blocks after a loss of power: none is open or being reclaimed any more; the free ones are counted
(R237). -/
def loadSbs (s : State) : State :=
  let s1 := { s with ftl := { s.ftl with
    sbs := s.ftl.sbs.map fun e => (e.1, if e.2.state = 1 ∨ e.2.state = 4 then { e.2 with state := 2, done := [] } else e.2)
    opened := [], relocs := [], refreshQueue := [] } }
  setF s1 Reg.FTL_SB Fld.FTL_SB_free (24960 - s1.ftl.sbs.length)

/-- Units that only parity serves are relocated (R220, R251, R252). -/
def requeue (s : State) : State :=
  queueRelocs s (s.ftl.map.filter fun e => (e.2.state == 1 || e.2.state == 2) &&
    (isGrown s (blockKey e.2.addr) || !dieUp s (addrChan e.2.addr) (addrDie e.2.addr)))

/-! Stacked memory lost (R477) -/

/-- The index of a partition when staging is gone: a merge that did not flip is undone, one that did is finished. -/
def coldIndex (x0 : Index) : Index :=
  let x := match x0.closing with | some c => if c.phase = 3 then freeVersion x0 c else x0 | none => x0
  let objs := match x.closing with | some c => if c.phase = 2 then c.objs else [] | none => []
  let ids := x.staging.map (·.1)
  let back := returned { x with ingest := returned x x.held } objs
  { x with ingest := back.map fun e => (e.1, { e.2 with auth := none, plain := [], formed := 0, vectors := [] })
           held := [], staging := [], tombs := [], closing := none, stagingPages := []
           freeIds := (x.freeIds ++ ids).foldr insertNat [] }

/-- Give the staging graphs and the windows pages again, and count what each partition still uses of stacked memory. -/
def repage (s : State) (nw ns : AMap Nat) : State :=
  (s.parts.map (·.1)).foldl (fun s p =>
    let w := aGetD nw p 0
    let n := aGetD ns p 0
    let share := if p = 0 ∧ (lostStand s).isSome then 2 ^ 34 else 0
    match takePages p (liveStacks s) (w + n) s with
    | none => s
    | some (s1, l) =>
      let s2 := updPart s1 p fun q => { q with windowPages := l.take w,
                                                charge := [0, 0, 0, (w + n) * 65536 + share, listAt q.charge 4, 0, 0, listAt q.charge 7] }
      updIndex s2 p fun x => { x with stagingPages := l.drop w }) s

/-- Everything in stacked memory is gone; objects are absent, staged objects return to their lists. -/
def loseStacks (s : State) : State :=
  let nw := s.parts.map fun e => (e.1, e.2.windowPages.length)
  let ns := s.index.map fun e => (e.1, e.2.stagingPages.length)
  let s1 := { s with
    mem := { Mem.empty with regions := [] }
    alms := [], tables := [], rowsets := [], gangs := [], searches := [], jobs := []
    commons := { batches := [], gather := [], gatherSince := 0, queryJobs := [], lastFirst := s.commons.lastFirst, resident := [] }
    adapters := s.adapters.map fun e => (e.1, { e.2 with pages := none, pinnedBy := none })
    index := s.index.map fun e => (e.1, coldIndex e.2)
    parts := s.parts.map fun e => (e.1, { e.2 with window := [], windowPages := [], records := [] }) }
  repage s1 nw ns

/-! The dump slots (R512 to R515) -/

/-- Show the slots in the dump page (R544). -/
def showSlots (s : State) : State :=
  let slot := fun (i : Nat) => s.ras.slots.getD i DumpSlot.blank
  let seq := fun (i : Nat) => match (slot i).dump with | some d => d.seq | none => 0
  let s1 := setReg s Reg.DUMP_STAT (BitVec.ofNat 32 ((slot 0).state * 2 ^ 30 + (slot 1).state * 2 ^ 28
    + (if s.ras.dumpHeld.isSome then 2 ^ 27 else 0)))
  setPair (setPair s1 Reg.DUMP_SEQ0_LO (seq 0)) Reg.DUMP_SEQ1_LO (seq 1)

/-- The slot that a dump takes: an empty one, else the one with the older dump. -/
def dumpSlotFor (s : State) : Nat :=
  let seq := fun (i : Nat) => match (s.ras.slots.getD i DumpSlot.blank).dump with | some d => d.seq | none => 0
  if seq 0 ≤ seq 1 then 0 else 1

def putSlot (s : State) (i : Nat) (x : DumpSlot) : State :=
  showSlots { s with ras := { s.ras with slots := s.ras.slots.set i x } }

/-- A dump whose copy was not complete leaves a slot in state 2, with the header only (R513, R515). -/
def cutDump (s : State) : State :=
  match s.ras.dumpHeld with
  | none => s
  | some d =>
    let s1 := if dumpPending s then putSlot s (dumpSlotFor s)
        { state := 2, dump := some { d with regs := [], log := [], records := [], window := [], poison := [], ce := [] } } else s
    showSlots { s1 with ras := { s1.ras with dumpHeld := none } }

/-! The cold start (R472) -/

/-- A flag of a report, true where the report does not list it. -/
def flagAt (l : List Bool) (i : Nat) : Bool := l.getD i true

/-- Stands that this start finds failed: PUF, either blob, a rail, a stack (R183, R412, R469). -/
def downStands (s : State) (r : ColdReport) : List Nat :=
  (presentStands s).filter fun st => !(flagAt r.pufOk (1 + st) && flagAt r.blobOk (3 + st) && flagAt r.blobOk (11 + st)
    && flagAt r.standRailOk st && ((List.range 3).all fun p => flagAt r.stackOk (3 * st + p)))

/-- The map was left whole by the last stop: a clean shutdown, or a holdup whose record is there. -/
def mapWhole (s : State) : Bool := s.ftl.cleanRecord || s.ftl.holdupComplete

/-- Why a cold start fails, with its step (R480). -/
def coldFailure (s : State) (r : ColdReport) : Option (Nat × Nat) :=
  if !r.inBound ∧ r.failStep = 1 then some (1, 1)
  else if !(flagAt r.pufOk 0 && (List.range 3).all (flagAt r.blobOk)) then some (2, 2)
  else if !r.trngOk then some (2, 3)
  else if !(flagAt r.recordOk 0 || flagAt r.recordOk 1) then some (3, 4)
  else if ((presentStands s).filter fun st => !(downStands s r).contains st).isEmpty then some (5, 5)
  else if !r.mapOk ∨ (!s.ftl.cleanRecord ∧ !((List.range 4).all (flagAt r.packageOk))) then some (7, 6)
  else if !r.inBound then some (r.failStep, 7)
  else none

def rateOf (c : Nat) : Nat := if c = 0 then 3600 else if c = 1 then 3200 else if c = 2 then 2400 else 1600

/-- Dies of a channel that were retired when their grown-bad-block table overflowed (R220). -/
def retiredBefore (s : State) (ch d : Nat) : Bool := (aGetD (getChan s ch).grown d []).length ≥ 512 && !bitOf (getF s (chanPage ch + Reg.CH_STAT) Fld.CH_STAT_die_ok) d

/-- A channel trains and reports its dies (R201, R205, R219); cap is the highest rate that was in force, retired the dies
retired before. -/
def trainChannel (s : State) (r : ColdReport) (ch cap : Nat) (retired : List Nat) : State :=
  let rate := min (r.channelRate.getD ch 3600) cap
  let dies := (List.range 8).filter fun d => flagAt r.bbtOk (8 * ch + d) && !retired.contains d
  let a := chanPage ch + Reg.CH_STAT
  let st := if rate = 0 ∨ dies.isEmpty then 4 else if dies.length < 8 then 3 else 2
  let s1 := setF (setF (setF s a Fld.CH_STAT_state st) a Fld.CH_STAT_die_ok ((dies.map (2 ^ ·)).sum)) a Fld.CH_STAT_rate_mts rate
  if 0 < rate ∧ rate < 3600 then post s1 (chanPage ch) 0x0704 0 0 0 else s1

/-- Steps 2 and 5 as registers show them: keys, packages, stacks (R183, R200, R412). -/
def showFound (s : State) (r : ColdReport) : State :=
  let puf := ((List.range 9).filter (flagAt r.pufOk)).map (2 ^ ·)
  let s1 := setF (setF (setF s Reg.SEC_STAT Fld.SEC_STAT_puf_ok puf.sum) Reg.SEC_STAT Fld.SEC_STAT_blobs ((List.range 19).filter (flagAt r.blobOk)).length)
    Reg.SEC_STAT Fld.SEC_STAT_trng 1
  setF s1 Reg.RECOV_STAT Fld.RECOV_STAT_pkg_ok (((List.range 4).filter (flagAt r.packageOk)).map (2 ^ ·)).sum

/-- The holdup bank as step 1 measures it (R466). -/
def showBank (s : State) (uf : Nat) : State :=
  let s1 := setF s Reg.PWR_BANK Fld.PWR_BANK_cap_uf (min uf 65535)
  if uf ≥ 20000 then setF s1 Reg.PWR_STAT Fld.PWR_STAT_bank_ok 1
  else post (setF s1 Reg.PWR_STAT Fld.PWR_STAT_bank_ok 0) pgPower 0x0709 0 0 0

/-- What volatile state is after a cold start (R477, R509). -/
def coldReset (s : State) (mgmtSel i3c : Bool) : State :=
  { s with
    fresh := s.fresh + 1, seedEpoch := s.fresh, tb := 0, nextJob := 1, nextSearch := 1, copses := [], glades := [], evictions := s.evictions
    chans := s.chans.map fun e => (e.1, { e.2 with brownOut := false, ops := [], keys := [], pf := [], branch := [] })
    parts := s.parts.map fun e => (e.1, { e.2 with dataKey := none, sessions := [], submitted := 0, completed := 0, failed := 0 })
    host := { HostIf.blank with
      linkUp := s.host.linkUp, perst := s.host.perst, completions := s.host.completions, msix := s.host.msix, dma := s.host.dma, cfgAnswers := s.host.cfgAnswers
      mediaErrors := s.host.mediaErrors, errorLog := s.host.errorLog, sanitize := s.host.sanitize
      sanitizing := s.host.sanitizing, sanitizeBlocks := s.host.sanitizeBlocks }
    ras := { s.ras with nextSeq := 1, ce := List.replicate 32 none, patrol := [], standFires := [], faultTimes := [],
                        hubFaultWarmEnd := none, halted := false }
    sec := { negotiated := 0, sessions := [], nextSpdm := 1, streams := [], aerInternal := 0, spdmAnswers := [] }
    mgmt := { lowSpeedSel := mgmtSel, smbAddrWaiting := none, lastMsg := none, i3cInForce := i3c, responses := s.mgmt.responses }
    forest := { s.forest with cfg := none, assocs := [], outbox := [], acks := [], inbox := [],
                                cables := s.forest.cables.map fun e => (e.1, 0) }
    power := { s.power with
      inputOn := true, rails := true, ps := 0, wanted := none, lastOperational := 0, lowCap := false, holdBack := false, setPoint := 700
      throttled := [], tripped := false, safe := false, starting := true, holdupSince := 0, hubFaultStart := false }
    trace := { s.trace with buf := [], lostNow := 0 } }

/-- Blocks with their erase-pending flag set are erased again (R217). -/
def coldErases (s : State) : State := ((s.ftl.blocks.filter (·.2.pendingFlag)).map (·.1)).foldl eraseAgain s

/-- The end of a start: step 8 (R472, R474, R476). -/
def endStart (s : State) (ms : Nat) : State :=
  let s1 := setF (setF s Reg.START_STAT Fld.START_STAT_ok 1) Reg.PWR_STAT Fld.PWR_STAT_state 1
  let s2 := setF (setReg s1 Reg.START_TIME (BitVec.ofNat 32 ms)) Reg.FTL_STAT Fld.FTL_STAT_map 3
  let s3 := { s2 with host := { s2.host with cfgReady := true }, power := { s2.power with starting := false } }
  applyCapMeasured (flashSettle (assignSlots s3))

/-- A cold start that reaches step 8. -/
def coldStarted (s0 : State) (r : ColdReport) : State :=
  let caps := (List.range 128).map fun ch => rateOf (getF s0 (chanPage ch + Reg.CH_CFG) Fld.CH_CFG_rate_max)
  let dead := (List.range 128).map fun ch => (List.range 8).filter (retiredBefore s0 ch)
  let i3c := getF s0 Reg.MGMT_CFG Fld.MGMT_CFG_i3c == 1
  let whole := s0.ftl.holdupComplete
  let fell := inHoldup s0
  let buf := s0.ftl.buf
  let held := s0.ftl.holdup
  let down := downStands s0 r
  let s1 := coldReset (cutDump (dropQueues (endWork (if mapWhole s0 then s0 else rebuildMap s0)))) r.mgmtSel i3c
  let s2 := loadSbs (coldErases (showFound (coldRegs s1) r))
  let s3 := { s2 with ftl := { s2.ftl with buf := [], holdup := [], holdupComplete := false, shareWaiting := false } }
  let s4 := loseStacks (down.foldl failStand s3)
  let s5 := (List.range 128).foldl (fun s ch => if standPresent s (ch / 16) then trainChannel s r ch (caps.getD ch 3600) (dead.getD ch []) else s) s4
  let s6 := requeue (restoreBuffer (setStacks s5 3) buf held whole)
  let s7 := if fell then setF s6 Reg.FTL_HOLDUP Fld.FTL_HOLDUP_result (if whole then 1 else 2) else s6
  endStart (showBank (setF s7 Reg.START_STAT Fld.START_STAT_kind 0) r.bankUf) r.durationMs

/-- A cold start may be attempted: the module waits for one and the input is there (R465, R471, R480, R557). -/
def coldDue (s : State) : Bool :=
  !s.power.pwrdis && s.power.logFails < 3
    && ((s.power.starting && getF s Reg.START_STAT Fld.START_STAT_kind == 0) || (inHoldup s && !s.power.starting))

/-- A start out of holdup before its record was durable finds none, and the event log empty (R468, R519). -/
def leaveHoldup (s : State) : State :=
  if inHoldup s ∧ !s.ftl.holdupComplete then { s with ras := { s.ras with log := [] } } else s

def execColdStart (r : ColdReport) (s : State) : Host.Outcome State Fault Refusal :=
  .next (
    if !coldDue s then s
    else
      let s1 := countCold (leaveHoldup s)
      match coldFailure s1 r with
      | some (step, reason) => failStart s1 step reason
      | none => coldStarted s1 r)

/-! The warm start (R476) -/

/-- State that a warm start ends: what runs on the dies and in the copses, on-chip memory, the links. -/
def warmReset (s : State) : State :=
  let s1 := (s.chans.map (·.1)).foldl resetDies s
  let act := (List.range 1024).filterMap fun i =>
    let w := (regGet s (chanPage (i / 8) + Reg.CH_ERASE_ACTIVE + 4 * (i % 8))).toNat
    if bitOf w 31 then some (blockAt (i / 8) (i % 8) (w % 2 ^ 14)) else none
  let s2 := act.foldl eraseAgain s1
  { s2 with
    fresh := s2.fresh + 1, seedEpoch := s2.fresh, mem := { zeroOnChip s2.mem with window := [] }, copses := []
    glades := s2.glades.map fun e => (e.1, { e.2 with retention := [], free := [] })
    chans := s2.chans.map fun e => (e.1, { e.2 with keys := [], pf := [], branch := [] })
    host := { s2.host with features := HostIf.blank.features, perst := s2.host.perst }
    sec := { negotiated := 0, sessions := [], nextSpdm := 1, streams := [], aerInternal := 0, spdmAnswers := [] }
    mgmt := { s2.mgmt with smbAddrWaiting := none, lastMsg := none }
    forest := { s2.forest with assocs := [], outbox := [], acks := [], inbox := [],
                                cables := s.forest.cables.map fun e => (e.1, 0) }
    power := { s2.power with rails := true, ps := 0, wanted := none, lastOperational := 0, holdBack := false, throttled := [], holdupSince := 0 }
    trace := { s2.trace with buf := [], lostNow := 0 } }

/-- Pages of the window are credited with the on-chip memory that held them. -/
def dropWindows (s : State) : State := (s.mem.window.map (·.1)).foldl dropWindow s

/-- The stacks did not hold: steps 5 and 7 of the cold start (R476). -/
def warmFall (s : State) : State :=
  let buf := s.ftl.buf
  let s1 := loadSbs (if mapWhole s then s else rebuildMap s)
  let s2 := loseStacks { s1 with ftl := { s1.ftl with buf := [] } }
  requeue (restoreBuffer s2 buf s.ftl.holdup s.ftl.holdupComplete)

def warmStarted (s0 : State) (r : WarmReport) : State :=
  let vset := (List.range 8).map fun st => getF s0 (standBase st + Reg.STAND_VCORE) Fld.STAND_VCORE_vset
  let s1 := warmRegs (warmReset (dropWindows s0))
  let s2 := (List.range 8).foldl (fun s st => setVset s st (vset.getD st 700)) s1
  let up := s2.ftl.sbs.length
  let s3 := setF s2 Reg.FTL_SB Fld.FTL_SB_free (24960 - up)
  let s4 := (List.range 128).foldl (fun s ch =>
    let a := chanPage ch + Reg.CH_STAT
    if standPresent s (ch / 16) ∧ getF s a Fld.CH_STAT_rate_mts ≠ 0 then
      setF s a Fld.CH_STAT_state (if getF s a Fld.CH_STAT_die_ok = 255 then 2 else 3) else s) s3
  let s5 := if r.stacksHeld ∧ r.mapSumsOk then s4 else warmFall s4
  let s6 := setStacks { s5 with ftl := { s5.ftl with holdup := [], holdupComplete := false } } 3
  let s7 := setF (bump s6 Reg.START_WARM 1) Reg.START_STAT Fld.START_STAT_kind 1
  let s8 := { s7 with ras := { s7.ras with hubFaultWarmEnd := if s7.power.hubFaultStart then some s7.tb else none },
                      power := { s7.power with hubFaultStart := false } }
  endStart s8 r.durationMs

def execWarmStart (r : WarmReport) (s : State) : Host.Outcome State Fault Refusal :=
  .next (if s.power.starting ∧ getF s Reg.START_STAT Fld.START_STAT_kind = 1 then warmStarted s r else s)

/-! The safe start (R481) -/

/-- Why a safe start fails: steps 1 to 3 with the hub's blob 0 only. -/
def safeFailure (r : ColdReport) : Option (Nat × Nat) :=
  if !r.inBound ∧ r.failStep = 1 then some (1, 1)
  else if !(flagAt r.pufOk 0 && flagAt r.blobOk 0) then some (2, 2)
  else if !r.trngOk then some (2, 3)
  else if !(flagAt r.recordOk 0 || flagAt r.recordOk 1) then some (3, 4)
  else if !r.inBound then some (r.failStep, 7)
  else none

/-- The module in safe start: no stand is powered, the map is not touched, the admin queue is offered. -/
def safeStarted (s0 : State) (r : ColdReport) : State :=
  let s1 := coldRegs (coldReset (cutDump (dropQueues (endWork s0))) r.mgmtSel (getF s0 Reg.MGMT_CFG Fld.MGMT_CFG_i3c == 1))
  let s2 := setF (setF (setF (setF s1 Reg.SEC_STAT Fld.SEC_STAT_safe_start 1) Reg.SEC_STAT Fld.SEC_STAT_trng 1) Reg.SEC_STAT Fld.SEC_STAT_puf_ok 1)
    Reg.SEC_STAT Fld.SEC_STAT_blobs 1
  let s3 := setF (setF s2 Reg.START_STAT Fld.START_STAT_kind 2) Reg.PWR_STAT Fld.PWR_STAT_state 3
  let s4 := showBank s3 r.bankUf
  { s4 with
    host := { s4.host with cfgReady := true }
    mem := Mem.empty
    power := { s4.power with safe := true, starting := false, rails := false } }

def execSafeStart (r : ColdReport) (s : State) : Host.Outcome State Fault Refusal :=
  .next (
    if s.power.pwrdis ∨ s.power.logFails < 3 ∨ !(s.power.starting || inHoldup s) ∨ (s.power.starting ∧ getF s Reg.START_STAT Fld.START_STAT_kind = 1) then s
    else
      let s1 := countCold (leaveHoldup s)
      match safeFailure r with
      | some (step, reason) => failStart s1 step reason
      | none => safeStarted s1 r)

end Sys2Proof.Machine
end

