-- ==== Sys2Proof/Machine/Power.lean ====
section
/-! DEFINITION. The commands of the input, the pins, the resets, the shutdowns, the power states and the power manager
(R402, R465 to R486, R557, R562). -/

namespace Sys2Proof.Machine

/-! Holdup (R246, R467, R468) -/

/-- The journal tail is on flash: every record lies on two stands (R243). -/
def journalTail (s : State) : State :=
  let l := presentStands s
  { s with ftl := { s.ftl with journal := s.ftl.journal.map fun j =>
      let more := l.filter fun x => !j.stands.contains x
      { j with stands := j.stands ++ more.take (2 - j.stands.length) } } }

/-- The Chowen SerDes are off: every association is down. -/
def linksOff (s : State) : State :=
  let s1 := s.forest.assocs.foldl (fun s a => assocDown s a.port a.peer) s
  let s2 := (List.range 4).foldl (fun s p => setF s (chwReg p Reg.CHW_STAT) Fld.CHW_STAT_state 0) s1
  refreshForest { s2 with forest := { s2.forest with cables := s2.forest.cables.map fun e => (e.1, 0) } }

/-- Holdup begins, in the order of R467. A module without power, and one in holdup already, does not enter it. -/
def enterHoldup (s : State) : State :=
  if inHoldup s ∨ !(s.power.rails || s.power.safe) then s
  else
    let data := carriesData s
    let s1 := setF (bump (endWork s) Reg.PWR_HOLDUPS 1) Reg.PWR_STAT Fld.PWR_STAT_state 2
    let s2 := linksOff (setAllVset s1 600)
    let s3 := { s2 with
      power := { s2.power with starting := false, wanted := none, holdupSince := s.tb }
      host := { s2.host with linkUp := false } }
    dropQueues (if data then flushToHoldup s3 else s3)

/-- Programs already in progress complete (R246 step 1). -/
def finishPrograms (s : State) : State :=
  s.chans.foldl (fun s c => c.2.ops.foldl (fun s o =>
    if (o.2.kind = 1 ∨ o.2.kind = 3) ∧ !o.2.suspended then programPass s c.1 o.1 o.2 else s) s) s

/-- The holdup-complete record is durable, with the unread event records (R246 step 4, R519). -/
def holdupRecord (s0 : State) (data : Bool) : State :=
  let s := if data then flushToHoldup (journalTail (finishPrograms s0)) else s0
  let s1 := setF (setF s Reg.FTL_HOLDUP Fld.FTL_HOLDUP_result 1) Reg.FTL_HOLDUP Fld.FTL_HOLDUP_time
    (min 65535 ((s.tb - s.power.holdupSince) / 1000))
  { s1 with
    ftl := { s1.ftl with holdupComplete := s1.ftl.holdupComplete || data }
    ras := { s1.ras with log := s1.ras.log.filter (·.unread) } }

/-- Rails off, but the always-on domain while it has power; a module past a thermal trip waits to cool (R470, R486). -/
def railsOff (s : State) : State :=
  let s1 := { s with power := { s.power with rails := false, safe := false } }
  if s.power.tripped then setF s1 Reg.PWR_STAT Fld.PWR_STAT_state 4 else s1

def execHoldup (s : State) : Host.Outcome State Fault Refusal := .next (enterHoldup s)

def execHoldupComplete (inputOk alwaysOnKept : Bool) (s : State) : Host.Outcome State Fault Refusal :=
  .next (
    if getF s Reg.PWR_STAT Fld.PWR_STAT_state = 2 ∧ (s.power.rails ∨ s.power.safe) then
      let s1 := holdupRecord s (s.power.rails && !s.power.safe)
      if inputOk ∧ alwaysOnKept ∧ !s.power.pwrdis ∧ s.power.inputOn ∧ !s.power.tripped ∧ !s.power.safe ∧ !s.ras.halted then
        setPair (enterStart s1 1) Reg.TB_WARM_LO s1.tb
      else railsOff s1
    else s)

/-! The input (R465, R557) -/

def execInputLow (s : State) : Host.Outcome State Fault Refusal :=
  .next (
    if ready s then
      let s1 := setF (post s pgPower 0x070A 0 0 0) Reg.PWR_STAT Fld.PWR_STAT_input_low 1
      applyCapMeasured { s1 with power := { s1.power with lowCap := true } }
    else s)

def execInputLowClear (s : State) : Host.Outcome State Fault Refusal :=
  .next (
    if ready s ∧ s.power.lowCap then
      let s1 := setF s Reg.PWR_STAT Fld.PWR_STAT_input_low 0
      applyCapMeasured { s1 with power := { s1.power with lowCap := false } }
    else s)

def execInputHigh (s : State) : Host.Outcome State Fault Refusal :=
  .next (if s.power.rails ∨ s.power.safe then setF (post s pgPower 0x070B 0 0 0) Reg.PWR_STAT Fld.PWR_STAT_input_high 1 else s)

def execInputHighClear (s : State) : Host.Outcome State Fault Refusal :=
  .next (setF s Reg.PWR_STAT Fld.PWR_STAT_input_high 0)

/-- The hot-swap switch opens. -/
def openSwitch (s : State) : State := { s with power := { s.power with inputOn := false } }

def execInputOvervoltage (s : State) : Host.Outcome State Fault Refusal := .next (openSwitch (enterHoldup s))

def execPwrdisAssert (s : State) : Host.Outcome State Fault Refusal :=
  .next (let s1 := enterHoldup s; openSwitch { s1 with power := { s1.power with pwrdis := true } })

/-- The switch may close again: holdup goes on as though the input had recovered, or a cold start begins (R557). -/
def execPwrdisRelease (s : State) : Host.Outcome State Fault Refusal :=
  .next (if s.power.pwrdis then { s with power := { s.power with pwrdis := false, inputOn := true } } else s)

/-! Resets (R471, R562) -/

/-- The controller is reset: queues and outstanding commands end, and the work tied to those commands; a halted module
begins a cold start (R471, R512). -/
def controllerReset (s : State) : State :=
  if s.ras.halted then beginCold s
  else if !s.host.enabled then s
  else dropQueues (abortAll { s with host := { s.host with sqs := [], cqs := [], waitingCq := [], aers := [] } }
    (fun o => !(o.admin && o.opcode == 0x0C)) stSqDeleted)

def execControllerReset (s : State) : Host.Outcome State Fault Refusal := .next (controllerReset s)

/-- CC.EN becomes 1, where the function answers configuration requests: the admin queues are offered, and CSTS.RDY is 1
with the map loaded, or in a safe start (R474, R481). -/
def execControllerEnable (s : State) : Host.Outcome State Fault Refusal :=
  .next (
    if s.host.cfgReady ∧ !s.host.enabled ∧ !s.ras.halted ∧ (s.power.safe ∨ (ready s ∧ getF s Reg.FTL_STAT Fld.FTL_STAT_map = 3)) then
      { s with host := { s.host with
          enabled := true, rdy := true
          sqs := [(0, { size := 4096, cqid := 0, tail := 0, head := 0 })]
          cqs := [(0, { size := 4096, vector := 0, irq := true, tail := 0, head := 0 })] } }
    else s)

def execPerstAssert (s : State) : Host.Outcome State Fault Refusal :=
  .next (let s1 := beginWarm s; { s1 with host := { s1.host with perst := true, linkUp := false } })

def execPerstDeassert (refclkPresent : Bool) (s : State) : Host.Outcome State Fault Refusal :=
  .next { s with host := { s.host with perst := false, linkUp := refclkPresent && (s.power.rails || s.power.safe || s.power.starting) } }

def execNvmSubsystemReset (s : State) : Host.Outcome State Fault Refusal :=
  .next (if s.power.rails ∨ s.power.safe then beginWarm s else s)

/-- The link goes down; without PERST# that resets the controller (R562). -/
def linkDown (s : State) : State :=
  if s.host.linkUp then
    let s1 := { s with host := { s.host with linkUp := false } }
    if s.host.perst then s1 else controllerReset s1
  else s

def execRefclkLoss (s : State) : Host.Outcome State Fault Refusal := .next (linkDown s)

def execPcieLinkDown (s : State) : Host.Outcome State Fault Refusal := .next (linkDown s)

/-- A configuration request is answered: retry status until step 8 (R474). -/
def execConfigurationRequest (s : State) : Host.Outcome State Fault Refusal :=
  .next (if s.host.perst then s else { s with host := { s.host with linkUp := true, cfgAnswers := s.host.cfgAnswers ++ [s.host.cfgReady] } })

/-! Shutdowns (R473) -/

/-- A checkpoint of all 8,192 map segments. -/
def checkpointAll (s : State) : State :=
  let s1 := { s with ftl := { s.ftl with ckpt := s.ftl.map, ckptNext := 0, sinceCkpt := 0 } }
  setPair s1 Reg.FTL_CKPT_SEQ_LO s.ftl.seq

/-- What a shutdown makes durable, after the outstanding commands are aborted and the open days ended. -/
def shutdownFlush (s : State) : State :=
  flushAll (stopWork (abortAll s (fun o => !(o.admin && o.opcode == 0x0C)) stAborted))

/-- A normal shutdown: the buffer, every segment, then the clean-shutdown record, which empties the journal. -/
def shutdownNormal (s : State) : State :=
  let s1 := checkpointAll (shutdownFlush s)
  { s1 with ftl := { s1.ftl with journal := [], cleanRecord := true } }

/-- An abrupt shutdown: the buffer and the journal tail. -/
def shutdownAbrupt (s : State) : State :=
  let s1 := journalTail (shutdownFlush s)
  { s1 with ftl := { s1.ftl with cleanRecord := false } }

def showShutdown (s : State) : State := { s with host := { s.host with shst := 2 } }

def execShutdownNormal (s : State) : Host.Outcome State Fault Refusal :=
  .next (if serving s then showShutdown (if s.power.safe then s else shutdownNormal s) else s)

def execShutdownAbrupt (s : State) : Host.Outcome State Fault Refusal :=
  .next (if serving s then showShutdown (if s.power.safe then s else shutdownAbrupt s) else s)

/-! Requests in PWR_CTL (R471, R473, R481, R482) -/

/-- PWR_CTL.cold_req: a normal shutdown, where the module is ready, then a cold start. -/
def coldRequest (s : State) : State :=
  if s.power.safe ∨ s.ras.halted then beginCold s
  else if ready s then beginCold (shutdownNormal s)
  else if s.power.starting ∧ getF s Reg.START_STAT Fld.START_STAT_kind = 1 then beginCold s
  else s

/-- PWR_CTL.safe_exit: the count of failed starts is cleared. -/
def safeExit (s : State) : State :=
  if s.power.safe then
    beginCold (setF { s with power := { s.power with logFails := 0 } } Reg.START_STAT Fld.START_STAT_fails 0)
  else s

/-- PWR_CTL.scan_en: the key store is erased, internal scan enabled. -/
def scanEnable (s : State) : State :=
  if s.power.safe then setF { s with power := { s.power with keysErased := true, scan := true } } Reg.SEC_STAT Fld.SEC_STAT_blobs 0 else s

/-- Ten minutes ready without a break (R480). -/
def execStartLogClear (s : State) : Host.Outcome State Fault Refusal :=
  .next (if ready s then setF { s with power := { s.power with logFails := 0 } } Reg.START_STAT Fld.START_STAT_fails 0 else s)

/-! Power states (R402, R403, R483) -/

/-- The module is idle (R402). -/
def moduleIdle (s : State) : Bool :=
  (s.host.outstanding.all fun o => o.cmd.sqid == 0) && s.jobs.isEmpty && s.searches.isEmpty && s.gangs.isEmpty
    && (s.index.all fun e => e.2.closing.isNone) && s.commons.batches.isEmpty && s.commons.gather.isEmpty && s.ftl.buf.isEmpty

/-- Every bank of a glade: 0 to 63, and 32 of each copse's scratch. -/
def allBanks : List Nat := List.range 192

/-- PS2: cores at 0.60 V, banks in retention, stacks in self-refresh. -/
def enterPs2 (s : State) : State :=
  let s1 := setAllVset s 600
  let up := (List.range 32).filter fun g => standPresent s (g / 4)
  setStacks (up.foldl (fun s g => updGlade s g fun x => { x with retention := allBanks }) s1) 4

/-- PS3: on-chip contents are lost, with the pages of the migration windows. -/
def enterPs3 (s : State) : State :=
  let s1 := dropWindows (enterPs2 s)
  { s1 with mem := zeroOnChip s1.mem, copses := [], fresh := s1.fresh + 1, seedEpoch := s1.fresh
            glades := s1.glades.map fun e => (e.1, { e.2 with retention := [], free := [] }) }

/-- Enter a power state; the operational state last left is noted. -/
def enterPs (s : State) (ps : Nat) : State :=
  let s1 := wakeUp s
  let mark := fun (s : State) => { s with power := { s.power with ps := ps, wanted := none } }
  if ps = 1 then applyCapMeasured (let x := mark s1; { x with power := { x.power with lastOperational := 1 } })
  else if ps = 2 then mark (enterPs2 s1)
  else if ps = 3 then mark (enterPs3 s1)
  else mark (enterPs3 (journalTail (flushAll s1)))

/-- From PS2 to PS3 the banks are not woken first. -/
def lowerPs (s : State) (ps : Nat) : State :=
  if s.power.ps = 2 ∧ ps = 3 then let x := enterPs3 s; { x with power := { x.power with ps := 3, wanted := none } } else enterPs s ps

/-- Entry to a state that Set Features asked for, once the module is idle; PS1 does not wait for that (R402). -/
def execPowerStateEntry (ps : Nat) (s : State) : Host.Outcome State Fault Refusal :=
  .next (if ready s ∧ !s.ras.halted ∧ s.power.wanted = some ps ∧ (ps = 1 ∨ (2 ≤ ps ∧ ps ≤ 4 ∧ moduleIdle s)) then lowerPs s ps else s)

/-- The APST entry of the state in force: the state it goes to. -/
def apstTarget (s : State) : Option Nat :=
  let w := apstWord s.host s.power.ps
  if aGetD s.host.features 0x0C 0 % 2 = 1 ∧ w / 256 ≠ 0 then some (bitsOf w 7 3) else none

def execApstTransition (s : State) : Host.Outcome State Fault Refusal :=
  .next (
    match apstTarget s with
    | some ps => if ready s ∧ !s.ras.halted ∧ moduleIdle s ∧ s.power.ps < ps ∧ 2 ≤ ps ∧ ps ≤ 4 then lowerPs s ps else s
    | none => s)

/-! The power manager (R485, R486) -/

def vsetOf (s : State) (st : Nat) : Nat := getF s (standBase st + Reg.STAND_VCORE) Fld.STAND_VCORE_vset

/-- Over the cap: every stand one row down, or, with every stand at 0.60 V, no new pass. -/
def lowerAll (s : State) : State :=
  let l := standsInService s
  if l.all fun st => vsetOf s st ≤ 600 then { s with power := { s.power with holdBack := true } }
  else
    let s1 := { s with power := { s.power with setPoint := rowBelow s.power.setPoint } }
    bump (l.foldl (fun s st => setVset s st (rowBelow (vsetOf s st))) s1) Reg.PWR_THROTTLE 1

/-- Under the cap for 1 ms: every stand one row up, but those lowered for their temperature. -/
def raiseAll (s : State) : State :=
  let v := rowAbove (getF s Reg.PWR_VLIM Fld.PWR_VLIM_vmax) s.power.setPoint
  let s1 := { s with power := { s.power with setPoint := v } }
  (standsInService s1).foldl (fun s st => if s.power.throttled.contains st then s else setVset s st v) s1

/-- A sample of the input power, averaged over 100 µs. -/
def execPowerSample (watts : Nat) (underForOneMs : Bool) (s : State) : Host.Outcome State Fault Refusal :=
  .next (
    if !ready s then s
    else
      let s1 := setF s Reg.PWR_STAT Fld.PWR_STAT_pin (min watts 65535)
      if s1.power.ps ≥ 2 then s1
      else if watts > capInForce s1 then lowerAll s1
      else
        let s2 := { s1 with power := { s1.power with holdBack := false } }
        if underForOneMs ∧ watts + getF s Reg.PWR_CAP Fld.PWR_CAP_hyst_w ≤ capInForce s1 then raiseAll s2 else s2)

def setTj (s : State) (st tj : Nat) : State := setF s (standBase st + Reg.STAND_TJ) Fld.STAND_TJ_tj_max (min tj 255)

/-- One millisecond of a stand's temperature: lowered a row at or above the threshold, and on until it falls 5 °C below. -/
def throttleTick (s0 : State) (st tj : Nat) : State :=
  let s := setTj s0 st tj
  let t := getF s Reg.PWR_TEMP Fld.PWR_TEMP_throttle
  let low := s.power.throttled.contains st
  if tj ≥ t ∨ (low ∧ tj + 5 > t) then
    let s1 := { s with power := { s.power with throttled := insertNat st s.power.throttled } }
    if vsetOf s1 st ≤ 600 then s1 else bump (setVset s1 st (rowBelow (vsetOf s1 st))) Reg.PWR_THROTTLE 1
  else if low then setVset { s with power := { s.power with throttled := s.power.throttled.filter (· != st) } } st s.power.setPoint
  else s

def execThermalThrottleTick (stand tj : Nat) (s : State) : Host.Outcome State Fault Refusal :=
  .next (if ready s ∧ s.power.ps < 3 ∧ (standsInService s).contains stand then throttleTick s stand tj else s)

/-- A thermal trip: holdup and its event; the cold start follows once every sensor has cooled. -/
def execThermalTrip (stand tj : Nat) (s : State) : Host.Outcome State Fault Refusal :=
  .next (
    if s.power.rails ∧ !inHoldup s ∧ (standsInService s).contains stand ∧ tj ≥ getF s Reg.PWR_TEMP Fld.PWR_TEMP_trip then
      let s1 := post (enterHoldup (setTj s stand tj)) pgPower 0x070C 0 0 0
      { s1 with power := { s1.power with tripped := true } }
    else s)

end Sys2Proof.Machine
end

