-- ==== Sys2Proof/Machine/Faults.lean ====
section
/-! DEFINITION. Patrol reads, control parity faults, watchdogs, hub faults, fatal errors and the copy of a dump to its
slot (R490, R498, R503 to R506, R511 to R515); the step-rate monitor (R37, R38). -/

namespace Sys2Proof.Machine

/-! PATROL_READ (R490, R498) -/

/-- Lines of a stack: 64 GiB of 64 bytes. -/
def stackLines : Nat := 2 ^ 30

/-- A mark of poison goes again: what the line holds is kept elsewhere. -/
def unpoison (s : State) (key : Nat) : State := { s with mem := { s.mem with poison := s.mem.poison.filter (· != key) } }

/-- Poison in a line of the map: its segment is loaded again, or the error is fatal. -/
def mapPoison (s : State) (key : Nat) (segmentReads : Bool) : State :=
  if segmentReads then post (unpoison s key) pgFtl 0x0203 0 0 0 else fatal (unpoison s key)

/-- Poison in one copy of a write-buffer slot: the other one serves, or the unit is undurable (R241 case 1). -/
def slotPoison (s : State) (key : Nat) (b : BufUnit) (isHome : Bool) : State :=
  let bad := if isHome then b.neighbourBad else b.homeBad
  let s1 := unpoison s key
  if bad then dropBuffered s1 b true 1
  else { s1 with ftl := { s1.ftl with buf := s1.ftl.buf.map fun x =>
    if x.order = b.order then (if isHome then { x with homeBad := true } else { x with neighbourBad := true }) else x } }

/-- A line of a stack that is found uncorrectable. -/
def stackPoison (s0 : State) (key : Nat) (segmentReads : Bool) : State :=
  let c := codeOfKey key
  let s := uncorrectable s0 key false
  match mapLineNo c with
  | some _ => mapPoison s key segmentReads
  | none =>
    match bufferSlot c, slotUnit s c with
    | some _, some (b, isHome, _) => slotPoison s key b isHome
    | some _, none => unpoison s key
    | none, _ =>
      match s.alms.find? fun e => e.2.pages.contains (locPageNo key) with
      | some (h, a) => loseAlmanac s h a
      | none => s

/-- Patrol reads the next line of a stack in rising address and writes a corrected line back. -/
def patrol (s : State) (k : Nat) (found : EccResult) (segmentReads : Bool) : State :=
  let line := aGetD s.ras.patrol k 0
  let key := locPage (k * 2 ^ 20) + line * 64
  let s1 := { s with ras := { s.ras with patrol := aPut s.ras.patrol k ((line + 1) % stackLines) } }
  if isPoisoned s1.mem key then s1
  else match found with
    | .clean => s1
    | .corrected _ => correctable s1 key false
    | .uncorrectable _ => stackPoison s1 key segmentReads

def execPatrolRead (p : StackPath) (found : EccResult) (segmentReads : Bool) (s : State) : Host.Outcome State Fault Refusal :=
  .next (
    if operational s ∧ p.ok ∧ standPresent s p.stand ∧ getF s (stackPage p.index + Reg.STACK_STAT) Fld.STACK_STAT_state = 3 then
      patrol s p.index found segmentReads
    else s)

/-! Stand control resets (R505) -/

/-- A job has a unit bound in a stand. -/
def jobIn (st : Nat) (j : Job) : Bool :=
  j.glades.any (fun g => g / 4 == st) || j.copses.any (fun k => k / 16 == st) || j.rangers.any (fun r => r / 16 == st)

/-- The on-chip memory of a stand is zeroed. -/
def zeroStand (s : State) (st : Nat) : State :=
  let keep := fun (a : Nat) => locStand a != st || locStore a == 3 || locStore a == 8
  let m := s.mem
  { s with mem := { m with bytes := m.bytes.filter fun e => keep e.1
                           poison := m.poison.filter keep
                           raw := m.raw.filter fun e => keep e.1 } }

/-- Jobs bound in the stand restart their days, its on-chip memory is zeroed, its searches start again. -/
def standReset (s : State) (st : Nat) : State :=
  let s1 := (s.mem.window.filter fun e => e.1 / 2 ^ 40 / 4 == st).foldl (fun s e => dropWindow s e.1) s
  let s2 := zeroStand s1 st
  let hit := (s2.jobs.filter fun e => e.2.isBound && !e.2.finished && jobIn st e.2).map (·.1)
  let s3 := hit.foldl (fun s n => match getJob s n with
    | some j => (match jobAlm s j with
      | some a => restartDay (loadInputs s n j a) n
      | none => s)
    | none => s) s2
  restartSearches s3 st

/-! Hub faults (R506) -/

/-- A hub watchdog fired, or a hub sequencer took a control fault. -/
def hubFault (s : State) : State :=
  if s.ras.halted ∨ inHoldup s then s
  else if s.power.starting then
    failStart { s with fresh := s.fresh + 1 } (1 + Config.stepReached s.fresh % 8) 8
  else
    let again : Bool := match s.ras.hubFaultWarmEnd with | some t => decide (s.tb ≤ t + 6000000000) | none => false
    if again then fatal s
    else
      let s1 := beginWarm s
      { s1 with power := { s1.power with hubFaultStart := true } }

/-! WATCHDOG_FIRE (R505) -/

def noteFire (s : State) (index : Nat) : State :=
  let s1 := bump (setF s Reg.RAS_WDOG_LAST Fld.RAS_WDOG_LAST_which index) Reg.RAS_WDOG_FIRES 1
  post s1 pgFault 0x0305 0 0 0

/-- A stand's watchdog: a stand control reset, and within 10 s of it the stand is failed. -/
def standFire (s : State) (st : Nat) : State :=
  match aGet? s.ras.standFires st with
  | some t =>
    if s.tb ≤ t + 1000000000 then failStand { s with ras := { s.ras with standFires := aDel s.ras.standFires st } } st
    else standReset { s with ras := { s.ras with standFires := aPut s.ras.standFires st s.tb } } st
  | none => standReset { s with ras := { s.ras with standFires := aPut s.ras.standFires st s.tb } } st

def execWatchdogFire (index : Nat) (s : State) : Host.Outcome State Fault Refusal :=
  .next (
    if index < 10 ∧ hubPowered s then hubFault (noteFire s index)
    else if 16 ≤ index ∧ index < 24 ∧ engineOn s ∧ standPresent s (index - 16) then standFire (noteFire s index) (index - 16)
    else s)

/-! CONTROL_PARITY_FAULT (R503, R504) -/

/-- The page that posts for a sequencer. -/
def sequencerPage : Sequencer → Nat
  | .copse p => copsePage p.index
  | .gladeUnit g => gladePage g.index
  | .channel c => chanPage c.index
  | .standControl st => standBase st
  | .hub i => [pgQueue, pgDispatcher, pgValidator, pgMigration, pgFtl, pgSecurity, pgSearch, pgSearch, pgPower, pgFault].getD i pgFault

/-- Argument 0 of the event: the instance path, for a hub sequencer its watchdog's index. -/
def sequencerArg : Sequencer → Nat
  | .hub i => i
  | q => pathCode (sequencerPage q)

def sequencerPresent (s : State) : Sequencer → Bool
  | .copse p => p.ok && standPresent s p.stand
  | .gladeUnit g => g.ok && standPresent s g.stand
  | .channel c => c.ok && standPresent s c.stand
  | .standControl st => decide (st < 8) && standPresent s st
  | .hub _ => true

/-- The copse's open harvest group is replayed, as after a harvest mismatch. -/
def copseControl (s : State) (k : Nat) : State :=
  match pendingHarv s k with
  | some (h, e) => mismatch s k e h
  | none => match (getCopse s k).pass with
    | some r => passTimeout s k r
    | none => s

/-- Jobs with an entry in flight on the mover, the vector unit or the sorter of a glade. -/
def jobsOnGlade (s : State) (g : Nat) : List Nat :=
  (s.jobs.filter fun e => e.2.isBound && !e.2.finished && (match jobAlm s e.2 with
    | none => false
    | some a => (e.2.cals.zipIdx).any fun r => !r.1.inFlight.isEmpty && (match a.cals[r.2]? with
      | some c => (c.kind == 1 || c.kind == 2) && e.2.gladeOf c.glade == g
      | none => false))).map (·.1)

/-- Count a control fault of a unit: whether it is the third within 60 s. -/
def thirdFault (s : State) (page : Nat) : State × Bool :=
  let l := (s.ras.faultTimes.filter fun e => s.tb ≤ e.2 + 6000000000) ++ [(page, s.tb)]
  ({ s with ras := { s.ras with faultTimes := l } }, decide ((l.filter (·.1 == page)).length ≥ 3))

def rebindAll (s : State) : State := (s.jobs.map (·.1)).foldl rebindJob s

def gladeControl (s : State) (g : Nat) : State :=
  let s1 := (jobsOnGlade s g).foldl (fun s n => restartDay s n) s
  let (s2, third) := thirdFault s1 (gladePage g)
  if third then rebindAll (updGlade s2 g fun x => { x with ctlExcluded := true }) else s2

/-- What a die of a reset channel sequencer was doing. -/
def resetDieOp (s : State) (ch die : Nat) (o : DieOp) : State :=
  if o.kind = 1 ∨ o.kind = 3 then interruptedProgram s ch die o
  else if o.kind = 2 ∨ o.kind = 4 then
    updBlock (eraseInactive (setDieOp s ch die none) ch die) (blockAt ch die o.block) fun b => { b with needErase := true, verified := false }
  else setDieOp s ch die (some (newOp s 5 o.block 0))

def channelControl (s : State) (ch : Nat) : State :=
  let rs := s.ftl.accesses.filter fun e => addrChan e.2.addr == ch && wantsRead s e.2
  let s1 := rs.foldl (fun s e => readDone s e.1 e.2 (List.replicate (if e.2.attempt = 0 then 4 else e.2.failed.length) .failed) true) s
  let s2 := (getChan s1 ch).ops.foldl (fun s o => resetDieOp s ch o.1 o.2) s1
  let (s3, third) := thirdFault s2 (chanPage ch)
  if third then rebindAll (setF s3 (chanPage ch + Reg.CH_STAT) Fld.CH_STAT_state 4) else s3

def contain (s : State) : Sequencer → State
  | .copse p => copseControl s p.index
  | .gladeUnit g => gladeControl s g.index
  | .channel c => flashSettle (channelControl s c.index)
  | .standControl st => standReset s st
  | .hub _ => hubFault s

def execControlParityFault (q : Sequencer) (group : Nat) (s : State) : Host.Outcome State Fault Refusal :=
  .next (
    let hub : Bool := match q with | .hub _ => true | _ => false
    if (if hub then hubPowered s else engineOn s) && sequencerPresent s q then
      contain (bump (post s (sequencerPage q) 0x0304 0 (sequencerArg q) group) Reg.RAS_CTL_FAULT 1) q
    else s)

/-! FATAL_ERROR, DUMP_COPY_COMPLETE (R511 to R515) -/

def execFatalError (s : State) : Host.Outcome State Fault Refusal := .next (fatal s)

/-- The dump is in its slot: the module has halted. -/
def execDumpCopyComplete (s : State) : Host.Outcome State Fault Refusal :=
  .next (
    if s.ras.halted ∧ dumpPending s ∧ !inHoldup s then
      match s.ras.dumpHeld with
      | some d => bump (putSlot s (dumpSlotFor s) { state := 1, dump := some d }) Reg.RAS_FATAL 1
      | none => s
    else s)

/-! SRM_WINDOW_END (R37, R38) -/

/-- The mode of a window: 0 idle, 1 multiply, 2 lookup, 3 mixed. -/
def windowMode (c : Copse) : Nat :=
  if c.winSteps = 0 then 0 else if c.winMult ∧ c.winLookup then 3 else if c.winMult then 1 else 2

/-- One copse at the end of its stand's window. The ticks it was active are a free value, at least one. -/
def windowEnd (s : State) (k : Nat) : State :=
  let c := getCopse s k
  let base := standBase (k / 16)
  let m := windowMode c
  let ticks := 1 + Config.activeTicks s.fresh % 2 ^ getF s (base + Reg.STAND_SRM_CTL) Fld.STAND_SRM_CTL_window_log2
  let rate := if m = 0 then 0 else min 65535 (c.winSteps * 100 / ticks)
  let a := base + Reg.STAND_SRM_RATE + 4 * (k % 16)
  let s1 := setF (setF { s with fresh := s.fresh + 1 } a Fld.STAND_SRM_RATE_mode m) a Fld.STAND_SRM_RATE_rate rate
  let floor := if m = 1 then getF s (base + Reg.STAND_SRM_FLOOR) Fld.STAND_SRM_FLOOR_floor_mult
    else getF s (base + Reg.STAND_SRM_FLOOR) Fld.STAND_SRM_FLOOR_floor_lookup
  let compared := m == 1 || (m == 2 && !c.winShort)
  let s2 := updCopse s1 k fun c => { c with winSteps := 0, winMult := false, winLookup := false, winShort := false }
  if compared ∧ rate < floor ∧ getF s (base + Reg.STAND_SRM_CTL) Fld.STAND_SRM_CTL_floor_evt_en = 1 then
    post s2 base 0x0802 0 (pathCode (copsePage k)) (argPair rate m)
  else s2

def execSrmWindowEnd (stand : Nat) (s : State) : Host.Outcome State Fault Refusal :=
  .next (if stand < 8 ∧ engineOn s ∧ standPresent s stand then (List.range 16).foldl (fun s i => windowEnd s (16 * stand + i)) s else s)

end Sys2Proof.Machine
end

