-- ==== Sys2Proof/Machine/RegWrite.lean ====
section
/-! DEFINITION. What a register write does, register by register, and the commands that are register accesses (R7 to R11,
R46, R117, R437, R440, R455, R487, R501, R502, R522 to R532, R539, R543 to R549). -/

namespace Sys2Proof.Machine

/-! The quota page (R543) -/

/-- Take the snapshot of the selected partition and tier. -/
def quotaSnapshot (s : State) : State :=
  let p := bitsOf (regGet s Reg.QUOTA_SEL).toNat 11 0
  let t := getF s Reg.QUOTA_SEL Fld.QUOTA_SEL_tier
  let q := getPart s p
  let at0 := fun (l : List Nat) => if aHas s.life p then listAt l t else 0
  let exceeded := if aHas s.life p then (((List.range 8).filter (overQuota q)).map (2 ^ ·)).sum else 0
  setReg (setPair (setPair (setPair s Reg.QUOTA_LIMIT_LO (at0 q.quota)) Reg.QUOTA_CHARGE_LO (at0 q.charge)) Reg.QUOTA_PEAK_LO (at0 q.peak))
    Reg.QUOTA_OVER (BitVec.ofNat 32 exceeded)

def writeQuotaSel (s : State) (v : Word) : State := quotaSnapshot (setReg s Reg.QUOTA_SEL (v &&& 0x00070FFF))

/-- The peak of the selected pair becomes its present charge. -/
def clearPeak (s : State) : State :=
  let p := bitsOf (regGet s Reg.QUOTA_SEL).toNat 11 0
  let t := getF s Reg.QUOTA_SEL Fld.QUOTA_SEL_tier
  if aHas s.parts p then updPart s p fun q => { q with peak := q.peak.set t (listAt q.charge t) } else s

def writeQuotaCtl (s : State) (v : Word) : State :=
  if bitOf v.toNat 1 then quotaSnapshot (clearPeak s) else if bitOf v.toNat 0 then quotaSnapshot s else s

/-! The dispatcher, dump and management pages (R539, R544 to R547) -/

/-- Reserve bits of copses of absent or failed stands ignore writes. -/
def writeReserve (s : State) (n : Nat) (v : Word) : State :=
  let keep := ((List.range 32).filter fun b => standPresent s ((32 * n + b) / 16) && bitOf v.toNat b).map (2 ^ ·)
  setReg s (Reg.DSP_RESERVE + 4 * n) (BitVec.ofNat 32 keep.sum)

/-- The scratch window: the store in DUMP_WIN_HI and the length are checked, and that the window starts on 64 KiB. -/
def writeDumpWin (s : State) (a : Nat) (v : Word) : State :=
  if a = Reg.DUMP_WIN_HI then
    let low := (regGet s Reg.DUMP_WIN_LO).toNat % 65536
    if List.contains [0, 1, 2, 3, 6] (v.toNat / 2 ^ 26) ∧ low = 0 then setReg s a v else refuse s a v
  else if a = Reg.DUMP_WIN_LEN then
    if bitsOf v.toNat 14 0 > 16384 then refuse s a v else setReg s a (v &&& 0x7FFF)
  else setReg s a v

/-- MGMT_CFG: the bus mode for the next cold start; the address changes once no message is in transfer. A write from the
sideband is itself part of one. -/
def writeMgmtCfg (s : State) (r : Requester) (v : Word) : State :=
  let s1 := setF s Reg.MGMT_CFG Fld.MGMT_CFG_i3c (bitsOf v.toNat 31 31)
  if r = .sideband then { s1 with mgmt := { s1.mgmt with smbAddrWaiting := some (bitsOf v.toNat 6 0) } }
  else setF s1 Reg.MGMT_CFG Fld.MGMT_CFG_smb_addr (bitsOf v.toNat 6 0)

/-- The message has ended: a waiting address takes effect. -/
def endMessage (s : State) : State :=
  match s.mgmt.smbAddrWaiting with
  | some x => setF { s with mgmt := { s.mgmt with smbAddrWaiting := none } } Reg.MGMT_CFG Fld.MGMT_CFG_smb_addr x
  | none => s

/-! The debug page (R437, R548, R549) -/

/-- DBG_REQ_CFG.host is written from the sideband and JTAG only. -/
def writeReqCfg (s : State) (r : Requester) (v : Word) : State :=
  if r = .host then refuse s Reg.DBG_REQ_CFG v else setF s Reg.DBG_REQ_CFG Fld.DBG_REQ_CFG_host (bitsOf v.toNat 0 0)

/-- The answer of a debug read in its registers. -/
def showDebug (s : State) (l : Option DebugLine) : State :=
  let (res, owner, bytes) := match l with | some d => (d.result, d.owner, d.bytes) | none => (6, 0, [])
  let data := if res ≥ 4 then [] else bytes
  let s1 := (List.range 16).foldl (fun s n => setReg s (Reg.DBG_MEM_DATA + 4 * n) (BitVec.ofNat 32 (leAt data (4 * n) 4))) s
  let s2 := setReg s1 Reg.DBG_MEM_STAT (BitVec.ofNat 32 (res * 2 ^ 29 + owner * 2 ^ 16))
  if res = 3 ∨ res = 4 then bump s2 Reg.SEC_DBG_READS 1 else s2

/-- DBG_MEM_CTL: kind is stored, go reads one line. -/
def writeMemCtl (s : State) (v : Word) : State :=
  let s1 := setF s Reg.DBG_MEM_CTL Fld.DBG_MEM_CTL_kind (bitsOf v.toNat 30 30)
  if bitOf v.toNat 31 then showDebug s1 (debugLine s1 (bitOf v.toNat 30) (getPair s1 Reg.DBG_MEM_ADDR_LO)) else s1

/-! PART_CFG (R9, R440) -/

/-- PART_CFG is a field of the selected partition while it is not sealed. -/
def writePartCfg (s : State) (v : Word) : State :=
  let p := getF s Reg.PART_SEL Fld.PART_SEL_partition
  match partState s p with
  | some .created => updPart s p fun q => { q with cfg := v.toNat % 8 }
  | some .operator => updPart s p fun q => { q with cfg := v.toNat % 8 }
  | _ => refuse s Reg.PART_CFG v

/-! Power and forest (R455, R487) -/

def writePwrCtl (s : State) (v : Word) : State :=
  let s1 := if bitOf v.toNat 28 then scanEnable s else s
  let s2 := if bitOf v.toNat 29 then safeExit s1 else s1
  if bitOf v.toNat 30 then coldRequest s2 else if bitOf v.toNat 31 then beginWarm s2 else s2

/-- PWR_CAP with the non-core power that the manager measures (R485). -/
def writePwrCap (s : State) (p : PageInst) (v : Word) (nonCore : Nat) : State :=
  let s1 := writeFields s p Reg.PWR_CAP (fieldsAt Reg.PWR_CAP) v
  if getF s1 Reg.PWR_CAP Fld.PWR_CAP_cap_w = getF s Reg.PWR_CAP Fld.PWR_CAP_cap_w ∨ !ready s1 ∨ s1.power.ps ≥ 2 then s1
  else applyCap s1 nonCore

/-- The reduction wait budget is less than the day limit (R455). -/
def writeRedCfg (s : State) (v : Word) : State :=
  let t := limitOf s pgDispatcher
  if v.toNat * 100 < t then setReg s Reg.FOREST_RED_CFG v
  else post s pgForest 0x0002 0 v.toNat ((t - 1) / 100)

/-! ECC test (R501, R502) -/

/-- Result and syndrome of a test operation. -/
def ecctStat (s : State) (r syn : Nat) : State := setReg s Reg.RAS_ECCT_STAT (BitVec.ofNat 32 (r * 2 ^ 29 + syn))

/-- Recovery memory is a target while it is not in use. -/
def recoveryLine (s : State) (c : Nat) : Bool :=
  locStore c == 8 && locStand c == 0x1F && bitsOf c 52 45 == 0 && bitsOf c 42 40 == 0 && decide (locOff c < 2 ^ 35) && c % 64 == 0
    && getF s Reg.RECOV_STAT Fld.RECOV_STAT_use == 0

/-- A line that test operations may reach: unallocated or owned by partition 0, outside the map and the write buffer. -/
def ecctTarget (s : State) (c : Nat) : Bool :=
  recoveryLine s c || (codeOk s c && (mapLineNo c).isNone && (bufferSlot c).isNone
    && (match locOwner s.mem (keyOfCode c) with | some (p, live, _) => p == 0 || !live | none => true))

def refuseTest (s : State) (v : Word) : State := refuse (ecctStat s 5 0) Reg.RAS_ECCT_CTL v

def testKey (s : State) : Nat := keyOfCode (getPair s Reg.RAS_ECCT_ADDR_LO)

/-- The store encrypts its lines (R179). -/
def encrypts (key : Nat) : Bool := locStore key == 3 || locStore key == 8

/-- A line as its store holds it: data and check bytes. -/
def storedLine (s : State) (key : Nat) : List Byte × List Byte :=
  match aGet? s.mem.raw key with
  | some r => (r.data, r.check)
  | none =>
    if isPoisoned s.mem key then (zeros 64, sub (Config.checkBytes (codeOfKey key + 2 ^ 64) (zeros 64)) 0 8)
    else
      let plain := memRead s.mem key 64
      let d := if encrypts key then sub (Config.mediaCipher (locStackNo key) (codeOfKey key) plain) 0 64 else plain
      (d, sub (Config.checkBytes (codeOfKey key) d) 0 8)

/-- Put data and check bytes into the test registers. -/
def showLineRegs (s : State) (d c : List Byte) : State :=
  let s1 := (List.range 16).foldl (fun s n => setReg s (Reg.RAS_ECCT_DATA + 4 * n) (BitVec.ofNat 32 (leAt d (4 * n) 4))) s
  setPair s1 Reg.RAS_ECCT_CHK_LO (leAt c 0 8)

/-- What the line then reads as: on chip the data, in an encrypting store what the port decodes. -/
def plainOf (key : Nat) (d c : List Byte) : List Byte :=
  if encrypts key then sub (Config.mediaPlain (codeOfKey key) d c) 0 64 else d

/-- Store data and check bytes as given. -/
def putRaw (s : State) (key : Nat) (d c : List Byte) : State :=
  let m := s.mem
  { s with mem := { m with bytes := bWrite m.bytes key (plainOf key d c)
                           poison := m.poison.filter (· != key)
                           raw := aPut m.raw key ⟨d, c⟩ } }

def ecctWrite (s : State) : State :=
  let d := (List.range 16).flatMap fun n => toLe 4 (regGet s (Reg.RAS_ECCT_DATA + 4 * n)).toNat
  ecctStat (putRaw s (testKey s) d (toLe 8 (getPair s Reg.RAS_ECCT_CHK_LO))) 2 0

def ecctRead (s : State) : State := let (d, c) := storedLine s (testKey s); ecctStat (showLineRegs s d c) 2 0

/-- A checked read: a corrected line is written back, an uncorrectable one poisoned. -/
def ecctCheck (s : State) (found : EccResult) : State :=
  let key := testKey s
  let (d, c) := storedLine s key
  if (aGet? s.mem.raw key).isNone ∧ isPoisoned s.mem key then ecctStat (showLineRegs s (zeros 64) c) 6 0
  else match found with
    | .clean => ecctStat (showLineRegs s d c) 2 0
    | .corrected syn =>
      let d1 := if (aGet? s.mem.raw key).isSome then sub (Config.corrected (codeOfKey key) d c) 0 64 else d
      let c1 := sub (Config.checkBytes (codeOfKey key) d1) 0 8
      let s1 := if (aGet? s.mem.raw key).isSome then
          let m := s.mem
          { s with mem := { m with bytes := bWrite m.bytes key (plainOf key d1 c1), raw := aDel m.raw key } }
        else s
      correctable (ecctStat (showLineRegs s1 d1 c1) 3 syn.toNat) key true
    | .uncorrectable syn => uncorrectable (ecctStat (showLineRegs s (zeros 64) c) 4 syn.toNat) key true

/-- RAS_ECCT_CTL: op is stored; go runs it, and reads 0 again once it has ended. -/
def writeEcctCtl (s : State) (v : Word) (found : EccResult) : State :=
  let op := bitsOf v.toNat 31 30
  let s1 := setF s Reg.RAS_ECCT_CTL Fld.RAS_ECCT_CTL_op op
  if !bitOf v.toNat 29 then s1
  else if op = 3 ∨ !ecctTarget s1 (getPair s1 Reg.RAS_ECCT_ADDR_LO) then refuseTest s1 v
  else if op = 0 then ecctWrite s1 else if op = 1 then ecctRead s1 else ecctCheck s1 found

/-! Every register -/

/-- An operand that a write through BAR2 does not carry: free. -/
def freeOperand (s : State) (i : Nat) : Nat := Config.operand s.fresh i

def spend (s : State) : State := { s with fresh := s.fresh + 1 }

/-- What a checked read that a plain write starts finds: free. -/
def freeFound (s : State) : EccResult :=
  let x := freeOperand s 0
  if x % 3 = 0 then .clean else if x % 3 = 1 then .corrected (BitVec.ofNat 16 (x / 3)) else .uncorrectable (BitVec.ofNat 16 (x / 3))

/-- CH_RAW_CMD through BAR2: the operation, with what the die answers free. -/
def writeRawCmd (s : State) (r : Requester) (p : PageInst) (v : Word) : State :=
  let ch : ChanPath := ⟨p.stand, p.chan⟩
  let n := freeOperand s 0
  let failed := freeOperand s 1 % 2 == 1
  let op := bitsOf v.toNat 31 30
  let s1 := spend s
  if op = 0 then rawCommand s1 r ch v 0 fun s => runRawRead s ch.index v.toNat n
  else if op = 1 then
    rawCommand s1 r ch v 1 fun s => runRawProgram s ch.index v.toNat ((List.range 73728).map fun i => BitVec.ofNat 8 (freeOperand s1 (2 + i))) failed
  else if op = 2 then rawCommand s1 r ch v 2 fun s => runRawErase s ch.index v.toNat failed
  else setF s1 (chanPage ch.index + Reg.CH_RAW_CMD) Fld.CH_RAW_CMD_op 3

/-- TBL_HOT_CTL: the interval of the selected table, then clear, then apply. -/
def writeHotCtl (s : State) (v : Word) : State :=
  let s1 := updTable s (selKey s) fun t => { t with interval := bitsOf v.toNat 15 0 }
  let s2 := if bitOf v.toNat 30 then clearStaged s1 else s1
  if bitOf v.toNat 31 then refreshHot s2 (selKey s2) else s2

/-- COMMONS_MODEL_CTL: unseal, then measure. -/
def writeModelCtl (s : State) (v : Word) : State :=
  let s1 := if bitOf v.toNat 1 then unsealModel s v else s
  if bitOf v.toNat 0 then measureModel s1 v else s1

def writeHub (s : State) (r : Requester) (p : PageInst) (a : Nat) (v : Word) : State :=
  let plain := writeFields s p a (fieldsAt a) v
  if a = Reg.QUOTA_SEL then writeQuotaSel s v
  else if a = Reg.QUOTA_CTL then writeQuotaCtl s v
  else if Reg.DSP_RESERVE ≤ a ∧ a < Reg.DSP_RESERVE + 16 then writeReserve s ((a - Reg.DSP_RESERVE) / 4) v
  else if a = Reg.DUMP_WIN_LO ∨ a = Reg.DUMP_WIN_HI ∨ a = Reg.DUMP_WIN_LEN then writeDumpWin s a v
  else if a = Reg.MGMT_CFG then writeMgmtCfg s r v
  else if a = Reg.DBG_REQ_CFG then writeReqCfg s r v
  else if a = Reg.DBG_MEM_CTL then writeMemCtl s v
  else if a = Reg.COMMONS_MODEL_CTL then writeModelCtl s v
  else if a = Reg.COMMONS_IDX_ALM then writeIdxAlm s v
  else if a = Reg.COMMONS_QRY_ALM then writeQryAlm s v
  else if a = Reg.COMMONS_IDX_CFG then writeIdxCfg s v
  else if a = Reg.COMMONS_QRY_CFG then writeQryCfg s v
  else if a = Reg.TBL_HOT_CTL then writeHotCtl s v
  else if a = Reg.TBL_HOT_ROW then stageRow s v
  else if a = Reg.PART_CFG then writePartCfg s v
  else if a = Reg.PWR_CTL then writePwrCtl s v
  else if a = Reg.PWR_CAP then writePwrCap (spend s) p v (Config.nonCoreWatts s.fresh)
  else if a = Reg.FOREST_RED_CFG then writeRedCfg s v
  else if a = Reg.RAS_ECCT_CTL then writeEcctCtl (spend s) v (freeFound s)
  else plain

def writeBlock (s : State) (r : Requester) (p : PageInst) (a : Nat) (v : Word) : State :=
  let off := a % 4096
  if p.kind = .glade ∧ off = Reg.GLADE_SCR_CFG then writeWindow s (4 * p.stand + p.glade) v
  else if p.kind = .channel ∧ off = Reg.CH_SUSP_CFG then writeSusp s a v
  else if p.kind = .channel ∧ off = Reg.CH_RAW_CMD then writeRawCmd s r p v
  else if p.kind = .copse1 ∧ off = Reg.COPSE_HEALTH_CTL then
    (if bitOf v.toNat 0 then setF s (a - off + Reg.COPSE_HEALTH) Fld.COPSE_HEALTH_suspect 0 else s)
  else writeFields s p a (fieldsAt a) v

/-- A write of a register (R7). -/
def writeReg (s : State) (r : Requester) (a : Nat) (v : Word) : State :=
  reach s r a v fun p =>
    let off := a % 4096
    let page := a / 4096 * 4096
    if off = Reg.BLK_CTL then (if bitOf v.toNat 1 then clearErrors s page else s)
    else if off = Reg.EVT_CAUSE then clearCause s page v
    else if off = Reg.EVT_FORCE then forceEvents s page v
    else if off = Reg.TMO_LIMIT then (if p.kind.tmo.isSome then writeLimit s p a v else s)
    else if off < 0x40 then writeFields s p a (fieldsAt a) v
    else if p.stand = 0x1F then writeHub s r p a v
    else writeBlock s r p a v

/-! The commands -/

def execBar2RegisterWrite (r : Requester) (offset : Nat) (value : Word) (s : State) : Host.Outcome State Fault Refusal :=
  .next (writeReg s r offset value)

/-- A read of an _LO register keeps its _HI for the path (R524). -/
def execPairedLoRead (r : Requester) (offset : Nat) (s : State) : Host.Outcome State Fault Refusal := .next (readBy s r offset).1

def execTmoLimitWrite (r : Requester) (offset : Nat) (value : Word) (s : State) : Host.Outcome State Fault Refusal :=
  .next (if offset % 4096 = Reg.TMO_LIMIT then writeReg s r offset value else s)

def execCopseHealthRelease (r : Requester) (p : CopsePath) (s : State) : Host.Outcome State Fault Refusal :=
  .next (if p.ok then writeReg s r (copsePage1 p.index + Reg.COPSE_HEALTH_CTL) 1 else s)

/-- The injection is armed with the cell and the bit of the word written. -/
def execCopseChkInjectArm (r : Requester) (p : CopsePath) (value : Word) (s : State) : Host.Outcome State Fault Refusal :=
  .next (if p.ok then writeReg s r (copsePage1 p.index + Reg.COPSE_CHK_INJECT) (value ||| 0x80000000) else s)

def execWarmReq (r : Requester) (s : State) : Host.Outcome State Fault Refusal := .next (writeReg s r Reg.PWR_CTL 0x80000000)
def execColdReq (r : Requester) (s : State) : Host.Outcome State Fault Refusal := .next (writeReg s r Reg.PWR_CTL 0x40000000)
def execSafeExit (r : Requester) (s : State) : Host.Outcome State Fault Refusal := .next (writeReg s r Reg.PWR_CTL 0x20000000)
def execScanEn (r : Requester) (s : State) : Host.Outcome State Fault Refusal := .next (writeReg s r Reg.PWR_CTL 0x10000000)

def execPwrCapWrite (r : Requester) (value : Word) (nonCoreWatts : Nat) (s : State) : Host.Outcome State Fault Refusal :=
  .next (reach s r Reg.PWR_CAP value fun p => writePwrCap s p value nonCoreWatts)

def execEcctRawWrite (r : Requester) (s : State) : Host.Outcome State Fault Refusal :=
  .next (reach s r Reg.RAS_ECCT_CTL 0x20000000 fun _ => writeEcctCtl s 0x20000000 .clean)

def execEcctRawRead (r : Requester) (s : State) : Host.Outcome State Fault Refusal :=
  .next (reach s r Reg.RAS_ECCT_CTL 0x60000000 fun _ => writeEcctCtl s 0x60000000 .clean)

def execEcctCheckedRead (r : Requester) (found : EccResult) (s : State) : Host.Outcome State Fault Refusal :=
  .next (reach s r Reg.RAS_ECCT_CTL 0xA0000000 fun _ => writeEcctCtl s 0xA0000000 found)

def execDbgMemRead (r : Requester) (byLocation : Bool) (s : State) : Host.Outcome State Fault Refusal :=
  .next (writeReg s r Reg.DBG_MEM_CTL (if byLocation then 0xC0000000 else 0x80000000))

def execQuotaSelWrite (r : Requester) (value : Word) (s : State) : Host.Outcome State Fault Refusal :=
  .next (writeReg s r Reg.QUOTA_SEL value)

def execQuotaSnap (r : Requester) (s : State) : Host.Outcome State Fault Refusal := .next (writeReg s r Reg.QUOTA_CTL 1)
def execQuotaPeakClr (r : Requester) (s : State) : Host.Outcome State Fault Refusal := .next (writeReg s r Reg.QUOTA_CTL 2)

def execErrClr (r : Requester) (page : Nat) (s : State) : Host.Outcome State Fault Refusal :=
  .next (writeReg s r (page / 4096 * 4096 + Reg.BLK_CTL) 2)

def execEvtCauseClear (r : Requester) (page : Nat) (value : Word) (s : State) : Host.Outcome State Fault Refusal :=
  .next (writeReg s r (page / 4096 * 4096 + Reg.EVT_CAUSE) value)

def execEvtForce (r : Requester) (page : Nat) (value : Word) (s : State) : Host.Outcome State Fault Refusal :=
  .next (writeReg s r (page / 4096 * 4096 + Reg.EVT_FORCE) value)

def execDspReserveWrite (r : Requester) (n : Nat) (value : Word) (s : State) : Host.Outcome State Fault Refusal :=
  .next (if n < 4 then writeReg s r (Reg.DSP_RESERVE + 4 * n) value else s)

def execDumpWinWrite (r : Requester) (offset : Nat) (value : Word) (s : State) : Host.Outcome State Fault Refusal :=
  .next (if offset = Reg.DUMP_WIN_LO ∨ offset = Reg.DUMP_WIN_HI ∨ offset = Reg.DUMP_WIN_LEN then writeReg s r offset value else s)

/-- A write of MGMT_CFG; the sideband's message ends with it. -/
def execSmbAddrWrite (r : Requester) (value : Word) (s : State) : Host.Outcome State Fault Refusal :=
  .next (endMessage (writeReg s r Reg.MGMT_CFG value))

def execPartCfgWrite (r : Requester) (value : Word) (s : State) : Host.Outcome State Fault Refusal :=
  .next (writeReg s r Reg.PART_CFG value)

def execDbgReqCfgWrite (r : Requester) (value : Word) (s : State) : Host.Outcome State Fault Refusal :=
  .next (reach s r Reg.DBG_REQ_CFG value fun _ => writeReqCfg s r value)

/-! The sideband (R546, R547) -/

/-- A management message is received and answered. -/
def noteMessage (s : State) : State :=
  let s1 := bump (bump s Reg.MGMT_RX 1) Reg.MGMT_TX 1
  { s1 with mgmt := { s1.mgmt with lastMsg := some s.tb } }

def respond (s : State) (status : Nat) (l : List Word) : State :=
  { s with mgmt := { s.mgmt with responses := s.mgmt.responses ++ [(status, l)] } }

/-- Offset and count are in range. -/
def miRange (offset count : Nat) : Bool := offset % 4 == 0 && 1 ≤ count && count ≤ 64 && offset + 4 * count ≤ 0x4000000

/-- Read registers in rising offset on one path. -/
def readMany (r : Requester) : Nat → Nat → State → State × List Word
  | 0, _, s => (s, [])
  | n + 1, a, s =>
    let (s1, v) := readBy s r a
    let (s2, l) := readMany r n (a + 4) s1
    (s2, v :: l)

def writeMany (r : Requester) : List Word → Nat → State → State
  | [], _, s => s
  | v :: l, a, s => writeMany r l (a + 4) (writeReg s r a v)

/-- Invalid Field of a management response (NVMe-MI: Invalid Parameter is 04h). -/
def miInvalid : Nat := 0x04

def execNvmeMiRegisterRead (offset count : Nat) (s : State) : Host.Outcome State Fault Refusal :=
  .next (endMessage (
    let s1 := noteMessage s
    if miRange offset count then let (s2, l) := readMany .sideband count offset s1; respond s2 0 l else respond s1 miInvalid []))

def execNvmeMiRegisterWrite (offset : Nat) (values : List Word) (s : State) : Host.Outcome State Fault Refusal :=
  .next (endMessage (
    let s1 := noteMessage s
    if miRange offset values.length then respond (writeMany .sideband values offset s1) 0 [] else respond s1 miInvalid []))

/-- The bus owner assigns an endpoint ID; 0 and 255 are none (MCTP). -/
def execMctpSetEndpointId (eid : Nat) (s : State) : Host.Outcome State Fault Refusal :=
  .next (
    let s1 := noteMessage s
    if 1 ≤ eid ∧ eid ≤ 254 then setF (setF s1 Reg.MGMT_CFG Fld.MGMT_CFG_eid eid) Reg.MGMT_STAT Fld.MGMT_STAT_eid_valid 1 else s1)

end Sys2Proof.Machine
end

