-- ==== Sys2Proof/Machine/HostLink.lean ====
section
/-! DEFINITION. The doorbells, the fetch, the coalescing of interrupts, the queue engine's limit and the TRNG's tests (R50,
R302, R372, R403, R412, R521, R537). -/

namespace Sys2Proof.Machine

/-! DOORBELL_WRITE, CQ_HEAD_DOORBELL_WRITE (R403, R521) -/

/-- A doorbell of a queue that does not exist, and a value that it may not take (NVMe). -/
def badDoorbell (s : State) : State := aen s 0 0
def badDoorbellValue (s : State) : State := aen s 0 1

/-- Entries by which a queue index moves on. -/
def ahead (size oldIdx newIdx : Nat) : Nat := (newIdx + size - oldIdx) % size

/-- The tail may move there: within the queue, on, and not past its head. -/
def tailOk (q : SubQueue) (tail : Nat) : Bool :=
  decide (tail < q.size) && tail != q.tail && decide (ahead q.size q.head q.tail + ahead q.size q.tail tail < q.size)

/-- A doorbell of an I/O queue ends a low-power state, or abandons the entry to one (R403). -/
def doorbellWakes (s : State) : State :=
  let s1 := wakeUp s
  match s1.power.wanted with
  | some n => if n ≥ 2 then { s1 with power := { s1.power with wanted := none } } else s1
  | none => s1

def execDoorbellWrite (queue tail : Nat) (s : State) : Host.Outcome State Fault Refusal :=
  .next (
    if !serving s then s
    else match aGet? s.host.sqs queue with
    | none => badDoorbell s
    | some q =>
      if !tailOk q tail then badDoorbellValue s
      else
        let s1 := if queue = 0 then s else doorbellWakes s
        { s1 with host := { s1.host with sqs := aPut s1.host.sqs queue { q with tail := tail } } })

/-- Post the completions that waited for room in a completion queue. -/
def postWaiting (s : State) (cq : Nat) : State :=
  let mine := fun (c : Completion) => (match aGet? s.host.sqs c.sqid with | some q => q.cqid | none => 0) == cq
  let h := { s.host with waitingCq := s.host.waitingCq.filter fun c => !mine c }
  (s.host.waitingCq.filter mine).foldl postCompletion { s with host := h }

def execCqHeadDoorbellWrite (queue head : Nat) (s : State) : Host.Outcome State Fault Refusal :=
  .next (
    if !serving s then s
    else match aGet? s.host.cqs queue with
    | none => badDoorbell s
    | some q =>
      if head ≥ q.size ∨ head = q.head ∨ ahead q.size q.head head > q.level then badDoorbellValue s
      else postWaiting { s with host := { s.host with cqs := aPut s.host.cqs queue { q with head := head } } } queue)

/-! COMMAND_FETCH (R372, R373, R389, R395) -/

/-- The forms of the commands that have several (R378, R382, R385): none of the listed ones is a reserved value (R11). -/
def reservedForm (admin : Bool) (op : Nat) (c : Cmd) : Bool :=
  if admin then
    (if op = 0xC7 then c.form = 0 ∨ c.form > 5
     else if op = 0xC9 then decide (c.form > 1)
     else if op = 0xCC ∨ op = 0xD1 then decide (c.form > 2)
     else false)
  else if op = 0x81 then decide (c.form > 1)
  else if op = 0x8D then decide (c.form > 6)
  else if op = 0x8F then decide (c.form > 10)
  else false

/-- The queue engine fetches the next entry of a submission queue. A reserved form ends it at once: no other command does
anything with it. -/
def fetchNext (s : State) (queue opcode : Nat) (c : Cmd) : State :=
  match aGet? s.host.sqs queue with
  | none => s
  | some q =>
    if !canFetch s queue ∨ c.sqid ≠ queue ∨ q.head = q.tail ∨ (findOut s queue c.cid).isSome then s
    else
      let s1 := fetchCmd s c opcode
      if reservedForm (queue == 0) opcode c then completeAt s1 queue c.cid (replySt stInvalidField) else s1

def execCommandFetch (queue opcode : Nat) (c : Cmd) (s : State) : Host.Outcome State Fault Refusal :=
  .next (fetchNext s queue opcode c)

/-! INTERRUPT_COALESCING_TIMEOUT (R372) -/

def execInterruptCoalescingTimeout (vector : Nat) (s : State) : Host.Outcome State Fault Refusal :=
  .next (
    if s.host.aggregating.contains vector then
      { s with host := { s.host with
          aggregating := s.host.aggregating.filter (· != vector)
          msix := s.host.msix ++ [vector] } }
    else s)

/-! BLOCK_COMMAND_TIMEOUT (R50, R302, R368, R537) -/

/-- The queue engine's limit is over a search: it stops expanding, and answers from what it has (R302). -/
def limitSearch (s : State) (id : Nat) : State :=
  let n := (accessesOf s 2 id).length
  deliverAnswer (haltSearch (bump s Reg.QE_LATE n) id) id (some (if n > 0 then stNested else stPartial))

/-- A host read whose limit expired: its media accesses are cancelled (R49). -/
def limitRead (s : State) (id : Nat) (w : ReadWait) : State :=
  let s1 := noteRead (bump s Reg.QE_LATE w.waits.length) w.sqid w.cid
  let s2 := orphanAccess s1 fun a => a.asker == 0 && a.waiter == id
  completeAt { s2 with ftl := { s2.ftl with reads := aDel s2.ftl.reads id } } w.sqid w.cid (replySt stNested)

/-- What the limit ends: a gang's STEP, a search, a host read, or a command that waits with no operation below it. The
limit of VZ-RUN is the dispatcher's, and VZ-SEASON and VZ-LOOKUP that run a job or close a season have none here. -/
def limitCommand (s : State) (sqid cid : Nat) : State :=
  let mine := fun (a b : Nat) => a == sqid && b == cid
  match s.gangs.find? fun e => mine e.2.sqid e.2.cid with
  | some e => endGang s e.1 stPartial
  | none =>
    match s.searches.find? fun e => e.2.peerOf.isNone && mine e.2.sqid e.2.cid with
    | some e => limitSearch s e.1
    | none =>
      match s.ftl.reads.find? fun e => mine e.2.sqid e.2.cid with
      | some e => limitRead s e.1 e.2
      | none => abortAt s sqid cid stPartial

def execBlockCommandTimeout (sqid cid : Nat) (s : State) : Host.Outcome State Fault Refusal :=
  .next (
    match findOut s sqid cid with
    | none => s
    | some o =>
      let elsewhere := o.opcode == 0x8C || s.jobs.any fun e => e.2.command && e.2.sqid == sqid && e.2.cid == cid
      if o.admin ∨ !o.started ∨ elsewhere ∨ !serving s then s else limitCommand s sqid cid)

/-! TRNG_TEST_FAILURE, TRNG_RETEST (R412) -/

def execTrngTestFailure (s : State) : Host.Outcome State Fault Refusal :=
  .next (setF s Reg.SEC_STAT Fld.SEC_STAT_trng 2)

def execTrngRetest (healthy : Bool) (s : State) : Host.Outcome State Fault Refusal :=
  .next (if trngOk s then s else setF s Reg.SEC_STAT Fld.SEC_STAT_trng (if healthy then 1 else 2))

end Sys2Proof.Machine
end

