-- ==== Sys2Proof/Machine/Spdm.lean ====
section
/-! DEFINITION. The SPDM responder, the IDE streams and the TDISP interface (R429 to R432). The codes of the answers are
those of SPDM 1.3, IDE_KM and TDISP (PRESUMED); what an answer carries beside them is what the spec names. -/

namespace Sys2Proof.Machine

/-! Answers -/

def sendSpdm (s : State) (l : List Byte) : State := { s with sec := { s.sec with spdmAnswers := s.sec.spdmAnswers ++ [l] } }

/-- An answer: version 1.3, response code, two parameters, body. -/
def spdmAns (s : State) (code p1 p2 : Nat) (body : List Byte) : State :=
  sendSpdm s ([0x13#8] ++ toLe 1 code ++ toLe 1 p1 ++ toLe 1 p2 ++ body)

def spdmError (s : State) (code : Nat) : State := spdmAns s 0x7F code 0 []
def errRequest : Nat := 1
def errSession : Nat := 2
def errOrder : Nat := 4
def errUnspecified : Nat := 5
def errDecrypt : Nat := 6
def errSessions : Nat := 0x0A

/-- The responder answers where the function answers configuration requests, and its DOE mailbox with it (R429, R474). -/
def spdmUp (s : State) : Bool := s.host.cfgReady && !s.ras.halted

def whenUp (s : State) (f : State → State) : Host.Outcome State Fault Refusal := .next (if spdmUp s then f s else s)

/-- A request that the negotiation must precede. -/
def afterNeg (s : State) (f : State → State) : Host.Outcome State Fault Refusal :=
  whenUp s fun s => if s.sec.negotiated = 3 then f s else spdmError s errOrder

def setNeg (s : State) (n : Nat) : State := { s with sec := { s.sec with negotiated := n } }

/-- A fresh value of the TRNG as 32 bytes (R412). -/
def spdmNonce (s : State) : List Byte × State := let (v, s1) := draw s; (toLe 32 v.toNat, s1)

/-- The identity key and the TRNG are there. -/
def canSign (s : State) : Bool := !s.power.keysErased && trngOk s

def withSignature (l : List Byte) : List Byte := l ++ sub (Config.signature l) 0 512

/-! Negotiation (R429) -/

def execGetVersion (s : State) : Host.Outcome State Fault Refusal :=
  whenUp s fun s => sendSpdm (setNeg s 1) ([0x10#8, 0x04#8, 0#8, 0#8, 0#8, 1#8] ++ toLe 2 0x1300)

/-- CERT, CHAL, MEAS with signature, MEAS_FRESH, ENCRYPT, MAC, KEY_EX, HBEAT, KEY_UPD. -/
def spdmCaps : Nat := 0x2 + 0x4 + 0x10 + 0x20 + 0x40 + 0x80 + 0x200 + 0x2000 + 0x4000

def execGetCapabilities (s : State) : Host.Outcome State Fault Refusal :=
  whenUp s fun s => if s.sec.negotiated = 0 then spdmError s errOrder else spdmAns (setNeg s 2) 0x61 0 0 (toLe 4 spdmCaps)

/-- RSASSA-PSS 4096, SHA-512, secp384r1, AES-256-GCM and the SPDM key schedule, each where the requester offers it; the
negotiation is done where it offers all. -/
def execNegotiateAlgorithms (asymOk hashOk dheOk aeadOk : Bool) (s : State) : Host.Outcome State Fault Refusal :=
  whenUp s fun s =>
    if s.sec.negotiated < 2 then spdmError s errOrder
    else
      let bit := fun (ok : Bool) (v : Nat) => if ok then v else 0
      spdmAns (setNeg s (if asymOk ∧ hashOk ∧ dheOk ∧ aeadOk then 3 else 2)) 0x63 0 0
        (toLe 4 (bit asymOk 0x40) ++ toLe 4 (bit hashOk 0x4) ++ toLe 2 (bit dheOk 0x10) ++ toLe 2 (bit aeadOk 0x2) ++ toLe 2 1)

/-! Certificates and measurements (R429, R430) -/

/-- The digest of the certificate chain in slot 0. -/
def chainDigest : List Byte := sha512 (Config.certificateChain 0)

def execGetDigests (s : State) : Host.Outcome State Fault Refusal :=
  afterNeg s fun s => spdmAns s 0x01 0 1 chainDigest

/-- A part of the chain of slot 0: the length given, the length that remains. -/
def execGetCertificate (slot offset length : Nat) (s : State) : Host.Outcome State Fault Refusal :=
  afterNeg s fun s =>
    let chain := Config.certificateChain 0
    if slot ≠ 0 ∨ offset ≥ chain.length then spdmError s errRequest
    else
      let n := min length (chain.length - offset)
      spdmAns s 0x02 0 0 (toLe 2 n ++ toLe 2 (chain.length - offset - n) ++ sub chain offset n)

/-- Digest of the chain, the module's nonce, the signature over both and the requester's nonce. -/
def execChallenge (slot : Nat) (nonce : BitVec 256) (s : State) : Host.Outcome State Fault Refusal :=
  afterNeg s fun s =>
    if slot ≠ 0 then spdmError s errRequest
    else if !canSign s then spdmError s errUnspecified
    else
      let (n, s1) := spdmNonce s
      let head := chainDigest ++ n
      spdmAns s1 0x03 0 1 (head ++ sub (Config.signature (toLe 32 nonce.toNat ++ head)) 0 512)

/-- The security state block (R425). -/
def securityBlock (s : State) : List Byte :=
  toLe 4 (readReg s Reg.SEC_STAT).toNat ++ toLe 4 (readReg s Reg.SEC_DEBUG).toNat ++ toLe 4 (readReg s Reg.SEC_IDE).toNat
    ++ toLe 4 (readReg s Reg.SEC_TDISP).toNat ++ zeros 48

/-- A measurement block: index, value type (bit 7: raw), value. Block 16 is an evidence record, which is counted. -/
def measBlock (s : State) (nonce : List Byte) (i : Nat) : State × List Byte :=
  let blk := fun (ty : Nat) (v : List Byte) =>
    toLe 1 i ++ toLe 1 1 ++ toLe 2 (v.length + 3) ++ toLe 1 ty ++ toLe 2 v.length ++ v
  if i = 1 then (s, blk 0 (sha512 (dieTable s)))
  else if i = 2 then (s, blk 2 (sub (Config.recordDigest 0) 0 64))
  else if i = 3 then (s, blk 4 (sha512 (almManifest s 0)))
  else if i = 4 then (s, blk 4 (modelDigest s))
  else if i = 5 then (s, blk 0x82 (securityBlock s))
  else let (s1, e) := evidenceRecord s 0 2 nonce; (s1, blk 0x84 e)

def measIndexes : List Nat := [1, 2, 3, 4, 5, 16]

/-- The blocks that a request names: all for 0xFF, none for 0, which asks their number only. -/
def measBlocks (s : State) (nonce : List Byte) (l : List Nat) : State × List Byte :=
  l.foldl (fun acc i => let (s1, b) := measBlock acc.1 nonce i; (s1, acc.2 ++ b)) (s, [])

def execGetMeasurements (index : Nat) (nonce : BitVec 256) (s : State) : Host.Outcome State Fault Refusal :=
  afterNeg s fun s =>
    let l := if index = 0 then [] else if index = 255 then measIndexes else if measIndexes.contains index then [index] else [0]
    if l = [0] then spdmError s errRequest
    else if !canSign s then spdmError s errUnspecified
    else
      let (s1, b) := measBlocks s (toLe 32 nonce.toNat) l
      let (n, s2) := spdmNonce s1
      let body := toLe 1 l.length ++ toLe 3 b.length ++ b ++ n
      spdmAns s2 0x60 (if index = 0 then measIndexes.length else 0) 0
        (body ++ sub (Config.signature (toLe 32 nonce.toNat ++ body)) 0 512)

/-! Secure sessions (R429) -/

def findSpdm (s : State) (n : Nat) : Option SpdmSession := s.sec.sessions.find? (·.num == n)

def updSpdm (s : State) (n : Nat) (f : SpdmSession → SpdmSession) : State :=
  { s with sec := { s.sec with sessions := s.sec.sessions.map fun x => if x.num = n then f x else x } }

def dropSpdm (s : State) (n : Nat) : State :=
  { s with sec := { s.sec with sessions := s.sec.sessions.filter fun x => x.num != n } }

/-- The session is established. -/
def spdmOpen (s : State) (n : Nat) : Bool := match findSpdm s n with | some x => x.established | none => false

/-- A message in an established session: it has been heard. -/
def inSpdm (n : Nat) (f : State → State) (s : State) : Host.Outcome State Fault Refusal :=
  afterNeg s fun s => if spdmOpen s n then f (updSpdm s n fun x => { x with lastHeard := s.tb }) else spdmError s errSession

/-- Up to four sessions are open at once. The answer carries the module's half of the session's number and exchange. -/
def execKeyExchange (slot : Nat) (s : State) : Host.Outcome State Fault Refusal :=
  afterNeg s fun s =>
    if slot ≠ 0 then spdmError s errRequest
    else if s.sec.sessions.length ≥ 4 then spdmError s errSessions
    else if !canSign s then spdmError s errUnspecified
    else
      let k := s.sec.nextSpdm
      let x : SpdmSession := { num := k, established := false, epoch := 0, lastHeard := s.tb }
      let head := toLe 2 k ++ sub (Config.exchangeValue 2 s.fresh) 0 96
      let s1 := { s with fresh := s.fresh + 1, sec := { s.sec with sessions := s.sec.sessions ++ [x], nextSpdm := k + 1 } }
      spdmAns s1 0x64 0 0 (withSignature head)

def execSpdmFinish (session : Nat) (verifyOk : Bool) (s : State) : Host.Outcome State Fault Refusal :=
  afterNeg s fun s =>
    match findSpdm s session with
    | none => spdmError s errSession
    | some x =>
      if x.established then spdmError s errOrder
      else if verifyOk then spdmAns (updSpdm s session fun x => { x with established := true, lastHeard := s.tb }) 0x65 0 0 []
      else spdmError (dropSpdm s session) errDecrypt

def execHeartbeat (session : Nat) (s : State) : Host.Outcome State Fault Refusal :=
  inSpdm session (fun s => spdmAns s 0x68 0 0 []) s

def execHeartbeatTimeout (session : Nat) (s : State) : Host.Outcome State Fault Refusal :=
  .next (if spdmOpen s session then dropSpdm s session else s)

def execKeyUpdate (session : Nat) (s : State) : Host.Outcome State Fault Refusal :=
  inSpdm session (fun s => spdmAns (updSpdm s session fun x => { x with epoch := x.epoch + 1 }) 0x69 0 0 []) s

def execEndSession (session : Nat) (s : State) : Host.Outcome State Fault Refusal :=
  inSpdm session (fun s => spdmAns (dropSpdm s session) 0x6C 0 0 []) s

/-! IDE (R431, R440) -/

/-- Streams: 0 the link stream, 1 to 16 the selective ones. -/
def streamState (s : State) (k : Nat) : Nat := aGetD s.sec.streams k 0

/-- Put a stream's state; SEC_IDE shows it. -/
def setStream (s : State) (k v : Nat) : State :=
  let m := if v = 0 then aDel s.sec.streams k else aPut s.sec.streams k v
  let s1 := { s with sec := { s.sec with streams := m } }
  let n := (m.filter fun e => e.1 != 0 && e.2 == 2).length
  setF (setF s1 Reg.SEC_IDE Fld.SEC_IDE_link (aGetD m 0 0)) Reg.SEC_IDE Fld.SEC_IDE_sel_secure n

/-- Programming the keys of a stream that is off makes it keyed; in a secure stream they wait for the next K_SET_GO. -/
def execIdeKmKeyProg (session stream : Nat) (s : State) : Host.Outcome State Fault Refusal :=
  inSpdm session (fun s =>
    if stream > 16 then spdmAns s 0x03 stream 2 []
    else spdmAns (if streamState s stream = 0 then setStream s stream 1 else s) 0x03 stream 0 []) s

def execIdeKmKSetGo (session stream : Nat) (s : State) : Host.Outcome State Fault Refusal :=
  inSpdm session (fun s =>
    if stream > 16 ∨ streamState s stream = 0 then spdmError s errRequest
    else spdmAns (if streamState s stream = 1 then setStream s stream 2 else s) 0x06 stream 0 []) s

def execIdeKmKSetStop (session stream : Nat) (s : State) : Host.Outcome State Fault Refusal :=
  inSpdm session (fun s =>
    if stream > 16 ∨ streamState s stream = 0 then spdmError s errRequest
    else spdmAns (setStream s stream 0) 0x06 stream 0 []) s

/-- A command that moves data to or from the host. -/
def movesData (o : Outstanding) : Bool := o.started && !(o.admin && o.opcode == 0x0C) && !(!o.admin && o.opcode == 0x00)

/-- The stream is insecure, AER holds the error, and the commands whose transfers fail end; which fail is free. -/
def integrityFailure (s : State) (k : Nat) : State :=
  let s1 := setStream s k 3
  let n := getF s1 Reg.SEC_IDE Fld.SEC_IDE_insecure
  let s2 := setF s1 Reg.SEC_IDE Fld.SEC_IDE_insecure (min (n + 1) 0xFFFF)
  let s3 := { s2 with fresh := s2.fresh + 1, sec := { s2.sec with aerInternal := s2.sec.aerInternal + 1 } }
  abortAll s3 (fun o => movesData o && Config.transferFails s2.fresh (o.cmd.sqid * 65536 + o.cmd.cid)) stDataTransfer

def execIdeIntegrityFailure (stream : Nat) (s : State) : Host.Outcome State Fault Refusal :=
  .next (if streamState s stream = 2 then integrityFailure s stream else s)

/-! TDISP (R432) -/

def tdispState (s : State) : Nat := getF s Reg.SEC_TDISP Fld.SEC_TDISP_state
def setTdisp (s : State) (v : Nat) : State := setF s Reg.SEC_TDISP Fld.SEC_TDISP_state v

/-- TDISP's error answer, with its code. -/
def tdispErr (s : State) (code : Nat) : State := spdmAns s 0x7F 0 0 (toLe 4 code)
/-- Invalid interface state. -/
def errInterface : Nat := 4

/-- The bindings are fixed; the answer carries the nonce that START names. -/
def execLockInterfaceRequest (session : Nat) (s : State) : Host.Outcome State Fault Refusal :=
  inSpdm session (fun s =>
    if tdispState s ≠ 0 then tdispErr s errInterface
    else if !trngOk s then spdmError s errUnspecified
    else let (n, s1) := spdmNonce s; spdmAns (setTdisp s1 1) 0x03 0 0 n) s

def execStartInterfaceRequest (session : Nat) (s : State) : Host.Outcome State Fault Refusal :=
  inSpdm session (fun s => if tdispState s = 1 then spdmAns (setTdisp s 2) 0x06 0 0 [] else tdispErr s errInterface) s

/-- A range of the report: which BAR, its 4 KiB pages, flags (bit 0 MSI-X table, bit 1 pending-bit array). -/
def reportRange (bar pages flags : Nat) : List Byte := toLe 4 bar ++ toLe 4 pages ++ toLe 4 flags

/-- BAR0 of 2 MiB and BAR2 of 64 MiB (R371, R432). -/
def interfaceReport : List Byte := toLe 4 2 ++ reportRange 0 512 3 ++ reportRange 2 16384 0

def execGetDeviceInterfaceReport (session : Nat) (s : State) : Host.Outcome State Fault Refusal :=
  inSpdm session (fun s =>
    if tdispState s = 1 ∨ tdispState s = 2 then spdmAns s 0x04 0 0 interfaceReport else tdispErr s errInterface) s

/-- The controller is reset; partitions, sessions, keys and committed data stay. -/
def execStopInterfaceRequest (session : Nat) (s : State) : Host.Outcome State Fault Refusal :=
  inSpdm session (fun s => spdmAns (setTdisp (controllerReset s) 0) 0x07 0 0 []) s

/-- A change of a locked binding in CONFIG_LOCKED or RUN. -/
def execTdispError (s : State) : Host.Outcome State Fault Refusal :=
  .next (if tdispState s = 1 ∨ tdispState s = 2 then setTdisp (controllerReset s) 3 else s)

end Sys2Proof.Machine
end

