-- ==== Sys2Proof/Machine/Dispatch.lean ====
section
/-! DEFINITION. One arm for each command: a direct call of its meaning. -/

namespace Sys2Proof.Machine

def exec (i : Instr) (s : State) : Host.Outcome State Fault Refusal :=
  match i with
  | .partitionCreate c => Sys2Proof.Machine.execPartitionCreate c s
  | .partitionRelease c => Sys2Proof.Machine.execPartitionRelease c s
  | .openSession c pointOk => Sys2Proof.Machine.execOpenSession c pointOk s
  | .finish c proofOk tagOk => Sys2Proof.Machine.execFinish c proofOk tagOk s
  | .sealPartition c o => Sys2Proof.Machine.execSealPartition c o s
  | .key c o => Sys2Proof.Machine.execKey c o s
  | .close c o => Sys2Proof.Machine.execClose c o s
  | .almanacLoad c => Sys2Proof.Machine.execAlmanacLoad c s
  | .almanacUnload c => Sys2Proof.Machine.execAlmanacUnload c s
  | .retireStackPage c => Sys2Proof.Machine.execRetireStackPage c s
  | .retireGladeBank c => Sys2Proof.Machine.execRetireGladeBank c s
  | .retireCopseScratchBank c => Sys2Proof.Machine.execRetireCopseScratchBank c s
  | .bankRetirement g => Sys2Proof.Machine.execBankRetirement g s
  | .quotaSet c => Sys2Proof.Machine.execQuotaSet c s
  | .forestConfigLoad c => Sys2Proof.Machine.execForestConfigLoad c s
  | .forestConfigStatus c => Sys2Proof.Machine.execForestConfigStatus c s
  | .forestConfigRestore c => Sys2Proof.Machine.execForestConfigRestore c s
  | .evidence c => Sys2Proof.Machine.execEvidence c s
  | .identify c => Sys2Proof.Machine.execIdentify c s
  | .getFeatures c => Sys2Proof.Machine.execGetFeatures c s
  | .setFeatures c => Sys2Proof.Machine.execSetFeatures c s
  | .getLogPage c => Sys2Proof.Machine.execGetLogPage c s
  | .createIoSubmissionQueue c => Sys2Proof.Machine.execCreateIoSubmissionQueue c s
  | .createIoCompletionQueue c => Sys2Proof.Machine.execCreateIoCompletionQueue c s
  | .deleteIoSubmissionQueue c => Sys2Proof.Machine.execDeleteIoSubmissionQueue c s
  | .deleteIoCompletionQueue c => Sys2Proof.Machine.execDeleteIoCompletionQueue c s
  | .abort c => Sys2Proof.Machine.execAbort c s
  | .asynchronousEventRequest c => Sys2Proof.Machine.execAsynchronousEventRequest c s
  | .formatNvm c => Sys2Proof.Machine.execFormatNvm c s
  | .sanitize c => Sys2Proof.Machine.execSanitize c s
  | .nvmRead c => Sys2Proof.Machine.execNvmRead c s
  | .nvmWrite c => Sys2Proof.Machine.execNvmWrite c s
  | .flush c => Sys2Proof.Machine.execFlush c s
  | .writeZeroes c => Sys2Proof.Machine.execWriteZeroes c s
  | .datasetManagement c => Sys2Proof.Machine.execDatasetManagement c s
  | .bufferSlotGranted sqid cid => Sys2Proof.Machine.execBufferSlotGranted sqid cid s
  | .vzIngestAppend c o => Sys2Proof.Machine.execVzIngestAppend c o s
  | .vzIngestDelete c o => Sys2Proof.Machine.execVzIngestDelete c o s
  | .vzSearch c o => Sys2Proof.Machine.execVzSearch c o s
  | .vzRun c o => Sys2Proof.Machine.execVzRun c o s
  | .vzProgress c => Sys2Proof.Machine.execVzProgress c s
  | .vzLookup c o => Sys2Proof.Machine.execVzLookup c o s
  | .vzSeason c => Sys2Proof.Machine.execVzSeason c s
  | .seasonTakesEffect partition => Sys2Proof.Machine.execSeasonTakesEffect partition s
  | .versionFlip partition => Sys2Proof.Machine.execVersionFlip partition s
  | .versionFreeing partition => Sys2Proof.Machine.execVersionFreeing partition s
  | .extentAdd c o => Sys2Proof.Machine.execExtentAdd c o s
  | .extentRemove c o => Sys2Proof.Machine.execExtentRemove c o s
  | .tableCreate c o => Sys2Proof.Machine.execTableCreate c o s
  | .tableLoad c o => Sys2Proof.Machine.execTableLoad c o s
  | .tableInstall c o => Sys2Proof.Machine.execTableInstall c o s
  | .tableDelete c o => Sys2Proof.Machine.execTableDelete c o s
  | .tableDiscard c o => Sys2Proof.Machine.execTableDiscard c o s
  | .adapterCreate c o => Sys2Proof.Machine.execAdapterCreate c o s
  | .adapterLoad c o => Sys2Proof.Machine.execAdapterLoad c o s
  | .adapterExport c o => Sys2Proof.Machine.execAdapterExport c o s
  | .adapterDelete c o => Sys2Proof.Machine.execAdapterDelete c o s
  | .reside c o unitsOk => Sys2Proof.Machine.execReside c o unitsOk s
  | .evict c o => Sys2Proof.Machine.execEvict c o s
  | .rowsetCreate c o => Sys2Proof.Machine.execRowsetCreate c o s
  | .rowsetLoad c o => Sys2Proof.Machine.execRowsetLoad c o s
  | .rowsetRead c o => Sys2Proof.Machine.execRowsetRead c o s
  | .rowsetDelete c o => Sys2Proof.Machine.execRowsetDelete c o s
  | .step c tickets => Sys2Proof.Machine.execStep c tickets s
  | .nvmeMiRegisterRead offset count => Sys2Proof.Machine.execNvmeMiRegisterRead offset count s
  | .nvmeMiRegisterWrite offset values => Sys2Proof.Machine.execNvmeMiRegisterWrite offset values s
  | .getMeasurements index nonce => Sys2Proof.Machine.execGetMeasurements index nonce s
  | .getCertificate slot offset length => Sys2Proof.Machine.execGetCertificate slot offset length s
  | .challenge slot nonce => Sys2Proof.Machine.execChallenge slot nonce s
  | .keyExchange slot => Sys2Proof.Machine.execKeyExchange slot s
  | .heartbeat session => Sys2Proof.Machine.execHeartbeat session s
  | .keyUpdate session => Sys2Proof.Machine.execKeyUpdate session s
  | .ideKmKeyProg session stream => Sys2Proof.Machine.execIdeKmKeyProg session stream s
  | .ideIntegrityFailure stream => Sys2Proof.Machine.execIdeIntegrityFailure stream s
  | .lockInterfaceRequest session => Sys2Proof.Machine.execLockInterfaceRequest session s
  | .stopInterfaceRequest session => Sys2Proof.Machine.execStopInterfaceRequest session s
  | .tdispError => Sys2Proof.Machine.execTdispError s
  | .bar2RegisterWrite r offset value => Sys2Proof.Machine.execBar2RegisterWrite r offset value s
  | .pairedLoRead r offset => Sys2Proof.Machine.execPairedLoRead r offset s
  | .doorbellWrite queue tail => Sys2Proof.Machine.execDoorbellWrite queue tail s
  | .commandFetch queue opcode c => Sys2Proof.Machine.execCommandFetch queue opcode c s
  | .copseHealthRelease r p => Sys2Proof.Machine.execCopseHealthRelease r p s
  | .copseChkInjectArm r p value => Sys2Proof.Machine.execCopseChkInjectArm r p value s
  | .tmoLimitWrite r offset value => Sys2Proof.Machine.execTmoLimitWrite r offset value s
  | .chSuspCfgWrite r ch value => Sys2Proof.Machine.execChSuspCfgWrite r ch value s
  | .rawRead r ch value maxBits => Sys2Proof.Machine.execRawRead r ch value maxBits s
  | .rawProgram r ch value data statusFail => Sys2Proof.Machine.execRawProgram r ch value data statusFail s
  | .rawErase r ch value statusFail => Sys2Proof.Machine.execRawErase r ch value statusFail s
  | .migWinReqWrite r g value => Sys2Proof.Machine.execMigWinReqWrite r g value s
  | .migWinChange g => Sys2Proof.Machine.execMigWinChange g s
  | .commonsMeasure r => Sys2Proof.Machine.execCommonsMeasure r s
  | .measurementComplete readOk => Sys2Proof.Machine.execMeasurementComplete readOk s
  | .commonsUnseal r => Sys2Proof.Machine.execCommonsUnseal r s
  | .commonsIdxAlmWrite r value => Sys2Proof.Machine.execCommonsIdxAlmWrite r value s
  | .commonsQryAlmWrite r value => Sys2Proof.Machine.execCommonsQryAlmWrite r value s
  | .commonsIdxCfgWrite r value => Sys2Proof.Machine.execCommonsIdxCfgWrite r value s
  | .commonsQryCfgWrite r value => Sys2Proof.Machine.execCommonsQryCfgWrite r value s
  | .tblHotApply r => Sys2Proof.Machine.execTblHotApply r s
  | .tblHotClear r => Sys2Proof.Machine.execTblHotClear r s
  | .tblHotRowWrite r row => Sys2Proof.Machine.execTblHotRowWrite r row s
  | .warmReq r => Sys2Proof.Machine.execWarmReq r s
  | .coldReq r => Sys2Proof.Machine.execColdReq r s
  | .safeExit r => Sys2Proof.Machine.execSafeExit r s
  | .scanEn r => Sys2Proof.Machine.execScanEn r s
  | .pwrCapWrite r value nonCoreWatts => Sys2Proof.Machine.execPwrCapWrite r value nonCoreWatts s
  | .ecctRawWrite r => Sys2Proof.Machine.execEcctRawWrite r s
  | .ecctRawRead r => Sys2Proof.Machine.execEcctRawRead r s
  | .ecctCheckedRead r found => Sys2Proof.Machine.execEcctCheckedRead r found s
  | .dbgMemRead r byLocation => Sys2Proof.Machine.execDbgMemRead r byLocation s
  | .quotaSelWrite r value => Sys2Proof.Machine.execQuotaSelWrite r value s
  | .quotaSnap r => Sys2Proof.Machine.execQuotaSnap r s
  | .quotaPeakClr r => Sys2Proof.Machine.execQuotaPeakClr r s
  | .errClr r page => Sys2Proof.Machine.execErrClr r page s
  | .evtCauseClear r page value => Sys2Proof.Machine.execEvtCauseClear r page value s
  | .evtForce r page value => Sys2Proof.Machine.execEvtForce r page value s
  | .dspReserveWrite r n value => Sys2Proof.Machine.execDspReserveWrite r n value s
  | .dumpWinWrite r offset value => Sys2Proof.Machine.execDumpWinWrite r offset value s
  | .smbAddrWrite r value => Sys2Proof.Machine.execSmbAddrWrite r value s
  | .partCfgWrite r value => Sys2Proof.Machine.execPartCfgWrite r value s
  | .dbgReqCfgWrite r value => Sys2Proof.Machine.execDbgReqCfgWrite r value s
  | .inputLow => Sys2Proof.Machine.execInputLow s
  | .inputLowClear => Sys2Proof.Machine.execInputLowClear s
  | .inputHigh => Sys2Proof.Machine.execInputHigh s
  | .inputOvervoltage => Sys2Proof.Machine.execInputOvervoltage s
  | .holdup => Sys2Proof.Machine.execHoldup s
  | .holdupComplete inputOk alwaysOnKept => Sys2Proof.Machine.execHoldupComplete inputOk alwaysOnKept s
  | .perstAssert => Sys2Proof.Machine.execPerstAssert s
  | .nvmSubsystemReset => Sys2Proof.Machine.execNvmSubsystemReset s
  | .pwrdisAssert => Sys2Proof.Machine.execPwrdisAssert s
  | .pwrdisRelease => Sys2Proof.Machine.execPwrdisRelease s
  | .refclkLoss => Sys2Proof.Machine.execRefclkLoss s
  | .controllerReset => Sys2Proof.Machine.execControllerReset s
  | .controllerEnable => Sys2Proof.Machine.execControllerEnable s
  | .shutdownNormal => Sys2Proof.Machine.execShutdownNormal s
  | .shutdownAbrupt => Sys2Proof.Machine.execShutdownAbrupt s
  | .cableAttach port healthyLanes => Sys2Proof.Machine.execCableAttach port healthyLanes s
  | .cableRemove port => Sys2Proof.Machine.execCableRemove port s
  | .linkRetrain port uncorrectable healthyLanes => Sys2Proof.Machine.execLinkRetrain port uncorrectable healthyLanes s
  | .brownOut ch => Sys2Proof.Machine.execBrownOut ch s
  | .brownOutExit ch => Sys2Proof.Machine.execBrownOutExit ch s
  | .nandOpTimeout d eraseAgainOk => Sys2Proof.Machine.execNandOpTimeout d eraseAgainOk s
  | .mediaAccessTimeout access => Sys2Proof.Machine.execMediaAccessTimeout access s
  | .blockCommandTimeout sqid cid => Sys2Proof.Machine.execBlockCommandTimeout sqid cid s
  | .dayLimitExpiry job accessRetrying => Sys2Proof.Machine.execDayLimitExpiry job accessRetrying s
  | .copsePassTimeout p => Sys2Proof.Machine.execCopsePassTimeout p s
  | .cancellationStop access success => Sys2Proof.Machine.execCancellationStop access success s
  | .waitBudgetExpiry u => Sys2Proof.Machine.execWaitBudgetExpiry u s
  | .srmWindowEnd stand => Sys2Proof.Machine.execSrmWindowEnd stand s
  | .pendingSessionExpiry partition session => Sys2Proof.Machine.execPendingSessionExpiry partition session s
  | .watchdogFire index => Sys2Proof.Machine.execWatchdogFire index s
  | .trngRetest healthy => Sys2Proof.Machine.execTrngRetest healthy s
  | .zqCalibration ch => Sys2Proof.Machine.execZqCalibration ch s
  | .patrolRead p found segmentReads => Sys2Proof.Machine.execPatrolRead p found segmentReads s
  | .backgroundScan b overThreshold => Sys2Proof.Machine.execBackgroundScan b overThreshold s
  | .suspendHoldExpiry d => Sys2Proof.Machine.execSuspendHoldExpiry d s
  | .apstTransition => Sys2Proof.Machine.execApstTransition s
  | .powerStateEntry ps => Sys2Proof.Machine.execPowerStateEntry ps s
  | .ackFrameSend port peer => Sys2Proof.Machine.execAckFrameSend port peer s
  | .resendTimeout port peer => Sys2Proof.Machine.execResendTimeout port peer s
  | .handshakeRetry port peer => Sys2Proof.Machine.execHandshakeRetry port peer s
  | .fanoutWaitExpiry search => Sys2Proof.Machine.execFanoutWaitExpiry search s
  | .queryBatchStart => Sys2Proof.Machine.execQueryBatchStart s
  | .hotRefreshInterval partition table => Sys2Proof.Machine.execHotRefreshInterval partition table s
  | .thermalThrottleTick stand tj => Sys2Proof.Machine.execThermalThrottleTick stand tj s
  | .thermalTrip stand tj => Sys2Proof.Machine.execThermalTrip stand tj s
  | .powerSample watts underForOneMs => Sys2Proof.Machine.execPowerSample watts underForOneMs s
  | .startLogClear => Sys2Proof.Machine.execStartLogClear s
  | .idleRetentionEntry g bank => Sys2Proof.Machine.execIdleRetentionEntry g bank s
  | .checkpoint => Sys2Proof.Machine.execCheckpoint s
  | .copseStep p => Sys2Proof.Machine.execCopseStep p s
  | .pass u => Sys2Proof.Machine.execPass u s
  | .ctx u => Sys2Proof.Machine.execCtx u s
  | .dawnRelease p => Sys2Proof.Machine.execDawnRelease p s
  | .harv u => Sys2Proof.Machine.execHarv u s
  | .harvComplete p => Sys2Proof.Machine.execHarvComplete p s
  | .move u => Sys2Proof.Machine.execMove u s
  | .moveComplete u => Sys2Proof.Machine.execMoveComplete u s
  | .offloadSlotPrefetch job buffer slot tagOk plain seq => Sys2Proof.Machine.execOffloadSlotPrefetch job buffer slot tagOk plain seq s
  | .gather u => Sys2Proof.Machine.execGather u s
  | .scatter u => Sys2Proof.Machine.execScatter u s
  | .permute u => Sys2Proof.Machine.execPermute u s
  | .returnColumns u => Sys2Proof.Machine.execReturnColumns u s
  | .routeSelect u => Sys2Proof.Machine.execRouteSelect u s
  | .regroup u => Sys2Proof.Machine.execRegroup u s
  | .slotTranspose u => Sys2Proof.Machine.execSlotTranspose u s
  | .vec u => Sys2Proof.Machine.execVec u s
  | .rng u => Sys2Proof.Machine.execRng u s
  | .put u => Sys2Proof.Machine.execPut u s
  | .take u => Sys2Proof.Machine.execTake u s
  | .wait u => Sys2Proof.Machine.execWait u s
  | .fillComplete job buffer => Sys2Proof.Machine.execFillComplete job buffer s
  | .fence u => Sys2Proof.Machine.execFence u s
  | .day u => Sys2Proof.Machine.execDay u s
  | .dayCommit job => Sys2Proof.Machine.execDayCommit job s
  | .dayFaultRestart job cause => Sys2Proof.Machine.execDayFaultRestart job cause s
  | .jobBind job => Sys2Proof.Machine.execJobBind job s
  | .lendCopse p job logical => Sys2Proof.Machine.execLendCopse p job logical s
  | .borrowerYield p => Sys2Proof.Machine.execBorrowerYield p s
  | .nandReadComplete access results gcmOk => Sys2Proof.Machine.execNandReadComplete access results gcmOk s
  | .mediaAccessComplete access channelParityOk crossParityOk => Sys2Proof.Machine.execMediaAccessComplete access channelParityOk crossParityOk s
  | .wordlineProgram ch die group => Sys2Proof.Machine.execWordlineProgram ch die group s
  | .nandProgramComplete d statusFail relocatedFails => Sys2Proof.Machine.execNandProgramComplete d statusFail relocatedFails s
  | .flagLogProgramComplete d => Sys2Proof.Machine.execFlagLogProgramComplete d s
  | .nandEraseComplete d statusFail => Sys2Proof.Machine.execNandEraseComplete d statusFail s
  | .clearRecordDurable d => Sys2Proof.Machine.execClearRecordDurable d s
  | .reclaim => Sys2Proof.Machine.execReclaim s
  | .relocation index => Sys2Proof.Machine.execRelocation index s
  | .wearLevel => Sys2Proof.Machine.execWearLevel s
  | .refresh b => Sys2Proof.Machine.execRefresh b s
  | .standFailure stand cause => Sys2Proof.Machine.execStandFailure stand cause s
  | .mapShareReload => Sys2Proof.Machine.execMapShareReload s
  | .rebuildComplete => Sys2Proof.Machine.execRebuildComplete s
  | .searchDispatch search => Sys2Proof.Machine.execSearchDispatch search s
  | .expansionRound search unreadable => Sys2Proof.Machine.execExpansionRound search unreadable s
  | .exhaustiveScan search unreadable => Sys2Proof.Machine.execExhaustiveScan search unreadable s
  | .searchComplete search => Sys2Proof.Machine.execSearchComplete search s
  | .objectAuthentication partition object tagOk content => Sys2Proof.Machine.execObjectAuthentication partition object tagOk content s
  | .batchFormation => Sys2Proof.Machine.execBatchFormation s
  | .objectEntry partition object => Sys2Proof.Machine.execObjectEntry partition object s
  | .hotRowCopyLanded job table row => Sys2Proof.Machine.execHotRowCopyLanded job table row s
  | .hotRowWritebackLanded job table row => Sys2Proof.Machine.execHotRowWritebackLanded job table row s
  | .reductionMessage peer level tagMatches values maxima => Sys2Proof.Machine.execReductionMessage peer level tagMatches values maxima s
  | .updatePhase step => Sys2Proof.Machine.execUpdatePhase step s
  | .dataFrameReceive port f room => Sys2Proof.Machine.execDataFrameReceive port f room s
  | .ackFrameReceive port f => Sys2Proof.Machine.execAckFrameReceive port f s
  | .nakFrameReceive port f => Sys2Proof.Machine.execNakFrameReceive port f s
  | .hello port peer h => Sys2Proof.Machine.execHello port peer h s
  | .reply port peer h => Sys2Proof.Machine.execReply port peer h s
  | .confirm port peer h => Sys2Proof.Machine.execConfirm port peer h s
  | .keyUpdateFrame port peer => Sys2Proof.Machine.execKeyUpdateFrame port peer s
  | .parityDelta origin ident stripe role index delta => Sys2Proof.Machine.execParityDelta origin ident stripe role index delta s
  | .deltaAck ident slot => Sys2Proof.Machine.execDeltaAck ident slot s
  | .staleStripeRecompute stripe units => Sys2Proof.Machine.execStaleStripeRecompute stripe units s
  | .fanoutRequest origin originPartition peerPartition ownerDigest descriptor query graphDescriptor => Sys2Proof.Machine.execFanoutRequest origin originPartition peerPartition ownerDigest descriptor query graphDescriptor s
  | .fanoutAnswer search peer refusal counts entries => Sys2Proof.Machine.execFanoutAnswer search peer refusal counts entries s
  | .controlParityFault q group => Sys2Proof.Machine.execControlParityFault q group s
  | .fatalError => Sys2Proof.Machine.execFatalError s
  | .dumpCopyComplete => Sys2Proof.Machine.execDumpCopyComplete s
  | .coldStart r => Sys2Proof.Machine.execColdStart r s
  | .warmStart r => Sys2Proof.Machine.execWarmStart r s
  | .safeStart r => Sys2Proof.Machine.execSafeStart r s
  | .prefetch job => Sys2Proof.Machine.execPrefetch job s
  | .deferredEviction page => Sys2Proof.Machine.execDeferredEviction page s
  | .cqHeadDoorbellWrite queue head => Sys2Proof.Machine.execCqHeadDoorbellWrite queue head s
  | .configurationRequest => Sys2Proof.Machine.execConfigurationRequest s
  | .perstDeassert refclkPresent => Sys2Proof.Machine.execPerstDeassert refclkPresent s
  | .pcieLinkDown => Sys2Proof.Machine.execPcieLinkDown s
  | .startInterfaceRequest session => Sys2Proof.Machine.execStartInterfaceRequest session s
  | .getDeviceInterfaceReport session => Sys2Proof.Machine.execGetDeviceInterfaceReport session s
  | .ideKmKSetGo session stream => Sys2Proof.Machine.execIdeKmKSetGo session stream s
  | .ideKmKSetStop session stream => Sys2Proof.Machine.execIdeKmKSetStop session stream s
  | .getVersion => Sys2Proof.Machine.execGetVersion s
  | .getCapabilities => Sys2Proof.Machine.execGetCapabilities s
  | .negotiateAlgorithms asymOk hashOk dheOk aeadOk => Sys2Proof.Machine.execNegotiateAlgorithms asymOk hashOk dheOk aeadOk s
  | .getDigests => Sys2Proof.Machine.execGetDigests s
  | .spdmFinish session verifyOk => Sys2Proof.Machine.execSpdmFinish session verifyOk s
  | .endSession session => Sys2Proof.Machine.execEndSession session s
  | .heartbeatTimeout session => Sys2Proof.Machine.execHeartbeatTimeout session s
  | .mctpSetEndpointId eid => Sys2Proof.Machine.execMctpSetEndpointId eid s
  | .trngTestFailure => Sys2Proof.Machine.execTrngTestFailure s
  | .mapRangeZeroingComplete partition => Sys2Proof.Machine.execMapRangeZeroingComplete partition s
  | .fragmentRequest peer stripe role => Sys2Proof.Machine.execFragmentRequest peer stripe role s
  | .inputHighClear => Sys2Proof.Machine.execInputHighClear s
  | .interruptCoalescingTimeout vector => Sys2Proof.Machine.execInterruptCoalescingTimeout vector s

end Sys2Proof.Machine
end

