-- ==== Sys2Proof/Safety.lean ====
section
/-! DEFINITION. What the statements say of a step: that a command answers a next state, which part of the state alone it
changes, how a host command begins and how it is answered, what the module keeps in every state. -/

namespace Sys2Proof.Machine

/-- Command i answers a next state from s, and P holds of it. -/
def Runs (i : Instr) (s : State) (P : State → Prop) : Prop := ∃ t, exec i s = .next t ∧ P t

/-- Command i answers the state t from s. -/
def Gives (i : Instr) (s t : State) : Prop := exec i s = .next t

/-! Frames: t differs from s in the named part of the state at most -/

def onlySec (s t : State) : Prop := t = { s with sec := t.sec }
def onlyHost (s t : State) : Prop := t = { s with host := t.host }
def onlyMgmt (s t : State) : Prop := t = { s with mgmt := t.mgmt }
def onlyForest (s t : State) : Prop := t = { s with forest := t.forest }
def onlyPower (s t : State) : Prop := t = { s with power := t.power }
def onlyFtl (s t : State) : Prop := t = { s with ftl := t.ftl }
def onlyRegs (s t : State) : Prop := t = { s with regs := t.regs }

/-! How a host command begins -/

/-- An NVMe command begins (R389, R391): it is fetched or was fetched before, nothing holds it back, and u is the state in
which its meaning runs. -/
def Begins (s : State) (c : Cmd) (opcode : Nat) (u : State) : Prop := ∃ o, beginCmd s c opcode = .go u o

/-- A vendor command without an envelope begins: its fields are in order (R378), its nonce is new (R392), its partition is
there (R374); its meaning runs in u on the request q. -/
def PlainBegins (s : State) (c : Cmd) (opcode : Nat) (u : State) (q : Req) : Prop :=
  Begins s c opcode u ∧ q = ⟨c, opcode, c.partOf, none, c.buf⟩ ∧ vendorFields c false = true ∧
    inWindow u c.partOf c.nonce = false ∧ aHas u.life c.partOf = true

/-- A message of the session protocol begins: its header and number are in order (R415, R416), its partition is a
tenant's. -/
def MsgBegins (s : State) (c : Cmd) (n : Nat) (u : State) (q : Req) : Prop :=
  PlainBegins s c 0xC7 u q ∧ c.form = n ∧ headerOk c n = true ∧ q.part ≠ 0 ∧ q.part ≠ 4095

/-- A vendor command with an envelope begins: the envelope is one that the form accepts and opens (R380, R423), the rest is
as without one. -/
def SealedBegins (s : State) (c : Cmd) (opcode : Nat) (sealedOk clearOk classOk : Bool) (o : Opened) (u : State) (q : Req) :
    Prop :=
  ∃ s1, Begins s c opcode s1 ∧ (openEnvelope s1 c opcode sealedOk clearOk o).2 = some q ∧
    u = (updOut s1 c.sqid c.cid fun y => { y with sealedBy := q.session }) ∧ vendorFields c classOk = true ∧
    inWindow u q.part c.nonce = false ∧ aHas u.life q.part = true

/-- What a vendor command leaves that completes with r: its nonce is in the window (R391), its completion is posted
(R394). -/
def answered (v : State) (q : Req) (r : Reply) : State :=
  completeAt (accept v q.c q.opcode q.session) q.c.sqid q.c.cid r

/-! Calendars -/

/-- A calendar's run past its entry. -/
def pastEntry (r : CalRun) : CalRun := { r with pc := r.pc + 1, halt := .running, late := false }

/-- A calendar's run past its entry, whose writes are in flight. -/
def launched (r : CalRun) : CalRun := { pastEntry r with inFlight := r.inFlight ++ [r.pc] }

/-- A job with one calendar's run replaced. -/
def withRun (j : Job) (u : UnitRef) (r : CalRun) : Job := { j with cals := j.cals.set u.cal r }

/-- Every job but n is as it was. -/
def otherJobs (n : Nat) (s t : State) : Prop := ∀ k, k ≠ n → getJob t k = getJob s k

/-- t differs from s in job n, the trace and the registers at most. -/
def onlyTraced (n : Nat) (s t : State) : Prop :=
  t = { s with jobs := t.jobs, trace := t.trace, regs := t.regs } ∧ otherJobs n s t

/-- The buffer is one of the job's own on a glade or a copse, and no line of memory is poisoned: what is written into it
is there at once. -/
def onChip (s : State) (j : Job) (b : BufDef) : Prop := b.tier ≤ 2 ∧ b.kind ≠ 1 ∧ b.owner = j.partition ∧ s.mem.poison = []

/-- Job n's buffer holds bytes at an offset. -/
def Holds (t : State) (n bn : Nat) (b : BufDef) (o : Nat) (l : List Byte) : Prop :=
  ∃ j, getJob t n = some j ∧ bufRead t n j bn b o l.length = l

/-- Every byte of memory but n of them from an address on reads as before. -/
def bytesBut (a n : Nat) (s t : State) : Prop := ∀ x, ¬ (a ≤ x ∧ x < a + n) → bGet t.mem.bytes x = bGet s.mem.bytes x

/-! Register writes -/

/-- A write reaches the register at an address (R522, R523, R526): its page is there, the offset is a register's, the
requester may make it. -/
def Reaches (s : State) (r : Requester) (a : Nat) : Prop :=
  ∃ p, livePage s a = some p ∧ a % 4 = 0 ∧ (operatorOnly p.kind (a % 4096) && writable a && !isOperator s r) = false

/-- t differs from s in the registers, the event logs and the host interface at most. -/
def onlyPanel (s t : State) : Prop := t = { s with regs := t.regs, ras := t.ras, host := t.host }

/-- t differs from s in the registers and the forest links at most. -/
def onlyLinks (s t : State) : Prop := t = { s with regs := t.regs, forest := t.forest }

/-- Every register but those listed holds what it held. -/
def regsBut (l : List Nat) (s t : State) : Prop := ∀ a, a ∉ l → regGet t a = regGet s a

/-- Registers whose writes have rules of their own, beside the header's. -/
def ownRule (p : PageInst) (a : Nat) : Bool :=
  if p.stand = 0x1F then
    decide (Reg.DSP_RESERVE ≤ a ∧ a < Reg.DSP_RESERVE + 16) || List.contains [Reg.QUOTA_SEL, Reg.QUOTA_CTL, Reg.DUMP_WIN_LO,
      Reg.DUMP_WIN_HI, Reg.DUMP_WIN_LEN, Reg.MGMT_CFG, Reg.DBG_REQ_CFG, Reg.DBG_MEM_CTL, Reg.COMMONS_MODEL_CTL,
      Reg.COMMONS_IDX_ALM, Reg.COMMONS_QRY_ALM, Reg.COMMONS_IDX_CFG, Reg.COMMONS_QRY_CFG, Reg.TBL_HOT_CTL, Reg.TBL_HOT_ROW,
      Reg.PART_CFG, Reg.PWR_CTL, Reg.PWR_CAP, Reg.FOREST_RED_CFG, Reg.RAS_ECCT_CTL] a
  else
    (p.kind == .glade && a % 4096 == Reg.GLADE_SCR_CFG) || (p.kind == .channel && a % 4096 == Reg.CH_SUSP_CFG)
      || (p.kind == .channel && a % 4096 == Reg.CH_RAW_CMD) || (p.kind == .copse1 && a % 4096 == Reg.COPSE_HEALTH_CTL)

end Sys2Proof.Machine
end

