-- ==== Sys2Proof/Certificates/Slice0/Obligations.lean ====
section
/-! DEFINITION. The statements for the provers. Each says in its docstring which rules of the spec it formalises. -/

set_option maxRecDepth 4000

open Sys2Proof Sys2Proof.Machine

/-- The row's cut: a step takes the command at the front of the queue and runs it with the queue's rest, whatever the
command and the state. -/
def Obligations.StepRunsFront : Prop := ∀ (c : Instr) (rest : List Instr) (s : State), s.pending = c :: rest →
  step s = exec c { s with pending := rest }

/-- R42, R550: with no command waiting a step counts one tick of the timebase, in which the trace port sends the oldest record
that waits; nothing else changes but the count of records sent. That an idle step is one tick is the model's choice (log 1). -/
def Obligations.IdleTick : Prop := ∀ s : State, s.pending = [] →
  ∃ t, step s = .next t ∧ t = { s with tb := s.tb + 1, trace := t.trace, regs := t.regs } ∧
    t.trace.buf = s.trace.buf.tail ∧ t.trace.sent = s.trace.sent ++ s.trace.buf.head?.toList ∧
    ∀ a, a ≠ Reg.TRC_RECORDS_LO → a ≠ Reg.TRC_RECORDS_HI → regGet t a = regGet s a

/-- No command stops the module: from every state a step answers a next state, neither a fault nor a refusal. The spec gives
every row of the table its effect. -/
def Obligations.EveryStepAnswers : Prop := ∀ s : State, ∃ t, step s = .next t

/-- The row's cut: the commands that wait run in the order in which they came. Whatever the command at the front does, the
step leaves exactly the rest of the queue, in its order. -/
def Obligations.QueueFirstInFirstOut : Prop := ∀ s t : State, step s = .next t → t.pending = s.pending.tail

/-- Every step keeps the memory's canonical form: addresses strictly rising, no listed byte equal to what an unlisted
location reads as. So equal memories are equal data after any run of commands. -/
def Obligations.MemoryCanonicalKept : Prop := ∀ s t : State, Memory.wf s.mem = true → step s = .next t → Memory.wf t.mem = true

/-- The invariant of MemoryCanonicalKept holds of the state after reset, whose memory lists nothing. -/
def Obligations.MemoryCanonicalAtReset : Prop := Memory.wf State.reset.mem = true ∧ ∀ a, bGet State.reset.mem.bytes a = 0

/-- R409, R433, R435, R421: a partition's state is in the always-on domain and changes only in its life cycle. Whatever state
the module is in, a step that runs none of PARTITION-CREATE, PARTITION-RELEASE, SEAL and SANITIZE leaves the state of every
partition as it was: no data command, register write, power event, start, fault or forest message changes one. -/
def Obligations.PartitionStatesGuarded : Prop := ∀ s t : State, step s = .next t →
  (∀ c rest, s.pending = c :: rest → (∀ x, c ≠ .partitionCreate x) ∧ (∀ x, c ≠ .partitionRelease x) ∧
    (∀ x o, c ≠ .sealPartition x o) ∧ ∀ x, c ≠ .sanitize x) → t.life = s.life

/-- R409, R377, R433: partitions 0 and 4,095 are the operator's and no command creates, seals or releases one. From every
state in which both are the operator's, every step keeps them so. -/
def Obligations.OperatorPartitionsStay : Prop := ∀ s t : State, partState s 0 = some .operator →
  partState s 4095 = some .operator → step s = .next t →
  partState t 0 = some .operator ∧ partState t 4095 = some .operator

/-- R409, R410, R433: PARTITION-CREATE makes an absent partition created, with the quotas, the graph descriptor and the LBA
format of its record, a fresh index key and a creation count one higher, and answers its namespace ID;
PARTITION-RELEASE makes it absent with everything that names it, whatever state it had, and both leave every other
partition's state alone. The end of the zeroing frees the map ranges that the released partition held. -/
def Obligations.PartitionLifecycle : Prop := ∀ (s u : State) (c : Cmd) (q : Req),
  (∀ ranges v r, Begins s c 0xC1 u → q = ⟨c, 0xC1, c.partOf, none, c.buf⟩ → vendorFields c false = true →
    inWindow u c.partOf c.nonce = false → (∀ x ∈ createChecks u q, x.1 = false) →
    createRangesOf q (usedRanges u) = some ranges → makePartition u q ranges = (v, some r) → r.st = stSuccess →
    Runs (.partitionCreate c) s fun t => t = answered v q r ∧ r.dw0 = BitVec.ofNat 32 (q.part + 1) ∧
      partState t q.part = some .created ∧ (∀ p, p ≠ q.part → partState t p = partState s p) ∧
      (getPart v q.part).quota = quotaRecord c.buf ∧ (getPart v q.part).desc = sub c.buf 0x40 64 ∧
      (getPart v q.part).lbaFmt = leAt c.buf 0x80 1 ∧ (getPart v q.part).indexKey = Config.trng u.fresh ∧
      (getPart v q.part).creation = aGetD u.creations q.part 0 + 1 ∧ aGetD v.creations q.part 0 = aGetD u.creations q.part 0 + 1)
  ∧ (PlainBegins s c 0xC4 u q → q.part ≠ 0 → q.part ≠ 4095 → c.cdw11 = 0 → bitsOf c.cdw13.toNat 31 1 = 0 →
    partHeld u q.part = false → Runs (.partitionRelease c) s fun t =>
      partState t q.part = none ∧ (∀ p, p ≠ q.part → partState t p = partState s p) ∧
      ∃ v, t = answered v q (replyDw stSuccess 0) ∧ aHas v.parts q.part = false ∧ aHas v.index q.part = false ∧
        (∀ k, aHas v.tables k = true → k / 256 ≠ q.part) ∧ (∀ k, aHas v.rowsets k = true → k / 256 ≠ q.part) ∧
        (∀ e ∈ v.adapters, e.2.partition ≠ q.part) ∧ ∀ e ∈ v.alms, e.2.owner ≠ q.part)
  ∧ ∀ p, Runs (.mapRangeZeroingComplete p) s fun t => onlyFtl s t ∧ t.ftl.zeroing = s.ftl.zeroing.filter (fun x => x.1 != p) ∧
      t = { s with ftl := { s.ftl with zeroing := t.ftl.zeroing } }

/-- R417, R418, R422: OPEN adds a pending session that holds its request, with evidence, exchange values and a signature in
its 6,336-byte answer; FINISH opens that session, as owned in a sealed partition where the owner's proof holds and as
unowned in another where the proof bytes are zero, and otherwise discards it with Seal Error; a session still pending past
its time is discarded, an open one is not. -/
def Obligations.SessionOpenFinish : Prop := ∀ (s u : State) (c : Cmd) (q : Req),
  (MsgBegins s c 1 u q → trngOk u = true → (getPart u q.part).sessions.length < 16 → sessionCount u < 8192 →
    aHas u.parts q.part = true → Runs (.openSession c true) s fun t => ∃ v x r, t = answered v q r ∧ r.st = stSuccess ∧
      r.dw0 = 6336 ∧ r.data.length = 6336 ∧ x.isPending = true ∧ x.owned = false ∧ x.opened = u.tb ∧
      x.request = sub c.buf 0 192 ∧ (getPart v q.part).sessions = (getPart u q.part).sessions ++ [x])
  ∧ (∀ proofOk tagOk x, MsgBegins s c 2 u q → findSession (getPart u q.part) (msgSession c) = some x → x.isPending = true →
    aHas u.parts q.part = true → Runs (.finish c proofOk tagOk) s fun t =>
      if (tagOk && if isSealed u q.part then proofOk else allZero c.buf 1584 512) = true then
        ∃ v r, t = answered v q r ∧ r.st = stSuccess ∧ r.dw0 = 64 ∧ v = { u with parts := v.parts, fresh := v.fresh } ∧
          (getPart v q.part).sessions = (getPart u q.part).sessions.map fun y =>
            if y.num = msgSession c then { y with isPending := false, owned := isSealed u q.part } else y
      else ∃ v, t = completeAt v c.sqid c.cid (replySt stSeal) ∧ findSession (getPart v q.part) (msgSession c) = none)
  ∧ ∀ (p n : Nat) (x : Session), findSession (getPart s p) n = some x →
      (x.isPending = true → Runs (.pendingSessionExpiry p n) s fun t => t = { s with parts := t.parts } ∧
        findSession (getPart t p) n = none ∧ ∀ m, m ≠ n → findSession (getPart t p) m = findSession (getPart s p) m)
      ∧ (x.isPending = false → Gives (.pendingSessionExpiry p n) s s)

/-- R419 to R423: in an open session whose sealed message is in order SEAL, of an unowned session, records the owner's key and
policy, seals the partition and makes its own session owned; KEY, of an owned session, loads the data key or erases it and
counts the load; CLOSE erases the session and no other. Each answers 64 bytes under the session's result key. Without the
session the answer is Key Not Present, and a bad tag or an old number Seal Error; neither has an effect. -/
def Obligations.SessionSealedMessages : Prop := ∀ (s u : State) (c : Cmd) (q : Req) (o : Opened) (x : Session),
  openSess (getPart u q.part) (msgSession c) = some x → x.num = msgSession c → aHas u.parts q.part = true →
  allZero c.buf 28 4 = true → leAt c.buf 24 2 = 1 → allZero c.buf 26 2 = true → o.tagOk = true → x.lastMsg < msgSeq c →
  (MsgBegins s c 3 u q → x.owned = false → modulusOk (sub o.plain 0 512) = true → leAt o.plain 512 1 ≤ 1 →
    leAt o.plain 513 1 ≤ 3 → allZero o.plain 514 14 = true → Runs (.sealPartition c o) s fun t =>
      partState t q.part = some .sealed ∧ (∀ p, p ≠ q.part → partState t p = partState s p) ∧
      ∃ v r, t = answered v q r ∧ r.st = stSuccess ∧ r.dw0 = 64 ∧ r.sealInfo.isSome)
  ∧ (MsgBegins s c 4 u q → x.owned = true → leAt o.plain 32 1 ≤ 1 → allZero o.plain 33 15 = true →
    Runs (.key c o) s fun t => ∃ v r, t = answered v q r ∧ r.st = stSuccess ∧ r.dw0 = 64 ∧ r.sealInfo.isSome ∧
      (getPart v q.part).loads = ((getPart u q.part).loads + 1) % 2 ^ 32 ∧
      (getPart v q.part).dataKey = if bitOf (leAt o.plain 32 1) 0 then none else some (BitVec.ofNat 256 (leAt o.plain 0 32)))
  ∧ (MsgBegins s c 5 u q → Runs (.close c o) s fun t => ∃ v r, t = answered v q r ∧ r.st = stSuccess ∧ r.dw0 = 64 ∧
      r.sealInfo.isSome ∧ findSession (getPart v q.part) x.num = none)

/-- R429: GET_VERSION, GET_CAPABILITIES and NEGOTIATE_ALGORITHMS of a responder that is up. The version answered is 1.3,
the capabilities are CERT, CHAL, MEAS with signature, MEAS_FRESH, ENCRYPT, MAC, KEY_EX, HBEAT and KEY_UPD, each algorithm is
answered where the requester offers it, and the negotiation is complete where it offers all. A request out of order is
answered with an error. The module's security state alone changes. The codes are the model's (log 25). -/
def Obligations.SpdmNegotiation : Prop := ∀ s : State, spdmUp s = true →
  Runs .getVersion s (fun t => onlySec s t ∧ t.sec.negotiated = 1 ∧
    t.sec.spdmAnswers = s.sec.spdmAnswers ++ [[0x10#8, 0x04#8, 0#8, 0#8, 0#8, 1#8, 0x00#8, 0x13#8]])
  ∧ Runs .getCapabilities s (fun t => onlySec s t ∧
      (if s.sec.negotiated = 0 then t = spdmError s errOrder
       else t.sec.negotiated = 2 ∧ t.sec.spdmAnswers = s.sec.spdmAnswers ++ [[0x13#8, 0x61#8, 0#8, 0#8] ++ toLe 4 0x62F6]))
  ∧ ∀ asymOk hashOk dheOk aeadOk : Bool, Runs (.negotiateAlgorithms asymOk hashOk dheOk aeadOk) s (fun t => onlySec s t ∧
      (if s.sec.negotiated < 2 then t = spdmError s errOrder
       else (t.sec.negotiated = 3 ↔ asymOk ∧ hashOk ∧ dheOk ∧ aeadOk) ∧
        t.sec.spdmAnswers = s.sec.spdmAnswers ++ [[0x13#8, 0x63#8, 0#8, 0#8]
          ++ toLe 4 (if asymOk then 0x40 else 0) ++ toLe 4 (if hashOk then 0x4 else 0)
          ++ toLe 2 (if dheOk then 0x10 else 0) ++ toLe 2 (if aeadOk then 0x2 else 0) ++ toLe 2 1]))

/-- R429 and R430: after the negotiation GET_DIGESTS answers the digest of the chain in slot 0, GET_CERTIFICATE the part
asked for, its length and what remains, CHALLENGE the digest and a fresh nonce signed with the requester's nonce, and
GET_MEASUREMENTS the blocks asked for, signed. Another slot, an offset past the chain and a block that is not there are
answered with an error; so is a signature that the module cannot make. The codes are the model's (log 25). -/
def Obligations.SpdmCertificates : Prop := ∀ s : State, spdmUp s = true → s.sec.negotiated = 3 →
  Gives .getDigests s (spdmAns s 0x01 0 1 (sha512 (Config.certificateChain 0)))
  ∧ (∀ slot off len : Nat, Gives (.getCertificate slot off len) s
      (if slot ≠ 0 ∨ off ≥ (Config.certificateChain 0).length then spdmError s errRequest
       else
        let n := min len ((Config.certificateChain 0).length - off)
        spdmAns s 0x02 0 0 (toLe 2 n ++ toLe 2 ((Config.certificateChain 0).length - off - n)
          ++ sub (Config.certificateChain 0) off n)))
  ∧ (∀ (slot : Nat) (nonce : BitVec 256), Runs (.challenge slot nonce) s fun t =>
      t = { s with sec := t.sec, fresh := t.fresh } ∧
      (if slot ≠ 0 then t = spdmError s errRequest
       else if !canSign s then t = spdmError s errUnspecified
       else
        let head := sha512 (Config.certificateChain 0) ++ toLe 32 (Config.trng s.fresh).toNat
        t.fresh = s.fresh + 1 ∧ t.sec.spdmAnswers = s.sec.spdmAnswers ++
          [[0x13#8, 0x03#8, 0#8, 1#8] ++ (head ++ sub (Config.signature (toLe 32 nonce.toNat ++ head)) 0 512)]))
  ∧ ∀ (index : Nat) (nonce : BitVec 256), Runs (.getMeasurements index nonce) s fun t =>
      let l := if index = 0 then [] else if index = 255 then [1, 2, 3, 4, 5, 16] else [index]
      let m := measBlocks s (toLe 32 nonce.toNat) l
      (index ≠ 0 ∧ index ≠ 255 ∧ [1, 2, 3, 4, 5, 16].contains index = false → t = spdmError s errRequest)
      ∧ (index = 0 ∨ index = 255 ∨ [1, 2, 3, 4, 5, 16].contains index →
          if !canSign s then t = spdmError s errUnspecified
          else
            let body := toLe 1 l.length ++ toLe 3 m.2.length ++ m.2 ++ toLe 32 (Config.trng m.1.fresh).toNat
            t.sec.spdmAnswers = m.1.sec.spdmAnswers ++ [[0x13#8, 0x60#8] ++ toLe 1 (if index = 0 then 6 else 0) ++ [0#8] ++
              (body ++ sub (Config.signature (toLe 32 nonce.toNat ++ body)) 0 512)])

/-- R429: KEY_EXCHANGE opens a session while fewer than four are open, FINISH establishes it, HEARTBEAT and KEY_UPDATE note
that it was heard, KEY_UPDATE moves its keys on, END_SESSION and a missed heartbeat close it. The module's security state
alone changes (KEY_EXCHANGE draws a fresh value). A session that is not established is answered with an error. The codes are
the model's (log 25). -/
def Obligations.SpdmSessions : Prop := ∀ s : State, spdmUp s = true → s.sec.negotiated = 3 →
  Runs (.keyExchange 0) s (fun t => t = { s with sec := t.sec, fresh := t.fresh } ∧
    (if s.sec.sessions.length ≥ 4 then t = spdmError s errSessions
     else if !canSign s then t = spdmError s errUnspecified
     else t.sec.sessions = s.sec.sessions ++ [⟨s.sec.nextSpdm, false, 0, s.tb⟩] ∧ t.sec.nextSpdm = s.sec.nextSpdm + 1))
  ∧ ∀ n : Nat,
    (∀ ok : Bool, ∀ x, findSpdm s n = some x → x.established = false → Runs (.spdmFinish n ok) s fun t => onlySec s t ∧
      t.sec.sessions = if ok then s.sec.sessions.map fun y => if y.num = n then { y with established := true, lastHeard := s.tb } else y
        else s.sec.sessions.filter fun y => y.num != n)
    ∧ (spdmOpen s n = true →
        Runs (.heartbeat n) s (fun t => onlySec s t ∧
          t.sec.sessions = s.sec.sessions.map fun y => if y.num = n then { y with lastHeard := s.tb } else y)
        ∧ Runs (.keyUpdate n) s (fun t => onlySec s t ∧
          t.sec.sessions = s.sec.sessions.map fun y => if y.num = n then { y with lastHeard := s.tb, epoch := y.epoch + 1 } else y)
        ∧ Runs (.endSession n) s (fun t => onlySec s t ∧ findSpdm t n = none)
        ∧ Runs (.heartbeatTimeout n) s (fun t => onlySec s t ∧ findSpdm t n = none ∧
          ∀ m, m ≠ n → findSpdm t m = findSpdm s m))
    ∧ (spdmOpen s n = false →
        Gives (.heartbeat n) s (spdmError s errSession) ∧ Gives (.keyUpdate n) s (spdmError s errSession)
        ∧ Gives (.endSession n) s (spdmError s errSession) ∧ Gives (.heartbeatTimeout n) s s)

/-- R372, R402, R404: IDENTIFY answers the controller data, or the data of a namespace that exists and Invalid Namespace of
one that does not; GET_FEATURES of power management answers the power state in force; SET_FEATURES of power management to a
state from 1 to 4 asks for it, and to a state that is not there is Invalid Field; GET_LOG_PAGE answers the bytes asked for of
the log and with LSP bit 0 on the correctable-error table empties it. The layouts are the NVMe standard's (log 18). -/
def Obligations.NvmeInquiry : Prop := ∀ (s u : State) (c : Cmd),
  (Begins s c 0x06 u →
    (bitsOf c.cdw10.toNat 7 0 = 1 → Gives (.identify c) s (completeAt u c.sqid c.cid (replyData 0 identifyController)))
    ∧ (bitsOf c.cdw10.toNat 7 0 = 0 → Gives (.identify c) s (completeAt u c.sqid c.cid
        (if nsExists u c.nsid then replyData 0 (identifyNamespace (getPart u (c.nsid - 1))) else replySt stInvalidNs))))
  ∧ (Begins s c 0x0A u → bitsOf c.cdw10.toNat 10 8 = 0 → bitsOf c.cdw10.toNat 7 0 = 2 →
      Gives (.getFeatures c) s (completeAt u c.sqid c.cid (replyData u.power.ps [])))
  ∧ (Begins s c 0x09 u → bitOf c.cdw10.toNat 31 = false → bitsOf c.cdw10.toNat 7 0 = 2 →
      (c.cdw11.toNat % 32 > 4 → Gives (.setFeatures c) s (completeAt u c.sqid c.cid (replySt stInvalidField)))
      ∧ (1 ≤ c.cdw11.toNat % 32 → c.cdw11.toNat % 32 ≤ 4 → Runs (.setFeatures c) s fun t => ∃ v, onlyPower u v ∧
          v.power = { u.power with wanted := some (c.cdw11.toNat % 32) } ∧ t = completeAt v c.sqid c.cid (replyDw stSuccess 0)))
  ∧ (Begins s c 0x02 u → bitsOf c.cdw10.toNat 7 0 = 0xC4 → u.power.safe = false →
      c.cdw12.toNat + c.cdw13.toNat * 2 ^ 32 = 0 → bitOf c.cdw10.toNat 8 = true → bitOf c.cdw10.toNat 15 = true →
      Runs (.getLogPage c) s fun t => ∃ v, t = completeAt v c.sqid c.cid (replyData 0
          (sub (ceLog u.ras.ce) 0 ((bitsOf c.cdw10.toNat 31 16 + bitsOf c.cdw11.toNat 15 0 * 65536 + 1) * 4)))
        ∧ v = { u with ras := { u.ras with ce := List.replicate 32 none } })

/-- R372, R521: CREATE_IO_COMPLETION_QUEUE and CREATE_IO_SUBMISSION_QUEUE add a queue of the size and with the vector or the
completion queue asked for, empty, where its identifier is free; DELETE_IO_COMPLETION_QUEUE removes one that no submission
queue names, DELETE_IO_SUBMISSION_QUEUE ends the commands of one and removes it. Each completes with success, and the
creations and the deletion of a completion queue change nothing else. -/
def Obligations.NvmeQueues : Prop := ∀ (s u : State) (c : Cmd),
  let qid := bitsOf c.cdw10.toNat 15 0
  let size := bitsOf c.cdw10.toNat 31 16
  let hi := bitsOf c.cdw11.toNat 31 16
  qid ≠ 0 →
  (Begins s c 0x05 u → aHas u.host.cqs qid = false → 1 ≤ size → size ≤ 4095 → hi ≤ 2047 → bitOf c.cdw11.toNat 0 = true →
    Runs (.createIoCompletionQueue c) s fun t => ∃ v, t = completeAt v c.sqid c.cid (replyDw stSuccess 0) ∧ onlyHost u v ∧
      v.host = { u.host with cqs := v.host.cqs } ∧
      ∀ k, aGet? v.host.cqs k = if k = qid then some ⟨size + 1, hi, bitOf c.cdw11.toNat 1, 0, 0⟩ else aGet? u.host.cqs k)
  ∧ (Begins s c 0x01 u → aHas u.host.sqs qid = false → hi ≠ 0 → aHas u.host.cqs hi = true → 1 ≤ size → size ≤ 4095 →
    bitOf c.cdw11.toNat 0 = true →
    Runs (.createIoSubmissionQueue c) s fun t => ∃ v, t = completeAt v c.sqid c.cid (replyDw stSuccess 0) ∧ onlyHost u v ∧
      v.host = { u.host with sqs := v.host.sqs } ∧
      ∀ k, aGet? v.host.sqs k = if k = qid then some ⟨size + 1, hi, 0, 0⟩ else aGet? u.host.sqs k)
  ∧ (Begins s c 0x04 u → aHas u.host.cqs qid = true → (∀ e ∈ u.host.sqs, e.2.cqid ≠ qid) →
    Runs (.deleteIoCompletionQueue c) s fun t => ∃ v, t = completeAt v c.sqid c.cid (replyDw stSuccess 0) ∧ onlyHost u v ∧
      v.host = { u.host with cqs := v.host.cqs } ∧ ∀ k, aGet? v.host.cqs k = if k = qid then none else aGet? u.host.cqs k)
  ∧ (Begins s c 0x00 u → aHas u.host.sqs qid = true →
    Runs (.deleteIoSubmissionQueue c) s fun t => ∃ v, t = completeAt v c.sqid c.cid (replyDw stSuccess 0) ∧
      aGet? v.host.sqs qid = none ∧ v.life = u.life ∧
      v = { abortAll u (fun o => o.cmd.sqid == qid) stSqDeleted with host := v.host })

/-- R393, R408: ABORT ends another command that is outstanding with Command Abort Requested and answers 0, and answers 1 and
changes nothing where the command is not outstanding or is the ABORT itself; ASYNCHRONOUS_EVENT_REQUEST takes the oldest
held event, or stays outstanding until an event comes. -/
def Obligations.AbortAndEvents : Prop := ∀ (s u : State) (c : Cmd),
  let sqid := bitsOf c.cdw10.toNat 15 0
  let cid := bitsOf c.cdw10.toNat 31 16
  (Begins s c 0x08 u →
    (∀ o, findOut u sqid cid = some o → (sqid ≠ c.sqid ∨ cid ≠ c.cid) → Runs (.abort c) s fun t => ∃ v, onlyHost u v ∧
      v.host = { u.host with aers := u.host.aers.filter fun a => !(a.1 == sqid && a.2 == cid) } ∧
      t = completeAt (abortAt v sqid cid stAborted) c.sqid c.cid (replyDw stSuccess 0))
    ∧ (findOut u sqid cid = none ∨ (sqid = c.sqid ∧ cid = c.cid) →
      Gives (.abort c) s (completeAt u c.sqid c.cid (replyDw stSuccess 1))))
  ∧ (Begins s c 0x0C u →
    (u.host.heldAens = [] → Runs (.asynchronousEventRequest c) s fun t => onlyHost u t ∧
      t.host = { u.host with aers := u.host.aers ++ [(c.sqid, c.cid)] })
    ∧ ∀ ty info rest, u.host.heldAens = (ty, info) :: rest → Runs (.asynchronousEventRequest c) s fun t => ∃ v, onlyHost u v ∧
      v.host = { u.host with heldAens := rest } ∧
      t = completeAt v c.sqid c.cid (replyDw stSuccess (ty + info * 256 + aenLog ty info * 65536)))

/-- R376, R377, R435: FORMAT_NVM of a namespace that exists and is idle unmaps its units, erases its partition's data slot
where the format is cryptographic, sets the LBA format and completes; SANITIZE crypto-erase begins a sanitize, and is
refused with Sanitize In Progress while one runs; no partition but those released changes its state: a format changes
none. -/
def Obligations.FormatSanitize : Prop := ∀ (s u : State) (c : Cmd),
  (Begins s c 0x80 u →
    (nsExists u c.nsid = false → Gives (.formatNvm c) s (completeAt u c.sqid c.cid (replySt stInvalidNs)))
    ∧ (nsExists u c.nsid = true → bitsOf c.cdw10.toNat 8 4 = 0 → bitsOf c.cdw10.toNat 31 14 = 0 → bitsOf c.cdw10.toNat 13 12 = 0 →
      bitsOf c.cdw10.toNat 3 0 ≤ 1 → (bitsOf c.cdw10.toNat 11 9 = 0 ∨ bitsOf c.cdw10.toNat 11 9 = 2) →
      listAt (getPart u (c.nsid - 1)).quota 7 % 16384 = 0 → namespaceBusy u (c.nsid - 1) c.sqid c.cid = false →
      partHeld u (c.nsid - 1) = false → modelFrozen u = false → writeProtected u = false →
      Runs (.formatNvm c) s fun t => ∃ w v, t = completeAt v c.sqid c.cid (replyDw stSuccess 0) ∧ t.life = s.life ∧
        w = (if bitsOf c.cdw10.toNat 11 9 = 2 then eraseDataSlot (emptyNamespace u (c.nsid - 1) true) (c.nsid - 1)
          else emptyNamespace u (c.nsid - 1) false) ∧
        v = updPart w (c.nsid - 1) fun q => { q with lbaFmt := bitsOf c.cdw10.toNat 3 0 }))
  ∧ (Begins s c 0x84 u → bitsOf c.cdw10.toNat 2 0 = 4 →
    (u.host.sanitizing = true → Gives (.sanitize c) s (completeAt u c.sqid c.cid (replySt stSanitize)))
    ∧ (u.host.sanitizing = false → Runs (.sanitize c) s fun t => ∃ v, t = completeAt v c.sqid c.cid (replyDw stSuccess 0) ∧
        v.host.sanitizing = !v.host.sanitizeBlocks.isEmpty ∧ v.host.sanitize = if v.host.sanitizeBlocks = [] then 1 else 2))

/-- R232, R238, R240: NVM_READ of a range with no poisoned unit answers its bytes at once where no unit of it lies on flash,
and otherwise waits for its media accesses with the rest of its bytes. NVM_WRITE gives its units, in ascending order, write
buffer slots: once all have one the write is acknowledged unless it asks to be durable, and a write of which some wait for a
slot is kept with the pieces that are left; BUFFER_SLOT_GRANTED goes on with the oldest such write once slots are free. A
range past the namespace is LBA Out of Range. -/
def Obligations.NvmReadWrite : Prop := ∀ (s u : State) (c : Cmd),
  let p := c.nsid - 1
  let lba := lbaSize (getPart u p)
  let off := slbaOf c * lba
  let len := nlbOf c * lba
  let pieces := piecesOf off (sub c.buf 0 len)
  nsExists u c.nsid = true →
  (Begins s c 0x02 u → slbaOf c + nlbOf c > nsLbas (getPart u p) →
    Gives (.nvmRead c) s (completeAt u c.sqid c.cid (replySt stLbaRange)))
  ∧ (Begins s c 0x02 u → slbaOf c + nlbOf c ≤ nsLbas (getPart u p) → waitsForShare u p off len = false →
    (∀ x ∈ unitsTouched off len, ∀ i, unitIdx u p x = some i → readUnit u i ≠ .poisoned) →
    Runs (.nvmRead c) s fun t => ∃ v, v = (updProg u c.sqid c.cid fun r => { r with units := nlbOf c }) ∧
      ((∀ x ∈ unitsTouched off len, ∀ i, unitIdx v p x = some i → ∀ o a, readUnit v i ≠ .flash o a) →
        t = completeAt v c.sqid c.cid (replyData 0 (rangeBytes v p off len)))
      ∧ ((∃ x ∈ unitsTouched off len, ∃ i o a, unitIdx v p x = some i ∧ readUnit v i = .flash o a) →
        ∃ id w, aGet? t.ftl.reads id = some w ∧ w.sqid = c.sqid ∧ w.cid = c.cid ∧ w.data = rangeBytes v p off len))
  ∧ (Begins s c 0x01 u → bitsOf c.cdw12.toNat 23 20 = 0 → slbaOf c + nlbOf c ≤ nsLbas (getPart u p) →
    rangeProtected u p off len = false → waitsForShare u p off len = false → (∀ x ∈ pieces, pieceBlocked u p x = false) →
    ∀ s1 os left, acceptPieces p u.ftl.waiting pieces u [] = (s1, os, left, false) →
    Runs (.nvmWrite c) s fun t =>
      (left = [] → c.durable = false → bankWeak u = false →
        t.ftl = { s1.ftl with waiting := s1.ftl.waiting.filter fun x => !(x.sqid == c.sqid && x.cid == c.cid) } ∧ t.mem = s1.mem)
      ∧ (left ≠ [] → ∃ w ∈ t.ftl.waiting, w.sqid = c.sqid ∧ w.cid = c.cid ∧ w.pieces = left ∧ w.orders = os))
  ∧ ∀ sqid cid w, s.ftl.waiting.find? (fun w => w.sqid == sqid && w.cid == cid) = some w →
      Gives (.bufferSlotGranted sqid cid) s (if serving s then pushWrite (assignSlots s) w (earlierWrites s w) else s)

/-- R232, R240, R375: FLUSH completes at once where every buffered unit that it covers is durable, and otherwise waits for
those units, whose staging copies it asks for. WRITE_ZEROES and DATASET_MANAGEMENT deallocate unmap every unit that their
ranges cover whole, so that it reads as unmapped, the buffered versions included; a deallocate without its attribute does
nothing. The ranges here cover whole units only. -/
def Obligations.FlushZeroesDeallocate : Prop := ∀ (s u : State) (c : Cmd),
  let p := c.nsid - 1
  let lba := lbaSize (getPart u p)
  let off := slbaOf c * lba
  let len := nlbOf c * lba
  let mine := (u.ftl.buf.filter fun b => b.kind == 0 && (c.nsid == 0xFFFFFFFF || b.partition == p)).map (·.order)
  let gone := fun (t : State) (a n : Nat) => ∀ x ∈ (zeroParts a n).1, ∀ i, unitIdx u p x = some i → readUnit t i = .unmapped
  (Begins s c 0x00 u → (c.nsid = 0xFFFFFFFF ∨ nsExists u c.nsid = true) →
    (ordersDurable u mine = true → Gives (.flush c) s (completeAt u c.sqid c.cid replyOk))
    ∧ (ordersDurable u mine = false → Runs (.flush c) s fun t => onlyFtl u t ∧
        t.ftl = { u.ftl with flushes := t.ftl.flushes, buf := t.ftl.buf } ∧
        t.ftl.flushes = u.ftl.flushes ++ [⟨mine, toCompletion c.sqid c.cid replyOk⟩] ∧
        t.ftl.buf = u.ftl.buf.map fun b => if mine.contains b.order ∧ !stagedDurable b then { b with staging := true } else b))
  ∧ (Begins s c 0x08 u → nsExists u c.nsid = true → slbaOf c + nlbOf c ≤ nsLbas (getPart u p) →
    rangeProtected u p off len = false → zeroWaits u p off len = false → (zeroParts off len).2 = [] →
    Runs (.writeZeroes c) s fun t => gone t off len)
  ∧ (Begins s c 0x09 u → nsExists u c.nsid = true →
    (bitOf c.cdw11.toNat 2 = false → Gives (.datasetManagement c) s (completeAt u c.sqid c.cid (replyDw stSuccess 0)))
    ∧ (bitOf c.cdw11.toNat 2 = true → (∀ r ∈ dsmRanges c, r.1 + r.2 ≤ nsLbas (getPart u p) ∧
        rangeProtected u p (r.1 * lba) (r.2 * lba) = false ∧ zeroWaits u p (r.1 * lba) (r.2 * lba) = false ∧
        (zeroParts (r.1 * lba) (r.2 * lba)).2 = []) →
      Runs (.datasetManagement c) s fun t => ∀ r ∈ dsmRanges c, gone t (r.1 * lba) (r.2 * lba)))

/-- R22, R305, R387: VZ_INGEST append numbers the object with the partition's next number, enters it in the ingest list of the
open season, and gives its container to the write buffer. VZ_INGEST delete takes a listed object off the list, and otherwise
tombstones every node of it that no tombstone names and answers their number. -/
def Obligations.IngestObjects : Prop := ∀ (s u : State) (c : Cmd) (o : Opened) (q : Req) (x : Index),
  SealedBegins s c 0x81 true (clearIngest s c) false o u q → getIndex u q.part = some x → aHas u.parts q.part = true →
  (let slba := leAt q.pay 0 8
   let n := leAt q.pay 8 8
   let lba := lbaSize (getPart u q.part)
   let pieces := piecesOf (slba * lba) (sub q.pay 64 ((n + lba - 1) / lba * lba))
   c.form = 0 → (∀ y ∈ appendChecks u q slba n, y.1 = false) → waitsForShare u q.part (slba * lba) (piecesLen pieces) = false →
   (∀ y ∈ pieces, pieceBlocked u q.part y = false) →
   Runs (.vzIngestAppend c o) s fun t => t.life = u.life ∧
     (getPart t q.part).nextObject = (getPart u q.part).nextObject + 1 ∧
     ∃ y, getIndex t q.part = some y ∧ y = { x with ingest := y.ingest } ∧
       ∀ k, aGet? y.ingest k = if k = (getPart u q.part).nextObject then some ⟨slba, n, x.season, none, [], 0, []⟩
         else aGet? x.ingest k)
  ∧ (let obj := leAt q.pay 0 8
     c.form = 1 → c.cdw11 = 0 → bitsOf c.cdw13.toNat 31 4 = 0 → 64 ≤ q.pay.length → allZero q.pay 8 56 = true →
     unsealed u q.part = false →
     (aHas x.ingest obj = true → Runs (.vzIngestDelete c o) s fun t => ∃ v, t = answered v q (replyDw stSuccess 0) ∧
       v = updIndex u q.part fun y => { y with ingest := aDel y.ingest obj })
     ∧ (aHas x.ingest obj = false → objectNodes x obj ≠ [] →
       x.tombs.length + (objectNodes x obj).length ≤ gStaging (getPart u q.part).desc →
       Runs (.vzIngestDelete c o) s fun t => ∃ v, t = answered v q (replyDw stSuccess (objectNodes x obj).length) ∧
         v = updIndex u q.part fun y => { y with tombs := y.tombs ++ objectNodes x obj }))

/-- R187, R388, R397, R400: VZ_PROGRESS answers the 128 bytes of the newest record that its key selects, and Invalid Field
where none is kept. EXTENT_ADD registers an extent that overlaps none under the partition's lowest free handle, answers the
handle and charges the length; EXTENT_REMOVE of an extent that no job names removes it, credits its length and evicts its
resident pages. -/
def Obligations.ProgressAndExtents : Prop := ∀ (s u : State) (c : Cmd) (o : Opened) (q : Req),
  (Begins s c 0x8A u → c.cdw12 &&& 0xBFFEF000#32 = 0 → c.cdw13 = 0 → c.cdw11 = 0 → 128 ≤ c.bufLen →
    aHas u.life c.partOf = true →
    (∀ r, progressOf u c = some r → (progBytes r).length = 128 ∧
      Gives (.vzProgress c) s (completeAt u c.sqid c.cid (replyData 0 (progBytes r))))
    ∧ (progressOf u c = none → Gives (.vzProgress c) s (completeAt u c.sqid c.cid (replySt stInvalidField))))
  ∧ (SealedBegins s c 0x8D (!operatorPart c) (operatorPart c) false o u q → aHas u.parts q.part = true →
    formFields c = true → unsealed u q.part = false → extentFrozen u q.part = false →
    (let off := leAt q.pay 0 8
     let len := leAt q.pay 8 8
     c.form = 0 → c.handle = 0 → q.pay.length = 64 → off % 65536 = 0 → len % 65536 = 0 → len ≠ 0 → len ≤ 2 ^ 40 →
     leAt q.pay 16 1 ≤ 1 → allZero q.pay 17 47 = true → off + len ≤ nsCapacity u q.part →
     (∀ e ∈ (getPart u q.part).extents, off + len ≤ e.2.offset ∨ e.2.offset + e.2.length ≤ off) → fits u q.part 4 len = true →
     ∀ h, freeExtent (getPart u q.part) = some h → Runs (.extentAdd c o) s fun t => ∃ v, t = answered v q (replyDw stSuccess h) ∧
       v = { u with parts := v.parts } ∧ (∀ p, p ≠ q.part → getPart v p = getPart u p) ∧
       ∀ k, aGet? (getPart v q.part).extents k = if k = h then some ⟨off, len, leAt q.pay 16 1⟩
         else aGet? (getPart u q.part).extents k)
    ∧ (∀ x, c.form = 1 → q.pay = [] → aGet? (getPart u q.part).extents c.handle = some x → extentUsed u q.part c.handle = false →
      Runs (.extentRemove c o) s fun t => ∃ v, t = answered (evictRange v q.part x.offset x.length) q (replyDw stSuccess 0) ∧
        v = { u with parts := v.parts } ∧
        ∀ k, aGet? (getPart v q.part).extents k = if k = c.handle then none else aGet? (getPart u q.part).extents k))

/-- R157, R386: VZ_RUN of a loaded almanac that passes its checks (names, capability, quota, buffer and region table) charges
what the almanac needs and queues a job of it, unbound, with the command's payload as its input; the command stays
outstanding. An almanac that the partition may not run is Almanac Rejected and queues nothing. -/
def Obligations.RunQueued : Prop := ∀ (s u : State) (c : Cmd) (o : Opened) (q : Req),
  SealedBegins s c 0x87 (!operatorPart c) (operatorPart c) true o u q → bitsOf c.cdw13.toNat 15 0 = 0 →
  unsealed u q.part = false →
  (∀ a, runnable u q = some a → q.pay.length = payloadLen a → answerLen a ≤ c.bufLen → regionsOk q a = true →
    namesBad u a = none → couldBind u a (if c.bestEffort then 1 else 0) = true →
    chargesFit u a.owner (jobCharges u a) = true → (a.bufs.any (·.tier == 5) = true → trngOk u = true) →
    Runs (.vzRun c o) s fun t => t.nextJob = u.nextJob + 1 ∧ t.life = u.life ∧ t.mem = u.mem ∧ t.alms = u.alms ∧
      (∀ k, k ≠ u.nextJob → aGet? t.jobs k = aGet? u.jobs k) ∧
      ∃ j, aGet? t.jobs u.nextJob = some j ∧ j.partition = a.owner ∧ j.handle = c.handle ∧ j.isBound = false ∧
        j.finished = false ∧ j.cls = (if c.bestEffort then 1 else 0) ∧ j.input = q.pay ∧ j.sqid = c.sqid ∧ j.cid = c.cid)
  ∧ (runnable u q = none → Runs (.vzRun c o) s fun t => t.jobs = u.jobs ∧ t.nextJob = u.nextJob)

/-- R6, R7, R11, R522, R523, R526: a BAR2 write to a page that is not there has no effect; one at an unaligned offset, and one by
a requester other than the operator to a register that only the operator writes, change nothing but the write-refused event.
A write that reaches a register without a rule of its own puts each read-write field to the value written, unless the field
refuses that value; every other field keeps its value, and nothing but registers, logs and the host interface changes. -/
def Obligations.RegisterAccess : Prop := ∀ (s : State) (r : Requester) (a : Nat) (v : Word),
  (livePage s a = none → Gives (.bar2RegisterWrite r a v) s s)
  ∧ ∀ p, livePage s a = some p →
    (a % 4 ≠ 0 → Gives (.bar2RegisterWrite r a v) s (refuse s (a / 4 * 4) v))
    ∧ (a % 4 = 0 → operatorOnly p.kind (a % 4096) = true → writable a = true → isOperator s r = false →
      Gives (.bar2RegisterWrite r a v) s (refuse s a v))
    ∧ (Reaches s r a → 0x40 ≤ a % 4096 → ownRule p a = false → Runs (.bar2RegisterWrite r a v) s fun t => onlyPanel s t ∧
      ∀ f ∈ fieldsAt a, f.hi ≤ 31 → (∀ g ∈ fieldsAt a, g = f ∨ g.hi < f.lo ∨ f.hi < g.lo) →
        bitsOf (regGet t a).toNat f.hi f.lo =
          if (f.access = .rw ∨ f.access = .rws) ∧ fieldRefused p.kind (a % 4096) f.lo (bitsOf v.toNat f.hi f.lo) v.toNat = false
          then bitsOf v.toNat f.hi f.lo else bitsOf (regGet s a).toNat f.hi f.lo)

/-- R524, R546, R547: a read of a _LO register keeps its _HI for the requester's path, so that the next read of the _HI there
returns the value of that instant whatever changed since. An NVMe-MI register read or write of 1 to 64 aligned registers
inside BAR2 answers once, with the values read; any other range is answered as invalid and touches no register of the range;
a waiting SMBus address takes effect when the message ends. The bus owner's assignment sets the endpoint ID. -/
def Obligations.PairedReadsAndSideband : Prop := ∀ (s : State) (r : Requester) (a n : Nat) (l : List Word),
  (∀ p, livePage s a = some p → isLo p (a % 4096) = true → a % 4 = 0 → Runs (.pairedLoRead r a) s fun t =>
    t = { s with shadow := t.shadow } ∧
    ∀ u, u.shadow = t.shadow → (livePage u (a + 4)).isSome = true → (readBy u r (a + 4)).2 = readReg s (a + 4))
  ∧ (miRange a n = true → Runs (.nvmeMiRegisterRead a n) s fun t => t.mgmt.smbAddrWaiting = none ∧
      ∃ vs, t.mgmt.responses = s.mgmt.responses ++ [(0, vs)] ∧ vs.length = n ∧ t.life = s.life ∧ t.mem = s.mem ∧
        vs = (readMany .sideband n a (noteMessage s)).2)
  ∧ (miRange a n = false → Runs (.nvmeMiRegisterRead a n) s fun t => t.mgmt.responses = s.mgmt.responses ++ [(miInvalid, [])] ∧
      t = { s with regs := t.regs, mgmt := t.mgmt })
  ∧ (miRange a l.length = false → Runs (.nvmeMiRegisterWrite a l) s fun t =>
      t.mgmt.responses = s.mgmt.responses ++ [(miInvalid, [])] ∧ t = { s with regs := t.regs, mgmt := t.mgmt })
  ∧ (miRange a 1 = true → ∀ v, Gives (.nvmeMiRegisterWrite a [v]) s (endMessage (respond (writeReg (noteMessage s) .sideband a v) 0 [])))
  ∧ (1 ≤ n → n ≤ 254 → Runs (.mctpSetEndpointId n) s fun t => t = { s with regs := t.regs, mgmt := t.mgmt } ∧
      getF t Reg.MGMT_CFG Fld.MGMT_CFG_eid = n ∧ getF t Reg.MGMT_STAT Fld.MGMT_STAT_eid_valid = 1)

/-- R46, R48, R109, R118, R210, R539, R545: what the registers with a rule of their own store. A level limit outside the bounds
that the levels below and above allow, and suspension limits whose worst-case time exceeds the channel's limit, are refused
with a timeout-inconsistent event; others are stored. The reserve mask keeps the bits of the stands in service; the dump
window refuses a store it cannot name and a length above 16,384; a release clears suspect; the injection is armed. -/
def Obligations.LimitAndReserveWrites : Prop := ∀ (s : State) (r : Requester) (v : Word),
  (∀ a p, livePage s a = some p → Reaches s r a → a % 4096 = Reg.TMO_LIMIT → p.kind.tmo.isSome = true →
    bitsOf v.toNat 31 30 ≠ 3 → bitsOf v.toNat 29 0 ≠ 0 →
    ((limitBounds s p).1 ≤ limitTicks v.toNat ∧ limitTicks v.toNat ≤ (limitBounds s p).2 →
      Gives (.tmoLimitWrite r a v) s (setReg s a v))
    ∧ (limitTicks v.toNat < (limitBounds s p).1 ∨ (limitBounds s p).2 < limitTicks v.toNat →
      ∃ x, Gives (.tmoLimitWrite r a v) s (post s (a / 4096 * 4096) 0x0002 0 v.toNat x)))
  ∧ (∀ ch : ChanPath, ch.ok = true → Reaches s r (chanPage ch.index + Reg.CH_SUSP_CFG) → bitsOf v.toNat 15 0 ≠ 0 →
    suspTime (v.toNat &&& 0x0FF0FFFF) ≤ limitOf s (chanPage ch.index) →
    Gives (.chSuspCfgWrite r ch v) s (setReg s (chanPage ch.index + Reg.CH_SUSP_CFG) (BitVec.ofNat 32 (v.toNat &&& 0x0FF0FFFF))))
  ∧ (∀ n, n < 4 → Reaches s r (Reg.DSP_RESERVE + 4 * n) → Runs (.dspReserveWrite r n v) s fun t => onlyRegs s t ∧
    regsBut [Reg.DSP_RESERVE + 4 * n] s t ∧ ∀ b, b < 32 → bitOf (regGet t (Reg.DSP_RESERVE + 4 * n)).toNat b =
      (standPresent s ((32 * n + b) / 16) && bitOf v.toNat b))
  ∧ (Reaches s r Reg.DUMP_WIN_LEN → (bitsOf v.toNat 14 0 ≤ 16384 → Gives (.dumpWinWrite r Reg.DUMP_WIN_LEN v) s (setReg s Reg.DUMP_WIN_LEN (v &&& 0x7FFF)))
    ∧ (bitsOf v.toNat 14 0 > 16384 → Gives (.dumpWinWrite r Reg.DUMP_WIN_LEN v) s (refuse s Reg.DUMP_WIN_LEN v)))
  ∧ ∀ c : CopsePath, c.ok = true →
    (Reaches s r (copsePage1 c.index + Reg.COPSE_HEALTH_CTL) → Runs (.copseHealthRelease r c) s fun t => onlyRegs s t ∧
      copseSuspect t c.index = false ∧ regsBut [copsePage1 c.index + Reg.COPSE_HEALTH] s t)
    ∧ (Reaches s r (copsePage1 c.index + Reg.COPSE_CHK_INJECT) → Runs (.copseChkInjectArm r c v) s fun t =>
      bitOf (regGet t (copsePage1 c.index + Reg.COPSE_CHK_INJECT)).toNat 31 = true ∧ onlyPanel s t)

/-- R8, R517, R530: err_clr clears a page's error counts and last error in one action; a write of EVT_CAUSE clears the bits
written as 1 and no other; EVT_FORCE posts a forced event for each category bit, sets their cause bits, and enters a record
in the event log for those that the page does not mask. -/
def Obligations.EventRegisters : Prop := ∀ (s : State) (r : Requester) (page : Nat) (v : Word),
  let pg := page / 4096 * 4096
  (Reaches s r (pg + Reg.BLK_CTL) → Runs (.errClr r page) s fun t => onlyRegs s t ∧
    regsBut [pg + Reg.ERR_CE_COUNT, pg + Reg.ERR_UE_COUNT, pg + Reg.ERR_LAST_CODE, pg + Reg.ERR_LAST_ADDR_LO, pg + Reg.ERR_LAST_ADDR_HI] s t ∧
    regGet t (pg + Reg.ERR_CE_COUNT) = 0 ∧ regGet t (pg + Reg.ERR_UE_COUNT) = 0 ∧ regGet t (pg + Reg.ERR_LAST_CODE) = 0 ∧
    regGet t (pg + Reg.ERR_LAST_ADDR_LO) = 0 ∧ regGet t (pg + Reg.ERR_LAST_ADDR_HI) = 0)
  ∧ (Reaches s r (pg + Reg.EVT_CAUSE) → Runs (.evtCauseClear r page v) s fun t => onlyRegs s t ∧
    regsBut [pg + Reg.EVT_CAUSE] s t ∧
    ∀ i, i < 32 → bitOf (regGet t (pg + Reg.EVT_CAUSE)).toNat i = (bitOf (regGet s (pg + Reg.EVT_CAUSE)).toNat i && !bitOf v.toNat i))
  ∧ (Reaches s r (pg + Reg.EVT_FORCE) → Runs (.evtForce r page v) s fun t => onlyPanel s t ∧
    ∀ i, i < 11 → bitOf (regGet t (pg + Reg.EVT_CAUSE)).toNat i = (bitOf (regGet s (pg + Reg.EVT_CAUSE)).toNat i || bitOf v.toNat i))
  ∧ ∀ n, n < 11 → Reaches s r (pg + Reg.EVT_FORCE) → bitOf (regGet s (pg + Reg.EVT_MASK)).toNat n = false ∨ n = 10 →
    s.ras.log.length < 16384 → Runs (.evtForce r page (BitVec.ofNat 32 (2 ^ n))) s fun t =>
      t.ras.log = s.ras.log ++ [⟨s.tb, s.ras.nextSeq, n * 256 + 0xFF, 0, (resetWord pg).toNat, 1, 0, 0, true⟩] ∧
      t.ras.nextSeq = s.ras.nextSeq + 1

/-- R9, R440, R543, R547, R548: a selection or a snap takes the quota snapshot of the selected partition and tier (zeros of an
absent one), and changes nothing else; peak_clr first sets the peak to the present charge. PART_CFG is stored in a partition
that is created or the operator's and refused in any other. DBG_REQ_CFG is refused from the host and stored from the
sideband and JTAG; MGMT_CFG takes the SMBus address. -/
def Obligations.QuotaAndConfigRegs : Prop := ∀ (s : State) (r : Requester) (v : Word),
  let snap := fun (t : State) (p tier : Nat) =>
    let at0 := fun (l : List Nat) => if aHas s.life p then listAt l tier % 2 ^ 64 else 0
    getPair t Reg.QUOTA_LIMIT_LO = at0 (getPart s p).quota ∧ getPair t Reg.QUOTA_CHARGE_LO = at0 (getPart s p).charge
  let selP := bitsOf (regGet s Reg.QUOTA_SEL).toNat 11 0
  let selT := getF s Reg.QUOTA_SEL Fld.QUOTA_SEL_tier
  let shown := [Reg.QUOTA_SEL, Reg.QUOTA_LIMIT_LO, Reg.QUOTA_LIMIT_HI, Reg.QUOTA_CHARGE_LO, Reg.QUOTA_CHARGE_HI, Reg.QUOTA_PEAK_LO,
    Reg.QUOTA_PEAK_HI, Reg.QUOTA_OVER]
  (Reaches s r Reg.QUOTA_SEL → Runs (.quotaSelWrite r v) s fun t => onlyRegs s t ∧ regsBut shown s t ∧
    regGet t Reg.QUOTA_SEL = v &&& 0x00070FFF ∧ snap t (bitsOf v.toNat 11 0) (bitsOf v.toNat 18 16))
  ∧ (Reaches s r Reg.QUOTA_CTL → Runs (.quotaSnap r) s fun t => onlyRegs s t ∧ regsBut (shown.drop 1) s t ∧ snap t selP selT)
  ∧ (Reaches s r Reg.QUOTA_CTL → aHas s.parts selP = true → selT < (getPart s selP).peak.length →
    Runs (.quotaPeakClr r) s fun t => t = { s with regs := t.regs, parts := t.parts } ∧
      listAt (getPart t selP).peak selT = listAt (getPart s selP).charge selT ∧ snap t selP selT ∧
      getPart t selP = { getPart s selP with peak := (getPart t selP).peak } ∧ ∀ p, p ≠ selP → getPart t p = getPart s p)
  ∧ (Reaches s r Reg.PART_CFG → ∀ p, p = getF s Reg.PART_SEL Fld.PART_SEL_partition →
    (partState s p = some .created ∨ partState s p = some .operator → Runs (.partCfgWrite r v) s fun t =>
      t = { s with parts := t.parts } ∧ t = updPart s p fun q => { q with cfg := v.toNat % 8 })
    ∧ (partState s p ≠ some .created → partState s p ≠ some .operator → Gives (.partCfgWrite r v) s (refuse s Reg.PART_CFG v)))
  ∧ (Reaches s r Reg.DBG_REQ_CFG → Runs (.dbgReqCfgWrite r v) s fun t =>
    if r = .host then t = refuse s Reg.DBG_REQ_CFG v
    else onlyRegs s t ∧ regsBut [Reg.DBG_REQ_CFG] s t ∧ getF t Reg.DBG_REQ_CFG Fld.DBG_REQ_CFG_host = v.toNat % 2)
  ∧ (Reaches s r Reg.MGMT_CFG → r = .sideband ∨ s.mgmt.smbAddrWaiting = none → Runs (.smbAddrWrite r v) s fun t =>
    t = { s with regs := t.regs, mgmt := t.mgmt } ∧ regsBut [Reg.MGMT_CFG] s t ∧ t.mgmt.smbAddrWaiting = none ∧
    getF t Reg.MGMT_CFG Fld.MGMT_CFG_smb_addr = bitsOf v.toNat 6 0)

/-- R437, R438, R548, R549: a debug read shows one line's result code, owner and bytes in the debug page and changes nothing but
registers; a line that is refused shows result 6. Whatever the state and the address, a line is shown as plaintext only where
partition 0 owns it: a line of any other partition is shown encrypted or masked, and a masked or poisoned line shows zeros.
R501, R502: an ECC test raw write stores the data and check bytes of the test registers exactly as given and clears the
line's poison; a raw read shows a line's stored data and check bytes undecoded; a checked read of a line found clean shows
its data, and one found uncorrectable poisons the line and shows zeros. Outside the line no byte of memory changes. An
address that test operations may not reach is refused with result 5. -/
def Obligations.DebugReadsAndEccTests : Prop :=
  (∀ (s : State) (r : Requester) (byLocation : Bool),
    (Reaches s r Reg.DBG_MEM_CTL → Runs (.dbgMemRead r byLocation) s fun t => onlyRegs s t ∧
      ∃ l, l = debugLine (setF s Reg.DBG_MEM_CTL Fld.DBG_MEM_CTL_kind (if byLocation then 1 else 0)) byLocation (getPair s Reg.DBG_MEM_ADDR_LO) ∧
        (l = none → regGet t Reg.DBG_MEM_STAT = 0xC0000000 ∧ ∀ n, n < 16 → regGet t (Reg.DBG_MEM_DATA + 4 * n) = 0)
        ∧ ∀ d, l = some d → regGet t Reg.DBG_MEM_STAT = BitVec.ofNat 32 (d.result * 2 ^ 29 + d.owner * 2 ^ 16) ∧
          ∀ n, n < 16 → regGet t (Reg.DBG_MEM_DATA + 4 * n) = if d.result ≥ 4 then 0 else BitVec.ofNat 32 (leAt d.bytes (4 * n) 4))
    ∧ ∀ a d, debugLine s byLocation a = some d → (d.result = 2 ∨ d.result = 3 ∨ d.result = 4 ∨ d.result = 5) ∧
        (d.result = 2 → d.owner = 0) ∧ (d.result = 4 ∨ d.result = 5 → d.bytes = zeros 64))
  ∧ (∀ (s : State) (r : Requester),
    let code := getPair s Reg.RAS_ECCT_ADDR_LO
    let key := keyOfCode code
    let others := fun (t : State) => ∀ x, (x < key ∨ key + 64 ≤ x) → bGet t.mem.bytes x = bGet s.mem.bytes x
    let res := fun (t : State) => (regGet t Reg.RAS_ECCT_STAT).toNat / 2 ^ 29
    Reaches s r Reg.RAS_ECCT_CTL →
    (ecctTarget s code = true →
      Runs (.ecctRawWrite r) s (fun t => res t = 2 ∧ isPoisoned t.mem key = false ∧ others t ∧
        aGet? t.mem.raw key = some ⟨(List.range 16).flatMap fun n => toLe 4 (regGet s (Reg.RAS_ECCT_DATA + 4 * n)).toNat,
          toLe 8 (getPair s Reg.RAS_ECCT_CHK_LO)⟩ ∧ t = { s with regs := t.regs, mem := t.mem })
      ∧ Runs (.ecctRawRead r) s (fun t => onlyRegs s t ∧ res t = 2 ∧
        getPair t Reg.RAS_ECCT_CHK_LO = leAt (storedLine s key).2 0 8 ∧
        ∀ n, n < 16 → regGet t (Reg.RAS_ECCT_DATA + 4 * n) = BitVec.ofNat 32 (leAt (storedLine s key).1 (4 * n) 4))
      ∧ ((aGet? s.mem.raw key).isSome ∨ isPoisoned s.mem key = false →
        Runs (.ecctCheckedRead r .clean) s (fun t => onlyRegs s t ∧ res t = 2 ∧
          ∀ n, n < 16 → regGet t (Reg.RAS_ECCT_DATA + 4 * n) = BitVec.ofNat 32 (leAt (storedLine s key).1 (4 * n) 4))
        ∧ ∀ syn, Runs (.ecctCheckedRead r (.uncorrectable syn)) s (fun t => res t = 4 ∧ isPoisoned t.mem (lineOf key) = true ∧
          (regGet t Reg.RAS_ECCT_STAT).toNat % 2 ^ 16 = syn.toNat ∧
          (∀ x, (x < lineOf key ∨ lineOf key + 64 ≤ x) → bGet t.mem.bytes x = bGet s.mem.bytes x) ∧
          ∀ n, n < 16 → regGet t (Reg.RAS_ECCT_DATA + 4 * n) = 0)))
    ∧ (ecctTarget s code = false → Runs (.ecctRawWrite r) s (fun t => onlyPanel s t ∧ res t = 5)
        ∧ Runs (.ecctRawRead r) s (fun t => onlyPanel s t ∧ res t = 5)))

/-- R259 to R262: a measure of an unmeasured model starts a measurement, which ends with the model measured and its SHA-512 in
the digest registers, or, where a read of the set fails, unmeasured with a measure-failed event; unseal ends the measured
state and zeroes the digest while no tagged job is bound, and is refused otherwise. Partition data and memory do not
change.
R280, R283, R284: a designation is stored where it names a loaded commons almanac of the register's kind that the overlap or
the batch size in force fits, and is refused otherwise; an overlap above half the designated almanac's input, a batch size of
0 or above its rows, and a gathering window of 0 keep their old value with a write-refused event, the other field being
stored. -/
def Obligations.CommonsRegisters : Prop :=
  (∀ (s : State) (r : Requester),
    let model := fun (t : State) => getF t Reg.COMMONS_STAT Fld.COMMONS_STAT_model
    let digest := fun (t : State) (d : List Byte) => ∀ n, n < 16 → regGet t (Reg.COMMONS_MODEL_DIGEST + 4 * n) = BitVec.ofNat 32 (leAt d (4 * n) 4)
    (Reaches s r Reg.COMMONS_MODEL_CTL →
      (model s = 0 → Runs (.commonsMeasure r) s fun t => onlyRegs s t ∧ model t = 1 ∧ regsBut [Reg.COMMONS_STAT] s t)
      ∧ (model s ≠ 0 → Gives (.commonsMeasure r) s (refuse s Reg.COMMONS_MODEL_CTL 1))
      ∧ (taggedBound s = false → Runs (.commonsUnseal r) s fun t => onlyRegs s t ∧ model t = 0 ∧ digest t (zeros 64))
      ∧ (taggedBound s = true → Gives (.commonsUnseal r) s (refuse s Reg.COMMONS_MODEL_CTL 2)))
    ∧ (model s = 1 →
      (∀ b, modelBytes s = some b → Runs (.measurementComplete true) s fun t => onlyRegs s t ∧ model t = 2 ∧ digest t (sha512 b) ∧
        getPair t Reg.COMMONS_MODEL_BYTES_LO = modelLength s % 2 ^ 64)
      ∧ Runs (.measurementComplete false) s (fun t => onlyPanel s t ∧ model t = 0 ∧
          bitOf (regGet t (pgCommons + Reg.EVT_CAUSE)).toNat 6 = true)
      ∧ (modelBytes s = none → Runs (.measurementComplete true) s fun t => onlyPanel s t ∧ model t = 0))
    ∧ (model s ≠ 1 → ∀ ok, Gives (.measurementComplete ok) s s))
  ∧ (∀ (s : State) (r : Requester) (v : Word),
    (Reaches s r Reg.COMMONS_IDX_ALM →
      (∀ p, commonsPlan s (bitsOf v.toNat 15 0) 2 = some p → 2 * overlapSet s ≤ p.inLen →
        Gives (.commonsIdxAlmWrite r v) s (setReg s Reg.COMMONS_IDX_ALM (v &&& 0x8000FFFF)))
      ∧ ((∀ p, commonsPlan s (bitsOf v.toNat 15 0) 2 = some p → 2 * overlapSet s > p.inLen) →
        Gives (.commonsIdxAlmWrite r v) s (refuse s Reg.COMMONS_IDX_ALM v)))
    ∧ (Reaches s r Reg.COMMONS_QRY_ALM →
      (∀ p, commonsPlan s (bitsOf v.toNat 15 0) 3 = some p → getF s Reg.COMMONS_QRY_CFG Fld.COMMONS_QRY_CFG_max_rows ≤ p.maxRows →
        Gives (.commonsQryAlmWrite r v) s (setReg s Reg.COMMONS_QRY_ALM (v &&& 0x8000FFFF)))
      ∧ (commonsPlan s (bitsOf v.toNat 15 0) 3 = none → Gives (.commonsQryAlmWrite r v) s (refuse s Reg.COMMONS_QRY_ALM v)))
    ∧ (Reaches s r Reg.COMMONS_IDX_CFG →
      ((∀ p, designatedPlan s Reg.COMMONS_IDX_ALM 2 = some p → 2 * bitsOf v.toNat 31 16 ≤ p.inLen) →
        Gives (.commonsIdxCfgWrite r v) s (setReg s Reg.COMMONS_IDX_CFG (v &&& 0xFFFF00FF)))
      ∧ (∀ p, designatedPlan s Reg.COMMONS_IDX_ALM 2 = some p → 2 * bitsOf v.toNat 31 16 > p.inLen →
        Runs (.commonsIdxCfgWrite r v) s fun t => onlyPanel s t ∧
          getF t Reg.COMMONS_IDX_CFG ⟨31, 16⟩ = getF s Reg.COMMONS_IDX_CFG ⟨31, 16⟩ ∧ getF t Reg.COMMONS_IDX_CFG ⟨7, 0⟩ = bitsOf v.toNat 7 0))
    ∧ (Reaches s r Reg.COMMONS_QRY_CFG →
      (bitsOf v.toNat 31 16 ≠ 0 → bitsOf v.toNat 15 0 ≠ 0 →
        (∀ p, designatedPlan s Reg.COMMONS_QRY_ALM 3 = some p → bitsOf v.toNat 15 0 ≤ p.maxRows) →
        Gives (.commonsQryCfgWrite r v) s (setReg s Reg.COMMONS_QRY_CFG v))
      ∧ (bitsOf v.toNat 31 16 = 0 → Runs (.commonsQryCfgWrite r v) s fun t => onlyPanel s t ∧
          getF t Reg.COMMONS_QRY_CFG ⟨31, 16⟩ = getF s Reg.COMMONS_QRY_CFG ⟨31, 16⟩)))

/-- R324 to R328, R331: apply, and the refresh interval of a table that has one, make the staged list the table's target; clear
empties the staged list; a row write appends a row below the table's rows while the list has room, keeps a row that is
already there, and is refused otherwise. A copy that lands turns its row hot with the newest logged content and counts it; a
write-back that lands takes the row out of the hot region, unless the target names it again. -/
def Obligations.HotRows : Prop := ∀ (s : State) (r : Requester) (t0 : Table),
  (aGet? s.tables (selKey s) = some t0 →
    (Reaches s r Reg.TBL_HOT_CTL → Runs (.tblHotApply r) s fun t => aGet? t.tables (selKey s) = some { t0 with target := t0.staged } ∧
      ∀ k, k ≠ selKey s → aGet? t.tables k = aGet? s.tables k)
    ∧ (Reaches s r Reg.TBL_HOT_CTL → Runs (.tblHotClear r) s fun t => t = { s with tables := t.tables } ∧
      ∀ k, aGet? t.tables k = if k = selKey s then some { t0 with staged := [] } else aGet? s.tables k)
    ∧ (Reaches s r Reg.TBL_HOT_ROW → ∀ v : Word,
      (t0.staged.contains v.toNat = false → v.toNat < t0.rows → t0.staged.length < hotCap t0 → Runs (.tblHotRowWrite r v) s fun t =>
        t = { s with tables := t.tables } ∧
        ∀ k, aGet? t.tables k = if k = selKey s then some { t0 with staged := t0.staged ++ [v.toNat] } else aGet? s.tables k)
      ∧ (v.toNat ≥ t0.rows → Gives (.tblHotRowWrite r v) s (refuse s Reg.TBL_HOT_ROW v))))
  ∧ (∀ p h, aGet? s.tables (tabKey p h) = some t0 → t0.interval ≠ 0 → Runs (.hotRefreshInterval p h) s fun t =>
      aGet? t.tables (tabKey p h) = some { t0 with target := t0.staged } ∧ t.mem = s.mem ∧ t.life = s.life)
  ∧ ∀ n table row j pin i, getJob s n = some j →
    (∀ x, pinWith j table row 0 = some (pin, i) → aGet? pin.hot row = some x → Runs (.hotRowCopyLanded n table row) s fun t =>
      t = { s with regs := t.regs, jobs := t.jobs } ∧
      ∃ j' pin', getJob t n = some j' ∧ j'.tables[i]? = some pin' ∧
        ∀ k, aGet? pin'.hot k = if k = row then some ⟨2, false, x.log.getLastD x.copy, []⟩ else aGet? pin.hot k)
    ∧ (∀ s1, pinWith j table row 3 = some (pin, i) → aGet? s.tables (tabKey j.partition table) = some t0 →
      writeHome s n pin t0 row (aGetD pin.hot row ⟨3, false, [], []⟩).copy = some s1 → pin.target.contains row = false →
      Gives (.hotRowWritebackLanded n table row) s (updPin s1 n i fun p => { p with hot := aDel p.hot row }))

/-- R465, R485: input-low posts its event, sets PWR_STAT.input_low and holds the cap at 900 W until the input has recovered;
input-high is shown until the input falls back; a change of PWR_CAP sets the stands to the highest row voltage whose table
power fits the cap less the non-core power. Only registers, logs, host events and the power manager's own state change, and
one free value is spent where the non-core power is measured.
R246, R465 to R468, R486, R557: holdup, entered by a low or too high input, by PWRDIS or by a thermal trip, ends the
commands and queues, takes the links down and keeps every buffered unit where stacked memory is in use; too high an input and
PWRDIS open the switch too. When the record is durable the log keeps the unread events, and the module warm-starts where the
input is back, or powers down. PWRDIS released closes the switch. No partition changes its state. -/
def Obligations.InputAndHoldup : Prop :=
  (∀ s : State,
    (ready s = true → Runs .inputLow s fun t => t = { s with regs := t.regs, ras := t.ras, host := t.host, power := t.power, fresh := s.fresh + 1 } ∧
      getF t Reg.PWR_STAT Fld.PWR_STAT_input_low = 1 ∧ t.power.lowCap = true ∧ capInForce t ≤ 900 ∧
      bitOf (regGet t (pgPower + Reg.EVT_CAUSE)).toNat 7 = true)
    ∧ (ready s = true → s.power.lowCap = true → Runs .inputLowClear s fun t =>
      t = { s with regs := t.regs, power := t.power, fresh := s.fresh + 1 } ∧
      getF t Reg.PWR_STAT Fld.PWR_STAT_input_low = 0 ∧ t.power.lowCap = false)
    ∧ (s.power.rails = true ∨ s.power.safe = true → Runs .inputHigh s fun t => onlyPanel s t ∧
      getF t Reg.PWR_STAT Fld.PWR_STAT_input_high = 1)
    ∧ Runs .inputHighClear s (fun t => onlyRegs s t ∧ regsBut [Reg.PWR_STAT] s t ∧ getF t Reg.PWR_STAT Fld.PWR_STAT_input_high = 0)
    ∧ ∀ (r : Requester) (v : Word) (w : Nat), Reaches s r Reg.PWR_CAP → ready s = true → s.power.ps < 2 →
      600 ≤ bitsOf v.toNat 15 0 → bitsOf v.toNat 15 0 ≤ 1800 → getF s Reg.PWR_CAP Fld.PWR_CAP_cap_w ≠ bitsOf v.toNat 15 0 →
      Runs (.pwrCapWrite r v w) s fun t => getF t Reg.PWR_CAP Fld.PWR_CAP_cap_w = bitsOf v.toNat 15 0 ∧ t.power.holdBack = false ∧
        t.power.setPoint = fitVoltage (getF s Reg.PWR_VLIM Fld.PWR_VLIM_vmax) (standsInService s).length (capInForce t - w) ∧
        t = { s with regs := t.regs, ras := t.ras, host := t.host, power := t.power })
  ∧ (∀ (s : State),
    let down := fun (t : State) => getF t Reg.PWR_STAT Fld.PWR_STAT_state = 2 ∧ t.host.outstanding = [] ∧ t.host.sqs = [] ∧
      t.host.rdy = false ∧ t.host.linkUp = false ∧ t.life = s.life ∧ (carriesData s = true → t.ftl.holdup = t.ftl.buf)
    (inHoldup s = false → (s.power.rails = true ∨ s.power.safe = true) →
      Runs .holdup s down
      ∧ Runs .inputOvervoltage s (fun t => down t ∧ t.power.inputOn = false)
      ∧ Runs .pwrdisAssert s (fun t => down t ∧ t.power.inputOn = false ∧ t.power.pwrdis = true)
      ∧ ∀ st tj, s.power.rails = true → (standsInService s).contains st = true → getF s Reg.PWR_TEMP Fld.PWR_TEMP_trip ≤ tj →
        Runs (.thermalTrip st tj) s fun t => down t ∧ t.power.tripped = true ∧ bitOf (regGet t (pgPower + Reg.EVT_CAUSE)).toNat 7 = true)
    ∧ (getF s Reg.PWR_STAT Fld.PWR_STAT_state = 2 → s.power.rails = true → s.power.safe = false →
      (s.power.pwrdis = false → s.power.inputOn = true → s.power.tripped = false → s.ras.halted = false →
        Runs (.holdupComplete true true) s fun t => t.power.starting = true ∧ getF t Reg.START_STAT Fld.START_STAT_kind = 1 ∧
          getF t Reg.FTL_HOLDUP Fld.FTL_HOLDUP_result = 1 ∧ t.ftl.holdupComplete = true ∧ (∀ e ∈ t.ras.log, e.unread = true) ∧
          getPair t Reg.TB_WARM_LO = t.tb % 2 ^ 64 ∧ t.life = s.life)
      ∧ ∀ kept, Runs (.holdupComplete false kept) s fun t => t.power.rails = false ∧ t.ftl.holdupComplete = true ∧ t.life = s.life ∧
        (∀ e ∈ t.ras.log, e.unread = true) ∧ getF t Reg.PWR_STAT Fld.PWR_STAT_state = if s.power.tripped then 4 else 2)
    ∧ (s.power.pwrdis = true → Gives .pwrdisRelease s { s with power := { s.power with pwrdis := false, inputOn := true } }))

/-- R471, R474, R521, R562: PERST#, NSSR and PWR_CTL.warm_req begin a warm start of a module that runs, with its queues and
commands ended; CC.EN going to 0, loss of REFCLK and a link down without PERST# reset the controller's queues and commands
and are no start; CC.EN going to 1 offers the admin queue once the map is ready; a configuration request is answered with
retry status until step 8. No partition changes its state. -/
def Obligations.ResetsAndLink : Prop := ∀ (s : State) (r : Requester),
  let warm := fun (t : State) => t.power.starting = true ∧ getF t Reg.START_STAT Fld.START_STAT_kind = 1 ∧
    getF t Reg.PWR_STAT Fld.PWR_STAT_state = 0 ∧ t.host.outstanding = [] ∧ t.host.sqs = [] ∧ t.host.cfgReady = false ∧
    getPair t Reg.TB_WARM_LO = s.tb % 2 ^ 64 ∧ t.life = s.life
  let quiet := fun (t : State) => t.host.outstanding = [] ∧ t.host.sqs = [] ∧ t.host.cqs = [] ∧ t.host.enabled = false ∧
    t.host.rdy = false ∧ t.life = s.life ∧ t.power = s.power
  (s.ras.halted = false → s.power.safe = false → s.power.starting = false → inHoldup s = false →
    Runs .perstAssert s (fun t => warm t ∧ t.host.perst = true ∧ t.host.linkUp = false)
    ∧ (s.power.rails = true → Runs .nvmSubsystemReset s warm)
    ∧ (Reaches s r Reg.PWR_CTL → Runs (.warmReq r) s warm))
  ∧ (s.ras.halted = false → s.host.enabled = true →
    Runs .controllerReset s quiet
    ∧ (s.host.linkUp = true → s.host.perst = false → Runs .refclkLoss s (fun t => quiet t ∧ t.host.linkUp = false)
      ∧ Runs .pcieLinkDown s (fun t => quiet t ∧ t.host.linkUp = false)))
  ∧ (s.host.cfgReady = true → s.host.enabled = false → s.ras.halted = false → ready s = true →
    getF s Reg.FTL_STAT Fld.FTL_STAT_map = 3 → Runs .controllerEnable s fun t => onlyHost s t ∧ t.host.enabled = true ∧
      t.host.rdy = true ∧ t.host.sqs = [(0, ⟨4096, 0, 0, 0⟩)] ∧ t.host.cqs = [(0, ⟨4096, 0, true, 0, 0⟩)])
  ∧ (∀ ok : Bool, Runs (.perstDeassert ok) s fun t => onlyHost s t ∧ t.host.perst = false ∧
      t.host.linkUp = (ok && (s.power.rails || s.power.safe || s.power.starting)))
  ∧ (s.host.perst = false → Gives .configurationRequest s { s with host := { s.host with linkUp := true, cfgAnswers := s.host.cfgAnswers ++ [s.host.cfgReady] } })

/-- R482: a write of 1 to PWR_CTL.safe_exit, in a safe start, clears the start-log count and begins a cold start; a start that
fails after that counts afresh from 1. -/
def Obligations.SafeExitStartsAfresh : Prop := ∀ (s : State) (r : Requester), Reaches s r Reg.PWR_CTL → s.power.safe = true →
  Runs (.safeExit r) s fun t => t.power.logFails = 0 ∧ getF t Reg.START_STAT Fld.START_STAT_fails = 0 ∧
    t.power.starting = true ∧ t.power.safe = false ∧ getF t Reg.START_STAT Fld.START_STAT_kind = 0 ∧ t.life = s.life ∧
    (s.power.pwrdis = false → ∀ rep x, coldFailure (countCold (leaveHoldup t)) rep = some x →
      Runs (.coldStart rep) t fun w => w.power.logFails = 1 ∧ getF w Reg.START_STAT Fld.START_STAT_fails = 1)

/-- R506: a hub watchdog fire, or a control fault in a hub sequencer, of a module with power that has neither halted nor entered holdup: after step 8 of a start it begins a
warm start (the queues end, the timebase is kept in TB_WARM), during a start the start fails with reason 8 and is counted, and within 60 s after the end of a warm start that a hub
fault caused it is fatal: the module halts. -/
def Obligations.HubFaults : Prop := ∀ (s : State) (i : Instr),
  ((∃ k, k < 10 ∧ i = .watchdogFire k) ∨ ∃ k g, i = .controlParityFault (.hub k) g) →
  s.ras.halted = false → inHoldup s = false → hubPowered s = true →
  let again := ∃ e, s.ras.hubFaultWarmEnd = some e ∧ s.tb ≤ e + 6000000000
  (s.power.starting = false → s.power.safe = false → ¬ again → Runs i s fun t => t.power.starting = true ∧ ready t = false ∧
    getF t Reg.START_STAT Fld.START_STAT_kind = 1 ∧ getPair t Reg.TB_WARM_LO = s.tb % 2 ^ 64 ∧ t.ras.halted = false ∧
    t.host.sqs = [] ∧ t.life = s.life)
  ∧ (s.power.starting = true → Runs i s fun t => t.power.starting = true ∧ t.power.logFails = s.power.logFails + 1 ∧
    t.ras.halted = false ∧ getF t Reg.START_STAT Fld.START_STAT_reason = 8 ∧
    getF t Reg.START_STAT Fld.START_STAT_fails = min (s.power.logFails + 1) 255)
  ∧ (s.power.starting = false → again → Runs i s fun t => t.ras.halted = true ∧ getF t Reg.RECOV_STAT Fld.RECOV_STAT_use = 3)

/-- R511 to R515: a fatal error halts the module, ends jobs, searches and gang steps and puts the dump into recovery memory; in
holdup, or without power, it leaves only its record. Once the dump is in its slot, the fatal errors are counted. A hub fault in a safe start begins a cold start (R471). -/
def Obligations.FatalErrors : Prop :=
  (∀ (s : State) (k : Nat), k < 10 → s.ras.halted = false → inHoldup s = false → s.power.safe = true → s.power.starting = false →
    (∀ e, s.ras.hubFaultWarmEnd = some e → e + 6000000000 < s.tb) → Runs (.watchdogFire k) s fun t => t.power.starting = true ∧
      getF t Reg.START_STAT Fld.START_STAT_kind ≠ 1 ∧ t.ras.log = [] ∧ t.host.sqs = [] ∧ t.life = s.life)
  ∧ (∀ s : State,
    (hubPowered s = true → inHoldup s = false → s.ras.halted = false → Runs .fatalError s fun t => t.ras.halted = true ∧
      t.power.starting = false ∧ t.jobs = [] ∧ t.searches = [] ∧ t.gangs = [] ∧ t.life = s.life ∧ t.host.sqs = s.host.sqs ∧
      getF t Reg.RECOV_STAT Fld.RECOV_STAT_use = 3 ∧ t.ras.dumpSeq = s.ras.dumpSeq + 1 ∧
      ∃ d, t.ras.dumpHeld = some d ∧ d.seq = s.ras.dumpSeq + 1 ∧ d.code = 0x0A01 ∧ d.stamp = s.tb)
    ∧ ((hubPowered s = false ∨ inHoldup s = true) → Runs .fatalError s fun t => onlyPanel s t ∧ t.ras.halted = s.ras.halted ∧
      t.ras.dumpHeld = s.ras.dumpHeld))
  ∧ ∀ (s : State) (d : Dump), s.ras.halted = true → inHoldup s = false → s.ras.dumpHeld = some d → s.ras.slots.length = 2 →
    (∀ x ∈ s.ras.slots, ∀ y, x.dump = some y → y.seq ≠ d.seq) → Runs .dumpCopyComplete s fun t =>
      t = { s with regs := t.regs, ras := { s.ras with slots := t.ras.slots } } ∧ t.ras.slots.length = 2 ∧
      { state := 1, dump := some d } ∈ t.ras.slots ∧
      (regGet t Reg.RAS_FATAL).toNat = min ((regGet s Reg.RAS_FATAL).toNat + 1) 0xFFFFFFFF

/-- R473, R480, R481: a normal shutdown writes a checkpoint of the whole map and a clean-shutdown record and shows its end in
CSTS; an abrupt one voids the record; PWR_CTL.cold_req begins a cold start, scan_en in a safe start erases the key store and
enables internal scan, and ten minutes ready clear the count of failed starts. -/
def Obligations.ShutdownsAndRequests : Prop := ∀ (s : State) (r : Requester),
  (serving s = true → s.power.safe = false →
    Runs .shutdownNormal s (fun t => t.host.shst = 2 ∧ t.ftl.cleanRecord = true ∧ t.ftl.journal = [] ∧ t.ftl.ckpt = t.ftl.map ∧
      t.jobs = [] ∧ t.searches = [] ∧ t.life = s.life ∧ getPair t Reg.FTL_CKPT_SEQ_LO = t.ftl.seq % 2 ^ 64)
    ∧ Runs .shutdownAbrupt s (fun t => t.host.shst = 2 ∧ t.ftl.cleanRecord = false ∧ t.jobs = [] ∧ t.searches = [] ∧ t.life = s.life))
  ∧ (Reaches s r Reg.PWR_CTL → ready s = true ∨ s.power.safe = true ∨ s.ras.halted = true → Runs (.coldReq r) s fun t =>
      t.power.starting = true ∧ getF t Reg.START_STAT Fld.START_STAT_kind = nextKind s ∧ t.host.outstanding = [] ∧
      t.ras.log = [] ∧ t.life = s.life)
  ∧ (Reaches s r Reg.PWR_CTL → s.power.safe = true → Runs (.scanEn r) s fun t => t = { s with regs := t.regs, power := t.power } ∧
      t.power = { s.power with keysErased := true, scan := true } ∧ regsBut [Reg.SEC_STAT] s t ∧ getF t Reg.SEC_STAT Fld.SEC_STAT_blobs = 0)
  ∧ (ready s = true → Runs .startLogClear s fun t => t = { s with regs := t.regs, power := t.power } ∧
      t.power = { s.power with logFails := 0 } ∧ regsBut [Reg.START_STAT] s t ∧ getF t Reg.START_STAT Fld.START_STAT_fails = 0)

/-- R472 to R477, R480, R481: a cold start that finds no failure ends ready, with the timebase at 0, the map ready, the data
keys and sessions gone and the count of cold starts one higher; one that fails is counted with its reason and begins again.
A warm start ends ready with the timebase, data keys and sessions kept. A safe start ends in state 3 with memory empty. No
start changes a partition's state. -/
def Obligations.StartsComplete : Prop := ∀ s : State,
  let up := fun (t : State) (k : Nat) => getF t Reg.START_STAT Fld.START_STAT_ok = 1 ∧ getF t Reg.START_STAT Fld.START_STAT_kind = k ∧
    ready t = true ∧ t.power.starting = false ∧ t.host.cfgReady = true ∧ getF t Reg.FTL_STAT Fld.FTL_STAT_map = 3 ∧ t.life = s.life
  (∀ r : ColdReport, coldDue s = true →
    (coldFailure (countCold (leaveHoldup s)) r = none → Runs (.coldStart r) s fun t => up t 0 ∧ t.tb = 0 ∧
      t.power.coldStarts = s.power.coldStarts + 1 ∧ t.mem.bytes = [] ∧ t.alms = [] ∧ t.jobs = [] ∧
      ∀ p, (getPart t p).dataKey = none ∧ (getPart t p).sessions = [])
    ∧ ∀ step reason, coldFailure (countCold (leaveHoldup s)) r = some (step, reason) → Runs (.coldStart r) s fun t =>
      t.power.logFails = s.power.logFails + 1 ∧ t.power.logReason = reason ∧ t.power.starting = true ∧
      getF t Reg.START_STAT Fld.START_STAT_ok = 0 ∧ t.life = s.life)
  ∧ (∀ r : WarmReport, s.power.starting = true → getF s Reg.START_STAT Fld.START_STAT_kind = 1 →
    Runs (.warmStart r) s fun t => up t 1 ∧ t.tb = s.tb ∧
      ∀ p, (getPart t p).dataKey = (getPart s p).dataKey ∧ (getPart t p).sessions = (getPart s p).sessions)
  ∧ ∀ r : ColdReport, s.power.pwrdis = false → s.power.logFails ≥ 3 → s.power.starting = true →
    getF s Reg.START_STAT Fld.START_STAT_kind ≠ 1 → safeFailure r = none → Runs (.safeStart r) s fun t =>
      getF t Reg.PWR_STAT Fld.PWR_STAT_state = 3 ∧ t.power.safe = true ∧ t.power.rails = false ∧ t.mem = Mem.empty ∧
      getF t Reg.SEC_STAT Fld.SEC_STAT_safe_start = 1 ∧ t.host.cfgReady = true ∧ t.life = s.life

/-- R402, R483, R485, R486: entry to the power state that was asked for, and an autonomous transition, leave the module in that
state, and one to PS3 or PS4 leaves every on-chip byte zero. A power sample above the cap lowers every stand one row, or,
with every stand at 600 mV, holds back new passes; a stand at its throttle threshold goes one row down. -/
def Obligations.PowerStates : Prop := ∀ (s : State),
  let wiped := fun (t : State) (ps : Nat) => ps ≥ 3 → ∀ a, locStore a ≠ 3 → locStore a ≠ 8 → bGet t.mem.bytes a = 0
  (∀ ps, ready s = true → s.ras.halted = false → s.power.wanted = some ps → ps = 1 ∨ (2 ≤ ps ∧ ps ≤ 4 ∧ moduleIdle s = true) →
    Runs (.powerStateEntry ps) s fun t => t.power.ps = ps ∧ t.power.wanted = none ∧ wiped t ps ∧ t.life = s.life)
  ∧ (∀ ps, apstTarget s = some ps → ready s = true → s.ras.halted = false → moduleIdle s = true → s.power.ps < ps → 2 ≤ ps → ps ≤ 4 →
    Runs .apstTransition s fun t => t.power.ps = ps ∧ wiped t ps ∧ t.life = s.life)
  ∧ (∀ watts under, ready s = true → s.power.ps < 2 → watts > capInForce s → Runs (.powerSample watts under) s fun t =>
    t = { s with regs := t.regs, power := t.power } ∧ getF t Reg.PWR_STAT Fld.PWR_STAT_pin = min watts 65535 ∧
    ((∀ st ∈ standsInService s, vsetOf s st ≤ 600) → t.power = { s.power with holdBack := true })
    ∧ ((∃ st ∈ standsInService s, vsetOf s st > 600) → ∀ st ∈ standsInService s, vsetOf t st = rowBelow (vsetOf s st)))
  ∧ ∀ st tj, ready s = true → s.power.ps < 3 → (standsInService s).contains st = true → getF s Reg.PWR_TEMP Fld.PWR_TEMP_throttle ≤ tj →
    vsetOf s st > 600 → Runs (.thermalThrottleTick st tj) s fun t => t = { s with regs := t.regs, power := t.power } ∧
      vsetOf t st = rowBelow (vsetOf s st) ∧ t.power.throttled.contains st = true ∧
      getF t (standBase st + Reg.STAND_TJ) Fld.STAND_TJ_tj_max = min tj 255

/-- R292 to R303: a VZ_SEARCH with a query vector in order waits for dispatch, one with query text joins the batch that gathers;
dispatch assigns the sequencer with the fewest searches and pins the graph version in force; a round that has nothing left to
expand, or no hops left, ends the search's traversal, and any other counts a hop for each node it expands; a scan marks the
search scanned; completion removes the search and completes its command, with Short where fewer than k entries were found. -/
def Obligations.SearchLifecycle : Prop := ∀ (s u : State) (c : Cmd) (o : Opened) (q : Req),
  (SealedBegins s c 0x83 true false false o u q → c.cdw11 = 0 → c.cdw13 = 0 → descriptorOk q.pay = true → unsealed u q.part = false →
    (getIndex u q.part).isSome = true → dataLoaded u q.part = true → bitOf (descFlags q.pay) 2 = false → bitOf (descFlags q.pay) 3 = false →
    leAt q.pay 0x10 4 = queryBytes (getPart u q.part).desc → q.pay.length = 64 + filterLen q.pay + leAt q.pay 0x10 4 →
    (readFilter q.pay 64 (leAt q.pay 0x0C 1) (gAttrs (getPart u q.part).desc)).isSome = true →
    queryNan (getPart u q.part).desc (sub q.pay (64 + filterLen q.pay) (leAt q.pay 0x10 4)) = false →
    roomFor q (searchAnswerLen (leAt q.pay 0 2) (descFlags q.pay)) = true →
    Runs (.vzSearch c o) s fun t => t.nextSearch = u.nextSearch + 1 ∧ t.commons = u.commons ∧
      (∀ k, k ≠ u.nextSearch → aGet? t.searches k = aGet? u.searches k) ∧
      ∃ x, aGet? t.searches u.nextSearch = some x ∧ x.phase = .waiting ∧ x.partition = q.part ∧ x.k = leAt q.pay 0 2 ∧ x.L = leAt q.pay 2 2)
  ∧ ∀ n x, aGet? s.searches n = some x → engineOn s = true →
    (∀ st i s1 l, x.phase = .waiting → (∀ e ∈ s.searches, e.2.phase = .waiting → n ≤ e.1) →
      inFlight s none < getF s Reg.SRCH_CFG Fld.SRCH_CFG_max_inflight → searchStand s = some st → x.restarts = 0 →
      getIndex s x.partition = some i → fits s x.partition 3 (searchPages x * 65536) = true →
      takePages x.partition ((List.range 3).map (3 * st + ·) ++ liveStacks s) (searchPages x) s = some (s1, l) →
      Runs (.searchDispatch n) s fun t => ∃ y, aGet? t.searches n = some y ∧ y.phase = .running ∧ y.stand = st ∧
        y.version = i.version ∧ y.pages = l ∧ t.life = s.life)
    ∧ (∀ bad y, x.phase = .running → readsDone s n = true → aGet? (settleRound s n bad).searches n = some y →
      let xs := if y.hops ≥ y.H then [] else roundPick y.k y.H y.w (walkOf y)
      Runs (.expansionRound n bad) s fun t => ∃ z, aGet? t.searches n = some z ∧ z.partition = x.partition ∧
        if xs = [] then z.phase = (if y.res.length < y.k ∧ bitOf y.flags 0 = true then .stopped else .scanned)
        else z.phase = .running ∧ z.hops = y.hops + xs.length)
    ∧ (∀ bad, x.phase = .stopped → Runs (.exhaustiveScan n bad) s fun t => t.life = s.life ∧
      ∃ z, aGet? t.searches n = some z ∧ z.phase = .scanned ∧ z.scanRun = true ∧ z.hops = x.hops)
    ∧ (∀ e, x.phase = .scanned → peersDone x = true → x.peerOf = none → findOut s x.sqid x.cid = some e →
      Runs (.searchComplete n) s fun t => aGet? t.searches n = none ∧ ∃ v r, t = completeAt v x.sqid x.cid r ∧
        r.dw0 = BitVec.ofNat 32 (answerEntries s x).length ∧
        r.st = if x.restarts > 0 then stRemapped else if (answerEntries s x).length < x.k then stShort else stSuccess)

/-- R283, R460, R461: a peer's request that this module may run adds a search for the peer, and one it may not is refused with
its reason and counted; an answer awaited is merged into its search, one that comes late is counted and discarded; the expiry
of the wait makes every peer still awaited late, so that the search is complete. A query batch queues one job of the query
almanac with a row for each query it takes. -/
def Obligations.FanOutAndBatches : Prop := ∀ (s : State), engineOn s = true →
  (∀ origin op p digest desc query graph, (peersUp s).contains origin = true →
    let s1 := takeInbox s origin 2
    let flags := desc.set 7 (BitVec.ofNat 8 (descFlags desc % 4))
    let f := readFilter desc 64 (leAt desc 0x0C 1) (gAttrs (getPart s p).desc)
    let x := { Search.ofDesc p 0 0 0 flags query (f.getD []) .waiting with peerOf := some (origin, op), fanSince := s.tb }
    (fanRefusal s1 p (toLe 64 digest.toNat) x graph = none → Runs (.fanoutRequest origin op p digest desc query graph) s fun t =>
      aGet? t.searches s.nextSearch = some x ∧ t.nextSearch = s.nextSearch + 1 ∧ t.parts = s.parts ∧ t.mem = s.mem)
    ∧ ∀ r, fanRefusal s1 p (toLe 64 digest.toNat) x graph = some r → Runs (.fanoutRequest origin op p digest desc query graph) s fun t =>
      t.searches = s.searches ∧ t.parts = s.parts ∧ t.mem = s.mem ∧
      (regGet t Reg.FOREST_FAN_REFUSED).toNat = min ((regGet s Reg.FOREST_FAN_REFUSED).toNat + 1) 0xFFFFFFFF)
  ∧ (∀ n x peer counts entries, aGet? s.searches n = some x →
    (awaited x peer = true → Runs (.fanoutAnswer n peer 0 counts entries) s fun t => ∃ y, aGet? t.searches n = some y ∧
      y.answered = x.answered ++ [peer] ∧ y.foreign = x.foreign ++ entries.map (peerEntry (getPart s x.partition).desc peer) ∧
      y.phase = x.phase ∧ t.parts = s.parts)
    ∧ (awaited x peer = false → x.late.contains peer = true → Runs (.fanoutAnswer n peer 0 counts entries) s fun t =>
      t.searches = s.searches ∧ (regGet t Reg.FOREST_FAN_LATE).toNat = min ((regGet s Reg.FOREST_FAN_LATE).toNat + 1) 0xFFFFFFFF)
    ∧ (x.peerOf = none → Runs (.fanoutWaitExpiry n) s fun t => ∃ y, aGet? t.searches n = some y ∧ peersDone y = true ∧
      y.answered = x.answered ∧ y.refused = x.refused ∧ t.parts = s.parts))
  ∧ ∀ h a, s.commons.gather ≠ [] → commonsAlm s Reg.COMMONS_QRY_ALM 3 = some (h, a) → couldBind s a 0 = true →
    chargesFit s 4095 (jobCharges s a) = true → a.owner = 4095 →
    let n := getF s Reg.COMMONS_QRY_CFG Fld.COMMONS_QRY_CFG_max_rows
    Runs .queryBatchStart s fun t => t.commons.gather = s.commons.gather.drop n ∧ t.nextJob = s.nextJob + 1 ∧
      t.commons.queryJobs = s.commons.queryJobs ++ [(s.nextJob, s.commons.gather.take n)] ∧
      ∃ j, aGet? t.jobs s.nextJob = some j ∧ j.kind = 3 ∧ j.handle = h ∧ j.partition = 4095 ∧ j.isBound = false

/-- R25, R27, R282, R306 to R308: VZ_SEASON of a sealed partition with a graph closes its season; the close takes effect once no
batch holds the partition's chunks: the season number rises, the objects still listed go over, and the merged graph is
written under the next version; that version becomes current once no search pins an older one, and the command completes with
the season's number; freeing removes the version before, its staging records and its tombstones. -/
def Obligations.SeasonLifecycle : Prop := ∀ (s u : State) (c : Cmd) (q : Req) (x : Index),
  (PlainBegins s c 0x8C u q → c.cdw10 = 0 → c.cdw11 = 0 → c.cdw13 = 0 → isSealed u q.part = true → getIndex u q.part = some x →
    x.closing = none → Runs (.vzSeason c) s fun t => t.mem = u.mem ∧ t.life = u.life ∧
      getIndex t q.part = some { x with closing := some (Closing.asked c) })
  ∧ ∀ p cl, getIndex s p = some x → x.closing = some cl → engineOn s = true →
    (isSealed s p = true → cl.phase = 0 → batchHolds s p = false → Runs (.seasonTakesEffect p) s fun t => t.life = s.life ∧
      ∃ y d, getIndex t p = some y ∧ y.season = x.season + 1 ∧ y.version = x.version ∧ y.staging = x.staging ∧ y.held = [] ∧
        y.closing = some d ∧ d.phase = 2 ∧ d.objs = x.held ∧ d.next.isSome = true ∧ d.nodes = x.staging.map (·.1) ∧
        (∀ k, (aGet? y.ingest k).isSome = (aGet? x.ingest k).isSome))
    ∧ (∀ g, cl.next = some g → cl.phase = 2 → (pinsVersion s p fun v => decide (v < x.version)) = false →
      Runs (.versionFlip p) s fun t => ∃ y, getIndex t p = some y ∧ y.version = x.version + 1 ∧
        aGet? y.flash (x.version + 1) = some g ∧ y.staging = x.staging ∧ t.mem = s.mem ∧
        (cl.command = true → ∃ v, t = completeAt v cl.sqid cl.cid (replyDw stSuccess (x.season - 1))))
    ∧ (cl.phase = 3 → (pinsVersion s p fun v => decide (v < x.version)) = false → Runs (.versionFreeing p) s fun t =>
      t = { s with index := t.index } ∧ ∃ y, getIndex t p = some y ∧ y.closing = none ∧ y.version = x.version ∧
        (∀ k, k ≠ p → getIndex t k = getIndex s k) ∧ aGet? y.flash (x.version - 1) = none ∧
        (∀ e ∈ y.staging, cl.nodes.contains e.1 = false) ∧ (∀ n ∈ y.tombs, cl.tombs.contains n = false))

/-- R20, R26, R280, R281, R304: an object whose tag holds is authenticated under the partition's load count with its plaintext,
and one whose tag fails leaves the ingest list with an event that names the partition alone; a batch queues one best-effort
job of the indexing almanac with a row for each chunk it takes; an object all of whose chunks are delivered enters its nodes
into staging in one action, or posts that staging is full. -/
def Obligations.IndexingEngine : Prop := ∀ (s : State) (p obj : Nat) (x : Index) (o : Listed),
  (getIndex s p = some x → aGet? x.ingest obj = some o → indexable s p = true → o.auth ≠ some (getPart s p).loads →
    (∀ content, Runs (.objectAuthentication p obj true content) s fun t => t = { s with index := t.index } ∧
      (∀ k, k ≠ p → getIndex t k = getIndex s k) ∧ ∃ y z, getIndex t p = some y ∧ aGet? y.ingest obj = some z ∧
        z.auth = some (getPart s p).loads ∧ z.plain = sub content 0 (o.length - 28) ∧ z.formed = 0 ∧ z.vectors = [])
    ∧ ∀ content, Runs (.objectAuthentication p obj false content) s fun t => ∃ y, getIndex t p = some y ∧
        aGet? y.ingest obj = none ∧ y.tagFails = x.tagFails + 1 ∧ t = { s with regs := t.regs, ras := t.ras, host := t.host, index := t.index })
  ∧ (∀ h a pl, engineOn s = true → indexAlm s = some (h, a) → a.plan = some pl →
    let s1 := (s.index.map (·.1)).foldl staleObjects s
    let rows := batchRows s1 pl.inLen pl.maxRows
    rows ≠ [] → couldBind s1 a 1 = true → chargesFit s1 4095 (jobCharges s1 a) = true → Runs .batchFormation s fun t =>
      t.nextJob = s1.nextJob + 1 ∧ t.commons.batches = s1.commons.batches ++ [⟨s1.nextJob, rows⟩] ∧
      ∃ j, aGet? t.jobs s1.nextJob = some j ∧ j.kind = 2 ∧ j.cls = 1 ∧ j.handle = h ∧ j.isBound = false ∧ j.rows.length = rows.length)
  ∧ ∀ pl, getIndex s p = some x → aGet? x.ingest obj = some o → (indexAlm s).bind (·.2.plan) = some pl → engineOn s = true →
    isSealed s p = true →
    let n := objectChunks s pl.inLen (getPart s p).desc o
    allDelivered o n = true →
    (∀ ids x1, x.staging.length + n ≤ gStaging (getPart s p).desc → takeIds (getPart s p).desc x n = some (ids, x1) →
      Runs (.objectEntry p obj) s fun t => t = { s with regs := t.regs, index := t.index } ∧
        ∃ y, getIndex t p = some y ∧ aGet? y.ingest obj = none ∧ aGet? y.held obj = some o ∧
          (∀ i ∈ ids, ∃ r, aGet? y.staging i = some r ∧ r.object = obj ∧ r.state = 1) ∧ ids.length = n)
    ∧ (x.staging.length + n > gStaging (getPart s p).desc → Runs (.objectEntry p obj) s fun t =>
      ∃ y, getIndex t p = some y ∧ y.ingest = x.ingest ∧ y.staging = x.staging ∧ y.fullPosted = true)

/-- R170, R174, R175, R190, R194, R384: RETIRE of a free stack page retires it, of an allocated one moves its content and its
module address to a free page first, of a retired one has no effect; RETIRE of an on-chip bank waits for the glade, and takes
effect at the first instant without a binding: the lowest unused spare takes the bank's place and is zeroed, with no spare left
the glade is excluded, and a copse's bank excludes the copse. A window request above 16 is refused, another is stored, and
takes effect while the glade holds no binding. An idle bank enters retention. A prefetch makes the next page resident with a pin
or is skipped and counted, and a deferred page whose pins are released leaves. -/
def Obligations.MigrationAndRetirement : Prop := ∀ (s u : State) (c : Cmd) (q : Req),
  (PlainBegins s c 0xCC u q → c.partOf = 0 → bitsOf c.cdw13.toNat 31 4 = 0 → standPresent u (bitsOf c.cdw10.toNat 20 16) = true →
    let st := bitsOf c.cdw10.toNat 20 16
    let k := 3 * st + bitsOf c.cdw10.toNat 9 8
    let p := k * 2 ^ 20 + c.cdw11.toNat
    (c.form = 0 → c.cdw10 &&& ~~~0x001F0300 = 0 → bitsOf c.cdw10.toNat 9 8 ≤ 2 → c.cdw11.toNat < stackPages k →
      (p ∈ u.mem.retired → Gives (.retireStackPage c) s (answered u q (replyDw stSuccess 0)))
      ∧ (p ∉ u.mem.retired → (u.mem.retired.filter fun x => x / 2 ^ 20 == k).length < 4096 →
        (pageFree u.mem p = true → Runs (.retireStackPage c) s fun t => ∃ v, t = answered v q (replyDw stSuccess 0) ∧
          v.mem.bytes = u.mem.bytes ∧ ∀ x, x ∈ v.mem.retired ↔ x = p ∨ x ∈ u.mem.retired)
        ∧ ∀ x d, aGet? u.mem.pages p = some x → x.live = true → u.mem.poison = [] →
          firstPage u (k :: (liveStacks u).filter (· != k)) = some d →
          Runs (.retireStackPage c) s fun t => ∃ v, t = answered v q (replyDw stSuccess 0) ∧ p ∈ v.mem.retired ∧
            aGet? v.mem.pages d = some x ∧ ∀ i, i < 65536 → bGet v.mem.bytes (locPage d + i) = bGet u.mem.bytes (locPage p + i)))
    ∧ (c.form = 1 → c.cdw10 &&& ~~~0x001F303F = 0 → c.cdw11 = 0 → Runs (.retireGladeBank c) s fun t =>
      ∃ v, t = answered v q (replyDw stSuccess 0) ∧ v = { u with glades := v.glades } ∧
        let g := 4 * st + bitsOf c.cdw10.toNat 13 12
        ∀ n, n ∈ (getGlade v g).pendingRetire ↔ n = bitsOf c.cdw10.toNat 5 0 ∨ n ∈ (getGlade u g).pendingRetire)
    ∧ (c.form = 2 → c.cdw10 &&& ~~~0x001F331F = 0 → c.cdw11 = 0 → Runs (.retireCopseScratchBank c) s fun t =>
      ∃ v, t = answered v q (replyDw stSuccess 0) ∧ v = { u with glades := v.glades } ∧
        let g := 4 * st + bitsOf c.cdw10.toNat 13 12
        ∀ n, n ∈ (getGlade v g).pendingRetire ↔ n = 128 + bitsOf c.cdw10.toNat 9 8 ∨ n ∈ (getGlade u g).pendingRetire))
  ∧ (∀ (g : GladePath) (r : Requester) (v : Word), g.ok = true →
    let cfg := gladePage g.index + Reg.GLADE_SCR_CFG
    let rep := gladePage g.index + Reg.GLADE_REPAIR
    let used := getF s rep Fld.GLADE_REPAIR_banks_used
    (gladeBusy s g.index = false → ∀ n, (getGlade s g.index).pendingRetire = [n] →
      (n < 64 → used < 4 → Runs (.bankRetirement g) s fun t => (getGlade t g.index).pendingRetire = [] ∧
        aGet? (getGlade t g.index).bankMap n = some (64 + used) ∧ getF t rep Fld.GLADE_REPAIR_banks_used = used + 1 ∧
        if n < 60 then ∀ a, locStore a = 1 → locGladeNo a = g.index → inBank (locOff a) n = true → bGet t.mem.bytes a = 0
        else ∀ i, i < 524288 → bGet t.mem.bytes (locBank g.index (n - 60) + i) = 0)
      ∧ (n < 64 → 4 ≤ used → Runs (.bankRetirement g) s fun t => (getGlade t g.index).pendingRetire = [] ∧
        getF t rep Fld.GLADE_REPAIR_excluded = 1 ∧ t.mem = s.mem)
      ∧ (128 ≤ n → Runs (.bankRetirement g) s fun t => (getGlade t g.index).pendingRetire = [] ∧
        n ∈ (getGlade t g.index).retired ∧ t = { s with glades := t.glades }))
    ∧ (Reaches s r cfg → (16 < bitsOf v.toNat 20 16 → Gives (.migWinReqWrite r g v) s (refuse s cfg v))
      ∧ (bitsOf v.toNat 20 16 ≤ 16 → Runs (.migWinReqWrite r g v) s fun t => onlyRegs s t ∧ regsBut [cfg] s t ∧
        getF t cfg Fld.GLADE_SCR_CFG_mig_win_req = bitsOf v.toNat 20 16 ∧
        getF t cfg Fld.GLADE_SCR_CFG_mig_win = getF s cfg Fld.GLADE_SCR_CFG_mig_win))
    ∧ (standPresent s g.stand = true → gladeBusy s g.index = false →
      let new := getF s cfg Fld.GLADE_SCR_CFG_mig_win_req * 8
      Runs (.migWinChange g) s fun t => windowSize t g.index = new ∧ t.jobs = s.jobs ∧ t.life = s.life ∧
        ∀ i, i < (windowSize s g.index - new) * 65536 →
          bGet t.mem.bytes (locGlade g.index + 31457280 - windowSize s g.index * 65536 + i) = 0)
    ∧ ∀ bank, standPresent s g.stand = true → ready s = true → s.power.ps < 2 → bankIdle s g.index bank = true →
      getF s (gladePage g.index + Reg.GLADE_RET_CTL) Fld.GLADE_RET_CTL_idle_en = 1 →
      Runs (.idleRetentionEntry g bank) s fun t => t = { s with glades := t.glades } ∧
        ∀ n, n ∈ (getGlade t g.index).retention ↔ n = bank ∨ n ∈ (getGlade s g.index).retention)
  ∧ (∀ n j a k pg, engineOn s = true → getJob s n = some j → jobAlm s j = some a → j.isBound = true → j.finished = false →
    (s.mem.resident.filter fun e => e.2.prefetched == some n).length < j.pfDepth → nextPrefetch s j a = some (k, pg) →
    let s1 := updJob s n fun x => { x with pfDone := x.pfDone ++ [(k, pg)] }
    (∀ s2, makeResident s1 (pg / 2 ^ 40) (pg % 2 ^ 40) j.partition (some n) = some s2 → Runs (.prefetch n) s fun t =>
      t.jobs = s1.jobs ∧ ∃ x, aGet? t.mem.resident (extentKey (pg / 2 ^ 40) (pg % 2 ^ 40)) = some x ∧ x.pins = 1 ∧
        x.prefetched = some n ∧ x.charged = j.partition ∧ x.stale = false)
    ∧ (makeResident s1 (pg / 2 ^ 40) (pg % 2 ^ 40) j.partition (some n) = none → Runs (.prefetch n) s fun t =>
      t.jobs = s1.jobs ∧ t.mem = s.mem ∧ t.parts = s.parts ∧
      (regGet t Reg.MIG_PF_SKIP).toNat = min ((regGet s Reg.MIG_PF_SKIP).toNat + 1) 0xFFFFFFFF))
  ∧ ∀ k x, aGet? s.mem.resident k = some x → x.deferred = true → x.pins = 0 → Runs (.deferredEviction k) s fun t =>
    aGet? t.mem.resident k = none ∧ (∀ i, i ≠ k → aGet? t.mem.resident i = aGet? s.mem.resident i) ∧
    t.mem.bytes = s.mem.bytes ∧ t.jobs = s.jobs ∧
    (regGet t Reg.MIG_EVICT).toNat = min ((regGet s Reg.MIG_EVICT).toNat + 1) 0xFFFFFFFF

/-- R155, R156, R382, R383, R426, R427: ALMANAC-LOAD rejects an almanac with the code and the index of the first check it fails,
and keeps no trace of it; a valid one gets the lowest free handle, its stack pages charged, and an equal one of the partition
answers the handle it has. ALMANAC-UNLOAD frees the handle and its pages, but not while a job or the commons uses it.
QUOTA-SET replaces the values given and keeps the others. EVIDENCE answers the record of the partition with the caller's
nonce and counts it. -/
def Obligations.AlmanacsAndEvidence : Prop := ∀ (s u : State) (c : Cmd) (q : Req),
  (PlainBegins s c 0xC9 u q → c.form = 0 → c.cdw11 = 0 → bitsOf c.cdw13.toNat 31 4 = 0 → leAt c.buf 8 8 ≤ 2 ^ 32 →
    let a := readAlm c.buf q.part
    (∀ r, (check01 c.buf = some r ∨ check01 c.buf = none ∧ validate u c.buf a = some r) → Runs (.almanacLoad c) s fun t =>
      ∃ v, t = answered v q (replyDw (if r.code = 0x0F then stQuota else stRejected) (r.code + r.index % 2 ^ 24 * 256)) ∧
        v = { u with regs := v.regs })
    ∧ (check01 c.buf = none → validate u c.buf a = none →
      (∀ h x, u.alms.find? (fun y => y.2.owner == q.part && y.2.digest == a.digest) = some (h, x) →
        Gives (.almanacLoad c) s (answered (bump u Reg.VAL_LOADS 1) q (replyDw stSuccess h)))
      ∧ ∀ s2 pages, u.alms.find? (fun y => y.2.owner == q.part && y.2.digest == a.digest) = none →
        allocPages u q.part (pagesFor a.bytes.length) = some (s2, pages) → Runs (.almanacLoad c) s fun t =>
          ∃ v h, t = answered v q (replyDw stSuccess h) ∧ 1 ≤ h ∧ aGet? u.alms h = none ∧
            aGet? v.alms h = some { a with loadNo := u.loadNo + 1, pages := pages } ∧ v.loadNo = u.loadNo + 1 ∧
            (∀ k, k ≠ h → aGet? v.alms k = aGet? u.alms k) ∧ v.parts = s2.parts))
  ∧ (PlainBegins s c 0xC9 u q → c.form = 1 → formFields c = true → c.cdw10 = 0 → ∀ a, aGet? u.alms c.handle = some a →
    a.owner = q.part →
    (almInUse u c.handle = false → Runs (.almanacUnload c) s fun t => ∃ v, t = answered v q (replyDw stSuccess c.handle) ∧
      aGet? v.alms c.handle = none ∧ (∀ k, k ≠ c.handle → aGet? v.alms k = aGet? u.alms k) ∧
      (∀ p ∈ a.pages, ∀ x, aGet? v.mem.pages p = some x → x.live = false) ∧ v.mem.bytes = u.mem.bytes)
    ∧ (almInUse u c.handle = true → Gives (.almanacUnload c) s (answered u q (replySt stSequence))))
  ∧ (PlainBegins s c 0xCD u q → c.cdw11 = 0 → c.cdw13 = 0 → 64 ≤ c.bufLen → aHas u.parts q.part = true →
    let l := quotaRecord c.buf
    let old := getPart u q.part
    let new := (List.range 8).map fun i => if listAt l i = keepQuota then listAt old.quota i else listAt l i
    let n := unitsFor (listAt new 7) - unitsFor (listAt old.quota 7)
    listAt new 7 % lbaSize old = 0 → listAt old.quota 7 ≤ listAt new 7 → aboveProtected u q.part (listAt new 7) = false →
    otherNamespaces u q.part + listAt old.charge 7 + n * unitSize ≤ namespaceLimit → ∀ r, growRanges u old.ranges n = some r →
    Runs (.quotaSet c) s fun t => ∃ v, t = answered v q (replyDw stSuccess 0) ∧ (getPart v q.part).ranges = r ∧
      (∀ i, i < 8 → listAt (getPart v q.part).quota i = if listAt l i = keepQuota then listAt old.quota i else listAt l i) ∧
      (∀ p, p ≠ q.part → (getPart v p).quota = (getPart u p).quota) ∧ v.life = u.life)
  ∧ (Begins s c 0xD3 u → q = ⟨c, 0xD3, c.partOf, none, c.buf⟩ → vendorFields c false = true → inWindow u c.partOf c.nonce = false →
    u.power.keysErased = false → c.cdw11 = 0 → c.cdw13 = 0 → 64 ≤ c.bufLen → leAt c.buf 32 1 ≤ 1 → allZero c.buf 33 31 = true →
    let chain := Config.certificateChain 0
    let out := padLine ((evidenceRecord u q.part 0 (sub c.buf 0 32)).2 ++ almManifest u q.part ++ adapterManifest u q.part
      ++ (if leAt c.buf 32 1 = 1 then toLe 4 chain.length ++ chain else []))
    out.length ≤ c.bufLen → Runs (.evidence c) s fun t =>
      t = answered (bump u Reg.SEC_EVID 1) q (replyData out.length out) ∧ sub out 0 4 = [0x45#8, 0x56#8, 0x49#8, 0x44#8] ∧
      leAt out 0x0C 2 = q.part ∧ leAt out 0x0E 1 = stateCode u q.part ∧ sub out 0x10 32 = sub c.buf 0 32)

/-- R442, R452, R456 to R459: FOREST-CONFIG LOAD with a record in order takes it as the configuration in force, counts it, and leaves
associations with its peers on their ports alone; one that breaks a rule is Invalid Field, and one that comes while a STEP or
a fan-out search runs is a sequence error. STATUS answers the number of peers with an association up. RESTORE rebuilds this
slot's fragment of every stripe and answers their number. A parity slot applies a delta of another slot to its parity unit of the stripe, scaled by the code's coefficient
of the role and the data index, and one that it applied before has no effect on any unit; an acknowledged delta leaves the
journal; a stale stripe's parity is computed anew from its eight data units and the stripe is stale no more; a fragment asked
for is sent to the peer that asked. -/
def Obligations.ForestConfigsAndParity : Prop :=
  (∀ (s u : State) (c : Cmd) (q : Req),
    PlainBegins s c 0xD1 u q → c.partOf = 0 → bitsOf c.cdw13.toNat 31 4 = 0 → c.cdw11 = 0 →
    let f := parseForest c.buf
    (c.form = 0 →
      (forestHeader c && forestZeros c.buf && forestSections u f = false →
        Gives (.forestConfigLoad c) s (completeAt u c.sqid c.cid (replySt stInvalidField)))
      ∧ (forestHeader c && forestZeros c.buf && forestSections u f = true →
        (forestBusy u = true → Gives (.forestConfigLoad c) s (answered u q (replySt stSequence)))
        ∧ (forestBusy u = false → storeHolds u = false → Runs (.forestConfigLoad c) s fun t =>
          ∃ v, t = answered v q (replyDw stSuccess (u.forest.cfgNo + 1)) ∧ v.forest.cfg = some f ∧ v.forest.cfgNo = u.forest.cfgNo + 1 ∧
            (∀ a ∈ v.forest.assocs, a.port < 4 ∧ ∃ p ∈ portPeers f a.port, p.num = a.peer) ∧
            v.ftl = u.ftl ∧ v.parts = u.parts ∧ v.mem = u.mem)))
    ∧ (c.form = 1 → c.cdw10 = 0 → Gives (.forestConfigStatus c) s (answered u q (replyDw stSuccess (peersUp u).length)))
    ∧ (c.form = 2 → c.cdw10 = 0 →
      (repl u = none → Gives (.forestConfigRestore c) s (answered u q (replySt stSequence)))
      ∧ ∀ r, repl u = some r → Runs (.forestConfigRestore c) s fun t => ∃ v,
          t = answered v q (replyDw stSuccess (11 * ((r.units + 7) / 8))) ∧ v.forest.cfg = u.forest.cfg ∧
          v.fresh = u.fresh + 11 * ((r.units + 7) / 8) ∧ v.life = u.life))
  ∧ ∀ (s : State) (r : ReplCfg), repl s = some r →
    (∀ origin ident stripe role index delta p, ready s = true → origin ∈ r.slots → origin ≠ selfNo s →
      slotRole (selfSlot s r) stripe = some role → index < 8 → parityRoom s r stripe role = true →
      (aGetD s.forest.applied origin 0 < ident → parityUnit s r stripe role = some p →
        (∀ b ∈ s.ftl.buf, b.order < s.ftl.nextOrder) →
        Runs (.parityDelta origin ident stripe role index delta) s fun t => aGetD t.forest.applied origin 0 = ident ∧
          parityUnit t r stripe role = some (xorBytes p (gfScale (cauchy role index) (sub delta 0 16384))))
      ∧ (ident ≤ aGetD s.forest.applied origin 0 → Runs (.parityDelta origin ident stripe role index delta) s fun t =>
        t.ftl = s.ftl ∧ t.forest.applied = s.forest.applied ∧ t.forest.acks = s.forest.acks))
    ∧ (∀ ident slot, Runs (.deltaAck ident slot) s fun t => onlyForest s t ∧ t.forest.applied = s.forest.applied ∧
      t.forest.journal = s.forest.journal.filter fun d => !(d.ident == ident && d.peer == r.slots.getD slot 0))
    ∧ (∀ stripe role units, ready s = true → groupReachable s r = true → units.length = 8 → slotRole (selfSlot s r) stripe = some role →
      (unitIdx s 0 (storeUnit r stripe role)).isSome = true → (∀ b ∈ s.ftl.buf, b.order < s.ftl.nextOrder) →
      Runs (.staleStripeRecompute stripe units) s fun t => stripe ∉ t.forest.stale ∧
        (∀ x, x ≠ stripe → (x ∈ t.forest.stale ↔ x ∈ s.forest.stale)) ∧
        parityUnit t r stripe role = some (gfSum 16384 (units.zipIdx.map fun x => (cauchy role x.2, sub x.1 0 16384))))
    ∧ ∀ peer stripe role, ready s = true → peer ∈ r.slots → peer ≠ selfNo s →
      (slotRole (selfSlot s r) stripe).getD 3 = min role 3 → Runs (.fragmentRequest peer stripe role) s fun t =>
        t.ftl = s.ftl ∧ t.parts = s.parts ∧ t.forest.nextMsg = s.forest.nextMsg + 1 ∧ ∃ m ∈ t.forest.outbox, m.no = s.forest.nextMsg ∧
          m.peer = peer ∧ m.channel = 1 ∧
          m.bytes = toLe 8 stripe ++ toLe 2 role ++ zeros 54 ++ (fragmentOf s r stripe).getD []

/-- R310, R318 to R320, R329, R330: TABLE-CREATE makes a table with the lowest free handle and a building version of zeros;
LOAD writes rows into the building version; INSTALL makes it the next epoch and the current one, frees the epochs that no batch
pins, and is refused where a fifth epoch would live; DELETE removes a table that nothing pins with its pages; DISCARD frees the
building version. VZ-LOOKUP answers each row of the current epoch in the format asked for, a row beyond the table as zeros,
which it counts. -/
def Obligations.EmbeddingTables : Prop := ∀ (s u : State) (c : Cmd) (o : Opened) (q : Req),
  (SealedBegins s c 0x8D true false false o u q → unsealed u q.part = false →
    let k := tabKey q.part c.handle
    (∀ h s1 l, c.form = 2 → c.cdw11 = 0 → bitsOf c.cdw13.toNat 15 4 = 0 → q.pay.length = 64 → allZero q.pay 7 1 = true → allZero q.pay 10 54 = true →
      leAt q.pay 0 4 ≠ 0 → 16 ≤ leAt q.pay 4 2 → leAt q.pay 4 2 ≤ 4096 → leAt q.pay 4 2 % 16 = 0 → leAt q.pay 6 1 ≤ 1 →
      leAt q.pay 8 2 ≤ 4096 → leAt q.pay 8 2 % 64 = 0 →
      ((List.range 255).map (· + 1)).find? (fun h => !aHas u.tables (tabKey q.part h)) = some h →
      let t0 : Table := ⟨leAt q.pay 0 4, leAt q.pay 4 2, leAt q.pay 6 1, leAt q.pay 8 2, 0, 1, [], none, [], [], 0⟩
      allocPages u q.part t0.npages = some (s1, l) → Runs (.tableCreate c o) s fun t =>
        ∃ v, t = answered v q (replyDw stSuccess h) ∧ v.parts = s1.parts ∧
          aGet? v.tables (tabKey q.part h) = some { t0 with building := some ⟨l, List.range t0.npages, none⟩ } ∧
          (∀ i, i ≠ tabKey q.part h → aGet? v.tables i = aGet? u.tables i) ∧
          ∀ p ∈ l, ∀ i, i < 65536 → bGet v.mem.bytes (locPage p + i) = 0)
    ∧ ∀ t0, aGet? u.tables k = some t0 → formFields c = true →
      (∀ b, c.form = 3 → t0.building = some b → b.job = none → 16 ≤ q.pay.length → allZero q.pay 12 4 = true →
        q.pay.length = 16 + leAt q.pay 8 4 * t0.stride → leAt q.pay 0 8 + leAt q.pay 8 4 ≤ t0.rows → u.mem.poison = [] →
        b.pages.length = t0.npages → b.pages.Nodup → (∀ i, i < t0.npages → i ∈ b.copied) →
        Runs (.tableLoad c o) s fun t => ∃ v, t = answered v q (replyDw stSuccess (leAt q.pay 8 4)) ∧ v.tables = u.tables ∧
          ∀ i, i < leAt q.pay 8 4 →
            tableRow v.mem t0 b.pages (leAt q.pay 0 8 + i) = sub q.pay (16 + i * t0.stride) t0.stride)
      ∧ (∀ b, c.form = 4 → q.pay = [] → t0.building = some b → b.job = none →
        let kept := t0.versions.filter fun v => !v.2.pins.isEmpty
        (kept.length ≤ 3 → Runs (.tableInstall c o) s fun t => ∃ v t1, t = answered v q (replyDw stSuccess t0.nextEpoch) ∧
          aGet? v.tables k = some t1 ∧ t1 = { t0 with versions := t1.versions, current := t0.nextEpoch, nextEpoch := t0.nextEpoch + 1, building := none } ∧
          aGet? t1.versions t0.nextEpoch = some ⟨b.pages, []⟩ ∧
          (∀ e, e ≠ t0.nextEpoch → aGet? t1.versions e = aGet? kept e) ∧ v.mem.bytes = u.mem.bytes)
        ∧ (4 ≤ kept.length → Gives (.tableInstall c o) s (answered (bump u Reg.TBL_EPOCH_REFUSED 1) q (replySt stEpoch))))
      ∧ (c.form = 5 → q.pay = [] →
        ((∀ v ∈ t0.versions, v.2.pins = []) → Runs (.tableDelete c o) s fun t => ∃ v, t = answered v q (replyDw stSuccess 0) ∧
          aGet? v.tables k = none ∧ (∀ i, i ≠ k → aGet? v.tables i = aGet? u.tables i) ∧
          ∀ p ∈ t0.allPages, ∀ x, aGet? v.mem.pages p = some x → x.live = false)
        ∧ ((∃ v ∈ t0.versions, v.2.pins ≠ []) → Gives (.tableDelete c o) s (answered u q (replySt stSequence))))
      ∧ (c.form = 6 → q.pay = [] → (∀ b, t0.building = some b → b.job = none) → Runs (.tableDiscard c o) s fun t =>
        ∃ v, t = answered v q (replyDw stSuccess 0) ∧ aGet? v.tables k = some { t0 with building := none } ∧
          ∀ i, i ≠ k → aGet? v.tables i = aGet? u.tables i))
  ∧ (SealedBegins s c 0x8B true false false o u q → unsealed u q.part = false → ∀ t0, aGet? u.tables (tabKey q.part c.handle) = some t0 →
    let opt := bitsOf c.cdw13.toNat 1 0
    let n := leAt q.pay 0 4
    let sp := rowSpacing t0.dim t0.fmt opt
    let pages := (aGetD t0.versions t0.current ⟨[], []⟩).pages
    let row := fun i => leAt q.pay (16 + 4 * i) 4
    c.cdw11 = 0 → bitsOf c.cdw13.toNat 15 2 = 0 → 1 ≤ n → n ≤ 1048576 → allZero q.pay 4 12 = true → q.pay.length = 16 + 4 * n →
    roomFor q (64 + n * sp) = true → t0.current ≠ 0 →
    ((∃ i, i < n ∧ row i < t0.rows ∧ pagesPoisoned u.mem pages (row i * t0.stride) t0.stride = true) →
      Gives (.vzLookup c o) s (answered u q (replySt stPoisoned)))
    ∧ ((∀ i, i < n → row i < t0.rows → pagesPoisoned u.mem pages (row i * t0.stride) t0.stride = false) →
      Runs (.vzLookup c o) s fun t => ∃ v r, t = answered v q r ∧ r.st = stSuccess ∧ r.dw0 = BitVec.ofNat 32 n ∧
        v.tables = u.tables ∧ v.mem = u.mem ∧
        (regGet v Reg.TBL_OOR).toNat = min ((regGet u Reg.TBL_OOR).toNat + ((List.range n).filter fun i => decide (t0.rows ≤ row i)).length) 0xFFFFFFFF ∧
        ∀ i, i < n → sub r.data (128 + i * sp) sp = if row i < t0.rows then
          (let b := rowOut t0.dim t0.fmt opt (tableRow u.mem t0 pages (row i)); b ++ zeros (sp - b.length)) else zeros sp))

/-- R332 to R336, R339, R361: ADAPTER-CREATE takes the lowest free identifier, resident; LOAD puts masters into the image with a
step count of 0; EXPORT answers the step count and the masters; DELETE removes an adapter that no STEP pins; RESIDE brings an
image up from its home, or fails where a unit does not authenticate; EVICT writes it home, counts it, and leaves it not
resident. A row set is made with the lowest free handle, its rows are loaded and read back, and it is deleted with its pages. -/
def Obligations.AdaptersAndRowSets : Prop := ∀ (s u : State) (c : Cmd) (o : Opened) (q : Req),
  (SealedBegins s c 0x8F true false false o u q → operatorPart c = false → unsealed u q.part = false →
    (∀ k s1 pages, c.form = 0 → formFields c = true → c.handle = 0 → adapterOk q.pay = true →
      let size := imageSize (q.pay.take 64) (q.pay.drop 64)
      homeFree u q.part (leAt q.pay 8 8) size = true → freeAdapter u = some k → residentCount u < 4096 →
      allocPages u q.part (size / 65536) = some (s1, pages) → Runs (.adapterCreate c o) s fun t =>
        ∃ v, t = answered v q (replyDw stSuccess k) ∧ aGet? u.adapters k = none ∧
          aGet? v.adapters k = some ⟨q.part, q.pay.take 64, q.pay.drop 64, leAt q.pay 8 8, size, some pages, false, none⟩ ∧
          (∀ i, i ≠ k → aGet? v.adapters i = aGet? u.adapters i) ∧ v.parts = s1.parts)
    ∧ (∀ a, aGet? u.adapters c.handle = some a → a.partition = q.part → formFields c = true →
      (∀ l, c.form = 1 → q.pay.length = mastersLen a → a.pages = some l → a.pinnedBy = none → l.Nodup → u.mem.poison = [] →
        a.size = imageSize a.desc a.sites → l.length = a.size / 65536 → Runs (.adapterLoad c o) s fun t =>
        ∃ v, t = answered v q (replyDw stSuccess 0) ∧ v.adapters = u.adapters ∧ imgSteps v.mem a = 0 ∧ masterBytes v.mem a = q.pay)
      ∧ (∀ l, c.form = 2 → q.pay = [] → a.pages = some l → roomFor q (8 + mastersLen a) = true → pagesPoisoned u.mem l 0 a.size = false →
        Runs (.adapterExport c o) s fun t => ∃ v r, t = answered v q r ∧ r.st = stSuccess ∧
          r.dw0 = BitVec.ofNat 32 (imgSteps u.mem a) ∧ v.adapters = u.adapters ∧ v.mem = u.mem ∧
          r.data.drop 64 = toLe 8 (imgSteps u.mem a) ++ masterBytes u.mem a)
      ∧ (c.form = 3 → q.pay = [] →
        (a.pinnedBy = none → Runs (.adapterDelete c o) s fun t => aGet? t.adapters c.handle = none ∧
          (∀ i, i ≠ c.handle → aGet? t.adapters i = aGet? u.adapters i) ∧
          ∀ l, a.pages = some l → ∀ p ∈ l, ∀ x, aGet? t.mem.pages p = some x → x.live = false)
        ∧ (a.pinnedBy.isSome = true → Gives (.adapterDelete c o) s (answered u q (replySt stSequence)))))
    ∧ (∀ h s1 l, c.form = 6 → rowFieldsOk c = true → rowHandle c = 0 → q.pay.length = 64 → allZero q.pay 8 56 = true → leAt q.pay 0 4 ≠ 0 →
      64 ≤ leAt q.pay 4 4 → leAt q.pay 4 4 ≤ 65536 → leAt q.pay 4 4 % 64 = 0 →
      ((List.range 255).map (· + 1)).find? (fun h => !aHas u.rowsets (tabKey q.part h)) = some h →
      allocPages u q.part (pagesFor (leAt q.pay 0 4 * leAt q.pay 4 4)) = some (s1, l) → Runs (.rowsetCreate c o) s fun t =>
        ∃ v, t = answered v q (replyDw stSuccess h) ∧ v.parts = s1.parts ∧
          aGet? v.rowsets (tabKey q.part h) = some ⟨leAt q.pay 0 4, leAt q.pay 4 4, l⟩ ∧
          ∀ i, i ≠ tabKey q.part h → aGet? v.rowsets i = aGet? u.rowsets i)
    ∧ ∀ r, aGet? u.rowsets (tabKey q.part (rowHandle c)) = some r → rowFieldsOk c = true →
      let first := leAt q.pay 0 8
      let n := leAt q.pay 8 4
      (c.form = 7 → q.pay.length = 16 + n * r.rowBytes → allZero q.pay 12 4 = true → first + n ≤ r.rows →
        rowSetUsed u q.part (rowHandle c) = false → r.pages.Nodup → r.pages.length = pagesFor (r.rows * r.rowBytes) → u.mem.poison = [] →
        Runs (.rowsetLoad c o) s fun t => ∃ v, t = answered v q (replyDw stSuccess n) ∧ v.rowsets = u.rowsets ∧
          pagesRead v.mem r.pages (first * r.rowBytes) (n * r.rowBytes) = q.pay.drop 16)
      ∧ (c.form = 8 → q.pay.length = 16 → allZero q.pay 12 4 = true → first + n ≤ r.rows → roomFor q (n * r.rowBytes) = true →
        pagesPoisoned u.mem r.pages (first * r.rowBytes) (n * r.rowBytes) = false → Runs (.rowsetRead c o) s fun t =>
          ∃ v x, t = answered v q x ∧ x.st = stSuccess ∧ x.dw0 = BitVec.ofNat 32 n ∧ v.mem = u.mem ∧ v.rowsets = u.rowsets ∧
            x.data.drop 64 = pagesRead u.mem r.pages (first * r.rowBytes) (n * r.rowBytes))
      ∧ (c.form = 9 → q.pay = [] →
        (rowSetUsed u q.part (rowHandle c) = false → Runs (.rowsetDelete c o) s fun t => ∃ v, t = answered v q (replyDw stSuccess 0) ∧
          aGet? v.rowsets (tabKey q.part (rowHandle c)) = none ∧ ∀ p ∈ r.pages, ∀ x, aGet? v.mem.pages p = some x → x.live = false)
        ∧ (rowSetUsed u q.part (rowHandle c) = true → Gives (.rowsetDelete c o) s (answered u q (replySt stSequence)))))
  ∧ (SealedBegins s c 0x8F (!operatorPart c) (operatorPart c) false o u q → unsealed u q.part = false → formFields c = true → q.pay = [] →
    ∀ a, namedAdapter u q = some a →
    (∀ ok, c.form = 4 → a.pages = none → a.homeWritten = true → residentCount u < 4096 → fits u a.partition 3 a.size = true →
      ∀ l, homeVals u a = some l →
      (∀ s1 pages, ok = true → (∀ v ∈ l, v.form = 2) → allocPages u a.partition (a.size / 65536) = some (s1, pages) →
        Runs (.reside c o ok) s fun t => aGet? t.adapters c.handle = some { a with pages := some pages } ∧ t.ftl = u.ftl ∧ t.life = u.life)
      ∧ (ok = false → Gives (.reside c o ok) s
        (completeAt (bump (bump u Reg.ADPT_SEAL_FAIL 1) Reg.SEC_SEAL_FAIL 1) c.sqid c.cid (replySt stSeal))))
    ∧ ∀ l, c.form = 5 → a.pages = some l → a.pinnedBy = none → aGetD u.evictions c.handle 0 < 0xFFFFFFFF →
      pagesPoisoned u.mem l 0 a.size = false → writeProtected u = false → Runs (.evict c o) s fun t =>
        aGet? t.adapters c.handle = some { a with pages := none, homeWritten := true } ∧
        aGetD t.evictions c.handle 0 = aGetD u.evictions c.handle 0 + 1 ∧
        ∀ p ∈ l, ∀ x, aGet? t.mem.pages p = some x → x.live = false)

/-- R338, R357, R358, R360, R362 to R368, R454: STEP with a header and bindings in order queues a job for each copy, in a state
where every member that passes its ticket's checks pins its adapter and the others are excluded with a status; one sent while the
model is not sealed is Almanac Rejected. A partial that the module awaits is added to its own, the total replaces it, and any
other message is counted and discarded. The update phase commits the step as one action: each member that ran has its update, or
skips it where a gradient is not finite, and the last step ends the command and unpins the adapters. -/
def Obligations.GangSteps : Prop := ∀ (s : State),
  (∀ (u : State) (c : Cmd) (tickets : List Opened) (q : Req) a p, SealedBegins s c 0x8F false true true ⟨false, []⟩ u q → c.form = 0xA →
    q.part = 4095 → formFields c = true → c.handle = 0 → 64 ≤ q.pay.length → stepAlm u q.pay = some (a, p) → stepOk u q.pay p = true →
    roomFor q (64 + 16 * leAt q.pay 2 2) = true →
    (getF u Reg.COMMONS_STAT Fld.COMMONS_STAT_model ≠ 2 → Runs (.step c tickets) s fun t =>
      ∃ v, t = answered v q (replyDw stRejected 0x18) ∧ v = { u with regs := v.regs })
    ∧ (getF u Reg.COMMONS_STAT Fld.COMMONS_STAT_model = 2 → namesBad u a = none → couldBind u a (if c.bestEffort then 1 else 0) = true →
      chargesFit u 4095 (copyCharges u a (leAt q.pay 4 1)) = true → Runs (.step c tickets) s fun t =>
        ∃ k g, aGet? u.gangs k = none ∧ aGet? t.gangs k = some g ∧ g.members = (readStep u q a p tickets).members ∧
          g.members.length = leAt q.pay 2 2 ∧ g.steps = leAt q.pay 6 2 ∧ g.done = 0 ∧ g.phase = 0 ∧
          g.jobs = (List.range (leAt q.pay 4 1)).map (u.nextJob + ·) ∧ t.nextJob = u.nextJob + leAt q.pay 4 1 ∧
          (∀ m ∈ g.members, m.active = (m.status == 0) ∧
            (m.active = true → ∀ x, aGet? t.adapters m.adapter = some x → x.pinnedBy = some k)) ∧
          ∀ i, i < leAt q.pay 4 1 → ∃ j, aGet? t.jobs (u.nextJob + i) = some j ∧ j.partition = 4095 ∧ j.gang = some k ∧ j.copy = i ∧
            j.isBound = false ∧ j.handle = leAt q.pay 0 2))
  ∧ (∀ peer level ok values maxima,
    (gangOfPeer s peer = none → Runs (.reductionMessage peer level ok values maxima) s fun t => t.gangs = s.gangs ∧ t.jobs = s.jobs ∧
      let r := if ok = true then Reg.ADPT_RED_LATE else Reg.FOREST_RED_STRAY
      (regGet t r).toNat = min ((regGet s r).toNat + 1) 0xFFFFFFFF)
    ∧ ∀ k g, gangOfPeer s peer = some (k, g) → aGet? s.gangs k = some g →
      (ok = false → Runs (.reductionMessage peer level ok values maxima) s fun t => t.gangs = s.gangs ∧
        (regGet t Reg.FOREST_RED_STRAY).toNat = min ((regGet s Reg.FOREST_RED_STRAY).toNat + 1) 0xFFFFFFFF)
      ∧ (ok = true → g.phase = 0 ∨ (g.phase = 1 ∧ g.level < level) → Gives (.reductionMessage peer level ok values maxima) s s)
      ∧ (ok = true → g.phase = 1 → level = g.level → (awaitedRank g).any (fun r => rankModule s g.group r == peer) = true →
        values.length = g.sums.length → maxima.length = g.maxima.length →
        Runs (.reductionMessage peer level ok values maxima) s fun t => ∃ x, aGet? t.gangs k = some x ∧ x.members = g.members ∧ x.done = g.done ∧
          (awaitsPartial g = true → x.sums = addSums g.sums (valuesAs g.sums values) ∧ x.maxima = maxMaps g.maxima (valuesAs g.maxima maxima)) ∧
          (awaitsPartial g = false → x.sums = valuesAs g.sums values ∧ x.maxima = valuesAs g.maxima maxima ∧ x.phase = 2)))
  ∧ ∀ k g a p, aGet? s.gangs k = some g → gangAlm s g = some (a, p) → engineOn s = true → g.phase = 2 → imagesPoisoned s g = false →
    (g.done + 1 < g.steps → Runs (.updatePhase k) s fun t => ∃ x, aGet? t.gangs k = some x ∧ x.done = g.done + 1 ∧ x.phase = 0 ∧
      x.jobs = g.jobs ∧ x.committedJobs = [] ∧ t.life = s.life ∧
      ∀ i m, g.members[i]? = some m → x.members[i]? = some (if m.active = true ∧ aHas s.adapters m.adapter = true then ranMember m (gradsBad g i) else m))
    ∧ (g.steps ≤ g.done + 1 → Runs (.updatePhase k) s fun t => aGet? t.gangs k = none ∧ t.life = s.life ∧
      ∀ e ∈ t.adapters, e.2.pinnedBy ≠ some k)

/-- R50, R302, R372, R373, R403, R521: a doorbell moves a queue's tail on, or its completion queue's head, which lets a completion
that waited for room be posted; a value out of order changes no queue and is reported. A fetch takes the next entry: it advances
the head and makes the command outstanding, unless its opcode is not supported, which ends it at once. The coalescing time
raises the vector that waits. The queue engine's limit ends a command with Partial Completion, a read with Nested Timeout, and a
search or a STEP with what it has. -/
def Obligations.HostQueues : Prop := ∀ (s : State),
  (serving s = true → ∀ i n,
    (∀ q, aGet? s.host.sqs i = some q →
      (tailOk q n = true → Runs (.doorbellWrite i n) s fun t => aGet? t.host.sqs i = some { q with tail := n } ∧
        (∀ j, j ≠ i → aGet? t.host.sqs j = aGet? s.host.sqs j) ∧ t.ftl = s.ftl ∧
        (i = 0 → t = { s with host := { s.host with sqs := t.host.sqs } }))
      ∧ (tailOk q n = false → s.host.aers = [] → Runs (.doorbellWrite i n) s fun t => onlyHost s t ∧ t.host.sqs = s.host.sqs ∧
        (0, 1) ∈ t.host.heldAens))
    ∧ (aGet? s.host.sqs i = none → s.host.aers = [] → Runs (.doorbellWrite i n) s fun t => onlyHost s t ∧ t.host.sqs = s.host.sqs ∧
        (0, 0) ∈ t.host.heldAens)
    ∧ ∀ q, aGet? s.host.cqs i = some q →
      (n < q.size → n ≠ q.head → ahead q.size q.head n ≤ q.level →
        (s.host.waitingCq = [] → Runs (.cqHeadDoorbellWrite i n) s fun t =>
          t = { s with host := { s.host with cqs := t.host.cqs } } ∧ aGet? t.host.cqs i = some { q with head := n })
        ∧ ∀ w x, s.host.waitingCq = [w] → aGet? s.host.sqs w.sqid = some x → x.cqid = i → ({ q with head := n } : CompQueue).level + 1 < q.size →
          Runs (.cqHeadDoorbellWrite i n) s fun t => onlyHost s t ∧ t.host.completions = s.host.completions ++ [w] ∧ t.host.waitingCq = [] ∧
            aGet? t.host.cqs i = some { q with head := n, tail := (q.tail + 1) % q.size })
      ∧ (q.size ≤ n ∨ n = q.head ∨ q.level < ahead q.size q.head n → s.host.aers = [] → Runs (.cqHeadDoorbellWrite i n) s fun t =>
        onlyHost s t ∧ t.host.cqs = s.host.cqs ∧ (0, 1) ∈ t.host.heldAens))
  ∧ (∀ i op c q, aGet? s.host.sqs i = some q → canFetch s i = true → c.sqid = i → q.head ≠ q.tail → findOut s i c.cid = none →
    (supported (i == 0) op = false → Runs (.commandFetch i op c) s fun t => findOut t i c.cid = none ∧
      aGet? t.host.sqs i = some { q with head := (q.head + 1) % q.size } ∧ t.life = s.life)
    ∧ (supported (i == 0) op = true → reservedForm (i == 0) op c = false → s.power.safe = false → s.host.sanitizing = false →
      (∀ p, partState s p ≠ some .releasing ∧ (getPart s p).deferred = false) → Runs (.commandFetch i op c) s fun t =>
        aGet? t.host.sqs i = some { q with head := (q.head + 1) % q.size } ∧ t.life = s.life ∧
        ∃ x, findOut t i c.cid = some x ∧ x.cmd = c ∧ x.opcode = op ∧ x.admin = (i == 0) ∧ x.started = false))
  ∧ (∀ v, s.host.aggregating.contains v = true → Runs (.interruptCoalescingTimeout v) s fun t => onlyHost s t ∧
    t.host.msix = s.host.msix ++ [v] ∧ v ∉ t.host.aggregating ∧ t.host.completions = s.host.completions)
  ∧ ∀ sq cid x, findOut s sq cid = some x → x.admin = false → x.started = true → x.opcode ≠ 0x8C → serving s = true →
    (∀ e ∈ s.jobs, ¬(e.2.command = true ∧ e.2.sqid = sq ∧ e.2.cid = cid)) →
    (∀ k g, s.gangs.find? (fun e => e.2.sqid == sq && e.2.cid == cid) = some (k, g) → aGet? s.gangs k = some g →
      Runs (.blockCommandTimeout sq cid) s fun t => aGet? t.gangs k = none ∧ findOut t sq cid = none ∧ t.life = s.life)
    ∧ ((∀ e ∈ s.gangs, ¬(e.2.sqid = sq ∧ e.2.cid = cid)) →
      (∀ n y, s.searches.find? (fun e => e.2.peerOf.isNone && (e.2.sqid == sq && e.2.cid == cid)) = some (n, y) → aGet? s.searches n = some y →
        Runs (.blockCommandTimeout sq cid) s fun t => aGet? t.searches n = none ∧ findOut t sq cid = none ∧ t.life = s.life)
      ∧ ((∀ e ∈ s.searches, ¬(e.2.peerOf = none ∧ e.2.sqid = sq ∧ e.2.cid = cid)) →
        (∀ n w, s.ftl.reads.find? (fun e => e.2.sqid == sq && e.2.cid == cid) = some (n, w) → Runs (.blockCommandTimeout sq cid) s fun t =>
          aGet? t.ftl.reads n = none ∧ findOut t sq cid = none ∧ t.ftl.map = s.ftl.map ∧
          (∀ e ∈ t.ftl.accesses, e.2.asker = 0 → e.2.waiter ≠ n) ∧
          (regGet t Reg.QE_LATE).toNat = min ((regGet s Reg.QE_LATE).toNat + w.waits.length) 0xFFFFFFFF)
        ∧ ((∀ e ∈ s.ftl.reads, ¬(e.2.sqid = sq ∧ e.2.cid = cid)) → Runs (.blockCommandTimeout sq cid) s fun t =>
          findOut t sq cid = none ∧ t.ftl.map = s.ftl.map ∧ t.jobs = s.jobs ∧
          ∀ w ∈ t.ftl.waiting, ¬(w.sqid = sq ∧ w.cid = cid))))

/-- R47, R49, R211, R221, R225, R228, R251: one attempt of a media access notes the codewords that failed and counts a read of its block;
an access whose attempts passed ends; one whose last attempt failed is rebuilt through parity and its unit queued for relocation,
or, with no parity left, its map entry becomes poisoned. An index page that does not authenticate ends its access. A limit that
expires cancels the access; when it stops, whoever still waits for the unit goes on to the degraded access, and a success then is
discarded and counted. A read whose die does not answer counts as a failed attempt. -/
def Obligations.NandReads : Prop := ∀ (s : State) id a, aGet? s.ftl.accesses id = some a →
  let ch := addrChan a.addr
  let k := blockKey a.addr
  let dieOk := dieUp s ch (addrDie a.addr)
  (∀ results gcmOk, wantsRead s a = true → dieReadable s ch (addrDie a.addr) = true →
    results.length = (if a.attempt = 0 then 4 else a.failed.length) →
    let bad := failedOf (if a.attempt = 0 then [0, 1, 2, 3] else a.failed) results
    let isIndex := (aGet? s.ftl.pages a.addr).any fun p => p.kind == 1
    (bad ≠ [] ∨ (isIndex = false ∨ gcmOk = true) ∧ tagDiffers s a = false → Runs (.nandReadComplete id results gcmOk) s fun t =>
      aGet? t.ftl.accesses id = some { a with attempt := a.attempt + 1, failed := bad } ∧ t.ftl.map = s.ftl.map ∧
      t.ftl.pages = s.ftl.pages ∧ (getBlock t k).reads = (getBlock s k).reads + 1)
    ∧ (bad = [] → isIndex = true → gcmOk = false → Runs (.nandReadComplete id results gcmOk) s fun t =>
      aGet? t.ftl.accesses id = none ∧
      (regGet t (rangerPage ch + Reg.RANGER_TAGFAIL)).toNat = min ((regGet s (rangerPage ch + Reg.RANGER_TAGFAIL)).toNat + 1) 0xFFFFFFFF))
  ∧ (∀ chOk crossOk, a.cancelled = false →
    (dieOk = true → a.attempt ≠ 0 → a.failed = [] → Runs (.mediaAccessComplete id chOk crossOk) s fun t => aGet? t.ftl.accesses id = none)
    ∧ (dieOk = true → a.failed ≠ [] → 0 < a.attempt → lastAttempt s a ≤ a.attempt → repl s = none →
      ∀ e, mapGet s a.idx = some e → e.addr = a.addr → e.state ≠ 3 →
      (chOk = true → lostStand s = none → (aGet? s.ftl.pages a.addr).isSome = true → Runs (.mediaAccessComplete id chOk crossOk) s fun t =>
        aGet? t.ftl.accesses id = none ∧ mapGet t a.idx = some e ∧ ∃ r ∈ t.ftl.relocs, r.idx = a.idx)
      ∧ (chOk = false → crossOk = false → Runs (.mediaAccessComplete id chOk crossOk) s fun t =>
        aGet? t.ftl.accesses id = none ∧ mapGet t a.idx = some poisonedEntry ∧
        (regGet t Reg.FTL_DEGRADED).toNat = min ((regGet s Reg.FTL_DEGRADED).toNat + 1) 0xFFFFFFFF)))
  ∧ (a.cancelled = false → Runs (.mediaAccessTimeout id) s fun t => onlyFtl s t ∧ t.ftl = { s.ftl with accesses := t.ftl.accesses } ∧
    aGet? t.ftl.accesses id = some { a with cancelled := true })
  ∧ (∀ ok, a.cancelled = true →
    (a.asker = 3 → Runs (.cancellationStop id ok) s fun t => aGet? t.ftl.accesses id = none)
    ∧ (a.asker ≠ 3 → Runs (.cancellationStop id ok) s fun t =>
      (∃ x, aGet? t.ftl.accesses id = some x ∧ x.cancelled = false ∧ x.attempt = lastAttempt s a ∧ x.failed ≠ []) ∧ t.ftl.map = s.ftl.map ∧
      (ok = true → standPresent s (addrStand a.addr) = true →
        let r := standBase (addrStand a.addr) + Reg.STAND_TMO_DISCARD
        (regGet t r).toNat = min ((regGet s r).toNat + 1) 0xFFFFFFFF)))
  ∧ ∀ d : DiePath, ∀ again, dieUp s (16 * d.stand + d.chan) d.die = true → dieOp s (16 * d.stand + d.chan) d.die = none →
    dieRead s (16 * d.stand + d.chan) d.die = some (id, a) → Runs (.nandOpTimeout d again) s fun t =>
      ∃ x, aGet? t.ftl.accesses id = some x ∧ x.attempt = a.attempt + 1 ∧ x.failed ≠ []

/-- R204, R206 to R209, R211, R214 to R216, R229, R239, R247 to R250: a program takes a wordline at its block group's write pointer
and, passed, moves the pointer on; a failed one retires the group's blocks. An erase follows its log page, empties its block and
verifies it, and the block may be used again once its clear record is durable. A hold that expires resumes a suspended die;
brown-out suspends every operation of a channel until it ends. A scan counts reads and names a block that is over the threshold
for refresh. Raw commands read a page to host memory, program a verified block at its pointer, or erase a block, and a command
that breaks a rule is rejected and changes nothing on flash. -/
def Obligations.FlashOperations : Prop := ∀ (s : State),
  (∀ (ch : ChanPath) die group, dieFree s ch.index die = true →
    (∀ sb, 64 ≤ group → getSb s (sbOfGroup die group) = some sb → sb.state = 1 → sb.stream = 0 → ch.index ∉ sb.done →
      ch.index ∈ sbChannels s sb.afterLoss → sb.wordline * slotsPerWordline < sb.nextSlot →
      groupOpen s ch.index die group sb.wordline = true → Runs (.wordlineProgram ch die group) s fun t => t.ftl.map = s.ftl.map ∧
        ∃ o, dieOp t ch.index die = some o ∧ o.kind = 1 ∧ o.block = group ∧ o.wordline = sb.wordline ∧ o.suspended = false)
    ∧ (let w := (getBlock s (blockAt ch.index die (4 * group))).wp
      2 ≤ group → group < 63 → w < 576 → groupOpen s ch.index die group w = true →
      stagingUnits s (ch.index / 16) s.ftl.nextOrder ≠ [] ∨ journalUnits s (ch.index / 16) s.ftl.nextOrder ≠ [] →
      Runs (.wordlineProgram ch die group) s fun t => t.ftl = s.ftl ∧
        ∃ o, dieOp t ch.index die = some o ∧ o.kind = 3 ∧ o.block = group ∧ o.wordline = w ∧ o.suspended = false))
  ∧ (∀ d : DiePath, d.stand < 8 → d.chan < 16 → d.die < 8 → ∀ o, dieOp s (16 * d.stand + d.chan) d.die = some o →
    let ch := 16 * d.stand + d.chan
    let k := blockAt ch d.die o.block
    (o.suspended = false →
      ((o.kind = 1 ∨ o.kind = 3) → ∀ other, Runs (.nandProgramComplete d false other) s fun t =>
        (∀ x, dieOp t ch d.die = some x → x.kind = 4) ∧
        ∀ b ∈ groupBlocks s ch d.die o.block, (getBlock t b).wp = o.wordline + 1 ∧ (getBlock t b).verified = false)
      ∧ (o.kind = 3 → o.block < 64 → (aGetD (getChan s ch).grown d.die []).length + 4 ≤ 512 → ∀ other,
        Runs (.nandProgramComplete d true other) s fun t =>
          (∀ x, dieOp t ch d.die = some x → x.kind = 4) ∧ ∀ b ∈ groupBlocks s ch d.die o.block, isGrown t b = true)
      ∧ (o.kind = 4 → Runs (.flagLogProgramComplete d) s fun t => t.ftl = s.ftl ∧
        ∃ x, dieOp t ch d.die = some x ∧ x.kind = 2 ∧ x.block = o.block)
      ∧ (o.kind = 2 → o.block < 2 ^ 14 → Runs (.nandEraseComplete d false) s fun t =>
        (∃ x, dieOp t ch d.die = some x ∧ x.kind = 5 ∧ x.block = o.block) ∧ (∀ a, blockKey a = k → aGet? t.ftl.pages a = none) ∧
        (getBlock t k).wp = 0 ∧ (getBlock t k).verified = true ∧ (getBlock t k).erases = (getBlock s k).erases + 1 ∧
        getF t (chanPage ch + Reg.CH_ERASE_ACTIVE + 4 * d.die) Fld.CH_ERASE_ACTIVE_valid = 0)
      ∧ (o.kind = 2 → o.block < 2 ^ 14 → (aGetD (getChan s ch).grown d.die []).length < 512 → Runs (.nandEraseComplete d true) s fun t =>
        isGrown t k = true)
      ∧ (o.kind = 5 → (∀ e ∈ s.ftl.sbs, e.2.state ≠ 4) → Runs (.clearRecordDurable d) s fun t =>
        (getBlock t k).clear = true ∧ (getBlock t k).needErase = false ∧ (getBlock t k).pendingFlag = false ∧
        (s.host.sanitizing = true → s.host.sanitizeBlocks = [k] → t.host.sanitizing = false)))
    ∧ (o.suspended = true → (getChan s ch).brownOut = false → Runs (.suspendHoldExpiry d) s fun t => t = { s with chans := t.chans } ∧
      dieOp t ch d.die = some { o with suspended := false }))
  ∧ (∀ ch : ChanPath, Gives (.zqCalibration ch) s s
    ∧ (chanUp s ch.index = true → (getChan s ch.index).brownOut = false → Runs (.brownOut ch) s fun t =>
      (getChan t ch.index).brownOut = true ∧ (∀ o ∈ (getChan t ch.index).ops, o.2.suspended = true) ∧ t.ftl = s.ftl)
    ∧ ((getChan s ch.index).brownOut = true → Runs (.brownOutExit ch) s fun t =>
      (getChan t ch.index).brownOut = false ∧ t.life = s.life))
  ∧ (∀ b : BlockPath, ∀ high, let ch := 16 * b.stand + b.chan
    let k := blockAt ch b.die b.block
    (operational s = true → dieUp s ch b.die = true → isGrown s k = false → b.block ∉ aGetD (getChan s ch).factory b.die [] →
      Runs (.backgroundScan b high) s fun t => (getBlock t k).reads = (getBlock s k).reads + pagesIn s k ∧ t.ftl.map = s.ftl.map ∧
        (high = true → k ∈ t.ftl.refreshQueue))
    ∧ (operational s = true → k ∈ s.ftl.refreshQueue → Runs (.refresh b) s fun t => k ∉ t.ftl.refreshQueue ∧ t.ftl.map = s.ftl.map ∧
      (∀ e ∈ unitsInBlock s k, (aGet? s.ftl.pages e.2.addr).isSome = true → ∃ r ∈ t.ftl.relocs, r.idx = e.1) ∧
      (regGet t Reg.FTL_REFRESH).toNat = min ((regGet s Reg.FTL_REFRESH).toNat + 1) 0xFFFFFFFF))
  ∧ ∀ (r : Requester) (ch : ChanPath) (v : Word),
    let cmd := chanPage ch.index + Reg.CH_RAW_CMD
    let k := blockAt ch.index (rawDie v.toNat) (rawBlock v.toNat)
    let result := fun (t : State) => getF t (chanPage ch.index + Reg.CH_RAW_STAT) Fld.CH_RAW_STAT_result
    Reaches s r cmd → bitOf v.toNat 29 = true → getF s cmd Fld.CH_RAW_CMD_go = 0 →
    (neverAddressed s ch.index v.toNat = true → ∀ op i, (op = Instr.rawRead r ch v i ∧ bitsOf v.toNat 31 30 = 0) ∨
      (∃ l f, op = Instr.rawProgram r ch v l f ∧ bitsOf v.toNat 31 30 = 1) ∨ (∃ f, op = Instr.rawErase r ch v f ∧ bitsOf v.toNat 31 30 = 2) →
      Runs op s fun t => result t = 5 ∧ t.ftl = s.ftl)
    ∧ (neverAddressed s ch.index v.toNat = false →
      (bitsOf v.toNat 31 30 = 0 → rawPage v.toNat < 2304 → ∀ bits, Runs (.rawRead r ch v bits) s fun t => result t = 2 ∧
        t.host.dma = s.host.dma ++ [(getPair s (chanPage ch.index + Reg.CH_RAW_ADDR_LO), storedPage s (rawAddr ch.index v.toNat (rawPage v.toNat)))] ∧
        t.ftl.pages = s.ftl.pages ∧ t.ftl.map = s.ftl.map)
      ∧ (bitsOf v.toNat 31 30 = 1 → ∀ l f,
        ((getBlock s k).verified = true → rawPage v.toNat = 4 * (getBlock s k).wp → (getBlock s k).wp < 576 → isGrown s k = true →
          Runs (.rawProgram r ch v l f) s fun t => result t = (if f = true then 6 else 2) ∧ (getBlock t k).wp = (getBlock s k).wp + 1 ∧
            (getBlock t k).verified = false ∧ t.ftl.map = s.ftl.map ∧
            ∀ i, i < 4 → (aGet? t.ftl.pages (rawAddr ch.index v.toNat (rawPage v.toNat + i))).bind (·.rawData) = some (sub l (18432 * i) 18432))
        ∧ ((getBlock s k).verified = false → Runs (.rawProgram r ch v l f) s fun t => result t = 3 ∧ t.ftl = s.ftl))
      ∧ (bitsOf v.toNat 31 30 = 2 → isGrown s k = true →
        (Runs (.rawErase r ch v false) s fun t => result t = 2 ∧ (getBlock t k).wp = 0 ∧ (getBlock t k).verified = true ∧
          ∀ a, blockKey a = k → aGet? t.ftl.pages a = none)
        ∧ Runs (.rawErase r ch v true) s fun t => result t = 6 ∧ t.ftl.pages = s.ftl.pages))

/-- R244, R247 to R249: reclaim takes the closed super-block with the fewest valid units once free ones are short, wear levelling the
one least erased once the spread is too wide, and each queues its units for relocation; a relocation copies its unit to a new page
and moves the map entry, unless the entry changed meanwhile, which is counted; a checkpoint makes 128 segments of the map durable
and drops their journal records. -/
def Obligations.TranslationLayer : Prop := ∀ (s : State), operational s = true →
  (∀ B, (∀ e ∈ s.ftl.sbs, e.2.state ≠ 4) → unitsInSb s B ≠ [] →
    let taken := fun (t : State) => (∃ x, getSb t B = some x ∧ x.state = 4) ∧ t.ftl.map = s.ftl.map ∧
      ∀ e ∈ unitsInSb s B, (aGet? s.ftl.pages e.2.addr).isSome = true → ∃ r ∈ t.ftl.relocs, r.idx = e.1
    (getF s Reg.FTL_SB Fld.FTL_SB_free < getF s Reg.FTL_GC_CFG Fld.FTL_GC_CFG_low_wm → reclaimPick s = some B → Runs .reclaim s taken)
    ∧ (wearPick s = some B → Runs .wearLevel s taken))
  ∧ (∀ i r s1 n, s.ftl.relocs.find? (·.idx == i) = some r → takeSlot s 2 = (s1, some n) →
    let a := slotAddr s1 (n / 2 ^ 20) (n % 2 ^ 20) ((getSb s1 (n / 2 ^ 20)).elim false (·.afterLoss))
    (∀ e, mapGet s i = some e → e.addr = r.old → e.state ≠ 3 → Runs (.relocation i) s fun t => mapGet t i = some { e with addr := a } ∧
      (∀ j, j ≠ i → mapGet t j = mapGet s j) ∧ (∀ x ∈ t.ftl.relocs, x.idx ≠ i) ∧
      ∃ p, aGet? t.ftl.pages a = some p ∧ p.val = r.val ∧ p.idx = i)
    ∧ ((∀ e, mapGet s i = some e → e.addr ≠ r.old ∨ e.state = 3) → Runs (.relocation i) s fun t => t.ftl.map = s.ftl.map ∧
      (∀ x ∈ t.ftl.relocs, x.idx ≠ i) ∧
      (regGet t Reg.FTL_RELOC_LOST).toNat = min ((regGet s Reg.FTL_RELOC_LOST).toNat + 1) 0xFFFFFFFF))
  ∧ (4194304 ≤ s.ftl.sinceCkpt → aSorted s.ftl.map = true → Runs .checkpoint s fun t => t.ftl.map = s.ftl.map ∧
    t.ftl.sinceCkpt = s.ftl.sinceCkpt - 4194304 ∧ t.ftl.ckptNext = (s.ftl.ckptNext + 128) % 8192 ∧
    let seg := fun (i : Nat) => (segmentOf i + 8192 - s.ftl.ckptNext) % 8192 < 128
    (∀ i, aGet? t.ftl.ckpt i = if seg i then mapGet s i else aGet? s.ftl.ckpt i) ∧
    ∀ j, j ∈ t.ftl.journal ↔ j ∈ s.ftl.journal ∧ ¬ seg j.idx)

/-- R431: in an established session IDE_KM programs the keys of one of the link stream and the 16 selective streams,
K_SET_GO makes a keyed stream secure, K_SET_STOP turns a stream off; any other stream number is answered as a failure. A
TLP that fails integrity makes its secure stream insecure, raises AER Uncorrectable Internal Error, and ends with Data
Transfer Error the commands whose transfers fail: which fail is free (log 25). No partition changes its state.
R432: LOCK_INTERFACE_REQUEST locks an unlocked interface, START_INTERFACE_REQUEST lets a locked one run,
GET_DEVICE_INTERFACE_REPORT lists BAR0, with the MSI-X table and pending-bit array flagged, and BAR2. STOP_INTERFACE_REQUEST
and a change of a locked binding reset the controller as CC.EN going to 0 does, the former leaving the interface unlocked
and the latter in ERROR; partitions, sessions, keys and committed data are unchanged. The numbers of the states and the
order errors are the model's (log 25). -/
def Obligations.IdeAndTdisp : Prop :=
  (∀ (s : State) (n k : Nat),
    (spdmUp s = true → s.sec.negotiated = 3 → spdmOpen s n = true →
      Runs (.ideKmKeyProg n k) s (fun t => t = { s with sec := t.sec, regs := t.regs } ∧
        streamState t k = (if k ≤ 16 ∧ streamState s k = 0 then 1 else streamState s k) ∧
        ∀ j, j ≠ k → streamState t j = streamState s j)
      ∧ Runs (.ideKmKSetGo n k) s (fun t => t = { s with sec := t.sec, regs := t.regs } ∧
        streamState t k = (if k ≤ 16 ∧ streamState s k = 1 then 2 else streamState s k) ∧
        ∀ j, j ≠ k → streamState t j = streamState s j)
      ∧ Runs (.ideKmKSetStop n k) s (fun t => t = { s with sec := t.sec, regs := t.regs } ∧
        streamState t k = (if k ≤ 16 then 0 else streamState s k) ∧
        ∀ j, j ≠ k → streamState t j = streamState s j))
    ∧ (streamState s k = 2 → Runs (.ideIntegrityFailure k) s fun t => t.life = s.life ∧
        ∃ u, u = { s with sec := u.sec, regs := u.regs, fresh := u.fresh } ∧ streamState u k = 3 ∧
          u.sec.aerInternal = s.sec.aerInternal + 1 ∧ u.sec.sessions = s.sec.sessions ∧
          t = abortAll u (fun o => movesData o && Config.transferFails s.fresh (o.cmd.sqid * 65536 + o.cmd.cid)) stDataTransfer)
    ∧ (streamState s k ≠ 2 → Gives (.ideIntegrityFailure k) s s))
  ∧ (∀ (s : State) (n : Nat),
    (spdmUp s = true → s.sec.negotiated = 3 → spdmOpen s n = true →
      Runs (.lockInterfaceRequest n) s (fun t => t = { s with sec := t.sec, regs := t.regs, fresh := t.fresh } ∧
        tdispState t = (if tdispState s = 0 ∧ trngOk s = true then 1 else tdispState s))
      ∧ Runs (.startInterfaceRequest n) s (fun t => t = { s with sec := t.sec, regs := t.regs } ∧
        tdispState t = (if tdispState s = 1 then 2 else tdispState s))
      ∧ Runs (.getDeviceInterfaceReport n) s (fun t => onlySec s t ∧
        (tdispState s = 1 ∨ tdispState s = 2 → t.sec.spdmAnswers = s.sec.spdmAnswers ++
          [[0x13#8, 0x04#8, 0#8, 0#8] ++ (toLe 4 2 ++ (toLe 4 0 ++ toLe 4 512 ++ toLe 4 3) ++ (toLe 4 2 ++ toLe 4 16384 ++ toLe 4 0))]))
      ∧ ∀ u, exec .controllerReset { s with sec := { s.sec with sessions := s.sec.sessions.map fun x =>
            if x.num = n then { x with lastHeard := s.tb } else x } } = .next u →
          u.life = s.life ∧ Gives (.stopInterfaceRequest n) s (spdmAns (setTdisp u 0) 0x07 0 0 []))
    ∧ (tdispState s = 1 ∨ tdispState s = 2 → ∀ u, exec .controllerReset s = .next u →
        u.life = s.life ∧ Gives .tdispError s (setTdisp u 3))
    ∧ (tdispState s ≠ 1 → tdispState s ≠ 2 → Gives .tdispError s s))

/-- R17, R37, R252, R412, R490, R498, R503 to R505, R507 to R509: a stand declared failed is out of service, the others stay; the first such
stand is the lost one and redundancy is lost with it, a second makes it 3; no almanac, row set or resident adapter with a page on it is left. The map share loaded
lets waiting work go on; the rebuild is complete once no unit lies on the lost stand. A control fault of a sequencer in a stand is counted; the third of a glade within 60 s
excludes the glade; a stand control reset without a job in the stand zeroes its on-chip memory and nothing else in memory. The first fire of a stand's watchdog keeps the
stand, a second within 10 s fails it. Patrol goes on line by line and a clean or corrected line keeps its content. A TRNG failure shows, and a retest that
passes ends it. A step-rate window ends with its mode shown and begins anew. -/
def Obligations.StandsAndSequencers : Prop :=
  (∀ (s : State) (st : Nat) (cause : StandFailCause), engineOn s = true →
    (standPresent s st = false → Gives (.standFailure st cause) s s)
    ∧ (standPresent s st = true → Runs (.standFailure st cause) s fun t => t.life = s.life ∧
      (∀ x, standPresent t x = (standPresent s x && x != st)) ∧
      (lostStand s = none → lostStand t = some st ∧ getF t Reg.FTL_STAT Fld.FTL_STAT_redund = 1) ∧
      (lostStand s ≠ none → lostStand t = lostStand s ∧ getF t Reg.FTL_STAT Fld.FTL_STAT_redund = 3) ∧
      (∀ h a, aGet? t.alms h = some a → pagesOn st a.pages = false) ∧
      (∀ k r, aGet? t.rowsets k = some r → pagesOn st r.pages = false) ∧
      (∀ k a, aGet? t.adapters k = some a → pagesOn st (a.pages.getD []) = false)))
  ∧ (∀ s : State, Runs .mapShareReload s fun t => onlyFtl s t ∧ t.ftl = { s.ftl with shareWaiting := false })
  ∧ (∀ (s : State) (l : Nat), ready s = true → lostStand s = some l → getF s Reg.FTL_STAT Fld.FTL_STAT_redund = 1 →
    (∀ e ∈ s.ftl.map, (e.2.state = 1 ∨ e.2.state = 2) → addrStand e.2.addr ≠ l) →
    Runs .rebuildComplete s fun t => onlyRegs s t ∧ regsBut [Reg.FTL_STAT, Reg.FTL_REBUILD] s t ∧
      getF t Reg.FTL_STAT Fld.FTL_STAT_redund = 2 ∧ lostStand t = some l ∧ getF t Reg.FTL_REBUILD Fld.FTL_REBUILD_sb_left = 0)
  ∧ (∀ (s : State) (q : Sequencer) (group : Nat), engineOn s = true → sequencerPresent s q = true → (∀ i, q ≠ .hub i) →
    Runs (.controlParityFault q group) s fun t => t.life = s.life ∧
      (regGet t Reg.RAS_CTL_FAULT).toNat = min ((regGet s Reg.RAS_CTL_FAULT).toNat + 1) 0xFFFFFFFF ∧
      (∀ g, q = .gladeUnit g → (getGlade t g.index).ctlExcluded = ((getGlade s g.index).ctlExcluded || decide
        (2 ≤ (s.ras.faultTimes.filter fun e => e.1 = gladePage g.index ∧ s.tb ≤ e.2 + 6000000000).length))) ∧
      (∀ st, q = .standControl st → (∀ e ∈ s.jobs, jobIn st e.2 = false) →
        t.jobs = s.jobs ∧ ∀ a, bGet t.mem.bytes a =
          if locStand a = st ∧ locStore a ≠ 3 ∧ locStore a ≠ 8 then 0 else bGet s.mem.bytes a))
  ∧ (∀ (s : State) (st : Nat), st < 8 → engineOn s = true → standPresent s st = true → Runs (.watchdogFire (16 + st)) s fun t =>
    t.life = s.life ∧ (regGet t Reg.RAS_WDOG_FIRES).toNat = min ((regGet s Reg.RAS_WDOG_FIRES).toNat + 1) 0xFFFFFFFF ∧
    getF t Reg.RAS_WDOG_LAST Fld.RAS_WDOG_LAST_which = 16 + st ∧
    ((∀ f, aGet? s.ras.standFires st = some f → f + 1000000000 < s.tb) → aGet? t.ras.standFires st = some s.tb ∧ standPresent t st = true) ∧
    (∀ f, aGet? s.ras.standFires st = some f → s.tb ≤ f + 1000000000 → standPresent t st = false))
  ∧ (∀ (s : State) (p : StackPath) (found : EccResult) (segmentReads : Bool), operational s = true → p.ok = true →
    standPresent s p.stand = true → getF s (stackPage p.index + Reg.STACK_STAT) Fld.STACK_STAT_state = 3 →
    let line := aGetD s.ras.patrol p.index 0
    let passed := fun (t : State) => t.ras.patrol = aPut s.ras.patrol p.index ((line + 1) % 2 ^ 30)
    ((found = .clean ∨ isPoisoned s.mem (locPage (p.index * 2 ^ 20) + line * 64) = true) →
      Runs (.patrolRead p found segmentReads) s fun t => passed t ∧ t = { s with ras := { s.ras with patrol := t.ras.patrol } })
    ∧ ∀ b, found = .corrected b → Runs (.patrolRead p found segmentReads) s fun t => passed t ∧ onlyPanel s t)
  ∧ (∀ s : State, Runs .trngTestFailure s fun t => onlyRegs s t ∧ regsBut [Reg.SEC_STAT] s t ∧ trngOk t = false)
  ∧ (∀ (s : State) (healthy : Bool), trngOk s = false → Runs (.trngRetest healthy) s fun t => onlyRegs s t ∧
    regsBut [Reg.SEC_STAT] s t ∧ trngOk t = healthy)
  ∧ ∀ (s : State) (st : Nat), st < 8 → engineOn s = true → standPresent s st = true → Runs (.srmWindowEnd st) s fun t =>
    t = { s with regs := t.regs, ras := t.ras, host := t.host, copses := t.copses, fresh := t.fresh } ∧
    ∀ i, i < 16 →
      let c := getCopse s (16 * st + i)
      let a := standBase st + Reg.STAND_SRM_RATE + 4 * i
      getCopse t (16 * st + i) = { c with winSteps := 0, winMult := false, winLookup := false, winShort := false } ∧
      (c.winSteps = 0 → regGet t a = BitVec.ofNat 32 (putBits (putBits (regGet s a).toNat 31 30 0) 15 0 0)) ∧
      (c.winSteps ≠ 0 → c.winMult = true → getF t a Fld.STAND_SRM_RATE_mode = if c.winLookup then 3 else 1) ∧
      (c.winSteps ≠ 0 → c.winMult = false → getF t a Fld.STAND_SRM_RATE_mode = 2)

/-- R441, R444 to R450, R453, R462: a port trains on all four healthy lanes, else on a healthy pair 0–1 or 2–3, else stays in
training; a removed cable leaves it down. A received frame whose checksum fails, whose generation or destination is wrong or that names no
association, or whose tag or epoch fails is counted and discarded; the sixteenth tag failure within a second takes the association down. The frame
expected is delivered once, advances the number expected by one modulo 2^24 and counts; one before it is counted as a duplicate
and acknowledged; one after it is counted out of order and a nak goes out; an ack frees the frames before it; a nak has the
unacknowledged ones sent again. The oldest frame's timeout sends all again, and after retry_max in a row the association is down. HELLO, REPLY and CONFIRM open an association under generation 1 where their checks
hold; else it stays down and the port posts a peer-refused event. A key-update frame moves the receiver on by one epoch. A retry begins again from the lower-numbered module. -/
def Obligations.ForestLinks : Prop :=
  (∀ (s : State) (port : Nat) (lanes : List Bool), port < 4 →
    let n := trainedLanes lanes
    let shows := fun (t : State) => portLanes t port = n ∧ getF t (chwReg port Reg.CHW_STAT) Fld.CHW_STAT_lanes = n ∧
      (n = 0 → getF t (chwReg port Reg.CHW_STAT) Fld.CHW_STAT_state = 1) ∧
      (n ≠ 0 → 2 ≤ getF t (chwReg port Reg.CHW_STAT) Fld.CHW_STAT_state) ∧
      (∀ p, p ≠ port → portLanes t p = portLanes s p) ∧ onlyLinks s t
    (ready s = true → Runs (.cableAttach port lanes) s shows)
    ∧ (∀ k, ready s = true → aHas s.forest.cables port = true → Runs (.linkRetrain port k lanes) s fun t => shows t ∧
      (regGet t (chwReg port Reg.CHW_FEC_UNCORR)).toNat = min ((regGet s (chwReg port Reg.CHW_FEC_UNCORR)).toNat + k) 0xFFFFFFFF)
    ∧ Runs (.cableRemove port) s fun t => portLanes t port = 0 ∧ getF t (chwReg port Reg.CHW_STAT) Fld.CHW_STAT_state = 0 ∧
      (∀ p, p ≠ port → portLanes t p = portLanes s p) ∧ t.forest.assocs = s.forest.assocs ∧ onlyLinks s t)
  ∧ (∀ (s : State) (port : Nat) (f : Frame) (room : Bool), linkUp s port = true → f.kind ≤ 4 → f.kind ≠ 3 →
    let i := if f.kind = 1 then Instr.ackFrameReceive port f else if f.kind = 2 then .nakFrameReceive port f else .dataFrameReceive port f room
    let counts := fun (t : State) (r : Nat) => (regGet t (chwReg port r)).toNat = min ((regGet s (chwReg port r)).toNat + 1) 0xFFFFFFFF
    (f.crcOk = false → Runs i s fun t => onlyRegs s t ∧ counts t Reg.CHW_CRC ∧ regsBut [chwReg port Reg.CHW_CRC] s t)
    ∧ (f.crcOk = true → findAssoc s port f.src = none → Runs i s fun t =>
      onlyRegs s t ∧ counts t Reg.CHW_BAD ∧ regsBut [chwReg port Reg.CHW_BAD] s t)
    ∧ ∀ a, findAssoc s port f.src = some a → f.crcOk = true →
      ((a.state ≠ 3 ∨ f.generation ≠ a.generation ∨ f.dst ≠ selfNo s) → Runs i s fun t =>
        onlyRegs s t ∧ counts t Reg.CHW_BAD ∧ regsBut [chwReg port Reg.CHW_BAD] s t)
      ∧ (a.state = 3 → f.generation = a.generation → f.dst = selfNo s →
        let fails := (a.tagFails.filter fun t => s.tb < t + 100000000) ++ [s.tb]
        ((f.tagOk = false ∨ (f.epoch ≠ a.rxEpoch ∧ f.epoch ≠ a.rxEpoch + 1)) → Runs i s fun t => onlyLinks s t ∧
          counts t Reg.CHW_BADTAG ∧ t.forest.inbox = s.forest.inbox ∧ ∃ x, findAssoc t port f.src = some x ∧
          (fails.length < 16 → x = { a with tagFails := fails }) ∧ (16 ≤ fails.length → x.state ≠ 3))
        ∧ (f.tagOk = true → (f.epoch = a.rxEpoch ∨ f.epoch = a.rxEpoch + 1) → a.txEpoch < 255 →
          Runs i s fun t => onlyLinks s t ∧ ∃ x, findAssoc t port f.src = some x ∧ x.state = 3 ∧ x.rxEpoch = f.epoch ∧
            (f.kind = 0 ∨ f.kind = 4 →
              (f.seq = a.expect → room = true → x.expect = (a.expect + 1) % 2 ^ 24 ∧ x.unackedRx = a.unackedRx + 1 ∧
                getPair t (chwReg port Reg.CHW_RX_LO) = (getPair s (chwReg port Reg.CHW_RX_LO) + 1) % 2 ^ 64 ∧
                (f.kind = 0 → f.last = true → (∀ y ∈ s.forest.assocs, y.peer = f.src → f.msgNo ∉ y.finished) →
                  f.msgNo ∈ x.finished ∧ t.forest.inbox = s.forest.inbox ++
                    [(f.src, f.channel, sub (aGetD a.parts f.msgNo []) 0 (64 * f.msgOff) ++ f.payload)])
                ∧ (f.kind = 0 → (∃ y ∈ s.forest.assocs, y.peer = f.src ∧ f.msgNo ∈ y.finished) → t.forest.inbox = s.forest.inbox))
              ∧ (f.seq = a.expect → room = false → x.expect = a.expect ∧ t.forest.inbox = s.forest.inbox)
              ∧ (f.seq ≠ a.expect → seqBefore f.seq a.expect = true → counts t Reg.CHW_DUP ∧ x.expect = a.expect ∧
                x.unackedRx = 0 ∧ t.forest.inbox = s.forest.inbox)
              ∧ (f.seq ≠ a.expect → seqBefore f.seq a.expect = false → counts t Reg.CHW_OOO ∧ x.expect = a.expect ∧
                t.forest.inbox = s.forest.inbox ∧ (a.nakAt = none → x.nakAt = some s.tb)))
            ∧ (f.kind = 1 ∨ f.kind = 2 → x.expect = a.expect ∧ t.forest.inbox = s.forest.inbox ∧
              getPair t (chwReg port Reg.CHW_RX_LO) = (getPair s (chwReg port Reg.CHW_RX_LO) + 1) % 2 ^ 64 ∧
              (a.queue = [] → s.forest.outbox = [] → a.txFrames < 2 ^ 32 →
                x.replay = a.replay.filter fun g => !seqBefore g.seq f.ack))
            ∧ (f.kind = 2 → (regGet t (chwReg port Reg.CHW_RETX)).toNat =
                min ((regGet s (chwReg port Reg.CHW_RETX)).toNat + x.replay.length) 0xFFFFFFFF))))
  ∧ ∀ (s : State) (port peer : Nat) (a : Assoc), findAssoc s port peer = some a →
    (linkUp s port = true → a.state = 3 → 0 < a.unackedRx → Runs (.ackFrameSend port peer) s fun t => onlyLinks s t ∧
      findAssoc t port peer = some { a with unackedRx := 0, txFrames := a.txFrames + 1 } ∧
      getPair t (chwReg port Reg.CHW_TX_LO) = (getPair s (chwReg port Reg.CHW_TX_LO) + 1) % 2 ^ 64)
    ∧ (a.state = 3 → a.replay ≠ [] →
      let limit := getF s (chwReg port Reg.CHW_LINK_CFG) Fld.CHW_LINK_CFG_retry_max
      Runs (.resendTimeout port peer) s fun t => onlyLinks s t ∧ ∃ x, findAssoc t port peer = some x ∧
        (limit ≤ a.timeouts + 1 → x.state = 0 ∧ x.replay = [] ∧
          (regGet t (chwReg port Reg.CHW_DOWN)).toNat = min ((regGet s (chwReg port Reg.CHW_DOWN)).toNat + 1) 0xFFFFFFFF)
        ∧ (a.timeouts + 1 < limit → x = { a with timeouts := a.timeouts + 1 } ∧ (0 < portLanes s port →
          (regGet t (chwReg port Reg.CHW_RETX)).toNat = min ((regGet s (chwReg port Reg.CHW_RETX)).toNat + a.replay.length) 0xFFFFFFFF)))
    ∧ (linkUp s port = true → a.state ≠ 3 → Runs (.handshakeRetry port peer) s fun t => onlyLinks s t ∧
      findAssoc t port peer = some { a with state := if selfNo s < peer then 1 else 0 })
    ∧ (linkUp s port = true → a.state = 3 → a.rxEpoch < 255 → Runs (.keyUpdateFrame port peer) s fun t => onlyLinks s t ∧
      findAssoc t port peer = some { a with rxEpoch := a.rxEpoch + 1, expect := (a.expect + 1) % 2 ^ 24, unackedRx := a.unackedRx + 1 })
    ∧ ∀ (h : Handshake) (c : ForestCfg), linkUp s port = true → s.forest.cfg = some c →
      let names := c.forestId = h.forestId.toNat ∧ h.generations.getLsbD 1 = true
      let seals := h.chainOk = true ∧ h.certOk = true ∧ h.sigOk = true
      let refused := fun (t : State) => (∃ x, findAssoc t port peer = some x ∧ x.state = 0) ∧
        bitOf (regGet t (chowenPage port + Reg.EVT_CAUSE)).toNat 5 = true
      let opened := fun (t : State) => ∃ x, findAssoc t port peer = some x ∧ x.state = 3 ∧ x.generation = 1 ∧ x.expect = 0 ∧ x.rxEpoch = 0
      (peer < c.self → Runs (.hello port peer h) s fun t => (names → ∃ x, findAssoc t port peer = some x ∧ x.state = 2) ∧ (¬ names → refused t))
      ∧ (a.state = 1 → Runs (.reply port peer h) s fun t => (names ∧ seals → opened t) ∧ (¬ (names ∧ seals) → refused t))
      ∧ (a.state = 2 → Runs (.confirm port peer h) s fun t => (seals → opened t) ∧ (¬ seals → refused t))

/-- R84 to R89, R90, R91, R95 to R97, R99, R101 to R107, R110, R112, R113: CTX puts the context into a free slot of its binding and waits while both are live; a pass enters an
idle copse with its ring's owner noted and takes its entry's steps times the set's size; a step is counted, changes the arithmetic as the step rules say, and the last one ends the pass,
counts the set's passes and completes its entries; a pass into a ring outside the binding's mask ends the day; HARV waits behind the pass and leaves the comparison pending; a comparison that holds
counts, shows the counts and completes the entry; a mismatch counts and brings first a replay on the copse, then a spare copse with this one suspect,
then a fault of the spare. With both slots live the replaced context is released with its NaN count. The copse is lent to its borrower while
the owner is halted, and the borrower gives it back at the end of its pass. The copse limit has the group replayed once. -/
def Obligations.CopsePasses : Prop :=
  (∀ (s : State) (u : UnitRef) (x : Issue),
    let k := x.job.copseOf x.cal.index
    let c := getCopse s k
    let others := fun (t : State) => ∀ i, i ≠ k → getCopse t i = getCopse s i
    (∀ img, issueOf s u 2 = some x → mayRun c u.job = true → ctxImage s u.job x.job x.alm x.entry = some (img, false) →
      let z := mkCtx x.run.pc x.entry img
      (z.dwellLen = 0 ∨ z.dwellPos = 0) →
      let put := fun (d : Copse) => Runs (.ctx u) s fun t => getCopse t k = d ∧ others t ∧
        getJob t u.job = some (withRun x.job u (pastEntry x.run)) ∧ otherJobs u.job s t ∧ t.mem = s.mem
      (isBorrower c u.job = false → c.slotA = none → put { c with slotA := some z, activeB := false, memberCtx := none })
      ∧ (isBorrower c u.job = false → c.slotA ≠ none → c.slotB = none → put { c with slotB := some z, activeB := true, memberCtx := none })
      ∧ (isBorrower c u.job = true → (c.slotA = none ∨ c.slotB = none) → put { c with slotBorrower := some z, memberCtx := none })
      ∧ (c.slotA ≠ none → c.slotB ≠ none → Gives (.ctx u) s s))
    ∧ (∀ first, issueOf s u 1 = some x → mayRun c u.job = true → passesHeld s (k / 16) = false → activeCtx c u.job = some first →
      let ring := fld x.entry 123 121
      let m := mkMember s u.job x.job x.alm x.run.pc x.entry (c.memberCtx.getD first)
      (bitOf (maskFor c u.job) ring = true → c.harv = none → c.pass = none → passClash s u.job x.job x.alm c m = none →
        Runs (.pass u) s fun t => (getCopse t k).pass =
            some ⟨u.job, u.cal, isBorrower c u.job, [m], fld x.entry 119 104 + 1, first.dwellLen + 1, 0⟩ ∧
          aGet? (getCopse t k).ringOwner ring = some x.job.partition ∧ (getCopse t k).rings = c.rings ∧ others t ∧
          onlyTraced u.job { s with copses := t.copses } t ∧ getJob t u.job = some (withRun x.job u (launched x.run)))
      ∧ (bitOf (maskFor c u.job) ring = true → c.harv ≠ none → Gives (.pass u) s s)
      ∧ (bitOf (maskFor c u.job) ring = false → x.job.faultRestarts = 0 → Runs (.pass u) s fun t => ∃ j', getJob t u.job = some j' ∧
        j'.day = x.job.day ∧ j'.faultRestarts = 1 ∧ j'.cals = x.job.cals.map fun r => CalRun.start r.dawn))
    ∧ (issueOf s u 3 = some x → mayRun c u.job = true →
      ((c.pass ≠ none ∨ c.harv ≠ none) → Gives (.harv u) s s)
      ∧ ∀ b, c.pass = none → c.harv = none → (∀ r ∈ harvRings x.entry, bitOf (maskFor c u.job) r = true) →
        harvClash x.alm c x.entry = none → bufOf x.alm (fld x.entry 111 100) = some b →
        hardStop s x.job b (64 * fld x.entry 99 80) (255 * (64 * fld x.entry 79 64) + harvRowBytes x.entry) = none →
        Runs (.harv u) s fun t => (getCopse t k).harv =
            some ⟨u.job, u.cal, x.run.pc, isBorrower c u.job, 0, compareHarv c x.entry, false⟩ ∧
          (getCopse t k).rings = c.rings ∧ others t ∧ ∃ j', getJob t u.job = some j' ∧ j'.cals = x.job.cals.set u.cal (launched x.run)))
  ∧ ∀ (s : State) (p : CopsePath), p.ok = true → engineOn s = true →
    let k := p.index
    let c := getCopse s k
    let adds := fun (t : State) (a n : Nat) => (regGet t a).toNat = min ((regGet s a).toNat + n) 0xFFFFFFFF
    (c.pass = none → Gives (.copseStep p) s s)
    ∧ (∀ r j a m m0, c.pass = some r → getJob s r.job = some j → jobAlm s j = some a → r.members[r.done % r.size]? = some m →
      r.members.head? = some m0 → (stepBytes s r.job j a m m0.ctx.mode m0.ctx.afmt (r.done / r.size)).2.2 = false →
      getF s (copsePage1 k + Reg.COPSE_CHK_INJECT) Fld.COPSE_CHK_INJECT_arm = 0 → Runs (.copseStep p) s fun t =>
        getPair t (copsePage k + Reg.COPSE_STEPS_LO) = (getPair s (copsePage k + Reg.COPSE_STEPS_LO) + 1) % 2 ^ 64 ∧ t.mem = s.mem ∧
        (getCopse t k).winSteps = c.winSteps + 1 ∧ (getCopse t k).rings =
          (memberStep s r.job j a m0.ctx m (r.done / r.size) (r.done % r.size == 0) (laneSeed s k) c).rings ∧
        (r.done + 1 ≠ r.steps * r.size → (getCopse t k).pass = some { r with done := r.done + 1 } ∧ t.jobs = s.jobs) ∧
        (r.done + 1 = r.steps * r.size → (getCopse t k).pass = none ∧
          regGet t (copsePage k + Reg.COPSE_PASSES) = regGet s (copsePage k + Reg.COPSE_PASSES) + BitVec.ofNat 32 r.size ∧
          ∃ j', getJob t r.job = some j' ∧ ∀ run, j'.cals[r.cal]? = some run → ∀ y ∈ r.members, y.entry ∉ run.inFlight))
    ∧ (∀ xa xb, c.slotA = some xa → c.slotB = some xb →
      let old := if c.activeB then xa else xb
      slotInUse c old = false → Runs (.dawnRelease p) s fun t => t = { s with copses := t.copses, regs := t.regs } ∧
        getCopse t k = (if c.activeB then { c with slotA := none } else { c with slotB := none }) ∧
        getPair t (copsePage1 k + Reg.COPSE_SAT_TOTAL_LO) = (getPair s (copsePage1 k + Reg.COPSE_SAT_TOTAL_LO) + old.nans) % 2 ^ 64)
    ∧ (∀ h e, pendingHarv s k = some (h, e) →
      (h.cmp.ok = true → Runs (.harvComplete p) s fun t => getCopse t k = { c with harv := none } ∧
        adds t (copsePage1 k + Reg.COPSE_CHK_OK) 1 ∧ adds t (copsePage1 k + Reg.COPSE_CHK_UNCHECKED) h.cmp.unchecked ∧
        regGet t (copsePage1 k + Reg.COPSE_SAT_EDGE) = BitVec.ofNat 32 ((harvCounts c e).getD 0 0) ∧
        regGet t (copsePage1 k + Reg.COPSE_SAT_NAN) = BitVec.ofNat 32 ((harvCounts c e).getD 4 0) ∧
        ∃ j', getJob t h.job = some j' ∧ ∀ run, j'.cals[h.cal]? = some run → h.entry ∉ run.inFlight)
      ∧ (h.cmp.ok = false → h.attempt = 0 → Runs (.harvComplete p) s fun t => adds t (copsePage1 k + Reg.COPSE_CHK_FAIL) 1 ∧
        adds t (copsePage1 k + Reg.COPSE_CHK_REEXEC) 1 ∧ ∃ h', (getCopse t k).harv = some h' ∧ h'.attempt = 1 ∧ h'.entry = h.entry ∧ h'.job = h.job)
      ∧ (h.cmp.ok = false → h.attempt = 1 → Runs (.harvComplete p) s fun t => adds t (copsePage1 k + Reg.COPSE_CHK_FAIL) 1 ∧
        copseSuspect t k = true)
      ∧ (h.cmp.ok = false → 2 ≤ h.attempt → Runs (.harvComplete p) s fun t => adds t (copsePage1 k + Reg.COPSE_CHK_FAIL) 1 ∧
        getF t (copsePage1 k + Reg.COPSE_HEALTH) Fld.COPSE_HEALTH_fail_count =
          min (getF s (copsePage1 k + Reg.COPSE_HEALTH) Fld.COPSE_HEALTH_fail_count + 1) 255)
      ∧ Runs (.copsePassTimeout p) s fun t => adds t (standBase p.stand + Reg.STAND_TMO_LATE) 1 ∧ adds t (copsePage1 k + Reg.COPSE_CHK_FAIL) 1)
    ∧ (pendingHarv s k = none → c.pass = none → Gives (.copsePassTimeout p) s s)
    ∧ (∀ r j, pendingHarv s k = none → c.pass = some r → getJob s r.job = some j → (jobAlm s j).isSome = true → c.spareFor ≠ some r.job →
      c.replays = 0 → Runs (.copsePassTimeout p) s fun t => (getCopse t k).pass = some { r with done := 0 } ∧ (getCopse t k).replays = 1 ∧
        adds t (copsePage1 k + Reg.COPSE_CHK_FAIL) 1 ∧ adds t (copsePage1 k + Reg.COPSE_CHK_REEXEC) 1 ∧ t.jobs = s.jobs)
    ∧ (∀ n j logical, getJob s n = some j → j.isBound = true → j.copses[logical]? = some k → isBorrower c n = true → c.lent = false →
      c.harv = none → ownerHalted s k = true → ownerRunnable s k = false → Runs (.lendCopse p n logical) s fun t =>
        t = { s with copses := t.copses } ∧ getCopse t k = { c with lent := true, yielding := false } ∧ ∀ i, i ≠ k → getCopse t i = getCopse s i)
    ∧ (c.lent = true → c.borrower ≠ none → ownerRunnable s k = true → Runs (.borrowerYield p) s fun t => t = { s with copses := t.copses } ∧
      getCopse t k = (if c.pass.isSome then { c with yielding := true } else { c with lent := false, yielding := false }) ∧
      ∀ i, i ≠ k → getCopse t i = getCopse s i)

/-- R112, R136 to R151, R163, R164: PUT places its tokens all at once where every earlier write is done and the channel has room, TAKE removes
its tokens where they are there and halts its calendar else, WAIT goes on at a full buffer with the expected tag and halts else, FENCE waits for every
earlier entry, DAY halts. A fill that completes lets on every calendar that waits for it with the tag it brought; one that expects another tag ends the job
with an event. The budget of a wait posts one late-tier event. A day restarts from its dawn with its first tokens, empty staging and nothing of what it wrote, or,
the second time for the same kind of fault, its job ends. The dispatcher's limit ends the job. The commit of a day takes every calendar past its DAY entry to the dawn of the next, makes the
working pages the committed ones and counts; that of the last day ends the job. -/
def Obligations.CalendarEntries : Prop :=
  (∀ (s : State) (u : UnitRef) (x : Issue),
    let ch := fld x.entry 123 108
    let n := fld x.entry 107 102 + 1
    let held := x.job.toks.getD ch 0
    let goes := fun (t : State) (j : Job) => onlyTraced u.job s t ∧ getJob t u.job = some j
    (issueOf s u 9 = some x → (unitRuns s u x = true ∧ x.run.inFlight = [] ∧ held + n ≤ (x.alm.chans[ch]?).elim 0 (·.capacity) →
        Runs (.put u) s fun t => goes t { withRun x.job u (pastEntry x.run) with toks := x.job.toks.set ch (held + n) })
      ∧ (x.run.inFlight ≠ [] ∨ (x.alm.chans[ch]?).elim 0 (·.capacity) < held + n → Gives (.put u) s s))
    ∧ (issueOf s u 10 = some x → unitRuns s u x = true →
      (n ≤ held → Runs (.take u) s fun t => goes t { withRun x.job u (pastEntry x.run) with toks := x.job.toks.set ch (held - n) })
      ∧ (held < n → x.run.halt = .running → Runs (.take u) s fun t => goes t (withRun x.job u { x.run with halt := .atTake, late := false })))
    ∧ (∀ w, issueOf s u 11 = some x → unitRuns s u x = true → x.alm.waits[ch]? = some w →
      (stagingOf x.job w.buf = ⟨.full, w.tag⟩ → Runs (.wait u) s fun t => goes t (withRun x.job u (pastEntry x.run)))
      ∧ (stagingOf x.job w.buf ≠ ⟨.full, w.tag⟩ → x.run.halt = .running →
        Runs (.wait u) s fun t => goes t (withRun x.job u { x.run with halt := .atWait s.tb, late := false })))
    ∧ (issueOf s u 13 = some x → unitRuns s u x = true →
      (x.run.inFlight = [] → Runs (.fence u) s fun t => goes t (withRun x.job u (pastEntry x.run)))
      ∧ (x.run.inFlight ≠ [] → x.run.halt = .running →
        Runs (.fence u) s fun t => goes t (withRun x.job u { x.run with halt := .atFence, late := false })))
    ∧ (issueOf s u 12 = some x → unitRuns s u x = true → x.run.halt = .running →
      Runs (.day u) s fun t => goes t (withRun x.job u { x.run with halt := .atDay, late := false }))
    ∧ (∀ since, issueOf s u 11 = some x → x.run.halt = .atWait since →
      (x.run.late = true → Gives (.waitBudgetExpiry u) s s)
      ∧ (x.run.late = false → Runs (.waitBudgetExpiry u) s fun t =>
        t = { s with jobs := t.jobs, regs := t.regs, ras := t.ras, host := t.host } ∧
        getJob t u.job = some (withRun x.job u { x.run with late := true }) ∧
        (regGet t Reg.DSP_LATE_TIER).toNat = min ((regGet s Reg.DSP_LATE_TIER).toNat + 1) 0xFFFFFFFF)))
  ∧ (∀ (s : State) (n b : Nat) (j : Job) (a : Alm), getJob s n = some j → jobAlm s j = some a →
    let waits := fun (i : Nat) (r : CalRun) (w : WaitDef) => j.cals[i]? = some r ∧ (∃ since, r.halt = .atWait since) ∧
      ∃ c, a.cals[i]? = some c ∧ a.waits[fld (c.entries.getD r.pc 0) 123 108]? = some w ∧ w.buf = b
    ((stagingOf j b).fill ≠ .full → Gives (.fillComplete n b) s s)
    ∧ ((stagingOf j b).fill = .full → (∀ i r w, waits i r w → w.tag = (stagingOf j b).tag) →
      Runs (.fillComplete n b) s fun t => onlyTraced n s t ∧ ∃ j', getJob t n = some j' ∧ j' = { j with cals := j'.cals } ∧
        ∀ i r, j.cals[i]? = some r → ((∃ w, waits i r w) → j'.cals[i]? = some (pastEntry r)) ∧
          ((¬ ∃ w, waits i r w) → j'.cals[i]? = some r))
    ∧ ((stagingOf j b).fill = .full → j.kind ≠ 1 → (∃ i r w, waits i r w ∧ w.tag ≠ (stagingOf j b).tag) →
      Runs (.fillComplete n b) s fun t => getJob t n = none ∧ bitOf (regGet t (pgDispatcher + Reg.EVT_CAUSE)).toNat 5 = true))
  ∧ ∀ (s : State) (n : Nat) (j : Job) (a : Alm), getJob s n = some j → jobAlm s j = some a → engineOn s = true →
    (j.isBound = true → j.finished = false → ∀ cause,
      let again := (cause = .tagMismatch ∨ cause = .ringOwnership ∨ cause = .addressFault) ∧ 1 ≤ j.faultRestarts ∨
        cause = .poison ∧ 1 ≤ j.poisonRestarts ∨ cause = .sealFail ∧ 1 ≤ j.sealRestarts
      (¬ again → Runs (.dayFaultRestart n cause) s fun t => ∃ j', getJob t n = some j' ∧ j'.day = j.day ∧ j'.toks = initToks a ∧
        j'.staging = [] ∧ j'.cals = (j.cals.map fun r => CalRun.start r.dawn) ∧ (a.plan = none → j'.work = [] ∧ j'.held = []) ∧
        (regGet t Reg.DSP_RESTARTS).toNat = min ((regGet s Reg.DSP_RESTARTS).toNat + 1) 0xFFFFFFFF)
      ∧ (again → j.kind ≠ 1 → Runs (.dayFaultRestart n cause) s fun t => getJob t n = none))
    ∧ (j.isBound = true → (j.cls = 1 → yieldedCopse s n = false) → ∀ retrying,
      (j.finished = false → j.kind ≠ 1 → Runs (.dayLimitExpiry n retrying) s fun t => getJob t n = none ∧
        (regGet t Reg.DSP_LATE).toNat = min ((regGet s Reg.DSP_LATE).toNat + (j.staging.filter fun e => e.2.fill == .filling).length) 0xFFFFFFFF)
      ∧ ∀ k g, j.finished = true → j.gang = some k → aGet? s.gangs k = some g → (g.phase = 1 ∨ g.phase = 2) →
        Runs (.dayLimitExpiry n retrying) s fun t => aGet? t.gangs k = none)
    ∧ (dayDone s n j = true → j.tables = [] →
      let counts := fun (t : State) => getPair t Reg.DSP_COMMITS_LO = (getPair s Reg.DSP_COMMITS_LO + 1) % 2 ^ 64
      (j.day + 1 < a.days.length → Runs (.dayCommit n) s fun t => counts t ∧ ∃ j', getJob t n = some j' ∧ j'.day = j.day + 1 ∧
        j'.toks = initToks a ∧ j'.staging = [] ∧ j'.faultRestarts = 0 ∧ j'.dayStart = s.tb ∧
        j'.cals = (j.cals.map fun r => { CalRun.start (r.pc + 1) with draw := none }) ∧
        (a.plan = none → j'.work = [] ∧ j'.held = [] ∧ (aSorted j.work = true →
          ∀ pg p, aGet? j.work pg = some p → pg < 2 ^ 32 → pg < j.pages.length → j'.pages[pg]? = some p)))
      ∧ (a.days.length ≤ j.day + 1 → a.plan = none → outputPoison s n j a = false → Runs (.dayCommit n) s fun t =>
        counts t ∧ getJob t n = none))
    ∧ (j.isBound = false → j.finished = false → runningJobs s < 1024 →
      (a.plan ≠ none → getF s Reg.COMMONS_STAT Fld.COMMONS_STAT_model ≠ 2 → j.kind ≠ 1 → Runs (.jobBind n) s fun t => getJob t n = none)
      ∧ (a.plan = none ∨ getF s Reg.COMMONS_STAT Fld.COMMONS_STAT_model = 2 →
        (couldBind s a j.cls = false → j.kind ≠ 1 → Runs (.jobBind n) s fun t => getJob t n = none ∧
          getF t Reg.VAL_LAST Fld.VAL_LAST_code = 0x14)
        ∧ ∀ p rs bs, couldBind s a j.cls = true → almTables a = [] → planJob s a j.cls false = some p →
          let glades := (List.range a.nGlade).map fun g => (aGetD p.glades g (0, 0)).1
          planRangers s a glades [] (List.range a.nRanger) [] [] = some (rs, bs) →
          (takeJobPages j.partition (jobStands s { j with glades := glades, rangers := rs }) (pagesFor (stackNeed a)) 0 s).isSome = true →
          Runs (.jobBind n) s fun t => ∃ j', getJob t n = some j' ∧ j'.isBound = true ∧ j'.day = j.day ∧ j'.glades = glades ∧
            j'.rangers = rs ∧ j'.copses = ((List.range a.nCopse).map fun c => (aGetD p.copses c (0, false)).1) ∧
            j'.toks = initToks a ∧ j'.staging = [] ∧ j'.cals = a.cals.map fun _ => CalRun.start 0))

/-- R129 to R131, R149, R189, R314 to R316, R325, R355, R356: a MOVE copies its source's bytes to its destination on the chip and its calendar goes on while the entry is in flight, waits
behind one that reads flash, and into a flash-backed extent leaves a held write; its completion makes a tagged staging buffer full with its tag. A tier-5 slot written in the day arrives in the hub
mover's window. GATHER writes each listed row, formatted, at its position, zeros for an index out of range, which is counted. SCATTER gives each listed row its combined and
requantised value: a hot row in its hot copy, marked dirty, another in the day's working page of the table. (Destinations on the chip, working pages that are there.) -/
def Obligations.MovesAndRows : Prop :=
  (∀ (s : State) (u : UnitRef) (x : Issue) (sb db : BufDef), issueOf s u 4 = some x →
    let m := moveFields x.entry
    bufOf x.alm m.sbuf = some sb → bufOf x.alm m.dbuf = some db →
    (flashInFlight x = true → Gives (.move u) s s)
    ∧ (flashInFlight x = false → mayRead x.job sb = true → sourceOk s sb m.soff m.len = true →
      (onChip s x.job db → m.xform = 0 → sb.tier ≤ 3 → sb.owner = x.job.partition → Memory.wf s.mem = true →
        Runs (.move u) s fun t => Holds t u.job m.dbuf db m.doff (bufRead s u.job x.job m.sbuf sb m.soff m.len) ∧
          bytesBut (bufBase s u.job x.job db + m.doff) m.len s t ∧ otherJobs u.job s t ∧
          ∃ j', getJob t u.job = some j' ∧ j'.cals = x.job.cals.set u.cal (launched x.run) ∧
            (m.ltag ≠ 0 → db.kind = 4 → (stagingOf j' m.dbuf).fill = .filling))
      ∧ ∀ e, db.tier = 4 → extentOf s db = some e → db.kind ≠ 1 → db.owner = x.job.partition → db.offset + m.doff + m.len ≤ e.length →
        m.xform = 0 → sb.tier ≤ 3 → sb.owner = x.job.partition → s.mem.poison = [] → Runs (.move u) s fun t => t.mem = s.mem ∧ ∃ j', getJob t u.job = some j' ∧
          j'.cals = x.job.cals.set u.cal (launched x.run) ∧ j'.held = x.job.held ++
            [⟨db.owner, e.offset + db.offset + m.doff, bufRead s u.job x.job m.sbuf sb m.soff m.len, false⟩]))
  ∧ (∀ (s : State) (u : UnitRef) (j : Job) (a : Alm) (c : CalDef) (r : CalRun) (i : Nat) (sb db : BufDef), engineOn s = true →
    calOf s u = some (j, a, c, r) → r.inFlight.find? (fun i => entryClass (c.entries.getD i 0) == 4) = some i →
    let m := moveFields (c.entries.getD i 0)
    bufOf a m.sbuf = some sb → bufOf a m.dbuf = some db → accessesOf s 1 (moveWaiter u i) = [] → sb.tier ≠ 4 →
    Runs (.moveComplete u) s fun t => onlyTraced u.job s t ∧
      getJob t u.job = some { withRun j u { r with inFlight := r.inFlight.filter (· != i) } with
        staging := if m.ltag ≠ 0 ∧ db.kind = 4 then aPut j.staging m.dbuf ⟨.full, m.ltag⟩ else j.staging })
  ∧ (∀ (s : State) (n bn slot : Nat) (tagOk : Bool) (plain : List Byte) (seq : Nat) (j : Job) (h : HostSlot), engineOn s = true →
    getJob s n = some j → aGet? j.slots (slotKey bn slot) = some h → j.isBound = true → j.finished = false → h.thisDay = true →
    (fetchedSlot j bn slot).isNone = true → j.prefetched.length < getF s Reg.ADPT_OFFLOAD_CFG Fld.ADPT_OFFLOAD_CFG_pf_depth →
    Runs (.offloadSlotPrefetch n bn slot tagOk plain seq) s fun t => t = { s with jobs := t.jobs } ∧ otherJobs n s t ∧
      getJob t n = some { j with prefetched := j.prefetched ++ [⟨bn, slot, tagOk && seq == h.seq, bOfList plain⟩] })
  ∧ (∀ (s : State) (u : UnitRef) (x : Issue) (pin : TablePin) (i : Nat) (tab : Table) (db : BufDef), issueOf s u 5 = some x →
    let e := rowFields x.entry
    let l := indexList (consume s u.job x.job x.alm e.ibuf e.ioff (4 * e.count)).1 e.count
    let sp := rowSpacing tab.dim tab.fmt e.opt
    1 ≤ e.table → e.table ≤ 255 → pinOf x.job e.table x.cal.glade = some (pin, i) → bufOf x.alm e.dbuf = some db →
    aGet? s.tables (tabKey x.job.partition e.table) = some tab → tokenWait pin (distinct (l.filter fun r => decide (r < tab.rows))) = false →
    (consume s u.job x.job x.alm e.ibuf e.ioff (4 * e.count)).2 = false → onChip s x.job db →
    (e.opt = 3 → tab.stride = rowStride tab.dim tab.fmt ∧ ∀ r h, aGet? pin.hot r = some h → h.copy.length = tab.stride) →
    Runs (.gather u) s fun t => bytesBut (bufBase s u.job x.job db + e.doff) (sp * e.count) s t ∧ otherJobs u.job s t ∧
      (regGet t Reg.TBL_OOR).toNat = min ((regGet s Reg.TBL_OOR).toNat + (l.filter fun r => decide (tab.rows ≤ r)).length) 0xFFFFFFFF ∧
      (∃ j', getJob t u.job = some j' ∧ j'.cals = x.job.cals.set u.cal (pastEntry x.run)) ∧
      ∀ p, p < e.count → Holds t u.job e.dbuf db (e.doff + p * sp)
        (if l.getD p 0 < tab.rows then rowOut tab.dim tab.fmt e.opt (liveRow s x.job pin tab (l.getD p 0))
         else zeros (if e.opt = 3 then tab.stride else tab.dim * (if e.opt = 2 then 4 else 2))))
  ∧ ∀ (s : State) (u : UnitRef) (x : Issue) (pin : TablePin) (i : Nat) (tab : Table), issueOf s u 6 = some x →
    let e := rowFields x.entry
    let raw := consume s u.job x.job x.alm e.ibuf e.ioff (4 * e.count)
    let l := indexList raw.1 e.count
    let ok := distinct (l.filter fun r => decide (r < tab.rows))
    let sp := rowSpacing tab.dim tab.fmt 2
    let src := consume s u.job x.job x.alm e.dbuf e.doff (sp * e.count)
    let value := fun (r : Nat) => (requantise tab.dim tab.fmt (combineRow e.opt tab.dim
      ((List.range tab.dim).map (rowElem fmtFP32 tab.fmt (liveRow s x.job pin tab r)))
      (((l.zipIdx).filter fun p => p.1 == r).map fun p => (List.range tab.dim).map fun k => leAt src.1 (p.2 * sp + 4 * k) 4))).row
    1 ≤ e.table → e.table ≤ 255 → pinOf x.job e.table x.cal.glade = some (pin, i) → raw.2 = false → src.2 = false → s.mem.poison = [] →
    aGet? s.tables (tabKey x.job.partition e.table) = some tab →
    ((∀ r ∈ ok, ∃ h, aGet? pin.hot r = some h ∧ h.state = 2) → Runs (.scatter u) s fun t => t.mem = s.mem ∧ otherJobs u.job s t ∧
      ∃ j' pin', getJob t u.job = some j' ∧ j'.cals = x.job.cals.set u.cal (pastEntry x.run) ∧ j'.tables = x.job.tables.set i pin' ∧
        ∀ r, (r ∈ ok → (aGet? pin'.hot r).map (fun h => (h.state, h.dirty, h.copy)) = some (2, true, value r)) ∧
          (r ∉ ok → aGet? pin'.hot r = aGet? pin.hot r))
    ∧ ∀ r w, ok = [r] → aGet? pin.hot r = none → r * tab.stride % 65536 + (value r).length ≤ 65536 →
      aGet? x.job.work ((e.table + 1) * 2 ^ 32 + r * tab.stride / 65536) = some w → Runs (.scatter u) s fun t =>
        (∃ j', getJob t u.job = some j' ∧ j'.cals = x.job.cals.set u.cal (pastEntry x.run) ∧ j'.tables = x.job.tables ∧ j'.work = x.job.work) ∧
        bRead t.mem.bytes (locPage w + r * tab.stride % 65536) (value r).length = value r ∧
        bytesBut (locPage w + r * tab.stride % 65536) (value r).length s t

/-- R132 to R135, R268, R273 to R276, R347: PERMUTE gives destination column n every line and the map entry of the source column its entry names, zeros for an invalid entry; RETURN replaces or
adds each column in its source column where the map entries agree, and ends the job where they differ; ROUTE_SELECT chooses for each column at most k scores, no NaN, none lower than one not chosen,
and writes its lists and gates; REGROUP writes its list and map; both count what they drop. SLOT_TRANSPOSE writes each column's elements of a slot as 256 bytes of
its section. VEC writes one result for each element, or one for a sum or a maximum, and counts saturations and NaNs. RNG draws a tile or a mask
and moves the draw context on. Each calendar goes on past its entry. (Destinations on the chip.) -/
def Obligations.SorterAndVectors : Prop :=
  (∀ (s : State) (u : UnitRef) (cls handle : Nat) (x : Issue) (e : RowEntry) (p : PermLine) (es : List Nat) (sb db : BufDef)
      (si : RowItem) (ki : Nat), permIssue s u cls handle = some (x, e, p, es, false) → bufOf x.alm p.src = some sb →
    bufOf x.alm e.dbuf = some db → planItem x.alm p.src = some (ki, si) →
    let on := fun (t : State) => otherJobs u.job s t ∧ ∃ j', getJob t u.job = some j' ∧ j'.cals = x.job.cals.set u.cal (pastEntry x.run)
    let drops := fun (t : State) (n : Nat) => (regGet t Reg.COMMONS_ROUTE_DROP).toNat = min ((regGet s Reg.COMMONS_ROUTE_DROP).toNat + n) 0xFFFFFFFF
    (∀ di kd, planItem x.alm e.dbuf = some (kd, di) →
      let same := permInRange p es = true ∧ si.lines = di.lines ∧ si.esize = di.esize
      (same → cls = 5 → handle = 0xFFFF → onChip s x.job db → sb.tier ≤ 3 → Runs (.permute u) s fun t => on t ∧
        ∀ n, n / 128 < e.count / 128 →
          let w := es.getD n 0
          let from0 := (p.srcGroup + mapRow w / 128) * si.group
          let to0 := (p.dstGroup + n / 128) * di.group
          Holds t u.job e.dbuf db (to0 + 4 * (n % 128)) (if mapValid w then
            bufRead s u.job x.job p.src sb (from0 + 4 * (mapRow w % 128)) 4 else zeros 4) ∧
          ∀ l, l < si.lines → Holds t u.job e.dbuf db (to0 + 512 + l * di.line + n % 128 * di.esz) (if mapValid w then
            bufRead s u.job x.job p.src sb (from0 + 512 + l * si.line + mapRow w % 128 * si.esz) si.esz else zeros si.esz))
      ∧ (same → cls = 6 → handle = 0xFFFF →
        let cols := (es.zipIdx).filter fun w => mapValid w.1
        let have0 := fun (i : Nat) => (groupMap s u.job x.job e.dbuf db di (p.dstGroup + i / 128)).getD (i % 128) 0
        let want := fun (w : Nat) => (groupMap s u.job x.job p.src sb si (p.srcGroup + mapRow w / 128)).getD (mapRow w % 128) 0
        ((∃ w ∈ cols, have0 w.2 ≠ want w.1) → x.job.kind ≠ 1 → Runs (.returnColumns u) s fun t => getJob t u.job = none ∧
          (regGet t Reg.COMMONS_CMAP_FAULT).toNat = min ((regGet s Reg.COMMONS_CMAP_FAULT).toNat + 1) 0xFFFFFFFF)
        ∧ ((∀ w ∈ cols, have0 w.2 = want w.1) → onChip s x.job sb → db.tier ≤ 3 → (e.opt = 0 → si.esize = 2) →
          (cols.map fun w => mapRow w.1).Nodup → Runs (.returnColumns u) s fun t => on t ∧ ∀ w ∈ cols, ∀ l, l < si.lines →
            let o := (p.srcGroup + mapRow w.1 / 128) * si.group + 512 + l * si.line + mapRow w.1 % 128 * si.esz
            let v := bufRead s u.job x.job e.dbuf db ((p.dstGroup + w.2 / 128) * di.group + 512 + l * di.line + w.2 % 128 * di.esz) si.esz
            Holds t u.job p.src sb o (if e.opt = 0 then toLe 4 (fpAdd .rne 0 (leNat (bufRead s u.job x.job p.src sb o 4)) (leNat v)) else v)))
      ∧ ∀ plan, cls = 5 → handle = 0xFFFC → x.alm.plan = some plan → transposeFits s u.job x.job plan e p db si di = true →
        onChip s x.job db → Runs (.slotTranspose u) s fun t => on t ∧ ∀ st ∈ transposeSteps s u.job x.job plan p sb si,
          Holds t u.job e.dbuf db (e.doff + 256 * st.1) (transposeRow di.esize (sectionWord s x.job x.alm kd)
            (aGetD x.job.exps (expKey kd (transposeSlot plan p)) 0) st.2).1 ∧
          (st.2.length = p.experts ∨ st.2 = []))
    ∧ (onChip s x.job db →
      (cls = 5 → handle = 0xFFFE → Runs (.routeSelect u) s fun t => on t ∧ drops t (routeTables s u.job x.job p sb si).2 ∧
        Holds t u.job e.dbuf db e.doff (routeTables s u.job x.job p sb si).1)
      ∧ (cls = 5 → handle = 0xFFFD → Runs (.regroup u) s fun t => on t ∧ drops t (regroupTables s u.job x.job p sb si).2 ∧
        Holds t u.job e.dbuf db e.doff (regroupTables s u.job x.job p sb si).1)))
  ∧ (∀ (k : Nat) (l : List (Nat × Nat)), (l.map (·.1)).Nodup → (topK k l).length = min k (l.filter fun x => !isNaN32 x.2).length ∧
    ∀ y ∈ topK k l, y ∈ l ∧ isNaN32 y.2 = false ∧ ∀ z ∈ l, z ∉ topK k l → isNaN32 z.2 = false →
      numLt (fmtFP32.decode y.2) (fmtFP32.decode z.2) = false)
  ∧ (∀ (s : State) (u : UnitRef) (x : Issue) (db : BufDef), issueOf s u 7 = some x →
    let v := vecFields x.entry
    let a := consume s u.job x.job x.alm v.abuf v.aoff (v.n * vecSrcBytes v.op)
    let b := consume s u.job x.job x.alm v.bbuf v.boff (vecBBytes v.op v.n)
    let d := consume s u.job x.job x.alm v.dbuf v.doff (4 * v.n)
    let page := gladePage (x.job.gladeOf x.cal.glade)
    let elem := fun (i : Nat) => vecElem v.op v.rnd 0 (leAt a.1 (i * vecSrcBytes v.op) (vecSrcBytes v.op))
      (if v.op = 0x12 ∨ v.op = 0x13 then leAt b.1 0 4 else if v.op = 0x18 then leAt b.1 i 1 else leAt b.1 (4 * i) 4)
      (if v.op = 0x04 then leAt d.1 (4 * i) 4 else 0)
    bufOf x.alm v.dbuf = some db → (vecMaps s u.job x.job x.alm v).2 = none → planItem x.alm v.dbuf = none → onChip s x.job db →
    a.2 = false → (vecBBytes v.op v.n ≠ 0 → b.2 = false) → (v.op = 0x04 → d.2 = false) → v.rnd ≠ .sr → Runs (.vec u) s fun t =>
      otherJobs u.job s t ∧ (∃ j', getJob t u.job = some j' ∧ j'.cals = x.job.cals.set u.cal (pastEntry x.run)) ∧
      ((v.op = 0x10 ∨ v.op = 0x11) → Holds t u.job v.dbuf db v.doff (toLe 4 (fpOut (if v.op = 0x10 then
        vecSum v.rnd v.order [] (elemsOf 4 a.1) else vecMax (elemsOf 4 a.1))).code)) ∧
      (v.op ≠ 0x10 → v.op ≠ 0x11 →
        (∀ i, i < v.n → Holds t u.job v.dbuf db (v.doff + i * vecDstBytes v.op) (toLe (vecDstBytes v.op) (elem i).code)) ∧
        (regGet t (page + Reg.GLADE_VU_SAT)).toNat = min ((regGet s (page + Reg.GLADE_VU_SAT)).toNat +
          ((List.range v.n).filter fun i => (elem i).sat).length) 0xFFFFFFFF ∧
        (regGet t (page + Reg.GLADE_VU_NAN)).toNat = min ((regGet s (page + Reg.GLADE_VU_NAN)).toNat +
          ((List.range v.n).filter fun i => (elem i).nan).length) 0xFFFFFFFF))
  ∧ ∀ (s : State) (u : UnitRef) (x : Issue), issueOf s u 8 = some x →
    let op := fld x.entry 123 122
    let param := consume s u.job x.job x.alm (fld x.entry 104 93) (64 * fld x.entry 92 73) 32
    let d : Draw := ⟨leAt param.1 0 8, leAt param.1 8 4, leAt param.1 16 8⟩
    let n := fld x.entry 40 17 + 1
    let fields := (List.range n).map fun i => rngField d.seed d.stream d.base i
    param.2 = false →
    (op = 2 → Runs (.rng u) s fun t => onlyTraced u.job s t ∧
      getJob t u.job = some (withRun x.job u { pastEntry x.run with draw := some d }))
    ∧ ∀ db, op ≠ 2 → fld x.entry 121 121 = 0 → bufOf x.alm (fld x.entry 72 61) = some db → onChip s x.job db → Runs (.rng u) s fun t =>
      otherJobs u.job s t ∧ (∃ j', getJob t u.job = some j' ∧ j'.cals = x.job.cals.set u.cal
        { pastEntry x.run with draw := some { d with base := (d.base + (n + 7) / 8) % 2 ^ 64 } }) ∧
      Holds t u.job (fld x.entry 72 61) db (64 * fld x.entry 60 41) (if op = 0 then fields.flatMap (toLe 2)
        else fields.map fun f => if f < fld x.entry 120 105 then 1 else 0)
end

