-- ==== Sys2Proof/Laws/Commands.lean ====
section
/-! SUPPORT. What running a host command comes to where the command begins. -/

namespace Sys2Proof.Machine

theorem runCmd_begins {s u : State} {c : Cmd} {opcode : Nat} (h : Begins s c opcode u) (body : State → State × Option Reply) :
    runCmd c opcode body s = .next (match (body u).2 with
      | none => (body u).1
      | some r => completeAt (body u).1 c.sqid c.cid r) := by
  obtain ⟨o, ho⟩ := h
  unfold runCmd
  rw [ho]
  dsimp only
  rcases body u with ⟨v, _ | r⟩ <;> rfl

theorem runChecked_begins {u : State} {q : Req} {classOk anyPart : Bool} (hf : vendorFields q.c classOk = true)
    (hw : inWindow u q.part q.c.nonce = false) (hp : anyPart = true ∨ aHas u.life q.part = true)
    (body : State → Req → State × Option Reply) : runChecked u q classOk anyPart body = runBody u q body := by
  unfold runChecked
  rw [hf, hw]
  rcases hp with hp | hp <;> simp [hp]

theorem runPlain_begins {s u : State} {c : Cmd} {opcode : Nat} {q : Req} (h : PlainBegins s c opcode u q) (anyPart : Bool)
    (body : State → Req → State × Option Reply) : runPlain c opcode anyPart body s = .next (runBody u q body) := by
  obtain ⟨⟨o, ho⟩, rfl, hf, hw, hp⟩ := h
  unfold runPlain
  rw [ho]
  exact congrArg _ (runChecked_begins (q := ⟨c, opcode, c.partOf, none, c.buf⟩) hf hw (.inr hp) body)

/-- A request that an envelope opens to names its command. -/
theorem openEnvelope_cmd {s : State} {c : Cmd} {opcode : Nat} {a b : Bool} {o : Opened} {q : Req}
    (h : (openEnvelope s c opcode a b o).2 = some q) : q.c = c ∧ q.opcode = opcode ∧ q.part = c.partOf := by
  unfold openEnvelope at h
  dsimp only at h
  repeat' split at h
  all_goals first | cases h; exact ⟨rfl, rfl, rfl⟩ | cases h

theorem runSealed_begins {s u : State} {c : Cmd} {opcode : Nat} {a b classOk : Bool} {o : Opened} {q : Req}
    (h : SealedBegins s c opcode a b classOk o u q) (body : State → Req → State × Option Reply) :
    runSealed c opcode a b classOk o body s = .next (runBody u q body) := by
  obtain ⟨s1, ⟨x, hx⟩, hq, rfl, hf, hw, hp⟩ := h
  have hc := openEnvelope_cmd hq
  unfold runSealed
  rw [hx]
  dsimp only
  rcases he : openEnvelope s1 c opcode a b o with ⟨st, _ | r⟩
  · rw [he] at hq; cases hq
  · rw [he] at hq; cases hq
    dsimp only
    exact congrArg _ (runChecked_begins (by rw [hc.1]; exact hf) (by rw [hc.1]; exact hw) (.inr hp) body)

theorem runBody_answered {u v : State} {q : Req} {r : Reply} {body : State → Req → State × Option Reply}
    (h : body u q = (v, some r)) (hr : neverWindow r.st = false) : runBody u q body = answered v q r := by
  unfold runBody answered
  rw [h]
  dsimp only
  have : r.st ≠ stSeal := by rintro e; rw [e] at hr; revert hr; decide
  simp [hr, this]

theorem runBody_waits {u v : State} {q : Req} {body : State → Req → State × Option Reply} (h : body u q = (v, none)) :
    runBody u q body = accept v q.c q.opcode q.session := by
  unfold runBody; rw [h]

theorem runMsg_begins {s u : State} {c : Cmd} {n : Nat} {q : Req} (h : MsgBegins s c n u q)
    (body : State → Req → State × Option Reply) : runMsg c n body s = .next (runBody u q body) := by
  obtain ⟨hp, hf, hh, h0, h1⟩ := h
  have hq : q.c = c := by rw [hp.2.1]
  unfold runMsg runForm
  rw [if_pos hf, runPlain_begins hp]
  congr 1
  unfold runBody
  simp [guards, msgChecks, hq, hh, h0, h1]

theorem runForm_same {c : Cmd} {n : Nat} (h : c.form = n) (k : State → Host.Outcome State Fault Refusal) (s : State) :
    runForm c n k s = k s := if_pos h

/-- Checks that all pass go on. -/
theorem guards_pass {s : State} {l : List (Bool × Status)} (h : ∀ x ∈ l, x.1 = false) (k : Unit → State × Option Reply) :
    guards s l k = k () := by
  induction l with
  | nil => rfl
  | cons a r ih =>
    obtain ⟨b, st⟩ := a
    have : b = false := h (b, st) (by simp)
    subst this
    exact ih fun x hx => h x (by simp [hx])

end Sys2Proof.Machine
end

