-- ==== Sys2Proof/Laws/Keeps.lean ====
section
/-! SUPPORT. What every operation of the model leaves alone, and the canonical form of memory: the lemmas they rest on. -/

namespace Sys2Proof.Machine

/-- The keys rise strictly just where every key lies below all later ones. -/
theorem aSorted_iff {α : Type} (m : AMap α) : aSorted m = true ↔ m.Pairwise fun a b => a.1 < b.1 := by
  induction m with
  | nil => simp [aSorted]
  | cons a r ih =>
    cases r with
    | nil => simp [aSorted]
    | cons b r =>
      simp only [aSorted, Bool.and_eq_true, decide_eq_true_eq, ih, List.pairwise_cons, List.mem_cons, forall_eq_or_imp]
      constructor
      · rintro ⟨h, h1, h2⟩
        exact ⟨⟨h, fun x hx => lt_trans h (h1 x hx)⟩, h1, h2⟩
      · rintro ⟨⟨h, _⟩, h1, h2⟩
        exact ⟨h, h1, h2⟩

theorem aSorted_filter {α : Type} (m : AMap α) (p : Nat × α → Bool) (h : aSorted m = true) :
    aSorted (m.filter p) = true := by
  rw [aSorted_iff] at *
  exact h.filter p

theorem aSorted_aDel {α : Type} (m : AMap α) (k : Nat) (h : aSorted m = true) : aSorted (aDel m k) = true :=
  aSorted_filter m _ h

/-- A key listed after a put is the key put or was listed before. -/
theorem mem_aPut {α : Type} (m : AMap α) (k : Nat) (v : α) (e : Nat × α) (h : e ∈ aPut m k v) : e = (k, v) ∨ e ∈ m := by
  induction m with
  | nil => simpa [aPut] using h
  | cons a r ih =>
    obtain ⟨j, w⟩ := a
    simp only [aPut] at h
    split at h
    · simpa using h
    · split at h <;> grind

theorem aSorted_aPut {α : Type} (m : AMap α) (k : Nat) (v : α) (h : aSorted m = true) : aSorted (aPut m k v) = true := by
  rw [aSorted_iff] at *
  induction m with
  | nil => simp [aPut]
  | cons a r ih =>
    obtain ⟨j, w⟩ := a
    rw [List.pairwise_cons] at h
    simp only [aPut]
    split
    · rename_i hk
      refine List.Pairwise.cons (fun e he => ?_) (List.Pairwise.cons h.1 h.2)
      rcases List.mem_cons.mp he with rfl | he
      · exact hk
      · exact lt_trans hk (h.1 e he)
    · split
      · rename_i hk; subst hk
        exact List.Pairwise.cons h.1 h.2
      · refine List.Pairwise.cons (fun e he => ?_) (ih h.2)
        rcases mem_aPut r k v e he with rfl | he
        · simp only; omega
        · exact h.1 e he

theorem bytesWf_filter (m : Bytes) (p : Nat × Byte → Bool) (h : bytesWf m = true) : bytesWf (m.filter p) = true := by
  simp only [bytesWf, Bool.and_eq_true, List.all_eq_true] at *
  exact ⟨aSorted_filter m p h.1, fun e he => h.2 e (List.mem_filter.mp he).1⟩

theorem bytesWf_bPut (m : Bytes) (a : Nat) (b : Byte) (h : bytesWf m = true) : bytesWf (bPut m a b) = true := by
  unfold bPut
  split
  · exact bytesWf_filter m _ h
  · rename_i hb
    simp only [bytesWf, Bool.and_eq_true, List.all_eq_true] at *
    refine ⟨aSorted_aPut m a b h.1, fun e he => ?_⟩
    rcases mem_aPut m a b e he with rfl | he
    · simpa using hb
    · exact h.2 e he

theorem bytesWf_bWrite (m : Bytes) (a : Nat) (l : List Byte) (h : bytesWf m = true) : bytesWf (bWrite m a l) = true := by
  induction l generalizing m a with
  | nil => exact h
  | cons b r ih => exact ih _ _ (bytesWf_bPut m a b h)

theorem bytesWf_bZero (m : Bytes) (a n : Nat) (h : bytesWf m = true) : bytesWf (bZero m a n) = true :=
  bytesWf_filter m _ h

/-- What holds of a value and is kept by a function holds after folding the function over a list. -/
theorem foldl_keeps {α β : Type} (P : α → Prop) (g : α → β → α) (hg : ∀ a x, P a → P (g a x)) (l : List β) (a : α)
    (h : P a) : P (l.foldl g a) := by
  induction l generalizing a with
  | nil => exact h
  | cons x r ih => exact ih _ (hg a x h)

theorem bytesWf_bPaste (m : Bytes) (a n : Nat) (c : Bytes) (h : bytesWf m = true) : bytesWf (bPaste m a n c) = true := by
  unfold bPaste
  refine foldl_keeps (fun b => bytesWf b = true) _ (fun b e hb => ?_) c _ (bytesWf_bZero m a n h)
  split
  · exact bytesWf_bPut _ _ _ hb
  · exact hb

theorem markPoison_wf (m : Mem) (line : Nat) (h : bytesWf m.bytes = true) : bytesWf (markPoison m line).bytes = true :=
  bytesWf_bZero m.bytes line 64 h

/-- What one step of the model leaves alone: the queue, the partitions' states, the bytes of memory. -/
def KeepsA (s t : State) : Prop := t.pending = s.pending ∧ t.life = s.life ∧ t.mem.bytes = s.mem.bytes

/-- The queue and the partitions' states are left alone and memory keeps its canonical form. -/
def KeepsB (s t : State) : Prop :=
  t.pending = s.pending ∧ t.life = s.life ∧ (bytesWf s.mem.bytes = true → bytesWf t.mem.bytes = true)

/-- The queue is left alone and memory keeps its canonical form. -/
def KeepsC (s t : State) : Prop := t.pending = s.pending ∧ (bytesWf s.mem.bytes = true → bytesWf t.mem.bytes = true)

theorem foldA {β : Type} (g : State → β → State) (hg : ∀ s x, KeepsA s (g s x)) (l : List β) (s : State) :
    (l.foldl g s).pending = s.pending ∧ (l.foldl g s).life = s.life ∧ (l.foldl g s).mem.bytes = s.mem.bytes := by
  induction l generalizing s with
  | nil => simp
  | cons x r ih =>
    have h := hg s x
    unfold KeepsA at h
    simp only [List.foldl_cons, ih, h, and_self]

theorem foldB {β : Type} (g : State → β → State) (hg : ∀ s x, KeepsB s (g s x)) (l : List β) (s : State) :
    (l.foldl g s).pending = s.pending ∧ (l.foldl g s).life = s.life ∧
      (bytesWf s.mem.bytes = true → bytesWf (l.foldl g s).mem.bytes = true) := by
  induction l generalizing s with
  | nil => simp
  | cons x r ih =>
    have h := hg s x
    unfold KeepsB at h
    simp only [List.foldl_cons, ih, h, true_and]
    exact fun hs => (ih _).2.2 (h.2.2 hs)

theorem foldC {β : Type} (g : State → β → State) (hg : ∀ s x, KeepsC s (g s x)) (l : List β) (s : State) :
    (l.foldl g s).pending = s.pending ∧ (bytesWf s.mem.bytes = true → bytesWf (l.foldl g s).mem.bytes = true) := by
  induction l generalizing s with
  | nil => simp
  | cons x r ih =>
    have h := hg s x
    unfold KeepsC at h
    simp only [List.foldl_cons, ih, h, true_and]
    exact fun hs => (ih _).2 (h.2 hs)

theorem foldPoison_wf (l : List Nat) (k : Nat → Nat) (m : Mem) (h : bytesWf m.bytes = true) :
    bytesWf (l.foldl (fun m x => markPoison m (k x)) m).bytes = true :=
  foldl_keeps (fun m => bytesWf m.bytes = true) _ (fun m x hm => markPoison_wf m (k x) hm) l m h

theorem ite_wf {c : Prop} [Decidable c] (x y : Mem) (hx : bytesWf x.bytes = true) (hy : bytesWf y.bytes = true) :
    bytesWf (if c then x else y).bytes = true := by
  split <;> assumption

theorem zeroOnChip_wf (m : Mem) (h : bytesWf m.bytes = true) : bytesWf (zeroOnChip m).bytes = true :=
  bytesWf_filter _ _ h


theorem foldPA {α β : Type} (g : State × α → β → State × α) (hg : ∀ a x, KeepsA a.1 (g a x).1) (l : List β) (a : State × α) :
    (l.foldl g a).1.pending = a.1.pending ∧ (l.foldl g a).1.life = a.1.life ∧ (l.foldl g a).1.mem.bytes = a.1.mem.bytes := by
  induction l generalizing a with
  | nil => simp
  | cons x r ih =>
    have h := hg a x
    unfold KeepsA at h
    simp only [List.foldl_cons, ih, h, and_self]

theorem foldPB {α β : Type} (g : State × α → β → State × α) (hg : ∀ a x, KeepsB a.1 (g a x).1) (l : List β) (a : State × α) :
    (l.foldl g a).1.pending = a.1.pending ∧ (l.foldl g a).1.life = a.1.life ∧
      (bytesWf a.1.mem.bytes = true → bytesWf (l.foldl g a).1.mem.bytes = true) := by
  induction l generalizing a with
  | nil => simp
  | cons x r ih =>
    have h := hg a x
    unfold KeepsB at h
    simp only [List.foldl_cons, ih, h, true_and]
    exact fun hs => (ih _).2.2 (h.2.2 hs)

theorem foldPC {α β : Type} (g : State × α → β → State × α) (hg : ∀ a x, KeepsC a.1 (g a x).1) (l : List β) (a : State × α) :
    (l.foldl g a).1.pending = a.1.pending ∧
      (bytesWf a.1.mem.bytes = true → bytesWf (l.foldl g a).1.mem.bytes = true) := by
  induction l generalizing a with
  | nil => simp
  | cons x r ih =>
    have h := hg a x
    unfold KeepsC at h
    simp only [List.foldl_cons, ih, h, true_and]
    exact fun hs => (ih _).2 (h.2 hs)

theorem KeepsB.refl (s : State) : KeepsB s s := ⟨rfl, rfl, id⟩

theorem KeepsB.trans {s t u : State} (h1 : KeepsB s t) (h2 : KeepsB t u) : KeepsB s u :=
  ⟨h2.1.trans h1.1, h2.2.1.trans h1.2.1, fun h => h2.2.2 (h1.2.2 h)⟩

theorem KeepsA.toB {s t : State} (h : KeepsA s t) : KeepsB s t := ⟨h.1, h.2.1, fun hs => by rw [h.2.2]; exact hs⟩

theorem KeepsB.congr {s t t' : State} (h1 : t'.pending = t.pending) (h2 : t'.life = t.life)
    (h3 : t'.mem.bytes = t.mem.bytes) (h : KeepsB s t) : KeepsB s t' :=
  ⟨h1.trans h.1, h2.trans h.2.1, fun hs => by rw [h3]; exact h.2.2 hs⟩

/-- A fold over states that may give none keeps what each of its steps keeps. -/
theorem foldOptB {β : Type} (g : Option State → β → Option State) (hn : ∀ x, g none x = none)
    (hg : ∀ u x t, g (some u) x = some t → KeepsB u t) (l : List β) (s : State) :
    ∀ t, l.foldl g (some s) = some t → KeepsB s t := by
  have hN : ∀ l : List β, l.foldl g none = none := by
    intro l
    induction l with
    | nil => rfl
    | cons x r ih => rw [List.foldl_cons, hn, ih]
  induction l generalizing s with
  | nil => intro t h; cases h; exact KeepsB.refl s
  | cons x r ih =>
    intro t h
    rw [List.foldl_cons] at h
    cases hx : g (some s) x with
    | none => rw [hx, hN] at h; cases h
    | some u => rw [hx] at h; exact KeepsB.trans (hg s x u hx) (ih u t h)

theorem KeepsA.peel {s t u : State} (h' : u.pending = t.pending ∧ u.life = t.life ∧ u.mem.bytes = t.mem.bytes)
    (h : KeepsA s t) : KeepsA s u := ⟨h'.1.trans h.1, h'.2.1.trans h.2.1, h'.2.2.trans h.2.2⟩

theorem KeepsB.peelA {s t u : State} (h' : u.pending = t.pending ∧ u.life = t.life ∧ u.mem.bytes = t.mem.bytes)
    (h : KeepsB s t) : KeepsB s u := KeepsB.congr h'.1 h'.2.1 h'.2.2 h

theorem KeepsB.peel {s t u : State} (h' : u.pending = t.pending ∧ u.life = t.life ∧
    (bytesWf t.mem.bytes = true → bytesWf u.mem.bytes = true)) (h : KeepsB s t) : KeepsB s u := KeepsB.trans h h'

theorem KeepsC.peel {s t u : State} (h' : u.pending = t.pending ∧
    (bytesWf t.mem.bytes = true → bytesWf u.mem.bytes = true)) (h : KeepsC s t) : KeepsC s u :=
  ⟨h'.1.trans h.1, fun hs => h'.2 (h.2 hs)⟩

theorem KeepsC.peelB {s t u : State} (h' : u.pending = t.pending ∧ u.life = t.life ∧
    (bytesWf t.mem.bytes = true → bytesWf u.mem.bytes = true)) (h : KeepsC s t) : KeepsC s u :=
  ⟨h'.1.trans h.1, fun hs => h'.2.2 (h.2 hs)⟩

theorem KeepsC.peelA {s t u : State} (h' : u.pending = t.pending ∧ u.life = t.life ∧ u.mem.bytes = t.mem.bytes)
    (h : KeepsC s t) : KeepsC s u := ⟨h'.1.trans h.1, fun hs => by rw [h'.2.2]; exact h.2 hs⟩

theorem KeepsA.refl (s : State) : KeepsA s s := ⟨rfl, rfl, rfl⟩

theorem KeepsC.refl (s : State) : KeepsC s s := ⟨rfl, id⟩

/-- A state built from another one's queue, partitions' states and bytes. -/
theorem KeepsA.mk {s t : State} {regs0 : _} {shadow0 : _} {tb0 : _} {fresh0 : _} {seedEpoch0 : _} {mem0 : _} {parts0 : _} {creations0 : _} {host0 : _} {ras0 : _} {sec0 : _} {mgmt0 : _} {alms0 : _} {loadNo0 : _} {jobs0 : _} {nextJob0 : _} {copses0 : _} {glades0 : _} {chans0 : _} {ftl0 : _} {index0 : _} {searches0 : _} {nextSearch0 : _} {commons0 : _} {tables0 : _} {adapters0 : _} {evictions0 : _} {rowsets0 : _} {gangs0 : _} {forest0 : _} {power0 : _} {trace0 : _} (hm : mem0.bytes = t.mem.bytes) (h : KeepsA s t) :
    KeepsA s (State.mk t.pending regs0 shadow0 tb0 fresh0 seedEpoch0 mem0 t.life parts0 creations0 host0 ras0 sec0 mgmt0 alms0 loadNo0 jobs0 nextJob0 copses0 glades0 chans0 ftl0 index0 searches0 nextSearch0 commons0 tables0 adapters0 evictions0 rowsets0 gangs0 forest0 power0 trace0) := ⟨h.1, h.2.1, hm.trans h.2.2⟩

theorem KeepsB.mk {s t : State} {regs0 : _} {shadow0 : _} {tb0 : _} {fresh0 : _} {seedEpoch0 : _} {mem0 : _} {parts0 : _} {creations0 : _} {host0 : _} {ras0 : _} {sec0 : _} {mgmt0 : _} {alms0 : _} {loadNo0 : _} {jobs0 : _} {nextJob0 : _} {copses0 : _} {glades0 : _} {chans0 : _} {ftl0 : _} {index0 : _} {searches0 : _} {nextSearch0 : _} {commons0 : _} {tables0 : _} {adapters0 : _} {evictions0 : _} {rowsets0 : _} {gangs0 : _} {forest0 : _} {power0 : _} {trace0 : _} (hm : mem0.bytes = t.mem.bytes) (h : KeepsB s t) :
    KeepsB s (State.mk t.pending regs0 shadow0 tb0 fresh0 seedEpoch0 mem0 t.life parts0 creations0 host0 ras0 sec0 mgmt0 alms0 loadNo0 jobs0 nextJob0 copses0 glades0 chans0 ftl0 index0 searches0 nextSearch0 commons0 tables0 adapters0 evictions0 rowsets0 gangs0 forest0 power0 trace0) := ⟨h.1, h.2.1, fun hs => (congrArg bytesWf hm).trans (h.2.2 hs)⟩

theorem KeepsC.mk {s t : State} {regs0 : _} {shadow0 : _} {tb0 : _} {fresh0 : _} {seedEpoch0 : _} {mem0 : _} {parts0 : _} {creations0 : _} {host0 : _} {ras0 : _} {sec0 : _} {mgmt0 : _} {alms0 : _} {loadNo0 : _} {jobs0 : _} {nextJob0 : _} {copses0 : _} {glades0 : _} {chans0 : _} {ftl0 : _} {index0 : _} {searches0 : _} {nextSearch0 : _} {commons0 : _} {tables0 : _} {adapters0 : _} {evictions0 : _} {rowsets0 : _} {gangs0 : _} {forest0 : _} {power0 : _} {trace0 : _} {life0 : _} (hm : mem0.bytes = t.mem.bytes) (h : KeepsC s t) :
    KeepsC s (State.mk t.pending regs0 shadow0 tb0 fresh0 seedEpoch0 mem0 life0 parts0 creations0 host0 ras0 sec0 mgmt0 alms0 loadNo0 jobs0 nextJob0 copses0 glades0 chans0 ftl0 index0 searches0 nextSearch0 commons0 tables0 adapters0 evictions0 rowsets0 gangs0 forest0 power0 trace0) := ⟨h.1, fun hs => (congrArg bytesWf hm).trans (h.2 hs)⟩

theorem KeepsA.guarded {s u : State} {l : List (Bool × Status)} {k : Unit → State × Option Reply} (h0 : KeepsA s u)
    (h : KeepsA s (k ()).1) : KeepsA s (guards u l k).1 := by
  induction l with
  | nil => exact h
  | cons a r ih => unfold guards; split <;> assumption

theorem KeepsB.guarded {s u : State} {l : List (Bool × Status)} {k : Unit → State × Option Reply} (h0 : KeepsB s u)
    (h : KeepsB s (k ()).1) : KeepsB s (guards u l k).1 := by
  induction l with
  | nil => exact h
  | cons a r ih => unfold guards; split <;> assumption

theorem KeepsC.guarded {s u : State} {l : List (Bool × Status)} {k : Unit → State × Option Reply} (h0 : KeepsC s u)
    (h : KeepsC s (k ()).1) : KeepsC s (guards u l k).1 := by
  induction l with
  | nil => exact h
  | cons a r ih => unfold guards; split <;> assumption

end Sys2Proof.Machine
end

