-- ==== Sys2Proof/Laws/KeepsRegs.lean ====
section
/-! SUPPORT. What the operations of Machine/Regs.lean leave alone: the queue of commands, the states of the partitions,
the canonical form of memory. -/

namespace Sys2Proof.Machine

theorem bump_keeps (s : State) (a : Nat) (n : Nat) :
    (bump s a n).pending = s.pending ∧ (bump s a n).life = s.life ∧ (bump s a n).mem.bytes = s.mem.bytes := by
  grind [bump]

theorem setReg_keeps (s : State) (a : Nat) (w : Sys2Proof.Word) :
    (setReg s a w).pending = s.pending ∧ (setReg s a w).life = s.life ∧ (setReg s a w).mem.bytes = s.mem.bytes := by
  grind [setReg]

theorem setF_keeps (s : State) (a : Nat) (f : BitField) (v : Nat) :
    (setF s a f v).pending = s.pending ∧ (setF s a f v).life = s.life ∧ (setF s a f v).mem.bytes = s.mem.bytes := by
  grind [setF, setReg_keeps]

theorem bumpF_keeps (s : State) (a : Nat) (f : BitField) (n : Nat) :
    (bumpF s a f n).pending = s.pending ∧ (bumpF s a f n).life = s.life ∧ (bumpF s a f n).mem.bytes = s.mem.bytes := by
  grind [bumpF, setF_keeps]

theorem setPair_keeps (s : State) (lo : Nat) (v : Nat) :
    (setPair s lo v).pending = s.pending ∧ (setPair s lo v).life = s.life ∧ (setPair s lo v).mem.bytes = s.mem.bytes := by
  grind [setPair, setReg_keeps]

theorem bumpPair_keeps (s : State) (lo : Nat) (n : Nat) :
    (bumpPair s lo n).pending = s.pending ∧ (bumpPair s lo n).life = s.life ∧ (bumpPair s lo n).mem.bytes = s.mem.bytes := by
  grind [bumpPair, setPair_keeps]

theorem bumpWrap_keeps (s : State) (a : Nat) (n : Nat) :
    (bumpWrap s a n).pending = s.pending ∧ (bumpWrap s a n).life = s.life ∧ (bumpWrap s a n).mem.bytes = s.mem.bytes := by
  grind [bumpWrap, setReg_keeps]

end Sys2Proof.Machine
end

