-- ==== Sys2Proof/Laws/KeepsOps.lean ====
section
/-! SUPPORT. What the operations of Machine/Ops.lean leave alone: the queue of commands, the states of the partitions,
the canonical form of memory. -/

namespace Sys2Proof.Machine

theorem aen_keeps (s : State) (ty : Nat) (info : Nat) :
    (aen s ty info).pending = s.pending ∧ (aen s ty info).life = s.life ∧ (aen s ty info).mem.bytes = s.mem.bytes := by
  grind [aen]

theorem updPart_keeps (s : State) (p : Nat) (f : Part → Part) :
    (updPart s p f).pending = s.pending ∧ (updPart s p f).life = s.life ∧ (updPart s p f).mem.bytes = s.mem.bytes := by
  grind [updPart]

theorem charge_keeps (s : State) (p : Nat) (tier : Nat) (n : Nat) :
    (charge s p tier n).pending = s.pending ∧ (charge s p tier n).life = s.life ∧ (charge s p tier n).mem.bytes = s.mem.bytes := by
  grind [charge, updPart_keeps]

theorem countWrite_keeps (s : State) (a : Nat) (n : Nat) :
    (countWrite s a n).pending = s.pending ∧ (countWrite s a n).life = s.life ∧ (countWrite s a n).mem.bytes = s.mem.bytes := by
  grind [countWrite, bumpPair_keeps]

theorem memZero_keeps (s : State) (a n : Nat) :
    (memZero s a n).pending = s.pending ∧ (memZero s a n).life = s.life ∧
      (bytesWf s.mem.bytes = true → bytesWf (memZero s a n).mem.bytes = true) := by
  unfold memZero
  simp only [countWrite_keeps]
  exact ⟨trivial, trivial, bytesWf_bZero _ _ _⟩

theorem takePage_keeps (s : State) (part : Nat) (p : Nat) :
    (takePage s part p).pending = s.pending ∧ (takePage s part p).life = s.life ∧ (bytesWf s.mem.bytes = true → bytesWf (takePage s part p).mem.bytes = true) := by
  grind [takePage, memZero_keeps]

theorem takePages_keeps (part : Nat) (ks : List Nat) (x2 : Nat) (s : State) :
    ∀ t x, (takePages part ks x2 s) = some (t, x) → t.pending = s.pending ∧ t.life = s.life ∧ (bytesWf s.mem.bytes = true → bytesWf t.mem.bytes = true) := by
  fun_induction takePages <;> grind [takePage_keeps]

theorem allocPages_keeps (s : State) (part : Nat) (n : Nat) :
    ∀ t x, (allocPages s part n) = some (t, x) → t.pending = s.pending ∧ t.life = s.life ∧ (bytesWf s.mem.bytes = true → bytesWf t.mem.bytes = true) := by
  grind [allocPages, takePages_keeps, charge_keeps]

theorem noteError_keeps (s : State) (page : Nat) (code : Nat) (loc : Nat) (ue : Bool) :
    (noteError s page code loc ue).pending = s.pending ∧ (noteError s page code loc ue).life = s.life ∧ (noteError s page code loc ue).mem.bytes = s.mem.bytes := by
  grind [noteError, setReg_keeps, bump_keeps]

theorem onPanel_keeps (s : State) (f : Panel → Panel) :
    (onPanel s f).pending = s.pending ∧ (onPanel s f).life = s.life ∧ (onPanel s f).mem.bytes = s.mem.bytes := by
  grind [onPanel]

theorem correctable_keeps (s : State) (key : Nat) (test : Bool) :
    (correctable s key test).pending = s.pending ∧ (correctable s key test).life = s.life ∧ (correctable s key test).mem.bytes = s.mem.bytes := by
  grind [correctable, onPanel_keeps, noteError_keeps]

theorem countRead_keeps (s : State) (a : Nat) (n : Nat) :
    (countRead s a n).pending = s.pending ∧ (countRead s a n).life = s.life ∧ (countRead s a n).mem.bytes = s.mem.bytes := by
  grind [countRead, bumpPair_keeps]

theorem credit_keeps (s : State) (p : Nat) (tier : Nat) (n : Nat) :
    (credit s p tier n).pending = s.pending ∧ (credit s p tier n).life = s.life ∧ (credit s p tier n).mem.bytes = s.mem.bytes := by
  grind [credit, updPart_keeps]

theorem draw_keeps (s : State) :
    (draw s).2.pending = s.pending ∧ (draw s).2.life = s.life ∧ (draw s).2.mem.bytes = s.mem.bytes := by
  grind [draw]

theorem freePages_keeps (s : State) (l : List Nat) :
    (freePages s l).pending = s.pending ∧ (freePages s l).life = s.life ∧ (freePages s l).mem.bytes = s.mem.bytes := by
  grind [freePages, foldA, foldPA, KeepsA]

theorem freeRegion_keeps (s : State) (a : Nat) (n : Nat) :
    (freeRegion s a n).pending = s.pending ∧ (freeRegion s a n).life = s.life ∧ (freeRegion s a n).mem.bytes = s.mem.bytes := by
  grind [freeRegion]

theorem logAdd_keeps (s : State) (e : EventRec) :
    (logAdd s e).pending = s.pending ∧ (logAdd s e).life = s.life ∧ (logAdd s e).mem.bytes = s.mem.bytes := by
  grind [logAdd, onPanel_keeps]

theorem memWrite_keeps (s : State) (a : Nat) (l : List Byte) :
    (memWrite s a l).pending = s.pending ∧ (memWrite s a l).life = s.life ∧
      (bytesWf s.mem.bytes = true → bytesWf (memWrite s a l).mem.bytes = true) := by
  unfold memWrite
  simp only [countWrite_keeps, clearWhole]
  refine ⟨trivial, trivial, fun h => ?_⟩
  refine ite_wf _ _ (bytesWf_bWrite _ a l h) ?_
  · refine foldl_keeps (fun b => bytesWf b = true) _ (fun b x hb => ?_) _ _ (bytesWf_bWrite _ a l h)
    split
    · exact bytesWf_bZero _ _ _ hb
    · exact hb

theorem memCopy_keeps (s : State) (src dst n : Nat) :
    (memCopy s src dst n).pending = s.pending ∧ (memCopy s src dst n).life = s.life ∧
      (bytesWf s.mem.bytes = true → bytesWf (memCopy s src dst n).mem.bytes = true) := by
  unfold memCopy
  dsimp only
  refine ⟨by grind [memWrite_keeps, countRead_keeps], by grind [memWrite_keeps, countRead_keeps], fun h => ?_⟩
  exact foldPoison_wf _ _ _ (by grind [memWrite_keeps, countRead_keeps])

theorem pagesWriteAux_keeps (pages : List Nat) (x1 : Nat) (s : State) (x3 : Nat) (x4 : List Sys2Proof.Byte) :
    (pagesWriteAux pages x1 s x3 x4).pending = s.pending ∧ (pagesWriteAux pages x1 s x3 x4).life = s.life ∧ (bytesWf s.mem.bytes = true → bytesWf (pagesWriteAux pages x1 s x3 x4).mem.bytes = true) := by
  fun_induction pagesWriteAux <;> grind [memWrite_keeps]

theorem pagesWrite_keeps (s : State) (pages : List Nat) (off : Nat) (l : List Sys2Proof.Byte) :
    (pagesWrite s pages off l).pending = s.pending ∧ (pagesWrite s pages off l).life = s.life ∧ (bytesWf s.mem.bytes = true → bytesWf (pagesWrite s pages off l).mem.bytes = true) := by
  grind [pagesWrite, pagesWriteAux_keeps]

theorem postFlags_keeps (s : State) (page : Nat) (code : Nat) (part : Nat) (a0 : Nat) (a1 : Nat) (flags : Nat) :
    (postFlags s page code part a0 a1 flags).pending = s.pending ∧ (postFlags s page code part a0 a1 flags).life = s.life ∧ (postFlags s page code part a0 a1 flags).mem.bytes = s.mem.bytes := by
  grind [postFlags, onPanel_keeps]

theorem post_keeps (s : State) (page : Nat) (code : Nat) (part : Nat) (a0 : Nat) (a1 : Nat) :
    (post s page code part a0 a1).pending = s.pending ∧ (post s page code part a0 a1).life = s.life ∧ (post s page code part a0 a1).mem.bytes = s.mem.bytes := by
  grind [post, postFlags_keeps]

theorem postCompletion_keeps (s : State) (c : Completion) :
    (postCompletion s c).pending = s.pending ∧ (postCompletion s c).life = s.life ∧ (postCompletion s c).mem.bytes = s.mem.bytes := by
  grind [postCompletion]

theorem refuse_keeps (s : State) (addr : Nat) (v : Sys2Proof.Word) :
    (refuse s addr v).pending = s.pending ∧ (refuse s addr v).life = s.life ∧ (refuse s addr v).mem.bytes = s.mem.bytes := by
  grind [refuse, post_keeps]

theorem releasePages_keeps (s : State) (part : Nat) (l : List Nat) :
    (releasePages s part l).pending = s.pending ∧ (releasePages s part l).life = s.life ∧ (releasePages s part l).mem.bytes = s.mem.bytes := by
  grind [releasePages, freePages_keeps, credit_keeps]

theorem swapPlaces_keeps (s : State) (p : Nat) (q : Nat) :
    (swapPlaces s p q).pending = s.pending ∧ (swapPlaces s p q).life = s.life ∧ (swapPlaces s p q).mem.bytes = s.mem.bytes := by
  grind [swapPlaces]

theorem takeRegion_keeps (s : State) (part : Nat) (a : Nat) (n : Nat) :
    (takeRegion s part a n).pending = s.pending ∧ (takeRegion s part a n).life = s.life ∧ (bytesWf s.mem.bytes = true → bytesWf (takeRegion s part a n).mem.bytes = true) := by
  grind [takeRegion, memZero_keeps, foldB, foldPB, KeepsB]

theorem traceSend_keeps (s : State) :
    (traceSend s).pending = s.pending ∧ (traceSend s).life = s.life ∧ (traceSend s).mem.bytes = s.mem.bytes := by
  grind [traceSend, bumpPair_keeps]

theorem tick_keeps (s : State) :
    (tick s).pending = s.pending ∧ (tick s).life = s.life ∧ (tick s).mem.bytes = s.mem.bytes := by
  grind [tick, traceSend_keeps]

theorem uncorrectable_keeps (s : State) (key : Nat) (test : Bool) :
    (uncorrectable s key test).pending = s.pending ∧ (uncorrectable s key test).life = s.life ∧
      (bytesWf s.mem.bytes = true → bytesWf (uncorrectable s key test).mem.bytes = true) := by
  unfold uncorrectable
  simp only [postFlags_keeps, bump_keeps, noteError_keeps]
  exact ⟨trivial, trivial, markPoison_wf _ _⟩

end Sys2Proof.Machine
end

