-- ==== Sys2Proof/Laws/KeepsPowerOps.lean ====
section
/-! SUPPORT. What the operations of Machine/PowerOps.lean leave alone: the queue of commands, the states of the partitions,
the canonical form of memory. -/

namespace Sys2Proof.Machine

theorem setVset_keeps (s : State) (st : Nat) (v : Nat) :
    (setVset s st v).pending = s.pending ∧ (setVset s st v).life = s.life ∧ (setVset s st v).mem.bytes = s.mem.bytes := by
  grind [setVset, setF_keeps]

theorem setAllVset_keeps (s0 : State) (v : Nat) :
    (setAllVset s0 v).pending = s0.pending ∧ (setAllVset s0 v).life = s0.life ∧ (setAllVset s0 v).mem.bytes = s0.mem.bytes := by
  grind [setAllVset, setVset_keeps, foldA, foldPA, KeepsA]

theorem applyCap_keeps (s : State) (nonCore : Nat) :
    (applyCap s nonCore).pending = s.pending ∧ (applyCap s nonCore).life = s.life ∧ (applyCap s nonCore).mem.bytes = s.mem.bytes := by
  grind [applyCap, setAllVset_keeps]

theorem nonCorePower_keeps (s : State) :
    (nonCorePower s).2.pending = s.pending ∧ (nonCorePower s).2.life = s.life ∧ (nonCorePower s).2.mem.bytes = s.mem.bytes := by
  grind [nonCorePower]

theorem applyCapMeasured_keeps (s : State) :
    (applyCapMeasured s).pending = s.pending ∧ (applyCapMeasured s).life = s.life ∧ (applyCapMeasured s).mem.bytes = s.mem.bytes := by
  grind [applyCapMeasured, nonCorePower_keeps, applyCap_keeps]

theorem setStacks_keeps (s : State) (v : Nat) :
    (setStacks s v).pending = s.pending ∧ (setStacks s v).life = s.life ∧ (setStacks s v).mem.bytes = s.mem.bytes := by
  grind [setStacks, setF_keeps, foldA, foldPA, KeepsA]

theorem wakeBanks_keeps (s : State) :
    (wakeBanks s).pending = s.pending ∧ (wakeBanks s).life = s.life ∧ (wakeBanks s).mem.bytes = s.mem.bytes := by
  grind [wakeBanks]

theorem wakeUp_keeps (s : State) :
    (wakeUp s).pending = s.pending ∧ (wakeUp s).life = s.life ∧ (bytesWf s.mem.bytes = true → bytesWf (wakeUp s).mem.bytes = true) := by
  grind [wakeUp, applyCapMeasured_keeps, setStacks_keeps, wakeBanks_keeps, zeroOnChip_wf]

end Sys2Proof.Machine
end

