-- ==== Sys2Proof/Laws/KeepsHostOps.lean ====
section
/-! SUPPORT. What the operations of Machine/HostOps.lean leave alone: the queue of commands, the states of the partitions,
the canonical form of memory. -/

namespace Sys2Proof.Machine

theorem accept_keeps (s : State) (c : Sys2Proof.Cmd) (opcode : Nat) (session : Option Nat) :
    (accept s c opcode session).pending = s.pending ∧ (accept s c opcode session).life = s.life ∧ (accept s c opcode session).mem.bytes = s.mem.bytes := by
  grind [accept]

theorem updSession_keeps (s : State) (p : Nat) (n : Nat) (f : Session → Session) :
    (updSession s p n f).pending = s.pending ∧ (updSession s p n f).life = s.life ∧ (updSession s p n f).mem.bytes = s.mem.bytes := by
  grind [updSession, updPart_keeps]

theorem answer_keeps (s : State) (q : Req) (pay : List Sys2Proof.Byte) :
    (answer s q pay).1.pending = s.pending ∧ (answer s q pay).1.life = s.life ∧ (answer s q pay).1.mem.bytes = s.mem.bytes := by
  grind [answer, updSession_keeps]

theorem answerReply_keeps (s : State) (q : Req) (st : Status) (dw0 : Nat) (dw1 : Nat) (pay : List Sys2Proof.Byte) :
    (answerReply s q st dw0 dw1 pay).1.pending = s.pending ∧ (answerReply s q st dw0 dw1 pay).1.life = s.life ∧ (answerReply s q st dw0 dw1 pay).1.mem.bytes = s.mem.bytes := by
  grind [answerReply, answer_keeps]

theorem keepRecord_keeps (s : State) (o : Outstanding) (r : Reply) :
    (keepRecord s o r).pending = s.pending ∧ (keepRecord s o r).life = s.life ∧ (keepRecord s o r).mem.bytes = s.mem.bytes := by
  grind [keepRecord]

theorem countDone_keeps (s : State) (o : Outstanding) (st : Status) :
    (countDone s o st).pending = s.pending ∧ (countDone s o st).life = s.life ∧ (countDone s o st).mem.bytes = s.mem.bytes := by
  grind [countDone]

theorem complete_keeps (s : State) (o : Outstanding) (r0 : Reply) :
    (complete s o r0).pending = s.pending ∧ (complete s o r0).life = s.life ∧ (complete s o r0).mem.bytes = s.mem.bytes := by
  grind [complete, countDone_keeps, keepRecord_keeps]

theorem completeAt_keeps (s : State) (sqid : Nat) (cid : Nat) (r : Reply) :
    (completeAt s sqid cid r).pending = s.pending ∧ (completeAt s sqid cid r).life = s.life ∧ (completeAt s sqid cid r).mem.bytes = s.mem.bytes := by
  grind [completeAt, complete_keeps]

theorem done_keeps (s : State) (dw0 : Nat) :
    (done s dw0).1.pending = s.pending ∧ (done s dw0).1.life = s.life ∧ (done s dw0).1.mem.bytes = s.mem.bytes := by
  grind [done]

theorem updOut_keeps (s : State) (sqid : Nat) (cid : Nat) (f : Outstanding → Outstanding) :
    (updOut s sqid cid f).pending = s.pending ∧ (updOut s sqid cid f).life = s.life ∧ (updOut s sqid cid f).mem.bytes = s.mem.bytes := by
  grind [updOut]

theorem duplicate_keeps (s : State) (c : Sys2Proof.Cmd) :
    (duplicate s c).pending = s.pending ∧ (duplicate s c).life = s.life ∧ (duplicate s c).mem.bytes = s.mem.bytes := by
  grind [duplicate, completeAt_keeps, updOut_keeps]

theorem fail_keeps (s : State) (st : Status) :
    (fail s st).1.pending = s.pending ∧ (fail s st).1.life = s.life ∧ (fail s st).1.mem.bytes = s.mem.bytes := by
  grind [fail]

theorem failDw_keeps (s : State) (st : Status) (dw0 : Nat) :
    (failDw s st dw0).1.pending = s.pending ∧ (failDw s st dw0).1.life = s.life ∧ (failDw s st dw0).1.mem.bytes = s.mem.bytes := by
  grind [failDw]

theorem fetchCmd_keeps (s : State) (c : Sys2Proof.Cmd) (opcode : Nat) :
    (fetchCmd s c opcode).pending = s.pending ∧ (fetchCmd s c opcode).life = s.life ∧ (bytesWf s.mem.bytes = true → bytesWf (fetchCmd s c opcode).mem.bytes = true) := by
  grind [fetchCmd, wakeUp_keeps, updPart_keeps, complete_keeps, bumpPair_keeps]

theorem guards_keeps (s : State) (l : List (Bool × Status)) (k : Unit → State × Option Reply) :
    guards s l k = k () ∨ ∃ st, guards s l k = fail s st := by
  induction l with
  | nil => exact .inl rfl
  | cons a r ih =>
    obtain ⟨bad, st⟩ := a
    simp only [guards]
    split
    · exact .inr ⟨st, rfl⟩
    · exact ih

theorem beginCmd_keeps (s : State) (c : Cmd) (opcode : Nat) :
    ∀ t, beginCmd s c opcode = .stop t → t.pending = s.pending ∧ t.life = s.life ∧
      (bytesWf s.mem.bytes = true → bytesWf t.mem.bytes = true) := by
  grind [beginCmd, fetchCmd_keeps, bump_keeps, updOut_keeps]

theorem beginCmd_keepsGo (s : State) (c : Cmd) (opcode : Nat) :
    ∀ t o, beginCmd s c opcode = .go t o → t.pending = s.pending ∧ t.life = s.life ∧
      (bytesWf s.mem.bytes = true → bytesWf t.mem.bytes = true) := by
  grind [beginCmd, fetchCmd_keeps, bump_keeps, updOut_keeps]

theorem logError_keeps (s : State) (o : Outstanding) (st : Status) :
    (logError s o st).pending = s.pending ∧ (logError s o st).life = s.life ∧ (logError s o st).mem.bytes = s.mem.bytes := by
  grind [logError]

theorem runBody_keeps {body : State → Req → State × Option Reply} (q : Req)
    (hb : ∀ u, (body u q).1.pending = u.pending ∧ (body u q).1.life = u.life ∧ (bytesWf u.mem.bytes = true → bytesWf (body u q).1.mem.bytes = true)) (s : State) :
    (runBody s q body).pending = s.pending ∧ (runBody s q body).life = s.life ∧ (bytesWf s.mem.bytes = true → bytesWf (runBody s q body).mem.bytes = true) := by
  grind [runBody, completeAt_keeps, bump_keeps, accept_keeps]

theorem runBody_keepsC {body : State → Req → State × Option Reply} (q : Req)
    (hb : ∀ u, (body u q).1.pending = u.pending ∧ (bytesWf u.mem.bytes = true → bytesWf (body u q).1.mem.bytes = true)) (s : State) :
    (runBody s q body).pending = s.pending ∧ (bytesWf s.mem.bytes = true → bytesWf (runBody s q body).mem.bytes = true) := by
  grind [runBody, completeAt_keeps, bump_keeps, accept_keeps]

theorem runChecked_keeps {body : State → Req → State × Option Reply} (q : Req) (classOk anyPart : Bool)
    (hb : ∀ u, (body u q).1.pending = u.pending ∧ (body u q).1.life = u.life ∧ (bytesWf u.mem.bytes = true → bytesWf (body u q).1.mem.bytes = true)) (s : State) :
    (runChecked s q classOk anyPart body).pending = s.pending ∧ (runChecked s q classOk anyPart body).life = s.life ∧ (bytesWf s.mem.bytes = true → bytesWf (runChecked s q classOk anyPart body).mem.bytes = true) := by
  have := runBody_keeps q hb s
  grind [runChecked, completeAt_keeps, duplicate_keeps]

theorem runChecked_keepsC {body : State → Req → State × Option Reply} (q : Req) (classOk anyPart : Bool)
    (hb : ∀ u, (body u q).1.pending = u.pending ∧ (bytesWf u.mem.bytes = true → bytesWf (body u q).1.mem.bytes = true)) (s : State) :
    (runChecked s q classOk anyPart body).pending = s.pending ∧ (bytesWf s.mem.bytes = true → bytesWf (runChecked s q classOk anyPart body).mem.bytes = true) := by
  have := runBody_keepsC q hb s
  grind [runChecked, completeAt_keeps, duplicate_keeps]

theorem runCmd_keeps {c : Cmd} {opcode : Nat} {body : State → State × Option Reply} {s : State}
    (hb : ∀ u, (body u).1.pending = u.pending ∧ (body u).1.life = u.life ∧ (bytesWf u.mem.bytes = true → bytesWf (body u).1.mem.bytes = true)) :
    ∀ t, runCmd c opcode body s = .next t →
      t.pending = s.pending ∧ t.life = s.life ∧ (bytesWf s.mem.bytes = true → bytesWf t.mem.bytes = true) := by
  grind [runCmd, completeAt_keeps, beginCmd_keeps, beginCmd_keepsGo]

theorem runCmd_keepsC {c : Cmd} {opcode : Nat} {body : State → State × Option Reply} {s : State}
    (hb : ∀ u, (body u).1.pending = u.pending ∧ (bytesWf u.mem.bytes = true → bytesWf (body u).1.mem.bytes = true)) :
    ∀ t, runCmd c opcode body s = .next t →
      t.pending = s.pending ∧ (bytesWf s.mem.bytes = true → bytesWf t.mem.bytes = true) := by
  grind [runCmd, completeAt_keeps, beginCmd_keeps, beginCmd_keepsGo]

theorem runForm_keeps (c : Cmd) (form : Nat) (k : State → Host.Outcome State Fault Refusal) (s : State) :
    runForm c form k s = k s ∨ runForm c form k s = .next s := by
  unfold runForm
  split <;> simp

theorem runPlain_keeps {c : Cmd} {opcode : Nat} {anyPart : Bool} {body : State → Req → State × Option Reply} {s : State}
    (hb : ∀ u q, (body u q).1.pending = u.pending ∧ (body u q).1.life = u.life ∧ (bytesWf u.mem.bytes = true → bytesWf (body u q).1.mem.bytes = true)) :
    ∀ t, runPlain c opcode anyPart body s = .next t →
      t.pending = s.pending ∧ t.life = s.life ∧ (bytesWf s.mem.bytes = true → bytesWf t.mem.bytes = true) := by
  intro t ht
  unfold runPlain at ht
  split at ht
  · grind [beginCmd_keeps]
  · rename_i s1 _ hgo
    have h1 := runChecked_keeps ⟨c, opcode, c.partOf, none, c.buf⟩ false anyPart (fun u => hb u _) s1
    grind [beginCmd_keepsGo]

theorem runPlain_keepsC {c : Cmd} {opcode : Nat} {anyPart : Bool} {body : State → Req → State × Option Reply} {s : State}
    (hb : ∀ u q, (body u q).1.pending = u.pending ∧ (bytesWf u.mem.bytes = true → bytesWf (body u q).1.mem.bytes = true)) :
    ∀ t, runPlain c opcode anyPart body s = .next t →
      t.pending = s.pending ∧ (bytesWf s.mem.bytes = true → bytesWf t.mem.bytes = true) := by
  intro t ht
  unfold runPlain at ht
  split at ht
  · grind [beginCmd_keeps]
  · rename_i s1 _ hgo
    have h1 := runChecked_keepsC ⟨c, opcode, c.partOf, none, c.buf⟩ false anyPart (fun u => hb u _) s1
    grind [beginCmd_keepsGo]

theorem runSealed_keeps {c : Cmd} {opcode : Nat} {sealedOk clearOk classOk : Bool} {o : Opened} {body : State → Req → State × Option Reply} {s : State}
    (hb : ∀ u q, (body u q).1.pending = u.pending ∧ (body u q).1.life = u.life ∧ (bytesWf u.mem.bytes = true → bytesWf (body u q).1.mem.bytes = true)) :
    ∀ t, runSealed c opcode sealedOk clearOk classOk o body s = .next t →
      t.pending = s.pending ∧ t.life = s.life ∧ (bytesWf s.mem.bytes = true → bytesWf t.mem.bytes = true) := by
  intro t ht
  unfold runSealed at ht
  split at ht
  · grind [beginCmd_keeps]
  · rename_i s1 _ hgo
    split at ht
    · grind [completeAt_keeps, bump_keeps, beginCmd_keepsGo]
    · rename_i q _
      have h1 := runChecked_keeps q classOk false (fun u => hb u q) (updOut s1 c.sqid c.cid fun x => { x with sealedBy := q.session })
      grind [beginCmd_keepsGo, updOut_keeps]

theorem runSealed_keepsC {c : Cmd} {opcode : Nat} {sealedOk clearOk classOk : Bool} {o : Opened} {body : State → Req → State × Option Reply} {s : State}
    (hb : ∀ u q, (body u q).1.pending = u.pending ∧ (bytesWf u.mem.bytes = true → bytesWf (body u q).1.mem.bytes = true)) :
    ∀ t, runSealed c opcode sealedOk clearOk classOk o body s = .next t →
      t.pending = s.pending ∧ (bytesWf s.mem.bytes = true → bytesWf t.mem.bytes = true) := by
  intro t ht
  unfold runSealed at ht
  split at ht
  · grind [beginCmd_keeps]
  · rename_i s1 _ hgo
    split at ht
    · grind [completeAt_keeps, bump_keeps, beginCmd_keepsGo]
    · rename_i q _
      have h1 := runChecked_keepsC q classOk false (fun u => hb u q) (updOut s1 c.sqid c.cid fun x => { x with sealedBy := q.session })
      grind [beginCmd_keepsGo, updOut_keeps]

theorem updProg_keeps (s : State) (sqid : Nat) (cid : Nat) (f : ProgRec → ProgRec) :
    (updProg s sqid cid f).pending = s.pending ∧ (updProg s sqid cid f).life = s.life ∧ (updProg s sqid cid f).mem.bytes = s.mem.bytes := by
  grind [updProg, updOut_keeps]

end Sys2Proof.Machine
end

