-- ==== Sys2Proof/Laws/KeepsTableOps.lean ====
section
/-! SUPPORT. What the operations of Machine/TableOps.lean leave alone: the queue of commands, the states of the partitions,
the canonical form of memory. -/

namespace Sys2Proof.Machine

theorem updTable_keeps (s : State) (k : Nat) (f : Table → Table) :
    (updTable s k f).pending = s.pending ∧ (updTable s k f).life = s.life ∧ (updTable s k f).mem.bytes = s.mem.bytes := by
  grind [updTable]

theorem copyBuildPage_keeps (s : State) (k : Nat) (pg : Nat) :
    ∀ t, (copyBuildPage s k pg) = some t → t.pending = s.pending ∧ t.life = s.life ∧ (bytesWf s.mem.bytes = true → bytesWf t.mem.bytes = true) := by
  unfold copyBuildPage; repeat' split
  all_goals grind [updTable_keeps, allocPages_keeps, memCopy_keeps]

theorem shrinkTable_keeps (s : State) (k : Nat) (t : Table) (t' : Table) :
    (shrinkTable s k t t').pending = s.pending ∧ (shrinkTable s k t t').life = s.life ∧ (shrinkTable s k t t').mem.bytes = s.mem.bytes := by
  grind [shrinkTable, releasePages_keeps]

theorem discardTable_keeps (s : State) (k : Nat) :
    (discardTable s k).pending = s.pending ∧ (discardTable s k).life = s.life ∧ (discardTable s k).mem.bytes = s.mem.bytes := by
  grind [discardTable, shrinkTable_keeps]

theorem installTable_keeps (s : State) (k : Nat) :
    ∀ t x, (installTable s k) = some (t, x) → t.pending = s.pending ∧ t.life = s.life ∧ t.mem.bytes = s.mem.bytes := by
  grind [installTable, shrinkTable_keeps]

theorem pinTable_keeps (s : State) (k : Nat) (job : Nat) :
    (pinTable s k job).pending = s.pending ∧ (pinTable s k job).life = s.life ∧ (pinTable s k job).mem.bytes = s.mem.bytes := by
  grind [pinTable, updTable_keeps]

theorem startBuilding_keeps (s : State) (k : Nat) (epoch : Nat) (job : Option Nat) :
    ∀ t, (startBuilding s k epoch job) = some t → t.pending = s.pending ∧ t.life = s.life ∧ (bytesWf s.mem.bytes = true → bytesWf t.mem.bytes = true) := by
  grind [startBuilding, updTable_keeps, allocPages_keeps, memZero_keeps, foldB, foldPB, KeepsB]

theorem sweepTable_keeps (s : State) (k : Nat) :
    (sweepTable s k).pending = s.pending ∧ (sweepTable s k).life = s.life ∧ (sweepTable s k).mem.bytes = s.mem.bytes := by
  grind [sweepTable, shrinkTable_keeps]

theorem unpinTable_keeps (s : State) (k : Nat) (epoch : Nat) (job : Nat) :
    (unpinTable s k epoch job).pending = s.pending ∧ (unpinTable s k epoch job).life = s.life ∧ (unpinTable s k epoch job).mem.bytes = s.mem.bytes := by
  grind [unpinTable, sweepTable_keeps, updTable_keeps]

theorem writeBuild_keeps (k : Nat) (x1 : Nat) (s : State) (x3 : Nat) (x4 : List Sys2Proof.Byte) :
    ∀ t, (writeBuild k x1 s x3 x4) = some t → t.pending = s.pending ∧ t.life = s.life ∧ (bytesWf s.mem.bytes = true → bytesWf t.mem.bytes = true) := by
  fun_induction writeBuild <;> grind [memWrite_keeps, copyBuildPage_keeps]

end Sys2Proof.Machine
end

