-- ==== Sys2Proof/Laws/KeepsForestOps.lean ====
section
/-! SUPPORT. What the operations of Machine/ForestOps.lean leave alone: the queue of commands, the states of the partitions,
the canonical form of memory. -/

namespace Sys2Proof.Machine

theorem updAssoc_keeps (s : State) (port : Nat) (peer : Nat) (f : Assoc → Assoc) :
    (updAssoc s port peer f).pending = s.pending ∧ (updAssoc s port peer f).life = s.life ∧ (updAssoc s port peer f).mem.bytes = s.mem.bytes := by
  grind [updAssoc]

theorem queueMsgs_keeps (s : State) :
    (queueMsgs s).pending = s.pending ∧ (queueMsgs s).life = s.life ∧ (queueMsgs s).mem.bytes = s.mem.bytes := by
  grind [queueMsgs, updAssoc_keeps, foldA, foldPA, KeepsA]

theorem sendNumbered_keeps (s : State) (port : Nat) (peer : Nat) (f : SentFrame) :
    (sendNumbered s port peer f).pending = s.pending ∧ (sendNumbered s port peer f).life = s.life ∧ (sendNumbered s port peer f).mem.bytes = s.mem.bytes := by
  grind [sendNumbered, updAssoc_keeps, bumpPair_keeps]

theorem nextEpoch_keeps (s : State) (port : Nat) (peer : Nat) :
    (nextEpoch s port peer).pending = s.pending ∧ (nextEpoch s port peer).life = s.life ∧ (nextEpoch s port peer).mem.bytes = s.mem.bytes := by
  grind [nextEpoch, updAssoc_keeps, sendNumbered_keeps]

theorem transmit_keeps (port : Nat) (peer : Nat) (x2 : Nat) (s : State) :
    (transmit port peer x2 s).pending = s.pending ∧ (transmit port peer x2 s).life = s.life ∧ (transmit port peer x2 s).mem.bytes = s.mem.bytes := by
  fun_induction transmit <;> grind [updAssoc_keeps, sendNumbered_keeps, nextEpoch_keeps]

theorem pump_keeps (s : State) :
    (pump s).pending = s.pending ∧ (pump s).life = s.life ∧ (pump s).mem.bytes = s.mem.bytes := by
  grind [pump, transmit_keeps, queueMsgs_keeps, foldA, foldPA, KeepsA]

theorem refreshForest_keeps (s : State) :
    (refreshForest s).pending = s.pending ∧ (refreshForest s).life = s.life ∧ (refreshForest s).mem.bytes = s.mem.bytes := by
  grind [refreshForest, setF_keeps, foldA, foldPA, KeepsA]

theorem assocDown_keeps (s : State) (port : Nat) (peer : Nat) :
    (assocDown s port peer).pending = s.pending ∧ (assocDown s port peer).life = s.life ∧ (assocDown s port peer).mem.bytes = s.mem.bytes := by
  grind [assocDown, bump_keeps, refreshForest_keeps, updAssoc_keeps, pump_keeps]

theorem handleAck_keeps (s : State) (port : Nat) (peer : Nat) (ack : Nat) :
    (handleAck s port peer ack).pending = s.pending ∧ (handleAck s port peer ack).life = s.life ∧ (handleAck s port peer ack).mem.bytes = s.mem.bytes := by
  grind [handleAck, assocDown_keeps, updAssoc_keeps, pump_keeps]

theorem markStale_keeps (s : State) (t : Nat) :
    (markStale s t).pending = s.pending ∧ (markStale s t).life = s.life ∧ (markStale s t).mem.bytes = s.mem.bytes := by
  grind [markStale, bump_keeps]

theorem sendMsg_keeps (s : State) (peer : Nat) (channel : Nat) (bytes : List Sys2Proof.Byte) (delta : Option Nat) :
    (sendMsg s peer channel bytes delta).pending = s.pending ∧ (sendMsg s peer channel bytes delta).life = s.life ∧ (sendMsg s peer channel bytes delta).mem.bytes = s.mem.bytes := by
  grind [sendMsg, pump_keeps]

theorem sendDelta_keeps (s : State) (d : Delta) :
    (sendDelta s d).pending = s.pending ∧ (sendDelta s d).life = s.life ∧ (sendDelta s d).mem.bytes = s.mem.bytes := by
  grind [sendDelta, sendMsg_keeps]

theorem noteChange_keeps (s : State) (p : Nat) (u : Nat) (ident : Nat) (old : List Sys2Proof.Byte) (new : List Sys2Proof.Byte) :
    (noteChange s p u ident old new).pending = s.pending ∧ (noteChange s p u ident old new).life = s.life ∧ (noteChange s p u ident old new).mem.bytes = s.mem.bytes := by
  grind [noteChange, sendDelta_keeps, markStale_keeps, foldA, foldPA, KeepsA]

theorem noteStale_keeps (s : State) (p : Nat) (u : Nat) :
    (noteStale s p u).pending = s.pending ∧ (noteStale s p u).life = s.life ∧ (noteStale s p u).mem.bytes = s.mem.bytes := by
  grind [noteStale, markStale_keeps]

theorem resend_keeps (s : State) (port : Nat) (peer : Nat) :
    (resend s port peer).pending = s.pending ∧ (resend s port peer).life = s.life ∧ (resend s port peer).mem.bytes = s.mem.bytes := by
  grind [resend, bump_keeps, bumpPair_keeps]

theorem sendBare_keeps (s : State) (port : Nat) (peer : Nat) :
    (sendBare s port peer).pending = s.pending ∧ (sendBare s port peer).life = s.life ∧ (sendBare s port peer).mem.bytes = s.mem.bytes := by
  grind [sendBare, updAssoc_keeps, bumpPair_keeps]

theorem sendAck_keeps (s : State) (port : Nat) (peer : Nat) :
    (sendAck s port peer).pending = s.pending ∧ (sendAck s port peer).life = s.life ∧ (sendAck s port peer).mem.bytes = s.mem.bytes := by
  grind [sendAck, updAssoc_keeps, sendBare_keeps]

theorem takeInbox_keeps (s : State) (peer : Nat) (channel : Nat) :
    (takeInbox s peer channel).pending = s.pending ∧ (takeInbox s peer channel).life = s.life ∧ (takeInbox s peer channel).mem.bytes = s.mem.bytes := by
  grind [takeInbox]

end Sys2Proof.Machine
end

