-- ==== Sys2Proof/Laws/KeepsFtlOps.lean ====
section
/-! SUPPORT. What the operations of Machine/FtlOps.lean leave alone: the queue of commands, the states of the partitions,
the canonical form of memory. -/

namespace Sys2Proof.Machine

theorem ackDeltas_keeps (s : State) :
    (ackDeltas s).pending = s.pending ∧ (ackDeltas s).life = s.life ∧ (ackDeltas s).mem.bytes = s.mem.bytes := by
  grind [ackDeltas, sendMsg_keeps, foldA, foldPA, KeepsA]

theorem mapSet_keeps (s : State) (idx : Nat) (e : Option MapEntry) :
    (mapSet s idx e).pending = s.pending ∧ (mapSet s idx e).life = s.life ∧ (mapSet s idx e).mem.bytes = s.mem.bytes := by
  unfold mapSet; grind []

theorem undurable_keeps (s : State) (p : Nat) (unit : Nat) (cause : Nat) :
    (undurable s p unit cause).pending = s.pending ∧ (undurable s p unit cause).life = s.life ∧ (undurable s p unit cause).mem.bytes = s.mem.bytes := by
  grind [undurable, bump_keeps, updPart_keeps, aen_keeps]

theorem dropBuffered_keeps (s : State) (b : BufUnit) (poison : Bool) (cause : Nat) :
    (dropBuffered s b poison cause).pending = s.pending ∧ (dropBuffered s b poison cause).life = s.life ∧ (dropBuffered s b poison cause).mem.bytes = s.mem.bytes := by
  grind [dropBuffered, undurable_keeps, completeAt_keeps, bump_keeps, mapSet_keeps, foldA, foldPA, KeepsA]

theorem dropCopy_keeps (s : State) (k : Nat) :
    (dropCopy s k).pending = s.pending ∧ (dropCopy s k).life = s.life ∧ (dropCopy s k).mem.bytes = s.mem.bytes := by
  grind [dropCopy, freePages_keeps, credit_keeps]

theorem openSb_keeps (s : State) (stream : Nat) :
    ∀ t x, (openSb s stream) = some (t, x) → t.pending = s.pending ∧ t.life = s.life ∧ t.mem.bytes = s.mem.bytes := by
  grind [openSb, setF_keeps]

theorem updSb_keeps (s : State) (B : Nat) (f : SuperBlock → SuperBlock) :
    (updSb s B f).pending = s.pending ∧ (updSb s B f).life = s.life ∧ (updSb s B f).mem.bytes = s.mem.bytes := by
  grind [updSb]

theorem takeSlot_keeps (s : State) (stream : Nat) :
    (takeSlot s stream).1.pending = s.pending ∧ (takeSlot s stream).1.life = s.life ∧ (takeSlot s stream).1.mem.bytes = s.mem.bytes := by
  unfold takeSlot; repeat' split
  all_goals grind [updSb_keeps, openSb_keeps]

theorem enterUnit_keeps (s : State) (p : Nat) (unit : Nat) (idx : Nat) (kind : Nat) (stream : Nat) (v : UnitVal) :
    (enterUnit s p unit idx kind stream v).1.pending = s.pending ∧ (enterUnit s p unit idx kind stream v).1.life = s.life ∧ (enterUnit s p unit idx kind stream v).1.mem.bytes = s.mem.bytes := by
  grind [enterUnit, takeSlot_keeps]

theorem useCredit_keeps (s : State) :
    (useCredit s).pending = s.pending ∧ (useCredit s).life = s.life ∧ (useCredit s).mem.bytes = s.mem.bytes := by
  grind [useCredit]

theorem staleCopy_keeps (s : State) (p : Nat) (page : Nat) :
    (staleCopy s p page).pending = s.pending ∧ (staleCopy s p page).life = s.life ∧ (staleCopy s p page).mem.bytes = s.mem.bytes := by
  grind [staleCopy, dropCopy_keeps]

theorem enterPiece_keeps (s : State) (p : Nat) (piece : Nat × Nat × List Sys2Proof.Byte) :
    ∀ t x, (enterPiece s p piece) = some (t, x) → t.pending = s.pending ∧ t.life = s.life ∧ t.mem.bytes = s.mem.bytes := by
  grind [enterPiece, staleCopy_keeps, useCredit_keeps, enterUnit_keeps]

theorem enterPieces_keeps (p : Nat) (x1 : List (Nat × Nat × List Sys2Proof.Byte)) (s : State) (x3 : List Nat) :
    (enterPieces p x1 s x3).1.pending = s.pending ∧ (enterPieces p x1 s x3).1.life = s.life ∧ (enterPieces p x1 s x3).1.mem.bytes = s.mem.bytes := by
  fun_induction enterPieces <;> grind [enterPiece_keeps]

theorem settle_keeps (s : State) :
    (settle s).pending = s.pending ∧ (settle s).life = s.life ∧ (settle s).mem.bytes = s.mem.bytes := by
  grind [settle, completeAt_keeps, ackDeltas_keeps, foldA, foldPA, KeepsA]

theorem landUnit_keeps (s : State) (b : BufUnit) :
    (landUnit s b).pending = s.pending ∧ (landUnit s b).life = s.life ∧ (landUnit s b).mem.bytes = s.mem.bytes := by
  grind [landUnit, mapSet_keeps]

theorem noteContent_keeps (s : State) (p : Nat) (u : Nat) (idx : Nat) (ident : Nat) (new : UnitVal) :
    (noteContent s p u idx ident new).pending = s.pending ∧ (noteContent s p u idx ident new).life = s.life ∧ (noteContent s p u idx ident new).mem.bytes = s.mem.bytes := by
  grind [noteContent, noteStale_keeps, noteChange_keeps]

theorem programUnit_keeps (s0 : State) (b : BufUnit) (addr : Nat) :
    (programUnit s0 b addr).pending = s0.pending ∧ (programUnit s0 b addr).life = s0.life ∧ (programUnit s0 b addr).mem.bytes = s0.mem.bytes := by
  grind [programUnit, bumpPair_keeps, noteContent_keeps]

theorem flushAll_keeps (s : State) :
    (flushAll s).pending = s.pending ∧ (flushAll s).life = s.life ∧ (flushAll s).mem.bytes = s.mem.bytes := by
  grind [flushAll, programUnit_keeps, landUnit_keeps, settle_keeps, takeSlot_keeps, foldA, foldPA, KeepsA]

theorem queueRelocs_keeps (s : State) (l : List (Nat × MapEntry)) :
    (queueRelocs s l).pending = s.pending ∧ (queueRelocs s l).life = s.life ∧ (queueRelocs s l).mem.bytes = s.mem.bytes := by
  grind [queueRelocs]

theorem unmapUnit_keeps (s : State) (p : Nat) (unit : Nat) :
    (unmapUnit s p unit).pending = s.pending ∧ (unmapUnit s p unit).life = s.life ∧ (unmapUnit s p unit).mem.bytes = s.mem.bytes := by
  grind [unmapUnit, staleCopy_keeps, settle_keeps, mapSet_keeps, noteContent_keeps]

theorem updBlock_keeps (s : State) (k : Nat) (f : Block → Block) :
    (updBlock s k f).pending = s.pending ∧ (updBlock s k f).life = s.life ∧ (updBlock s k f).mem.bytes = s.mem.bytes := by
  grind [updBlock]

theorem updChan_keeps (s : State) (i : Nat) (f : Channel → Channel) :
    (updChan s i f).pending = s.pending ∧ (updChan s i f).life = s.life ∧ (updChan s i f).mem.bytes = s.mem.bytes := by
  grind [updChan]

theorem whenDurable_keeps (s : State) (c : Sys2Proof.Cmd) (orders : List Nat) (r : Reply) :
    (whenDurable s c orders r).1.pending = s.pending ∧ (whenDurable s c orders r).1.life = s.life ∧ (whenDurable s c orders r).1.mem.bytes = s.mem.bytes := by
  grind [whenDurable]

theorem writeNow_keeps (s : State) (p : Nat) (off : Nat) (l : List Sys2Proof.Byte) :
    (writeNow s p off l).1.pending = s.pending ∧ (writeNow s p off l).1.life = s.life ∧ (writeNow s p off l).1.mem.bytes = s.mem.bytes := by
  grind [writeNow, staleCopy_keeps, enterUnit_keeps, foldA, foldPA, KeepsA]

end Sys2Proof.Machine
end

