-- ==== Sys2Proof/Laws/KeepsMediaOps.lean ====
section
/-! SUPPORT. What the operations of Machine/MediaOps.lean leave alone: the queue of commands, the states of the partitions,
the canonical form of memory. -/

namespace Sys2Proof.Machine

theorem assignSlots_keeps (s : State) :
    (assignSlots s).pending = s.pending ∧ (assignSlots s).life = s.life ∧ (assignSlots s).mem.bytes = s.mem.bytes := by
  grind [assignSlots, takeSlot_keeps, foldA, foldPA, KeepsA]

theorem reslot_keeps (s : State) (sel : BufUnit → Bool) :
    (reslot s sel).pending = s.pending ∧ (reslot s sel).life = s.life ∧ (reslot s sel).mem.bytes = s.mem.bytes := by
  grind [reslot, assignSlots_keeps]

theorem closeSb_keeps (s : State) (B : Nat) :
    (closeSb s B).pending = s.pending ∧ (closeSb s B).life = s.life ∧ (closeSb s B).mem.bytes = s.mem.bytes := by
  grind [closeSb, updSb_keeps, reslot_keeps]

theorem countRebuild_keeps (s : State) :
    (countRebuild s).pending = s.pending ∧ (countRebuild s).life = s.life ∧ (countRebuild s).mem.bytes = s.mem.bytes := by
  grind [countRebuild, setF_keeps]

theorem resumeDies_keeps (s : State) :
    (resumeDies s).pending = s.pending ∧ (resumeDies s).life = s.life ∧ (resumeDies s).mem.bytes = s.mem.bytes := by
  grind [resumeDies]

theorem dropAccess_keeps (s : State) (sel : Access → Bool) :
    (dropAccess s sel).pending = s.pending ∧ (dropAccess s sel).life = s.life ∧ (dropAccess s sel).mem.bytes = s.mem.bytes := by
  grind [dropAccess, resumeDies_keeps]

theorem setDieOp_keeps (s : State) (ch : Nat) (die : Nat) (o : Option DieOp) :
    (setDieOp s ch die o).pending = s.pending ∧ (setDieOp s ch die o).life = s.life ∧ (setDieOp s ch die o).mem.bytes = s.mem.bytes := by
  grind [setDieOp, updChan_keeps]

theorem kick_keeps (s : State) :
    (kick s).pending = s.pending ∧ (kick s).life = s.life ∧ (kick s).mem.bytes = s.mem.bytes := by
  grind [kick, setReg_keeps, updBlock_keeps, setDieOp_keeps, foldA, foldPA, KeepsA]

theorem freeErased_keeps (s : State) (B : Nat) (sb : SuperBlock) :
    (freeErased s B sb).pending = s.pending ∧ (freeErased s B sb).life = s.life ∧ (freeErased s B sb).mem.bytes = s.mem.bytes := by
  grind [freeErased, assignSlots_keeps, updSb_keeps, bumpF_keeps, setF_keeps, post_keeps, foldA, foldPA, KeepsA]

theorem sweepErased_keeps (s : State) :
    (sweepErased s).pending = s.pending ∧ (sweepErased s).life = s.life ∧ (sweepErased s).mem.bytes = s.mem.bytes := by
  grind [sweepErased, freeErased_keeps, foldA, foldPA, KeepsA]

theorem sweepReclaimed_keeps (s : State) :
    (sweepReclaimed s).pending = s.pending ∧ (sweepReclaimed s).life = s.life ∧ (sweepReclaimed s).mem.bytes = s.mem.bytes := by
  grind [sweepReclaimed, updSb_keeps, updBlock_keeps, sweepErased_keeps, foldA, foldPA, KeepsA]

theorem flashSettle_keeps (s : State) :
    (flashSettle s).pending = s.pending ∧ (flashSettle s).life = s.life ∧ (flashSettle s).mem.bytes = s.mem.bytes := by
  grind [flashSettle, countRebuild_keeps, resumeDies_keeps, sweepReclaimed_keeps, kick_keeps]

theorem retireDie_keeps (s : State) (ch : Nat) (die : Nat) :
    (retireDie s ch die).pending = s.pending ∧ (retireDie s ch die).life = s.life ∧ (retireDie s ch die).mem.bytes = s.mem.bytes := by
  grind [retireDie, setF_keeps, queueRelocs_keeps, post_keeps, setDieOp_keeps]

theorem growBlock_keeps (s : State) (k : Nat) :
    (growBlock s k).pending = s.pending ∧ (growBlock s k).life = s.life ∧ (growBlock s k).mem.bytes = s.mem.bytes := by
  grind [growBlock, updChan_keeps, retireDie_keeps, bumpF_keeps, updBlock_keeps, queueRelocs_keeps, post_keeps]

theorem orphanAccess_keeps (s : State) (sel : Access → Bool) :
    (orphanAccess s sel).pending = s.pending ∧ (orphanAccess s sel).life = s.life ∧ (orphanAccess s sel).mem.bytes = s.mem.bytes := by
  grind [orphanAccess]

theorem suspendFor_keeps (s : State) (ch : Nat) (die : Nat) :
    (suspendFor s ch die).pending = s.pending ∧ (suspendFor s ch die).life = s.life ∧ (suspendFor s ch die).mem.bytes = s.mem.bytes := by
  grind [suspendFor, setDieOp_keeps]

theorem startAccess_keeps (s : State) (search : Bool) (asker : Nat) (waiter : Nat) (idx : Nat) (addr : Nat) :
    (startAccess s search asker waiter idx addr).pending = s.pending ∧ (startAccess s search asker waiter idx addr).life = s.life ∧ (startAccess s search asker waiter idx addr).mem.bytes = s.mem.bytes := by
  grind [startAccess, suspendFor_keeps]

theorem wordlineDone_keeps (s : State) (B : Nat) (ch : Nat) :
    (wordlineDone s B ch).pending = s.pending ∧ (wordlineDone s B ch).life = s.life ∧ (wordlineDone s B ch).mem.bytes = s.mem.bytes := by
  grind [wordlineDone, landUnit_keeps, settle_keeps, updSb_keeps, closeSb_keeps, foldA, foldPA, KeepsA]

end Sys2Proof.Machine
end

