-- ==== Sys2Proof/Laws/KeepsJobOps.lean ====
section
/-! SUPPORT. What the operations of Machine/JobOps.lean leave alone: the queue of commands, the states of the partitions,
the canonical form of memory. -/

namespace Sys2Proof.Machine

theorem memPaste_keeps (s : State) (a n : Nat) (c : Bytes) (bad : List Nat) :
    (memPaste s a n c bad).pending = s.pending ∧ (memPaste s a n c bad).life = s.life ∧
      (bytesWf s.mem.bytes = true → bytesWf (memPaste s a n c bad).mem.bytes = true) := by
  unfold memPaste
  simp only [countWrite_keeps, clearWhole]
  refine ⟨trivial, trivial, fun h => foldPoison_wf _ (fun l => lineOf (a + l)) _ ?_⟩
  refine ite_wf _ _ (bytesWf_bPaste _ a n c h) ?_
  refine foldl_keeps (fun b => bytesWf b = true) _ (fun b x hb => ?_) _ _ (bytesWf_bPaste _ a n c h)
  split
  · exact bytesWf_bZero _ _ _ hb
  · exact hb

theorem updJob_keeps (s : State) (n : Nat) (f : Job → Job) :
    (updJob s n f).pending = s.pending ∧ (updJob s n f).life = s.life ∧ (updJob s n f).mem.bytes = s.mem.bytes := by
  grind [updJob]

theorem workPage_keeps (s : State) (n : Nat) (pg : Nat) :
    (workPage s n pg).pending = s.pending ∧ (workPage s n pg).life = s.life ∧ (bytesWf s.mem.bytes = true → bytesWf (workPage s n pg).mem.bytes = true) := by
  grind [workPage, memCopy_keeps, updJob_keeps, takePage_keeps]

theorem bufWrite_keeps (s : State) (n : Nat) (bn : Nat) (b : BufDef) (o : Nat) (len : Nat) (c : Bytes) (bad : List Nat) :
    (bufWrite s n bn b o len c bad).pending = s.pending ∧ (bufWrite s n bn b o len c bad).life = s.life ∧ (bytesWf s.mem.bytes = true → bytesWf (bufWrite s n bn b o len c bad).mem.bytes = true) := by
  grind [bufWrite, workPage_keeps, updJob_keeps, memPaste_keeps, foldB, foldPB, KeepsB]

theorem bufPut_keeps (s : State) (n : Nat) (bn : Nat) (b : BufDef) (o : Nat) (l : List Sys2Proof.Byte) :
    (bufPut s n bn b o l).pending = s.pending ∧ (bufPut s n bn b o l).life = s.life ∧ (bytesWf s.mem.bytes = true → bytesWf (bufPut s n bn b o l).mem.bytes = true) := by
  grind [bufPut, bufWrite_keeps]

theorem updCal_keeps (s : State) (u : Sys2Proof.UnitRef) (f : CalRun → CalRun) :
    (updCal s u f).pending = s.pending ∧ (updCal s u f).life = s.life ∧ (updCal s u f).mem.bytes = s.mem.bytes := by
  grind [updCal, updJob_keeps]

theorem landCal_keeps (s : State) (u : Sys2Proof.UnitRef) (entry : Nat) :
    (landCal s u entry).pending = s.pending ∧ (landCal s u entry).life = s.life ∧ (landCal s u entry).mem.bytes = s.mem.bytes := by
  grind [landCal, updCal_keeps]

theorem launchCal_keeps (s : State) (u : Sys2Proof.UnitRef) :
    (launchCal s u).pending = s.pending ∧ (launchCal s u).life = s.life ∧ (launchCal s u).mem.bytes = s.mem.bytes := by
  grind [launchCal, updCal_keeps]

theorem scramble_keeps (s : State) (a : Nat) (n : Nat) :
    (scramble s a n).pending = s.pending ∧ (scramble s a n).life = s.life ∧ (bytesWf s.mem.bytes = true → bytesWf (scramble s a n).mem.bytes = true) := by
  grind [scramble, bytesWf_filter]

theorem scrambleBuf_keeps (s : State) (n : Nat) (j : Job) (b : BufDef) :
    (scrambleBuf s n j b).pending = s.pending ∧ (scrambleBuf s n j b).life = s.life ∧ (bytesWf s.mem.bytes = true → bytesWf (scrambleBuf s n j b).mem.bytes = true) := by
  grind [scrambleBuf, scramble_keeps, foldB, foldPB, KeepsB]

theorem stepCal_keeps (s : State) (u : Sys2Proof.UnitRef) :
    (stepCal s u).pending = s.pending ∧ (stepCal s u).life = s.life ∧ (stepCal s u).mem.bytes = s.mem.bytes := by
  grind [stepCal, updCal_keeps]

theorem tracePush_keeps (s : State) (r : TraceRec) :
    (tracePush s r).pending = s.pending ∧ (tracePush s r).life = s.life ∧ (tracePush s r).mem.bytes = s.mem.bytes := by
  grind [tracePush, bump_keeps]

theorem traceEntry_keeps (s : State) (u : Sys2Proof.UnitRef) (idx : Nat) (kind : Nat) :
    (traceEntry s u idx kind).pending = s.pending ∧ (traceEntry s u idx kind).life = s.life ∧ (traceEntry s u idx kind).mem.bytes = s.mem.bytes := by
  grind [traceEntry, tracePush_keeps]

theorem traceWhole_keeps (s : State) (u : Sys2Proof.UnitRef) (idx : Nat) :
    (traceWhole s u idx).pending = s.pending ∧ (traceWhole s u idx).life = s.life ∧ (traceWhole s u idx).mem.bytes = s.mem.bytes := by
  grind [traceWhole, traceEntry_keeps]

theorem updCopse_keeps (s : State) (k : Nat) (f : Copse → Copse) :
    (updCopse s k f).pending = s.pending ∧ (updCopse s k f).life = s.life ∧ (updCopse s k f).mem.bytes = s.mem.bytes := by
  grind [updCopse]

theorem updGlade_keeps (s : State) (i : Nat) (f : Glade → Glade) :
    (updGlade s i f).pending = s.pending ∧ (updGlade s i f).life = s.life ∧ (updGlade s i f).mem.bytes = s.mem.bytes := by
  grind [updGlade]

end Sys2Proof.Machine
end

