-- ==== Sys2Proof/Laws/KeepsBindOps.lean ====
section
/-! SUPPORT. What the operations of Machine/BindOps.lean leave alone: the queue of commands, the states of the partitions,
the canonical form of memory. -/

namespace Sys2Proof.Machine

theorem chargeAll_keeps (s : State) (p : Nat) (l : List (Nat × Nat)) :
    (chargeAll s p l).pending = s.pending ∧ (chargeAll s p l).life = s.life ∧ (chargeAll s p l).mem.bytes = s.mem.bytes := by
  grind [chargeAll, charge_keeps, foldA, foldPA, KeepsA]

theorem creditAll_keeps (s : State) (p : Nat) (l : List (Nat × Nat)) :
    (creditAll s p l).pending = s.pending ∧ (creditAll s p l).life = s.life ∧ (creditAll s p l).mem.bytes = s.mem.bytes := by
  grind [creditAll, credit_keeps, foldA, foldPA, KeepsA]

theorem dropKeys_keeps (s : State) (part : Nat) :
    (dropKeys s part).pending = s.pending ∧ (dropKeys s part).life = s.life ∧ (dropKeys s part).mem.bytes = s.mem.bytes := by
  grind [dropKeys]

theorem freeJobPages_keeps (s : State) (tagged : Bool) (l : List Nat) :
    (freeJobPages s tagged l).pending = s.pending ∧ (freeJobPages s tagged l).life = s.life ∧ (bytesWf s.mem.bytes = true → bytesWf (freeJobPages s tagged l).mem.bytes = true) := by
  grind [freeJobPages, memZero_keeps, freePages_keeps, foldB, foldPB, KeepsB]

theorem freeJobRegions_keeps (s : State) (tagged : Bool) (l : List (Nat × Nat)) :
    (freeJobRegions s tagged l).pending = s.pending ∧ (freeJobRegions s tagged l).life = s.life ∧ (freeJobRegions s tagged l).mem.bytes = s.mem.bytes := by
  grind [freeJobRegions, freeRegion_keeps, foldA, foldPA, KeepsA]

theorem leaveCopse_keeps (s : State) (n : Nat) (k : Nat) :
    (leaveCopse s n k).pending = s.pending ∧ (leaveCopse s n k).life = s.life ∧ (leaveCopse s n k).mem.bytes = s.mem.bytes := by
  grind [leaveCopse, updCopse_keeps]

theorem loadKeys_keeps (s : State) (ch : Nat) (part : Nat) :
    ∀ t, (loadKeys s ch part) = some t → t.pending = s.pending ∧ t.life = s.life ∧ t.mem.bytes = s.mem.bytes := by
  unfold loadKeys; dsimp only; repeat' split
  all_goals grind [updChan_keeps, bumpF_keeps, foldA, foldPA, KeepsA]

theorem takeJobPages_keeps (part : Nat) (L : List Nat) (x2 : Nat) (x3 : Nat) (s : State) :
    ∀ t x, (takeJobPages part L x2 x3 s) = some (t, x) → t.pending = s.pending ∧ t.life = s.life ∧ (bytesWf s.mem.bytes = true → bytesWf t.mem.bytes = true) := by
  fun_induction takeJobPages <;> grind [takePage_keeps]

end Sys2Proof.Machine
end

