-- ==== Sys2Proof/Laws/KeepsJobEnd.lean ====
section
/-! SUPPORT. What the operations of Machine/JobEnd.lean leave alone: the queue of commands, the states of the partitions,
the canonical form of memory. -/

namespace Sys2Proof.Machine

theorem stopCopses_keeps (s : State) (n : Nat) :
    (stopCopses s n).pending = s.pending ∧ (stopCopses s n).life = s.life ∧ (stopCopses s n).mem.bytes = s.mem.bytes := by
  grind [stopCopses]

theorem unpinCopy_keeps (s : State) (k : Nat) :
    (unpinCopy s k).pending = s.pending ∧ (unpinCopy s k).life = s.life ∧ (unpinCopy s k).mem.bytes = s.mem.bytes := by
  grind [unpinCopy, dropCopy_keeps]

theorem dropPrefetch_keeps (s : State) (n : Nat) :
    (dropPrefetch s n).pending = s.pending ∧ (dropPrefetch s n).life = s.life ∧ (dropPrefetch s n).mem.bytes = s.mem.bytes := by
  grind [dropPrefetch, unpinCopy_keeps, foldA, foldPA, KeepsA]

theorem fillRoutes_keeps (s : State) (n : Nat) :
    (fillRoutes s n).pending = s.pending ∧ (fillRoutes s n).life = s.life ∧ (bytesWf s.mem.bytes = true → bytesWf (fillRoutes s n).mem.bytes = true) := by
  unfold fillRoutes; repeat' split
  all_goals grind [bufPut_keeps, foldB, foldPB, KeepsB]

theorem restartHot_keeps (s : State) (n : Nat) :
    (restartHot s n).pending = s.pending ∧ (restartHot s n).life = s.life ∧ (restartHot s n).mem.bytes = s.mem.bytes := by
  grind [restartHot, updJob_keeps]

theorem clearSections_keeps (s : State) (n : Nat) :
    (clearSections s n).pending = s.pending ∧ (clearSections s n).life = s.life ∧ (bytesWf s.mem.bytes = true → bytesWf (clearSections s n).mem.bytes = true) := by
  unfold clearSections; repeat' split
  all_goals grind [bufWrite_keeps, foldB, foldPB, KeepsB]

theorem dropAccesses_keeps (s : State) (n : Nat) :
    (dropAccesses s n).pending = s.pending ∧ (dropAccesses s n).life = s.life ∧ (dropAccesses s n).mem.bytes = s.mem.bytes := by
  grind [dropAccesses, dropAccess_keeps, updJob_keeps, unpinCopy_keeps, foldA, foldPA, KeepsA]

theorem fillCopy_keeps (s : State) (n : Nat) (i : Nat) (slot : Nat) (it : RowItem) (b : Binding) (ad : Adapter) (a : Alm) :
    (fillCopy s n i slot it b ad a).pending = s.pending ∧ (fillCopy s n i slot it b ad a).life = s.life ∧ (bytesWf s.mem.bytes = true → bytesWf (fillCopy s n i slot it b ad a).mem.bytes = true) := by
  grind [fillCopy, bump_keeps, bufPut_keeps, updJob_keeps]

theorem fillCopies_keeps (s : State) (n : Nat) :
    (fillCopies s n).pending = s.pending ∧ (fillCopies s n).life = s.life ∧ (bytesWf s.mem.bytes = true → bytesWf (fillCopies s n).mem.bytes = true) := by
  unfold fillCopies; repeat' split
  all_goals grind [fillCopy_keeps, foldB, foldPB, KeepsB]

theorem dropWork_keeps (s : State) (n : Nat) :
    (dropWork s n).pending = s.pending ∧ (dropWork s n).life = s.life ∧ (bytesWf s.mem.bytes = true → bytesWf (dropWork s n).mem.bytes = true) := by
  grind [dropWork, freeJobPages_keeps, updJob_keeps, credit_keeps]

theorem restartDay_keeps (s : State) (n : Nat) :
    (restartDay s n).pending = s.pending ∧ (restartDay s n).life = s.life ∧ (bytesWf s.mem.bytes = true → bytesWf (restartDay s n).mem.bytes = true) := by
  grind [restartDay, dropWork_keeps, bump_keeps, scrambleBuf_keeps, fillCopies_keeps, dropAccesses_keeps, clearSections_keeps, restartHot_keeps, fillRoutes_keeps, dropPrefetch_keeps, stopCopses_keeps, updJob_keeps, foldB, foldPB, KeepsB]

theorem keepCommons_keeps (s : State) (j : Job) (a : Alm) :
    (keepCommons s j a).1.pending = s.pending ∧ (keepCommons s j a).1.life = s.life ∧ (keepCommons s j a).1.mem.bytes = s.mem.bytes := by
  grind [keepCommons, freePages_keeps, foldA, foldPA, KeepsA]

theorem leaveTable_keeps (s : State) (n : Nat) (j : Job) (pin : TablePin) (last : Bool) :
    (leaveTable s n j pin last).1.pending = s.pending ∧ (leaveTable s n j pin last).1.life = s.life ∧ (leaveTable s n j pin last).1.mem.bytes = s.mem.bytes := by
  grind [leaveTable, installTable_keeps, bump_keeps, updTable_keeps, discardTable_keeps, unpinTable_keeps]

theorem releaseJob_keeps (s : State) (n : Nat) :
    (releaseJob s n).1.pending = s.pending ∧ (releaseJob s n).1.life = s.life ∧ (bytesWf s.mem.bytes = true → bytesWf (releaseJob s n).1.mem.bytes = true) := by
  grind [releaseJob, dropWork_keeps, dropAccesses_keeps, freeJobPages_keeps, dropPrefetch_keeps, leaveCopse_keeps, creditAll_keeps, leaveTable_keeps, freeJobRegions_keeps, keepCommons_keeps, foldB, foldPB, KeepsB]

theorem endSearch_keeps (s : State) (k : Nat) (r : Reply) :
    (endSearch s k r).pending = s.pending ∧ (endSearch s k r).life = s.life ∧ (endSearch s k r).mem.bytes = s.mem.bytes := by
  grind [endSearch, completeAt_keeps, releasePages_keeps]

theorem updIndex_keeps (s : State) (p : Nat) (f : Index → Index) :
    (updIndex s p f).pending = s.pending ∧ (updIndex s p f).life = s.life ∧ (updIndex s p f).mem.bytes = s.mem.bytes := by
  grind [updIndex]

theorem dropBatch_keeps (s : State) (n : Nat) :
    (dropBatch s n).pending = s.pending ∧ (dropBatch s n).life = s.life ∧ (dropBatch s n).mem.bytes = s.mem.bytes := by
  grind [dropBatch, updIndex_keeps, foldA, foldPA, KeepsA]

theorem releaseGang_keeps (s : State) (k : Nat) :
    (releaseGang s k).pending = s.pending ∧ (releaseGang s k).life = s.life ∧ (bytesWf s.mem.bytes = true → bytesWf (releaseGang s k).mem.bytes = true) := by
  grind [releaseGang, releaseJob_keeps, foldB, foldPB, KeepsB]

theorem endGang_keeps (s : State) (k : Nat) (st : Status) :
    (endGang s k st).pending = s.pending ∧ (endGang s k st).life = s.life ∧ (bytesWf s.mem.bytes = true → bytesWf (endGang s k st).mem.bytes = true) := by
  grind [endGang, completeAt_keeps, answer_keeps, releaseGang_keeps]

theorem endJob_keeps (s : State) (n : Nat) (st : Status) (dw0 : Nat) :
    (endJob s n st dw0).pending = s.pending ∧ (endJob s n st dw0).life = s.life ∧ (bytesWf s.mem.bytes = true → bytesWf (endJob s n st dw0).mem.bytes = true) := by
  grind [endJob, completeAt_keeps, endGang_keeps, dropBatch_keeps, endSearch_keeps, releaseJob_keeps, foldB, foldPB, KeepsB]

theorem dayFault_keeps (s : State) (n : Nat) (cause : Sys2Proof.DayFault) :
    (dayFault s n cause).pending = s.pending ∧ (dayFault s n cause).life = s.life ∧ (bytesWf s.mem.bytes = true → bytesWf (dayFault s n cause).mem.bytes = true) := by
  grind [dayFault, endJob_keeps, updJob_keeps, restartDay_keeps]

theorem addressFault_keeps (s : State) (n : Nat) (page : Nat) :
    (addressFault s n page).pending = s.pending ∧ (addressFault s n page).life = s.life ∧ (bytesWf s.mem.bytes = true → bytesWf (addressFault s n page).mem.bytes = true) := by
  grind [addressFault, dayFault_keeps, post_keeps]

theorem consumePoison_keeps (s : State) (n : Nat) (page : Nat) (part : Nat) (loc : Nat) :
    (consumePoison s n page part loc).pending = s.pending ∧ (consumePoison s n page part loc).life = s.life ∧ (bytesWf s.mem.bytes = true → bytesWf (consumePoison s n page part loc).mem.bytes = true) := by
  grind [consumePoison, bump_keeps, dayFault_keeps, post_keeps]

theorem enterCopse_keeps (s : State) (n : Nat) (j : Job) (a : Alm) (c : Nat) (k : Nat) (borrow : Bool) :
    (enterCopse s n j a c k borrow).pending = s.pending ∧ (enterCopse s n j a c k borrow).life = s.life ∧ (enterCopse s n j a c k borrow).mem.bytes = s.mem.bytes := by
  grind [enterCopse, updCopse_keeps]

theorem entryFault_keeps (s : State) (n : Nat) (page : Nat) :
    (entryFault s n page).pending = s.pending ∧ (entryFault s n page).life = s.life ∧ (bytesWf s.mem.bytes = true → bytesWf (entryFault s n page).mem.bytes = true) := by
  grind [entryFault, endJob_keeps, post_keeps]

theorem loadInputs_keeps (s : State) (n : Nat) (j : Job) (a : Alm) :
    (loadInputs s n j a).pending = s.pending ∧ (loadInputs s n j a).life = s.life ∧ (bytesWf s.mem.bytes = true → bytesWf (loadInputs s n j a).mem.bytes = true) := by
  grind [loadInputs, memPaste_keeps, foldB, foldPB, KeepsB]

theorem startJob_keeps (s : State) (n : Nat) (j : Job) (a : Alm) (p : Plan) (rangers rbases : List Nat) :
    ∀ t, startJob s n j a p rangers rbases = some t → t.pending = s.pending ∧ t.life = s.life ∧
      (bytesWf s.mem.bytes = true → bytesWf t.mem.bytes = true) := by
  intro t ht
  unfold startJob at ht
  dsimp only at ht
  split at ht
  · cases ht
  · rename_i s1 pages hp
    cases ht
    refine KeepsB.trans ?_ (KeepsA.toB (restartHot_keeps _ n))
    refine KeepsB.trans ?_ (fillCopies_keeps _ n)
    refine KeepsB.trans ?_ (fillRoutes_keeps _ n)
    refine KeepsB.trans ?_ (clearSections_keeps _ n)
    refine KeepsB.trans ?_ (foldB _ (fun u i => ?_) _ _)
    · refine KeepsB.trans ?_ (loadInputs_keeps _ n _ a)
      refine KeepsB.trans ?_ (KeepsA.toB (updJob_keeps _ n _))
      refine KeepsB.trans ?_ (foldB _ (fun u pg => scramble_keeps u (locPage pg) 65536) _ _)
      refine KeepsB.trans ?_ (foldB _ (fun u x => ?_) _ _)
      · refine KeepsB.trans ?_ (foldB _ (fun u e => ?_) _ _)
        · exact KeepsB.congr (t := s1) rfl rfl rfl (takeJobPages_keeps _ _ _ _ _ _ _ hp)
        · exact KeepsA.toB (enterCopse_keeps u n _ a e.1 e.2.1 e.2.2)
      · exact KeepsB.trans (takeRegion_keeps u j.partition x.1 x.2) (scramble_keeps _ x.1 x.2)
    · cases h : loadKeys u (rangers.getD i 0) j.partition with
      | none => exact KeepsB.refl u
      | some v => exact KeepsA.toB (loadKeys_keeps _ _ _ v h)

theorem tagMismatch_keeps (s : State) (n : Nat) (page : Nat) :
    (tagMismatch s n page).pending = s.pending ∧ (tagMismatch s n page).life = s.life ∧ (bytesWf s.mem.bytes = true → bytesWf (tagMismatch s n page).mem.bytes = true) := by
  grind [tagMismatch, dayFault_keeps, post_keeps]

theorem stopWrite_keeps (s : State) (n : Nat) (page : Nat) (x3 : WriteStop) :
    (stopWrite s n page x3).pending = s.pending ∧ (stopWrite s n page x3).life = s.life ∧ (bytesWf s.mem.bytes = true → bytesWf (stopWrite s n page x3).mem.bytes = true) := by
  unfold stopWrite; grind [tagMismatch_keeps, addressFault_keeps]

theorem withdraw_keeps (s : State) (sel : Job → RowTag → Bool) :
    (withdraw s sel).pending = s.pending ∧ (withdraw s sel).life = s.life ∧ (withdraw s sel).mem.bytes = s.mem.bytes := by
  grind [withdraw]

theorem withdrawMembers_keeps (s : State) (sel : Member → Bool) :
    (withdrawMembers s sel).pending = s.pending ∧ (withdrawMembers s sel).life = s.life ∧ (withdrawMembers s sel).mem.bytes = s.mem.bytes := by
  grind [withdrawMembers, withdraw_keeps]

theorem withdrawPart_keeps (s : State) (p : Nat) :
    (withdrawPart s p).pending = s.pending ∧ (withdrawPart s p).life = s.life ∧ (withdrawPart s p).mem.bytes = s.mem.bytes := by
  grind [withdrawPart, withdraw_keeps]

end Sys2Proof.Machine
end

