-- ==== Sys2Proof/Laws/KeepsCopseOps.lean ====
section
/-! SUPPORT. What the operations of Machine/CopseOps.lean leave alone: the queue of commands, the states of the partitions,
the canonical form of memory. -/

namespace Sys2Proof.Machine

theorem columnMapFault_keeps (s : State) (n : Nat) (page : Nat) (r1 : Nat) (r2 : Nat) :
    (columnMapFault s n page r1 r2).pending = s.pending ∧ (columnMapFault s n page r1 r2).life = s.life ∧ (bytesWf s.mem.bytes = true → bytesWf (columnMapFault s n page r1 r2).mem.bytes = true) := by
  grind [columnMapFault, bump_keeps, endJob_keeps, post_keeps]

theorem recordReject_keeps (s : State) (code : Nat) (index : Nat) (kind : Nat) (unit : Nat) (part : Nat) :
    (recordReject s code index kind unit part).pending = s.pending ∧ (recordReject s code index kind unit part).life = s.life ∧ (recordReject s code index kind unit part).mem.bytes = s.mem.bytes := by
  grind [recordReject, setReg_keeps, bump_keeps]

theorem endUnbindable_keeps (s : State) (n : Nat) :
    (endUnbindable s n).pending = s.pending ∧ (endUnbindable s n).life = s.life ∧ (bytesWf s.mem.bytes = true → bytesWf (endUnbindable s n).mem.bytes = true) := by
  grind [endUnbindable, endJob_keeps, recordReject_keeps]

theorem writeHarvest_keeps (s : State) (n : Nat) (a : Alm) (k : Nat) (e : Nat) (rows : List (List Sys2Proof.Byte)) :
    (writeHarvest s n a k e rows).pending = s.pending ∧ (writeHarvest s n a k e rows).life = s.life ∧ (bytesWf s.mem.bytes = true → bytesWf (writeHarvest s n a k e rows).mem.bytes = true) := by
  grind [writeHarvest, bufPut_keeps, foldB, foldPB, KeepsB]

theorem harvest_keeps (s : State) (n : Nat) (a : Alm) (k : Nat) (e : Nat) :
    (harvest s n a k e).1.pending = s.pending ∧ (harvest s n a k e).1.life = s.life ∧ (bytesWf s.mem.bytes = true → bytesWf (harvest s n a k e).1.mem.bytes = true) := by
  grind [harvest, updCopse_keeps, writeHarvest_keeps]

theorem markSuspect_keeps (s : State) (k : Nat) (partition : Nat) :
    (markSuspect s k partition).pending = s.pending ∧ (markSuspect s k partition).life = s.life ∧ (markSuspect s k partition).mem.bytes = s.mem.bytes := by
  grind [markSuspect, setF_keeps, post_keeps]

theorem noteRebind_keeps (s : State) (n : Nat) :
    (noteRebind s n).pending = s.pending ∧ (noteRebind s n).life = s.life ∧ (noteRebind s n).mem.bytes = s.mem.bytes := by
  grind [noteRebind, updProg_keeps, updJob_keeps]

theorem moveBinding_keeps (s : State) (n : Nat) (j : Job) (a : Alm) (c : Nat) (old : Nat) (new : Nat) :
    (moveBinding s n j a c old new).pending = s.pending ∧ (moveBinding s n j a c old new).life = s.life ∧ (bytesWf s.mem.bytes = true → bytesWf (moveBinding s n j a c old new).mem.bytes = true) := by
  grind [moveBinding, noteRebind_keeps, memCopy_keeps, updCopse_keeps, leaveCopse_keeps, updJob_keeps, freeRegion_keeps, takeRegion_keeps]

theorem putReplay_keeps (s : State) (k : Nat) (c : Copse) (steps : Nat) :
    (putReplay s k c steps).pending = s.pending ∧ (putReplay s k c steps).life = s.life ∧ (putReplay s k c steps).mem.bytes = s.mem.bytes := by
  grind [putReplay, updCopse_keeps, bumpPair_keeps]

theorem moveToSpare_keeps (s : State) (k : Nat) (b : CopseBind) :
    (moveToSpare s k b).1.pending = s.pending ∧ (moveToSpare s k b).1.life = s.life ∧ (bytesWf s.mem.bytes = true → bytesWf (moveToSpare s k b).1.mem.bytes = true) := by
  unfold moveToSpare; repeat' split
  all_goals grind [bump_keeps, putReplay_keeps, bumpF_keeps, moveBinding_keeps]

theorem moveOther_keeps (s : State) (k : Nat) (n : Nat) :
    (moveOther s k n).pending = s.pending ∧ (moveOther s k n).life = s.life ∧ (bytesWf s.mem.bytes = true → bytesWf (moveOther s k n).mem.bytes = true) := by
  grind [moveOther, endUnbindable_keeps, moveToSpare_keeps, updCopse_keeps, foldB, foldPB, KeepsB]

theorem rebindCopse_keeps (s : State) (n : Nat) (k : Nat) :
    (rebindCopse s n k).pending = s.pending ∧ (rebindCopse s n k).life = s.life ∧ (bytesWf s.mem.bytes = true → bytesWf (rebindCopse s n k).mem.bytes = true) := by
  grind [rebindCopse, bump_keeps, endUnbindable_keeps, updCopse_keeps, restartDay_keeps, moveBinding_keeps]

theorem replayHarvest_keeps (s : State) (k : Nat) (h : HarvRun) (attempt : Nat) (rings : List Nat) :
    (replayHarvest s k h attempt rings).pending = s.pending ∧ (replayHarvest s k h attempt rings).life = s.life ∧ (bytesWf s.mem.bytes = true → bytesWf (replayHarvest s k h attempt rings).mem.bytes = true) := by
  grind [replayHarvest, bump_keeps, putReplay_keeps, updCopse_keeps, harvest_keeps]

end Sys2Proof.Machine
end

