-- ==== Sys2Proof/Laws/KeepsCopse.lean ====
section
/-! SUPPORT. What the operations of Machine/Copse.lean leave alone: the queue of commands, the states of the partitions,
the canonical form of memory. -/

namespace Sys2Proof.Machine

theorem endPass_keeps (s : State) (k : Nat) (p : PassRun) :
    (endPass s k p).pending = s.pending ∧ (endPass s k p).life = s.life ∧ (endPass s k p).mem.bytes = s.mem.bytes := by
  grind [endPass, bumpWrap_keeps, updCopse_keeps, traceEntry_keeps, landCal_keeps, foldA, foldPA, KeepsA]

theorem failSpare_keeps (s : State) (k : Nat) (h : HarvRun) :
    (failSpare s k h).pending = s.pending ∧ (failSpare s k h).life = s.life ∧ (bytesWf s.mem.bytes = true → bytesWf (failSpare s k h).mem.bytes = true) := by
  grind [failSpare, endJob_keeps, rebindCopse_keeps, bumpF_keeps, updJob_keeps]

theorem passTimeout_keeps (s : State) (k : Nat) (p : PassRun) :
    (passTimeout s k p).pending = s.pending ∧ (passTimeout s k p).life = s.life ∧ (bytesWf s.mem.bytes = true → bytesWf (passTimeout s k p).mem.bytes = true) := by
  grind [passTimeout, failSpare_keeps, bump_keeps, endUnbindable_keeps, markSuspect_keeps, putReplay_keeps, moveToSpare_keeps, updCopse_keeps, moveOther_keeps]

theorem toSpare_keeps (s : State) (k e : Nat) (h : HarvRun) :
    (toSpare s k e h).pending = s.pending ∧ (toSpare s k e h).life = s.life ∧
      (bytesWf s.mem.bytes = true → bytesWf (toSpare s k e h).mem.bytes = true) := by
  unfold toSpare
  dsimp only
  generalize jobPart s h.job = p
  have h0 := KeepsA.toB (markSuspect_keeps s k p)
  generalize markSuspect s k p = s0 at h0 ⊢
  generalize CopseBind.mk h.job h.cal p = b
  have h1 := KeepsB.trans h0 (moveOther_keeps s0 k h.job)
  generalize moveOther s0 k h.job = s1 at h1 ⊢
  have h2 := KeepsB.trans h1 (KeepsA.toB (updCopse_keeps s1 k fun c => { c with harv := some h }))
  generalize (updCopse s1 k fun c => { c with harv := some h }) = s2 at h2 ⊢
  have h3 := KeepsB.trans h2 (moveToSpare_keeps s2 k b)
  generalize moveToSpare s2 k b = m at h3 ⊢
  obtain ⟨s3, o⟩ := m
  cases o with
  | none => exact KeepsB.trans h3 (endUnbindable_keeps s3 h.job)
  | some x =>
    dsimp only at h3 ⊢
    cases getJob s3 h.job with
    | none => exact h3
    | some j =>
      dsimp only
      cases jobAlm s3 j with
      | none => exact h3
      | some a =>
        exact KeepsB.trans (KeepsB.trans h3 (harvest_keeps s3 h.job a x e)) (KeepsA.toB (updCopse_keeps _ x _))

theorem noteMismatch_keeps (s : State) (k : Nat) (ring : Nat) (h : HarvRun) :
    (noteMismatch s k ring h).pending = s.pending ∧ (noteMismatch s k ring h).life = s.life ∧ (noteMismatch s k ring h).mem.bytes = s.mem.bytes := by
  grind [noteMismatch, bump_keeps, setF_keeps, post_keeps, foldA, foldPA, KeepsA]

theorem mismatch_keeps (s : State) (k : Nat) (e : Nat) (h : HarvRun) :
    (mismatch s k e h).pending = s.pending ∧ (mismatch s k e h).life = s.life ∧ (bytesWf s.mem.bytes = true → bytesWf (mismatch s k e h).mem.bytes = true) := by
  grind [mismatch, failSpare_keeps, noteMismatch_keeps, replayHarvest_keeps, toSpare_keeps]

theorem execCopsePassTimeout_keeps (p : Sys2Proof.CopsePath) (s : State) :
    ∀ t, (execCopsePassTimeout p s) = .next t → t.pending = s.pending ∧ t.life = s.life ∧ (bytesWf s.mem.bytes = true → bytesWf t.mem.bytes = true) := by
  grind [execCopsePassTimeout, mismatch_keeps, bump_keeps, passTimeout_keeps]

theorem touchBuf_keeps (s : State) (n : Nat) (bn : Nat) (o : Nat) (len : Nat) (a : Alm) :
    (touchBuf s n bn o len a).pending = s.pending ∧ (touchBuf s n bn o len a).life = s.life ∧ (touchBuf s n bn o len a).mem.bytes = s.mem.bytes := by
  grind [touchBuf, bump_keeps, updGlade_keeps]

theorem inject_keeps (s : State) (k : Nat) (ring : Nat) (part : Nat) :
    (inject s k ring part).pending = s.pending ∧ (inject s k ring part).life = s.life ∧ (inject s k ring part).mem.bytes = s.mem.bytes := by
  grind [inject, updCopse_keeps, setF_keeps]

theorem stepCopse_keeps (s : State) (k : Nat) :
    (stepCopse s k).pending = s.pending ∧ (stepCopse s k).life = s.life ∧ (bytesWf s.mem.bytes = true → bytesWf (stepCopse s k).mem.bytes = true) := by
  grind [stepCopse, consumePoison_keeps, inject_keeps, endPass_keeps, updCopse_keeps, bumpPair_keeps, touchBuf_keeps]

theorem execCopseStep_keeps (p : Sys2Proof.CopsePath) (s : State) :
    ∀ t, (execCopseStep p s) = .next t → t.pending = s.pending ∧ t.life = s.life ∧ (bytesWf s.mem.bytes = true → bytesWf t.mem.bytes = true) := by
  grind [execCopseStep, stepCopse_keeps]

theorem issueCtx_keeps (s : State) (u : Sys2Proof.UnitRef) :
    (issueCtx s u).pending = s.pending ∧ (issueCtx s u).life = s.life ∧ (bytesWf s.mem.bytes = true → bytesWf (issueCtx s u).mem.bytes = true) := by
  grind [issueCtx, consumePoison_keeps, traceWhole_keeps, stepCal_keeps, updCopse_keeps, entryFault_keeps, touchBuf_keeps]

theorem execCtx_keeps (u : Sys2Proof.UnitRef) (s : State) :
    ∀ t, (execCtx u s) = .next t → t.pending = s.pending ∧ t.life = s.life ∧ (bytesWf s.mem.bytes = true → bytesWf t.mem.bytes = true) := by
  grind [execCtx, issueCtx_keeps]

theorem releaseSlot_keeps (s : State) (k : Nat) :
    (releaseSlot s k).pending = s.pending ∧ (releaseSlot s k).life = s.life ∧ (releaseSlot s k).mem.bytes = s.mem.bytes := by
  grind [releaseSlot, updCopse_keeps, bumpPair_keeps]

theorem execDawnRelease_keeps (p : Sys2Proof.CopsePath) (s : State) :
    ∀ t, (execDawnRelease p s) = .next t → t.pending = s.pending ∧ t.life = s.life ∧ t.mem.bytes = s.mem.bytes := by
  grind [execDawnRelease, releaseSlot_keeps]

theorem ringFault_keeps (s : State) (n : Nat) (k : Nat) (part : Nat) :
    (ringFault s n k part).pending = s.pending ∧ (ringFault s n k part).life = s.life ∧ (bytesWf s.mem.bytes = true → bytesWf (ringFault s n k part).mem.bytes = true) := by
  grind [ringFault, dayFault_keeps, post_keeps]

theorem issueHarv_keeps (s : State) (u : Sys2Proof.UnitRef) :
    (issueHarv s u).pending = s.pending ∧ (issueHarv s u).life = s.life ∧ (bytesWf s.mem.bytes = true → bytesWf (issueHarv s u).mem.bytes = true) := by
  unfold issueHarv; grind [launchCal_keeps, stopWrite_keeps, ringFault_keeps, updCopse_keeps, harvest_keeps, traceEntry_keeps, entryFault_keeps, columnMapFault_keeps, touchBuf_keeps]

theorem execHarv_keeps (u : Sys2Proof.UnitRef) (s : State) :
    ∀ t, (execHarv u s) = .next t → t.pending = s.pending ∧ t.life = s.life ∧ (bytesWf s.mem.bytes = true → bytesWf t.mem.bytes = true) := by
  grind [execHarv, issueHarv_keeps]

theorem passHarv_keeps (s : State) (k : Nat) (e : Nat) (h : HarvRun) :
    (passHarv s k e h).pending = s.pending ∧ (passHarv s k e h).life = s.life ∧ (passHarv s k e h).mem.bytes = s.mem.bytes := by
  grind [passHarv, setReg_keeps, bump_keeps, updCopse_keeps, setF_keeps, post_keeps, traceEntry_keeps, bumpPair_keeps, landCal_keeps]

theorem finishHarv_keeps (s : State) (k : Nat) :
    (finishHarv s k).pending = s.pending ∧ (finishHarv s k).life = s.life ∧ (bytesWf s.mem.bytes = true → bytesWf (finishHarv s k).mem.bytes = true) := by
  grind [finishHarv, mismatch_keeps, bump_keeps, passHarv_keeps]

theorem execHarvComplete_keeps (p : Sys2Proof.CopsePath) (s : State) :
    ∀ t, (execHarvComplete p s) = .next t → t.pending = s.pending ∧ t.life = s.life ∧ (bytesWf s.mem.bytes = true → bytesWf t.mem.bytes = true) := by
  grind [execHarvComplete, finishHarv_keeps]

theorem issuePass_keeps (s : State) (u : Sys2Proof.UnitRef) :
    (issuePass s u).pending = s.pending ∧ (issuePass s u).life = s.life ∧ (bytesWf s.mem.bytes = true → bytesWf (issuePass s u).mem.bytes = true) := by
  unfold issuePass; repeat' split
  all_goals grind [launchCal_keeps, ringFault_keeps, updCopse_keeps, traceEntry_keeps, entryFault_keeps, columnMapFault_keeps]

theorem execPass_keeps (u : Sys2Proof.UnitRef) (s : State) :
    ∀ t, (execPass u s) = .next t → t.pending = s.pending ∧ t.life = s.life ∧ (bytesWf s.mem.bytes = true → bytesWf t.mem.bytes = true) := by
  grind [execPass, issuePass_keeps]

end Sys2Proof.Machine
end

