-- ==== Sys2Proof/Laws/KeepsGangOps.lean ====
section
/-! SUPPORT. What the operations of Machine/GangOps.lean leave alone: the queue of commands, the states of the partitions,
the canonical form of memory. -/

namespace Sys2Proof.Machine

theorem updGang_keeps (s : State) (k : Nat) (f : Gang → Gang) :
    (updGang s k f).pending = s.pending ∧ (updGang s k f).life = s.life ∧ (updGang s k f).mem.bytes = s.mem.bytes := by
  grind [updGang]

theorem sendRank_keeps (s : State) (k : Nat) (level : Nat) (rank : Nat) :
    (sendRank s k level rank).pending = s.pending ∧ (sendRank s k level rank).life = s.life ∧ (sendRank s k level rank).mem.bytes = s.mem.bytes := by
  grind [sendRank, sendMsg_keeps]

theorem totalKnown_keeps (s : State) (k : Nat) :
    (totalKnown s k).pending = s.pending ∧ (totalKnown s k).life = s.life ∧ (totalKnown s k).mem.bytes = s.mem.bytes := by
  grind [totalKnown, sendRank_keeps, updGang_keeps, foldA, foldPA, KeepsA]

theorem redAdvance_keeps (k : Nat) (x1 : Nat) (s : State) :
    (redAdvance k x1 s).pending = s.pending ∧ (redAdvance k x1 s).life = s.life ∧ (redAdvance k x1 s).mem.bytes = s.mem.bytes := by
  fun_induction redAdvance <;> grind [sendRank_keeps, totalKnown_keeps, updGang_keeps]

theorem reduceGang_keeps (s : State) (k : Nat) :
    (reduceGang s k).pending = s.pending ∧ (reduceGang s k).life = s.life ∧ (bytesWf s.mem.bytes = true → bytesWf (reduceGang s k).mem.bytes = true) := by
  grind [reduceGang, endGang_keeps, bump_keeps, redAdvance_keeps, post_keeps, columnMapFault_keeps, updGang_keeps, foldB, foldPB, KeepsB]

theorem copyCommitted_keeps (s : State) (k : Nat) (n : Nat) :
    (copyCommitted s k n).pending = s.pending ∧ (copyCommitted s k n).life = s.life ∧ (bytesWf s.mem.bytes = true → bytesWf (copyCommitted s k n).mem.bytes = true) := by
  grind [copyCommitted, reduceGang_keeps, updGang_keeps]

theorem startCopy_keeps (s : State) (k : Nat) (n : Nat) (q : Nat) :
    (startCopy s k n q).pending = s.pending ∧ (startCopy s k n q).life = s.life ∧ (bytesWf s.mem.bytes = true → bytesWf (startCopy s k n q).mem.bytes = true) := by
  grind [startCopy, fillCopies_keeps, clearSections_keeps, restartHot_keeps, fillRoutes_keeps, updJob_keeps]

theorem startStep_keeps (s : State) (k : Nat) :
    (startStep s k).pending = s.pending ∧ (startStep s k).life = s.life ∧ (bytesWf s.mem.bytes = true → bytesWf (startStep s k).mem.bytes = true) := by
  grind [startStep, startCopy_keeps, updGang_keeps, foldB, foldPB, KeepsB]

end Sys2Proof.Machine
end

