-- ==== Sys2Proof/Laws/KeepsDayOps.lean ====
section
/-! SUPPORT. What the operations of Machine/DayOps.lean leave alone: the queue of commands, the states of the partitions,
the canonical form of memory. -/

namespace Sys2Proof.Machine

theorem freeWindow_keeps (s : State) (pgs : List Nat) :
    (freeWindow s pgs).pending = s.pending ∧ (freeWindow s pgs).life = s.life ∧ (freeWindow s pgs).mem.bytes = s.mem.bytes := by
  grind [freeWindow]

theorem updPin_keeps (s : State) (n : Nat) (i : Nat) (f : TablePin → TablePin) :
    (updPin s n i f).pending = s.pending ∧ (updPin s n i f).life = s.life ∧ (updPin s n i f).mem.bytes = s.mem.bytes := by
  grind [updPin, updJob_keeps]

theorem tabWorkPage_keeps (s : State) (n : Nat) (pin : TablePin) (pg : Nat) :
    ∀ t, (tabWorkPage s n pin pg) = some t → t.pending = s.pending ∧ t.life = s.life ∧ (bytesWf s.mem.bytes = true → bytesWf t.mem.bytes = true) := by
  unfold tabWorkPage; repeat' split
  all_goals grind [memCopy_keeps, updJob_keeps, takePage_keeps, charge_keeps]

theorem tabWrite_keeps (n : Nat) (pin : TablePin) (x2 : Nat) (s : State) (x4 : Nat) (x5 : List Sys2Proof.Byte) :
    ∀ t, (tabWrite n pin x2 s x4 x5) = some t → t.pending = s.pending ∧ t.life = s.life ∧ (bytesWf s.mem.bytes = true → bytesWf t.mem.bytes = true) := by
  fun_induction tabWrite <;> grind [memWrite_keeps, tabWorkPage_keeps, bytesWf_bWrite]

theorem swapPages_keeps (s : State) (n : Nat) :
    (swapPages s n).pending = s.pending ∧ (swapPages s n).life = s.life ∧ (swapPages s n).mem.bytes = s.mem.bytes := by
  grind [swapPages, updTable_keeps, updJob_keeps, freePages_keeps, swapPlaces_keeps, foldA, foldPA, KeepsA]

theorem endDayPins_keeps (s : State) (n : Nat) :
    (endDayPins s n).pending = s.pending ∧ (endDayPins s n).life = s.life ∧ (endDayPins s n).mem.bytes = s.mem.bytes := by
  grind [endDayPins, updJob_keeps, unpinCopy_keeps, foldA, foldPA, KeepsA]

theorem nextDawn_keeps (s : State) (n : Nat) (a : Alm) :
    (nextDawn s n a).pending = s.pending ∧ (nextDawn s n a).life = s.life ∧ (bytesWf s.mem.bytes = true → bytesWf (nextDawn s n a).mem.bytes = true) := by
  grind [nextDawn, scrambleBuf_keeps, fillCopies_keeps, traceEntry_keeps, endDayPins_keeps, updJob_keeps, foldB, foldPB, KeepsB]

theorem finishCommand_keeps (s : State) (n : Nat) (j : Job) (a : Alm) :
    (finishCommand s n j a).pending = s.pending ∧ (finishCommand s n j a).life = s.life ∧ (bytesWf s.mem.bytes = true → bytesWf (finishCommand s n j a).mem.bytes = true) := by
  grind [finishCommand, completeAt_keeps, whenDurable_keeps, answerReply_keeps, releaseJob_keeps]

theorem deliverRoutes_keeps (s : State) (n : Nat) (j : Job) (a : Alm) (p : RowPlan) :
    (deliverRoutes s n j a p).pending = s.pending ∧ (deliverRoutes s n j a p).life = s.life ∧ (bytesWf s.mem.bytes = true → bytesWf (deliverRoutes s n j a p).mem.bytes = true) := by
  grind [deliverRoutes, updIndex_keeps, pagesWrite_keeps, bumpPair_keeps, foldB, foldPB, KeepsB]

theorem finishJob_keeps (s : State) (n : Nat) (j : Job) (a : Alm) :
    (finishJob s n j a).pending = s.pending ∧ (finishJob s n j a).life = s.life ∧ (bytesWf s.mem.bytes = true → bytesWf (finishJob s n j a).mem.bytes = true) := by
  grind [finishJob, deliverRoutes_keeps, updJob_keeps, copyCommitted_keeps, finishCommand_keeps, releaseJob_keeps]

theorem commitSegs_keeps (s : State) (n : Nat) :
    (commitSegs s n).pending = s.pending ∧ (commitSegs s n).life = s.life ∧ (commitSegs s n).mem.bytes = s.mem.bytes := by
  grind [commitSegs, updJob_keeps, foldA, foldPA, KeepsA]

theorem passHeld_keeps (s : State) (n : Nat) :
    (passHeld s n).pending = s.pending ∧ (passHeld s n).life = s.life ∧ (passHeld s n).mem.bytes = s.mem.bytes := by
  grind [passHeld, writeNow_keeps, updJob_keeps, mapSet_keeps, foldA, foldPA, KeepsA]

theorem passEntry_keeps (s : State) (u : Sys2Proof.UnitRef) (x : Issue) :
    (passEntry s u x).pending = s.pending ∧ (passEntry s u x).life = s.life ∧ (passEntry s u x).mem.bytes = s.mem.bytes := by
  grind [passEntry, stepCal_keeps, traceEntry_keeps]

theorem haltCal_keeps (s : State) (u : Sys2Proof.UnitRef) (x : Issue) (h : Halt) :
    (haltCal s u x h).pending = s.pending ∧ (haltCal s u x h).life = s.life ∧ (haltCal s u x h).mem.bytes = s.mem.bytes := by
  grind [haltCal, traceEntry_keeps, updCal_keeps]

theorem issueDay_keeps (s : State) (u : Sys2Proof.UnitRef) :
    (issueDay s u).pending = s.pending ∧ (issueDay s u).life = s.life ∧ (issueDay s u).mem.bytes = s.mem.bytes := by
  grind [issueDay, haltCal_keeps]

theorem issueFence_keeps (s : State) (u : Sys2Proof.UnitRef) :
    (issueFence s u).pending = s.pending ∧ (issueFence s u).life = s.life ∧ (issueFence s u).mem.bytes = s.mem.bytes := by
  grind [issueFence, passEntry_keeps, haltCal_keeps]

theorem issuePut_keeps (s : State) (u : Sys2Proof.UnitRef) :
    (issuePut s u).pending = s.pending ∧ (issuePut s u).life = s.life ∧ (issuePut s u).mem.bytes = s.mem.bytes := by
  grind [issuePut, traceWhole_keeps, stepCal_keeps, updJob_keeps]

theorem issueTake_keeps (s : State) (u : Sys2Proof.UnitRef) :
    (issueTake s u).pending = s.pending ∧ (issueTake s u).life = s.life ∧ (issueTake s u).mem.bytes = s.mem.bytes := by
  grind [issueTake, passEntry_keeps, haltCal_keeps, updJob_keeps]

theorem issueWait_keeps (s : State) (u : Sys2Proof.UnitRef) :
    (issueWait s u).pending = s.pending ∧ (issueWait s u).life = s.life ∧ (issueWait s u).mem.bytes = s.mem.bytes := by
  grind [issueWait, passEntry_keeps, haltCal_keeps]

theorem writeHome_keeps (s : State) (n : Nat) (pin : TablePin) (t0 : Table) (r : Nat) (row : List Sys2Proof.Byte) :
    ∀ t, (writeHome s n pin t0 r row) = some t → t.pending = s.pending ∧ t.life = s.life ∧ (bytesWf s.mem.bytes = true → bytesWf t.mem.bytes = true) := by
  grind [writeHome, tabWrite_keeps, bytesWf_bWrite]

theorem writeBackHot_keeps (s : State) (n : Nat) :
    ∀ t, writeBackHot s n = some t → t.pending = s.pending ∧ t.life = s.life ∧
      (bytesWf s.mem.bytes = true → bytesWf t.mem.bytes = true) := by
  intro t h
  unfold writeBackHot at h
  split at h
  · cases h; exact KeepsB.refl s
  · refine foldOptB _ (fun _ => rfl) (fun u x v hv => ?_) _ _ t h
    dsimp only at hv
    split at hv
    · cases hv; exact KeepsB.refl u
    · refine foldOptB _ (fun _ => rfl) (fun w y z hz => ?_) _ _ v hv
      unfold KeepsB
      grind [writeHome_keeps, updPin_keeps, bump_keeps]

theorem commitDay_keeps (s : State) (n : Nat) (j : Job) (a : Alm) :
    (commitDay s n j a).pending = s.pending ∧ (commitDay s n j a).life = s.life ∧ (bytesWf s.mem.bytes = true → bytesWf (commitDay s n j a).mem.bytes = true) := by
  unfold commitDay; repeat' split
  all_goals grind [consumePoison_keeps, updProg_keeps, passHeld_keeps, commitSegs_keeps, endJob_keeps, finishJob_keeps, nextDawn_keeps, updJob_keeps, bumpPair_keeps, swapPages_keeps, writeBackHot_keeps, freeWindow_keeps]

theorem fillWaits_keeps (s : State) (n : Nat) (b : Nat) :
    (fillWaits s n b).pending = s.pending ∧ (fillWaits s n b).life = s.life ∧ (bytesWf s.mem.bytes = true → bytesWf (fillWaits s n b).mem.bytes = true) := by
  unfold fillWaits; dsimp only; repeat' (first | (refine foldB _ (fun u x => ?_) _ _; unfold KeepsB; try dsimp only) | split)
  all_goals grind [endJob_keeps, passEntry_keeps, post_keeps, foldB, foldPB, KeepsB]

end Sys2Proof.Machine
end

