-- ==== Sys2Proof/Laws/KeepsMoverOps.lean ====
section
/-! SUPPORT. What the operations of Machine/MoverOps.lean leave alone: the queue of commands, the states of the partitions,
the canonical form of memory. -/

namespace Sys2Proof.Machine

theorem accessRange_keeps (s : State) (asker : Nat) (waiter : Nat) (p : Nat) (off : Nat) (len : Nat) :
    (accessRange s asker waiter p off len).pending = s.pending ∧ (accessRange s asker waiter p off len).life = s.life ∧ (accessRange s asker waiter p off len).mem.bytes = s.mem.bytes := by
  grind [accessRange, startAccess_keeps, foldA, foldPA, KeepsA]

theorem dropWindow_keeps (s : State) (k : Nat) :
    (dropWindow s k).pending = s.pending ∧ (dropWindow s k).life = s.life ∧ (dropWindow s k).mem.bytes = s.mem.bytes := by
  grind [dropWindow, credit_keeps]

theorem roomFor3_keeps (part : Nat) (n : Nat) (x2 : Nat) (s : State) :
    ∀ t, (roomFor3 part n x2 s) = some t → t.pending = s.pending ∧ t.life = s.life ∧ t.mem.bytes = s.mem.bytes := by
  fun_induction roomFor3 <;> grind [bump_keeps, dropCopy_keeps]

theorem makeResident_keeps (s : State) (owner : Nat) (page : Nat) (part : Nat) (pf : Option Nat) :
    ∀ t, (makeResident s owner page part pf) = some t → t.pending = s.pending ∧ t.life = s.life ∧ (bytesWf s.mem.bytes = true → bytesWf t.mem.bytes = true) := by
  grind [makeResident, roomFor3_keeps, bump_keeps, takePage_keeps, memPaste_keeps, charge_keeps]

theorem putSeg_keeps (s : State) (n : Nat) (b : Nat) (seg : Nat) (e : Nat) :
    (putSeg s n b seg e).pending = s.pending ∧ (putSeg s n b seg e).life = s.life ∧ (putSeg s n b seg e).mem.bytes = s.mem.bytes := by
  grind [putSeg, updJob_keeps]

theorem moveCompress_keeps (s : State) (n : Nat) (sn : Nat) (sb : BufDef) (so : Nat) (dn : Nat) (db : BufDef) (d : Nat) (len : Nat) :
    (moveCompress s n sn sb so dn db d len).pending = s.pending ∧ (moveCompress s n sn sb so dn db d len).life = s.life ∧ (bytesWf s.mem.bytes = true → bytesWf (moveCompress s n sn sb so dn db d len).mem.bytes = true) := by
  grind [moveCompress, bufWrite_keeps, bufPut_keeps, bumpPair_keeps, putSeg_keeps, foldB, foldPB, KeepsB]

theorem moveDecompress_keeps (s : State) (n : Nat) (sn : Nat) (sb : BufDef) (so : Nat) (dn : Nat) (db : BufDef) (d : Nat) (len : Nat) :
    (moveDecompress s n sn sb so dn db d len).pending = s.pending ∧ (moveDecompress s n sn sb so dn db d len).life = s.life ∧ (bytesWf s.mem.bytes = true → bytesWf (moveDecompress s n sn sb so dn db d len).mem.bytes = true) := by
  grind [moveDecompress, bufWrite_keeps, bufPut_keeps, foldB, foldPB, KeepsB]

theorem roomForWindow_keeps (part : Nat) (x1 : Nat) (s : State) :
    ∀ t, (roomForWindow part x1 s) = some t → t.pending = s.pending ∧ t.life = s.life ∧ t.mem.bytes = s.mem.bytes := by
  fun_induction roomForWindow <;> grind [bump_keeps, dropWindow_keeps]

theorem readCopy_keeps (s : State) (n : Nat) (owner : Nat) (page : Nat) :
    (readCopy s n owner page).pending = s.pending ∧ (readCopy s n owner page).life = s.life ∧ (readCopy s n owner page).mem.bytes = s.mem.bytes := by
  grind [readCopy, unpinCopy_keeps]

theorem residePages_keeps (s : State) (n : Nat) (part : Nat) (b : BufDef) (o : Nat) (len : Nat) :
    (residePages s n part b o len).pending = s.pending ∧ (residePages s n part b o len).life = s.life ∧ (bytesWf s.mem.bytes = true → bytesWf (residePages s n part b o len).mem.bytes = true) := by
  grind [residePages, bump_keeps, readCopy_keeps, makeResident_keeps, foldB, foldPB, KeepsB]

theorem windowPlace_keeps (s : State) (g : Nat) :
    ∀ t x, windowPlace s g = some (t, x) → t.pending = s.pending ∧ t.life = s.life ∧ t.mem.bytes = s.mem.bytes := by
  intro t x h
  unfold windowPlace at h
  dsimp only at h
  split at h
  · cases h; exact ⟨rfl, rfl, rfl⟩
  · split at h
    · cases h
    · rw [Option.map_eq_some_iff] at h
      grind [dropWindow_keeps, bump_keeps]

theorem promote_keeps (s : State) (g part pg : Nat) :
    (promote s g part pg).pending = s.pending ∧ (promote s g part pg).life = s.life ∧
      (bytesWf s.mem.bytes = true → bytesWf (promote s g part pg).mem.bytes = true) := by
  unfold promote
  dsimp only
  split
  · split <;> grind [bump_keeps]
  · split
    · grind
    · split
      · grind
      · split
        · grind [bump_keeps]
        · rename_i h
          rw [Option.bind_eq_some_iff] at h
          obtain ⟨u, hu, hw⟩ := h
          have h1 := roomForWindow_keeps _ _ _ _ hu
          have h2 := windowPlace_keeps _ _ _ _ hw
          grind [bump_keeps, memCopy_keeps, charge_keeps]

end Sys2Proof.Machine
end

