-- ==== Sys2Proof/Laws/KeepsMovers.lean ====
section
/-! SUPPORT. What the operations of Machine/Movers.lean leave alone: the queue of commands, the states of the partitions,
the canonical form of memory. -/

namespace Sys2Proof.Machine

theorem beginFill_keeps (s : State) (n : Nat) (m : MoveEntry) (db : BufDef) :
    (beginFill s n m db).pending = s.pending ∧ (beginFill s n m db).life = s.life ∧ (beginFill s n m db).mem.bytes = s.mem.bytes := by
  grind [beginFill, updJob_keeps]

theorem copyMove_keeps (s : State) (n : Nat) (m : MoveEntry) (sb : BufDef) (db : BufDef) :
    (copyMove s n m sb db).pending = s.pending ∧ (copyMove s n m sb db).life = s.life ∧ (bytesWf s.mem.bytes = true → bytesWf (copyMove s n m sb db).mem.bytes = true) := by
  grind [copyMove, moveCompress_keeps, bufWrite_keeps, moveDecompress_keeps]

theorem pinRead_keeps (s : State) (n : Nat) (waiter : Nat) (m : MoveEntry) (sb : BufDef) (x : Extent) :
    (pinRead s n waiter m sb x).pending = s.pending ∧ (pinRead s n waiter m sb x).life = s.life ∧ (pinRead s n waiter m sb x).mem.bytes = s.mem.bytes := by
  grind [pinRead, updJob_keeps, foldA, foldPA, KeepsA]

theorem useSlots_keeps (s : State) (n : Nat) (m : MoveEntry) :
    (useSlots s n m).pending = s.pending ∧ (useSlots s n m).life = s.life ∧ (useSlots s n m).mem.bytes = s.mem.bytes := by
  grind [useSlots, updJob_keeps]

theorem promoteRead_keeps (s : State) (x : Issue) (m : MoveEntry) (sb : BufDef) :
    (promoteRead s x m sb).pending = s.pending ∧ (promoteRead s x m sb).life = s.life ∧ (bytesWf s.mem.bytes = true → bytesWf (promoteRead s x m sb).mem.bytes = true) := by
  grind [promoteRead, promote_keeps, foldB, foldPB, KeepsB]

theorem startMove_keeps (s : State) (u : Sys2Proof.UnitRef) (x : Issue) (m : MoveEntry) (sb : BufDef) (db : BufDef) :
    (startMove s u x m sb db).pending = s.pending ∧ (startMove s u x m sb db).life = s.life ∧ (bytesWf s.mem.bytes = true → bytesWf (startMove s u x m sb db).mem.bytes = true) := by
  grind [startMove, copyMove_keeps, launchCal_keeps, promoteRead_keeps, useSlots_keeps, beginFill_keeps, pinRead_keeps, accessRange_keeps, traceEntry_keeps, touchBuf_keeps]

theorem issueMove_keeps (s : State) (u : Sys2Proof.UnitRef) :
    (issueMove s u).pending = s.pending ∧ (issueMove s u).life = s.life ∧ (bytesWf s.mem.bytes = true → bytesWf (issueMove s u).mem.bytes = true) := by
  grind [issueMove, tagMismatch_keeps, bump_keeps, stopWrite_keeps, dayFault_keeps, entryFault_keeps, addressFault_keeps, startMove_keeps]

theorem execMove_keeps (u : Sys2Proof.UnitRef) (s : State) :
    ∀ t, (execMove u s) = .next t → t.pending = s.pending ∧ t.life = s.life ∧ (bytesWf s.mem.bytes = true → bytesWf t.mem.bytes = true) := by
  grind [execMove, issueMove_keeps]

theorem landRead_keeps (s : State) (n : Nat) (waiter : Nat) (m : MoveEntry) (sb : BufDef) (db : BufDef) (x : Extent) :
    (landRead s n waiter m sb db x).pending = s.pending ∧ (landRead s n waiter m sb db x).life = s.life ∧ (bytesWf s.mem.bytes = true → bytesWf (landRead s n waiter m sb db x).mem.bytes = true) := by
  grind [landRead, copyMove_keeps, bufWrite_keeps, updJob_keeps, unpinCopy_keeps, bytesWf_bZero, foldB, foldPB, KeepsB]

theorem finishMove_keeps (s : State) (u : Sys2Proof.UnitRef) :
    (finishMove s u).pending = s.pending ∧ (finishMove s u).life = s.life ∧ (bytesWf s.mem.bytes = true → bytesWf (finishMove s u).mem.bytes = true) := by
  unfold finishMove; repeat' split
  all_goals grind [residePages_keeps, traceEntry_keeps, updJob_keeps, landCal_keeps, landRead_keeps]

theorem execMoveComplete_keeps (u : Sys2Proof.UnitRef) (s : State) :
    ∀ t, (execMoveComplete u s) = .next t → t.pending = s.pending ∧ t.life = s.life ∧ (bytesWf s.mem.bytes = true → bytesWf t.mem.bytes = true) := by
  grind [execMoveComplete, finishMove_keeps]

theorem prefetchSlot_keeps (s : State) (n : Nat) (bn : Nat) (slot : Nat) (tagOk : Bool) (plain : List Sys2Proof.Byte) (seq : Nat) :
    (prefetchSlot s n bn slot tagOk plain seq).pending = s.pending ∧ (prefetchSlot s n bn slot tagOk plain seq).life = s.life ∧ (prefetchSlot s n bn slot tagOk plain seq).mem.bytes = s.mem.bytes := by
  grind [prefetchSlot, updJob_keeps]

theorem execOffloadSlotPrefetch_keeps (job : Nat) (buffer : Nat) (slot : Nat) (tagOk : Bool) (plain : List Sys2Proof.Byte) (seq : Nat) (s : State) :
    ∀ t, (execOffloadSlotPrefetch job buffer slot tagOk plain seq s) = .next t → t.pending = s.pending ∧ t.life = s.life ∧ t.mem.bytes = s.mem.bytes := by
  grind [execOffloadSlotPrefetch, prefetchSlot_keeps]

end Sys2Proof.Machine
end

