-- ==== Sys2Proof/Laws/KeepsSorter.lean ====
section
/-! SUPPORT. What the operations of Machine/Sorter.lean leave alone: the queue of commands, the states of the partitions,
the canonical form of memory. -/

namespace Sys2Proof.Machine

theorem outOfRange_keeps (s : State) (j : Job) (page : Nat) (table : Nat) (rows : Nat) (l : List Nat) :
    (outOfRange s j page table rows l).pending = s.pending ∧ (outOfRange s j page table rows l).life = s.life ∧ (outOfRange s j page table rows l).mem.bytes = s.mem.bytes := by
  grind [outOfRange, bump_keeps, post_keeps]

theorem issueGather_keeps (s : State) (u : Sys2Proof.UnitRef) :
    (issueGather s u).pending = s.pending ∧ (issueGather s u).life = s.life ∧ (bytesWf s.mem.bytes = true → bytesWf (issueGather s u).mem.bytes = true) := by
  grind [issueGather, consumePoison_keeps, bump_keeps, outOfRange_keeps, stopWrite_keeps, stepCal_keeps, bufPut_keeps, traceEntry_keeps, entryFault_keeps, touchBuf_keeps, foldB, foldPB, KeepsB]

theorem execGather_keeps (u : Sys2Proof.UnitRef) (s : State) :
    ∀ t, (execGather u s) = .next t → t.pending = s.pending ∧ t.life = s.life ∧ (bytesWf s.mem.bytes = true → bytesWf t.mem.bytes = true) := by
  grind [execGather, issueGather_keeps]

theorem issuePermute_keeps (s : State) (u : Sys2Proof.UnitRef) :
    (issuePermute s u).pending = s.pending ∧ (issuePermute s u).life = s.life ∧ (bytesWf s.mem.bytes = true → bytesWf (issuePermute s u).mem.bytes = true) := by
  grind [issuePermute, consumePoison_keeps, stepCal_keeps, bufPut_keeps, traceEntry_keeps, entryFault_keeps, columnMapFault_keeps, foldB, foldPB, KeepsB]

theorem execPermute_keeps (u : Sys2Proof.UnitRef) (s : State) :
    ∀ t, (execPermute u s) = .next t → t.pending = s.pending ∧ t.life = s.life ∧ (bytesWf s.mem.bytes = true → bytesWf t.mem.bytes = true) := by
  grind [execPermute, issuePermute_keeps]

theorem routeDrops_keeps (s : State) (n : Nat) (page : Nat) (drops : Nat) :
    (routeDrops s n page drops).pending = s.pending ∧ (routeDrops s n page drops).life = s.life ∧ (routeDrops s n page drops).mem.bytes = s.mem.bytes := by
  grind [routeDrops, bump_keeps, post_keeps, updJob_keeps]

theorem issueRegroup_keeps (s : State) (u : Sys2Proof.UnitRef) :
    (issueRegroup s u).pending = s.pending ∧ (issueRegroup s u).life = s.life ∧ (bytesWf s.mem.bytes = true → bytesWf (issueRegroup s u).mem.bytes = true) := by
  grind [issueRegroup, consumePoison_keeps, stepCal_keeps, bufPut_keeps, traceEntry_keeps, routeDrops_keeps, entryFault_keeps, foldB, foldPB, KeepsB]

theorem execRegroup_keeps (u : Sys2Proof.UnitRef) (s : State) :
    ∀ t, (execRegroup u s) = .next t → t.pending = s.pending ∧ t.life = s.life ∧ (bytesWf s.mem.bytes = true → bytesWf t.mem.bytes = true) := by
  grind [execRegroup, issueRegroup_keeps]

theorem returnColumn_keeps (s : State) (n : Nat) (j : Job) (opt : Nat) (p : PermLine) (sb : BufDef) (it : RowItem) (src : List Sys2Proof.Byte) (c : Nat) (w : Nat) :
    (returnColumn s n j opt p sb it src c w).pending = s.pending ∧ (returnColumn s n j opt p sb it src c w).life = s.life ∧ (bytesWf s.mem.bytes = true → bytesWf (returnColumn s n j opt p sb it src c w).mem.bytes = true) := by
  grind [returnColumn, bufPut_keeps, foldB, foldPB, KeepsB]

theorem issueReturn_keeps (s : State) (u : Sys2Proof.UnitRef) :
    (issueReturn s u).pending = s.pending ∧ (issueReturn s u).life = s.life ∧ (bytesWf s.mem.bytes = true → bytesWf (issueReturn s u).mem.bytes = true) := by
  grind [issueReturn, consumePoison_keeps, returnColumn_keeps, stepCal_keeps, traceEntry_keeps, entryFault_keeps, columnMapFault_keeps, foldB, foldPB, KeepsB]

theorem execReturnColumns_keeps (u : Sys2Proof.UnitRef) (s : State) :
    ∀ t, (execReturnColumns u s) = .next t → t.pending = s.pending ∧ t.life = s.life ∧ (bytesWf s.mem.bytes = true → bytesWf t.mem.bytes = true) := by
  grind [execReturnColumns, issueReturn_keeps]

theorem issueRouteSelect_keeps (s : State) (u : Sys2Proof.UnitRef) :
    (issueRouteSelect s u).pending = s.pending ∧ (issueRouteSelect s u).life = s.life ∧ (bytesWf s.mem.bytes = true → bytesWf (issueRouteSelect s u).mem.bytes = true) := by
  grind [issueRouteSelect, consumePoison_keeps, stepCal_keeps, bufPut_keeps, traceEntry_keeps, routeDrops_keeps, entryFault_keeps]

theorem execRouteSelect_keeps (u : Sys2Proof.UnitRef) (s : State) :
    ∀ t, (execRouteSelect u s) = .next t → t.pending = s.pending ∧ t.life = s.life ∧ (bytesWf s.mem.bytes = true → bytesWf t.mem.bytes = true) := by
  grind [execRouteSelect, issueRouteSelect_keeps]

theorem issueTranspose_keeps (s : State) (u : Sys2Proof.UnitRef) :
    (issueTranspose s u).pending = s.pending ∧ (issueTranspose s u).life = s.life ∧ (bytesWf s.mem.bytes = true → bytesWf (issueTranspose s u).mem.bytes = true) := by
  grind [issueTranspose, consumePoison_keeps, bump_keeps, stepCal_keeps, bufPut_keeps, traceEntry_keeps, updJob_keeps, entryFault_keeps, foldB, foldPB, KeepsB]

theorem execSlotTranspose_keeps (u : Sys2Proof.UnitRef) (s : State) :
    ∀ t, (execSlotTranspose u s) = .next t → t.pending = s.pending ∧ t.life = s.life ∧ (bytesWf s.mem.bytes = true → bytesWf t.mem.bytes = true) := by
  grind [execSlotTranspose, issueTranspose_keeps]

theorem writeRow_keeps (s : State) (n : Nat) (i : Nat) (t0 : Table) (r : Nat) (row : List Sys2Proof.Byte) :
    ∀ t, (writeRow s n i t0 r row) = some t → t.pending = s.pending ∧ t.life = s.life ∧ (bytesWf s.mem.bytes = true → bytesWf t.mem.bytes = true) := by
  intro t ht
  unfold writeRow at ht
  try dsimp only at ht
  repeat' split at ht
  all_goals try simp only [Option.some.injEq, reduceCtorEq, Prod.mk.injEq, Option.map_eq_some_iff, Option.bind_eq_some_iff] at ht
  all_goals grind [writeHome_keeps, updPin_keeps]

theorem issueScatter_keeps (s : State) (u : UnitRef) :
    (issueScatter s u).pending = s.pending ∧ (issueScatter s u).life = s.life ∧
      (bytesWf s.mem.bytes = true → bytesWf (issueScatter s u).mem.bytes = true) := by
  unfold issueScatter
  split
  · exact KeepsB.refl s
  · dsimp only
    split
    · exact KeepsB.refl s
    · split
      · split
        · exact KeepsB.refl s
        · split
          · exact consumePoison_keeps ..
          · split
            · exact endJob_keeps ..
            · rename_i h
              refine KeepsB.trans (t := outOfRange (traceEntry s u _ 0) _ _ _ _ _) (KeepsA.toB ?_) (KeepsB.trans (foldOptB _ (fun _ => rfl) (fun w y z hz => ?_) _ _ _ h) (KeepsA.toB ?_))
              · unfold KeepsA; grind [outOfRange_keeps, traceEntry_keeps]
              · dsimp only at hz
                rw [Option.map_eq_some_iff] at hz
                obtain ⟨s1, h1, rfl⟩ := hz
                have := writeRow_keeps _ _ _ _ _ _ _ h1
                unfold KeepsB; grind [bump_keeps]
              · unfold KeepsA; grind [stepCal_keeps, traceEntry_keeps]
      · exact entryFault_keeps ..

theorem execScatter_keeps (u : Sys2Proof.UnitRef) (s : State) :
    ∀ t, (execScatter u s) = .next t → t.pending = s.pending ∧ t.life = s.life ∧ (bytesWf s.mem.bytes = true → bytesWf t.mem.bytes = true) := by
  grind [execScatter, issueScatter_keeps]

end Sys2Proof.Machine
end

