-- ==== Sys2Proof/Laws/KeepsVectorUnit.lean ====
section
/-! SUPPORT. What the operations of Machine/VectorUnit.lean leave alone: the queue of commands, the states of the partitions,
the canonical form of memory. -/

namespace Sys2Proof.Machine

theorem issueRng_keeps (s : State) (u : Sys2Proof.UnitRef) :
    (issueRng s u).pending = s.pending ∧ (issueRng s u).life = s.life ∧ (bytesWf s.mem.bytes = true → bytesWf (issueRng s u).mem.bytes = true) := by
  grind [issueRng, consumePoison_keeps, stopWrite_keeps, stepCal_keeps, bufPut_keeps, traceEntry_keeps, entryFault_keeps, updGlade_keeps, updCal_keeps]

theorem execRng_keeps (u : Sys2Proof.UnitRef) (s : State) :
    ∀ t, (execRng u s) = .next t → t.pending = s.pending ∧ t.life = s.life ∧ (bytesWf s.mem.bytes = true → bytesWf t.mem.bytes = true) := by
  grind [execRng, issueRng_keeps]

theorem issueVec_keeps (s : State) (u : Sys2Proof.UnitRef) :
    (issueVec s u).pending = s.pending ∧ (issueVec s u).life = s.life ∧ (bytesWf s.mem.bytes = true → bytesWf (issueVec s u).mem.bytes = true) := by
  show KeepsB s (issueVec s u)
  unfold issueVec; (try dsimp only)
  repeat' (first | with_reducible exact KeepsB.refl _ | assumption | with_reducible refine KeepsB.peel (consumePoison_keeps ..) ?_ | with_reducible refine KeepsB.peelA (bump_keeps ..) ?_ | with_reducible refine KeepsB.peel (stopWrite_keeps ..) ?_ | with_reducible refine KeepsB.peelA (stepCal_keeps ..) ?_ | with_reducible refine KeepsB.peel (bufPut_keeps ..) ?_ | with_reducible refine KeepsB.peelA (traceEntry_keeps ..) ?_ | with_reducible refine KeepsB.peel (entryFault_keeps ..) ?_ | with_reducible refine KeepsB.peel (columnMapFault_keeps ..) ?_ | with_reducible refine KeepsB.peelA (updGlade_keeps ..) ?_ | with_reducible refine KeepsB.peelA (touchBuf_keeps ..) ?_ | with_reducible refine KeepsB.peelA (updCal_keeps ..) ?_ | split)
  all_goals unfold KeepsB
  all_goals grind [consumePoison_keeps, bump_keeps, stopWrite_keeps, stepCal_keeps, bufPut_keeps, traceEntry_keeps, entryFault_keeps, columnMapFault_keeps, updGlade_keeps, touchBuf_keeps, updCal_keeps]

theorem execVec_keeps (u : Sys2Proof.UnitRef) (s : State) :
    ∀ t, (execVec u s) = .next t → t.pending = s.pending ∧ t.life = s.life ∧ (bytesWf s.mem.bytes = true → bytesWf t.mem.bytes = true) := by
  grind [execVec, issueVec_keeps]

end Sys2Proof.Machine
end

