-- ==== Sys2Proof/Laws/KeepsRegOps.lean ====
section
/-! SUPPORT. What the operations of Machine/RegOps.lean leave alone: the queue of commands, the states of the partitions,
the canonical form of memory. -/

namespace Sys2Proof.Machine

theorem clearCause_keeps (s : State) (page : Nat) (v : Sys2Proof.Word) :
    (clearCause s page v).pending = s.pending ∧ (clearCause s page v).life = s.life ∧ (clearCause s page v).mem.bytes = s.mem.bytes := by
  grind [clearCause, setReg_keeps]

theorem clearErrors_keeps (s : State) (page : Nat) :
    (clearErrors s page).pending = s.pending ∧ (clearErrors s page).life = s.life ∧ (clearErrors s page).mem.bytes = s.mem.bytes := by
  grind [clearErrors, setReg_keeps]

theorem forceEvents_keeps (s : State) (page : Nat) (v : Sys2Proof.Word) :
    (forceEvents s page v).pending = s.pending ∧ (forceEvents s page v).life = s.life ∧ (forceEvents s page v).mem.bytes = s.mem.bytes := by
  grind [forceEvents, postFlags_keeps, foldA, foldPA, KeepsA]

theorem readBy_keeps (s : State) (r : Sys2Proof.Requester) (a : Nat) :
    (readBy s r a).1.pending = s.pending ∧ (readBy s r a).1.life = s.life ∧ (readBy s r a).1.mem.bytes = s.mem.bytes := by
  grind [readBy]

theorem writeFields_keeps (s : State) (p : PageInst) (a : Nat) (fs : List FieldRow) (v : Sys2Proof.Word) :
    (writeFields s p a fs v).pending = s.pending ∧ (writeFields s p a fs v).life = s.life ∧ (writeFields s p a fs v).mem.bytes = s.mem.bytes := by
  grind [writeFields, setReg_keeps, refuse_keeps, foldA, foldPA, KeepsA]

theorem writeLimit_keeps (s : State) (p : PageInst) (a : Nat) (v : Sys2Proof.Word) :
    (writeLimit s p a v).pending = s.pending ∧ (writeLimit s p a v).life = s.life ∧ (writeLimit s p a v).mem.bytes = s.mem.bytes := by
  grind [writeLimit, setReg_keeps, post_keeps, refuse_keeps]

theorem writeSusp_keeps (s : State) (a : Nat) (v : Sys2Proof.Word) :
    (writeSusp s a v).pending = s.pending ∧ (writeSusp s a v).life = s.life ∧ (writeSusp s a v).mem.bytes = s.mem.bytes := by
  grind [writeSusp, setReg_keeps, post_keeps, refuse_keeps]

theorem reach_keeps (s : State) (r : Requester) (a : Nat) (v : Word) (k : PageInst → State) :
    reach s r a v k = s ∨ (∃ b w, reach s r a v k = refuse s b w) ∨ ∃ p, reach s r a v k = k p := by
  unfold reach
  split
  · exact .inl rfl
  · split
    · exact .inr (.inl ⟨_, _, rfl⟩)
    · split
      · exact .inr (.inl ⟨_, _, rfl⟩)
      · exact .inr (.inr ⟨_, rfl⟩)

theorem reach_peelA {s : State} {r : Requester} {a : Nat} {v : Word} {k : PageInst → State} (h : ∀ p, KeepsA s (k p)) :
    KeepsA s (reach s r a v k) := by
  rcases reach_keeps s r a v k with e | ⟨b, w, e⟩ | ⟨p, e⟩ <;> rw [e]
  · exact KeepsA.refl s
  · exact refuse_keeps ..
  · exact h p

theorem reach_peelB {s : State} {r : Requester} {a : Nat} {v : Word} {k : PageInst → State} (h : ∀ p, KeepsB s (k p)) :
    KeepsB s (reach s r a v k) := by
  rcases reach_keeps s r a v k with e | ⟨b, w, e⟩ | ⟨p, e⟩ <;> rw [e]
  · exact KeepsB.refl s
  · exact KeepsA.toB (refuse_keeps ..)
  · exact h p

theorem reach_peelC {s : State} {r : Requester} {a : Nat} {v : Word} {k : PageInst → State} (h : ∀ p, KeepsC s (k p)) :
    KeepsC s (reach s r a v k) := by
  rcases reach_keeps s r a v k with e | ⟨b, w, e⟩ | ⟨p, e⟩ <;> rw [e]
  · exact KeepsC.refl s
  · exact KeepsC.peelA (refuse_keeps ..) (KeepsC.refl s)
  · exact h p

end Sys2Proof.Machine
end

