-- ==== Sys2Proof/Laws/KeepsTables.lean ====
section
/-! SUPPORT. What the operations of Machine/Tables.lean leave alone: the queue of commands, the states of the partitions,
the canonical form of memory. -/

namespace Sys2Proof.Machine

theorem clearStaged_keeps (s : State) :
    (clearStaged s).pending = s.pending ∧ (clearStaged s).life = s.life ∧ (clearStaged s).mem.bytes = s.mem.bytes := by
  grind [clearStaged, updTable_keeps]

theorem deleteCmd_keeps (s : State) (q : Req) :
    (deleteCmd s q).1.pending = s.pending ∧ (deleteCmd s q).1.life = s.life ∧ (deleteCmd s q).1.mem.bytes = s.mem.bytes := by
  grind [deleteCmd, done_keeps, shrinkTable_keeps, guards_keeps, fail_keeps]

theorem discardCmd_keeps (s : State) (q : Req) :
    (discardCmd s q).1.pending = s.pending ∧ (discardCmd s q).1.life = s.life ∧ (discardCmd s q).1.mem.bytes = s.mem.bytes := by
  grind [discardCmd, done_keeps, guards_keeps, discardTable_keeps, fail_keeps]

theorem reconcileJob_keeps (s : State) (n : Nat) (h : Nat) (t : Table) :
    (reconcileJob s n h t).pending = s.pending ∧ (reconcileJob s n h t).life = s.life ∧ (reconcileJob s n h t).mem.bytes = s.mem.bytes := by
  grind [reconcileJob, bump_keeps, updJob_keeps]

theorem refreshHot_keeps (s : State) (k : Nat) :
    (refreshHot s k).pending = s.pending ∧ (refreshHot s k).life = s.life ∧ (refreshHot s k).mem.bytes = s.mem.bytes := by
  grind [refreshHot, reconcileJob_keeps, foldA, foldPA, KeepsA]

theorem execHotRefreshInterval_keeps (partition : Nat) (table : Nat) (s : State) :
    ∀ t, (execHotRefreshInterval partition table s) = .next t → t.pending = s.pending ∧ t.life = s.life ∧ t.mem.bytes = s.mem.bytes := by
  grind [execHotRefreshInterval, refreshHot_keeps]

theorem execHotRowCopyLanded_keeps (job : Nat) (table : Nat) (row : Nat) (s : State) :
    ∀ t, (execHotRowCopyLanded job table row s) = .next t → t.pending = s.pending ∧ t.life = s.life ∧ t.mem.bytes = s.mem.bytes := by
  grind [execHotRowCopyLanded, bump_keeps, updPin_keeps]

theorem execHotRowWritebackLanded_keeps (job : Nat) (table : Nat) (row : Nat) (s : State) :
    ∀ t, (execHotRowWritebackLanded job table row s) = .next t → t.pending = s.pending ∧ t.life = s.life ∧ (bytesWf s.mem.bytes = true → bytesWf t.mem.bytes = true) := by
  unfold execHotRowWritebackLanded; repeat' split
  all_goals grind [endJob_keeps, writeHome_keeps, updPin_keeps]

theorem execTableDelete_keeps (c : Sys2Proof.Cmd) (o : Sys2Proof.Opened) (s : State) :
    ∀ t, (execTableDelete c o s) = .next t → t.pending = s.pending ∧ t.life = s.life ∧ (bytesWf s.mem.bytes = true → bytesWf t.mem.bytes = true) := by
  unfold execTableDelete runForm; split
  · refine runSealed_keeps (fun u q => ?_)
    grind [deleteCmd_keeps]
  · grind

theorem execTableDiscard_keeps (c : Sys2Proof.Cmd) (o : Sys2Proof.Opened) (s : State) :
    ∀ t, (execTableDiscard c o s) = .next t → t.pending = s.pending ∧ t.life = s.life ∧ (bytesWf s.mem.bytes = true → bytesWf t.mem.bytes = true) := by
  unfold execTableDiscard runForm; split
  · refine runSealed_keeps (fun u q => ?_)
    grind [discardCmd_keeps]
  · grind

theorem installCmd_keeps (s : State) (q : Req) :
    (installCmd s q).1.pending = s.pending ∧ (installCmd s q).1.life = s.life ∧ (installCmd s q).1.mem.bytes = s.mem.bytes := by
  grind [installCmd, installTable_keeps, done_keeps, bump_keeps, guards_keeps, fail_keeps]

theorem execTableInstall_keeps (c : Sys2Proof.Cmd) (o : Sys2Proof.Opened) (s : State) :
    ∀ t, (execTableInstall c o s) = .next t → t.pending = s.pending ∧ t.life = s.life ∧ (bytesWf s.mem.bytes = true → bytesWf t.mem.bytes = true) := by
  unfold execTableInstall runForm; split
  · refine runSealed_keeps (fun u q => ?_)
    grind [installCmd_keeps]
  · grind

theorem stageRow_keeps (s : State) (v : Sys2Proof.Word) :
    (stageRow s v).pending = s.pending ∧ (stageRow s v).life = s.life ∧ (stageRow s v).mem.bytes = s.mem.bytes := by
  grind [stageRow, updTable_keeps, refuse_keeps]

theorem lookup_keeps (s : State) (q : Req) :
    (lookup s q).1.pending = s.pending ∧ (lookup s q).1.life = s.life ∧ (lookup s q).1.mem.bytes = s.mem.bytes := by
  grind [lookup, bump_keeps, answerReply_keeps, post_keeps, guards_keeps, fail_keeps]

theorem execVzLookup_keeps (c : Sys2Proof.Cmd) (o : Sys2Proof.Opened) (s : State) :
    ∀ t, (execVzLookup c o s) = .next t → t.pending = s.pending ∧ t.life = s.life ∧ (bytesWf s.mem.bytes = true → bytesWf t.mem.bytes = true) := by
  unfold execVzLookup
  refine runSealed_keeps (fun u q => ?_)
  grind [lookup_keeps]

theorem createTable_keeps (s : State) (q : Req) :
    (createTable s q).1.pending = s.pending ∧ (createTable s q).1.life = s.life ∧ (bytesWf s.mem.bytes = true → bytesWf (createTable s q).1.mem.bytes = true) := by
  show KeepsB s (createTable s q).1
  unfold createTable; (try dsimp only)
  repeat' (first | with_reducible exact KeepsB.refl _ | assumption | refine KeepsB.guarded ?_ ?_ | with_reducible refine KeepsB.peelA (done_keeps ..) ?_ | with_reducible refine KeepsB.peel (startBuilding_keeps _ _ _ _ _ (by assumption)) ?_ | with_reducible refine KeepsB.peelA (guards_keeps ..) ?_ | with_reducible refine KeepsB.peelA (fail_keeps ..) ?_ | split)
  all_goals try with_reducible refine KeepsB.mk rfl ?_
  all_goals repeat' (first | with_reducible exact KeepsB.refl _ | assumption | refine KeepsB.guarded ?_ ?_ | with_reducible refine KeepsB.peelA (done_keeps ..) ?_ | with_reducible refine KeepsB.peel (startBuilding_keeps _ _ _ _ _ (by assumption)) ?_ | with_reducible refine KeepsB.peelA (guards_keeps ..) ?_ | with_reducible refine KeepsB.peelA (fail_keeps ..) ?_ | split)
  all_goals unfold KeepsB
  all_goals grind [done_keeps, startBuilding_keeps, guards_keeps, fail_keeps]

theorem execTableCreate_keeps (c : Sys2Proof.Cmd) (o : Sys2Proof.Opened) (s : State) :
    ∀ t, (execTableCreate c o s) = .next t → t.pending = s.pending ∧ t.life = s.life ∧ (bytesWf s.mem.bytes = true → bytesWf t.mem.bytes = true) := by
  unfold execTableCreate runForm; split
  · refine runSealed_keeps (fun u q => ?_)
    grind [createTable_keeps]
  · grind

theorem loadTable_keeps (s : State) (q : Req) :
    (loadTable s q).1.pending = s.pending ∧ (loadTable s q).1.life = s.life ∧ (bytesWf s.mem.bytes = true → bytesWf (loadTable s q).1.mem.bytes = true) := by
  show KeepsB s (loadTable s q).1
  unfold loadTable; (try dsimp only)
  repeat' (first | with_reducible exact KeepsB.refl _ | assumption | refine KeepsB.guarded ?_ ?_ | with_reducible refine KeepsB.peelA (done_keeps ..) ?_ | with_reducible refine KeepsB.peel (startBuilding_keeps _ _ _ _ _ (by assumption)) ?_ | with_reducible refine KeepsB.peel (writeBuild_keeps _ _ _ _ _ _ (by assumption)) ?_ | with_reducible refine KeepsB.peelA (guards_keeps ..) ?_ | with_reducible refine KeepsB.peelA (fail_keeps ..) ?_ | split)
  all_goals try with_reducible refine KeepsB.mk rfl ?_
  all_goals repeat' (first | with_reducible exact KeepsB.refl _ | assumption | refine KeepsB.guarded ?_ ?_ | with_reducible refine KeepsB.peelA (done_keeps ..) ?_ | with_reducible refine KeepsB.peel (startBuilding_keeps _ _ _ _ _ (by assumption)) ?_ | with_reducible refine KeepsB.peel (writeBuild_keeps _ _ _ _ _ _ (by assumption)) ?_ | with_reducible refine KeepsB.peelA (guards_keeps ..) ?_ | with_reducible refine KeepsB.peelA (fail_keeps ..) ?_ | split)
  all_goals unfold KeepsB
  all_goals grind [done_keeps, startBuilding_keeps, writeBuild_keeps, guards_keeps, fail_keeps]

theorem execTableLoad_keeps (c : Sys2Proof.Cmd) (o : Sys2Proof.Opened) (s : State) :
    ∀ t, (execTableLoad c o s) = .next t → t.pending = s.pending ∧ t.life = s.life ∧ (bytesWf s.mem.bytes = true → bytesWf t.mem.bytes = true) := by
  unfold execTableLoad runForm; split
  · refine runSealed_keeps (fun u q => ?_)
    grind [loadTable_keeps]
  · grind

theorem execTblHotApply_keeps (r : Sys2Proof.Requester) (s : State) :
    ∀ t, (execTblHotApply r s) = .next t → t.pending = s.pending ∧ t.life = s.life ∧ t.mem.bytes = s.mem.bytes := by
  intro t ht
  show KeepsA s t
  unfold execTblHotApply at ht
  try dsimp only at ht
  repeat' split at ht
  all_goals try simp only [Option.some.injEq, reduceCtorEq, Prod.mk.injEq, Host.Outcome.next.injEq] at ht
  all_goals try obtain ⟨ht, -⟩ := ht
  all_goals try subst ht
  all_goals repeat' (first | with_reducible exact KeepsA.refl _ | assumption | refine reach_peelA (fun _ => ?_) | with_reducible refine KeepsA.peel (reach_keeps ..) ?_ | with_reducible refine KeepsA.peel (refreshHot_keeps ..) ?_ | split)
  all_goals try with_reducible refine KeepsA.mk rfl ?_
  all_goals repeat' (first | with_reducible exact KeepsA.refl _ | assumption | refine reach_peelA (fun _ => ?_) | with_reducible refine KeepsA.peel (reach_keeps ..) ?_ | with_reducible refine KeepsA.peel (refreshHot_keeps ..) ?_ | split)
  all_goals unfold KeepsA
  all_goals grind [reach_keeps, refreshHot_keeps]

theorem execTblHotClear_keeps (r : Sys2Proof.Requester) (s : State) :
    ∀ t, (execTblHotClear r s) = .next t → t.pending = s.pending ∧ t.life = s.life ∧ t.mem.bytes = s.mem.bytes := by
  intro t ht
  show KeepsA s t
  unfold execTblHotClear at ht
  try dsimp only at ht
  repeat' split at ht
  all_goals try simp only [Option.some.injEq, reduceCtorEq, Prod.mk.injEq, Host.Outcome.next.injEq] at ht
  all_goals try obtain ⟨ht, -⟩ := ht
  all_goals try subst ht
  all_goals repeat' (first | with_reducible exact KeepsA.refl _ | assumption | refine reach_peelA (fun _ => ?_) | with_reducible refine KeepsA.peel (reach_keeps ..) ?_ | with_reducible refine KeepsA.peel (clearStaged_keeps ..) ?_ | split)
  all_goals try with_reducible refine KeepsA.mk rfl ?_
  all_goals repeat' (first | with_reducible exact KeepsA.refl _ | assumption | refine reach_peelA (fun _ => ?_) | with_reducible refine KeepsA.peel (reach_keeps ..) ?_ | with_reducible refine KeepsA.peel (clearStaged_keeps ..) ?_ | split)
  all_goals unfold KeepsA
  all_goals grind [reach_keeps, clearStaged_keeps]

theorem execTblHotRowWrite_keeps (r : Sys2Proof.Requester) (row : Sys2Proof.Word) (s : State) :
    ∀ t, (execTblHotRowWrite r row s) = .next t → t.pending = s.pending ∧ t.life = s.life ∧ t.mem.bytes = s.mem.bytes := by
  intro t ht
  show KeepsA s t
  unfold execTblHotRowWrite at ht
  try dsimp only at ht
  repeat' split at ht
  all_goals try simp only [Option.some.injEq, reduceCtorEq, Prod.mk.injEq, Host.Outcome.next.injEq] at ht
  all_goals try obtain ⟨ht, -⟩ := ht
  all_goals try subst ht
  all_goals repeat' (first | with_reducible exact KeepsA.refl _ | assumption | refine reach_peelA (fun _ => ?_) | with_reducible refine KeepsA.peel (stageRow_keeps ..) ?_ | with_reducible refine KeepsA.peel (reach_keeps ..) ?_ | split)
  all_goals try with_reducible refine KeepsA.mk rfl ?_
  all_goals repeat' (first | with_reducible exact KeepsA.refl _ | assumption | refine reach_peelA (fun _ => ?_) | with_reducible refine KeepsA.peel (stageRow_keeps ..) ?_ | with_reducible refine KeepsA.peel (reach_keeps ..) ?_ | split)
  all_goals unfold KeepsA
  all_goals grind [stageRow_keeps, reach_keeps]

end Sys2Proof.Machine
end

