-- ==== Sys2Proof/Laws/KeepsAlmanacs.lean ====
section
/-! SUPPORT. What the operations of Machine/Almanacs.lean leave alone: the queue of commands, the states of the partitions,
the canonical form of memory. -/

namespace Sys2Proof.Machine

theorem rejectCmd_keeps (s : State) (part : Nat) (r : Reject) :
    (rejectCmd s part r).1.pending = s.pending ∧ (rejectCmd s part r).1.life = s.life ∧ (rejectCmd s part r).1.mem.bytes = s.mem.bytes := by
  grind [rejectCmd, failDw_keeps, recordReject_keeps]

theorem keepAlmanac_keeps (s : State) (a : Alm) :
    (keepAlmanac s a).1.pending = s.pending ∧ (keepAlmanac s a).1.life = s.life ∧ (bytesWf s.mem.bytes = true → bytesWf (keepAlmanac s a).1.mem.bytes = true) := by
  grind [keepAlmanac, done_keeps, rejectCmd_keeps, pagesWrite_keeps, bump_keeps, allocPages_keeps]

theorem loadAlmanac_keeps (s : State) (q : Req) :
    (loadAlmanac s q).1.pending = s.pending ∧ (loadAlmanac s q).1.life = s.life ∧ (bytesWf s.mem.bytes = true → bytesWf (loadAlmanac s q).1.mem.bytes = true) := by
  grind [loadAlmanac, rejectCmd_keeps, keepAlmanac_keeps, guards_keeps, fail_keeps]

theorem execAlmanacLoad_keeps (c : Sys2Proof.Cmd) (s : State) :
    ∀ t, (execAlmanacLoad c s) = .next t → t.pending = s.pending ∧ t.life = s.life ∧ (bytesWf s.mem.bytes = true → bytesWf t.mem.bytes = true) := by
  unfold execAlmanacLoad runForm; split
  · refine runPlain_keeps (fun u q => ?_)
    grind [loadAlmanac_keeps]
  · grind

theorem unloadAlmanac_keeps (s : State) (q : Req) :
    (unloadAlmanac s q).1.pending = s.pending ∧ (unloadAlmanac s q).1.life = s.life ∧ (unloadAlmanac s q).1.mem.bytes = s.mem.bytes := by
  grind [unloadAlmanac, done_keeps, rejectCmd_keeps, releasePages_keeps, guards_keeps, fail_keeps]

theorem execAlmanacUnload_keeps (c : Sys2Proof.Cmd) (s : State) :
    ∀ t, (execAlmanacUnload c s) = .next t → t.pending = s.pending ∧ t.life = s.life ∧ (bytesWf s.mem.bytes = true → bytesWf t.mem.bytes = true) := by
  unfold execAlmanacUnload runForm; split
  · refine runPlain_keeps (fun u q => ?_)
    grind [unloadAlmanac_keeps]
  · grind

end Sys2Proof.Machine
end

