-- ==== Sys2Proof/Laws/KeepsResidence.lean ====
section
/-! SUPPORT. What the operations of Machine/Residence.lean leave alone: the queue of commands, the states of the partitions,
the canonical form of memory. -/

namespace Sys2Proof.Machine

theorem evictWindow_keeps (s : State) (k : Nat) :
    (evictWindow s k).pending = s.pending ∧ (evictWindow s k).life = s.life ∧ (evictWindow s k).mem.bytes = s.mem.bytes := by
  grind [evictWindow, bump_keeps, dropWindow_keeps, charge_keeps, credit_keeps]

theorem dropBankWindow_keeps (s : State) (g : Nat) (bank : Nat) :
    (dropBankWindow s g bank).pending = s.pending ∧ (dropBankWindow s g bank).life = s.life ∧ (dropBankWindow s g bank).mem.bytes = s.mem.bytes := by
  grind [dropBankWindow, evictWindow_keeps, foldA, foldPA, KeepsA]

theorem zeroBank_keeps (s : State) (g : Nat) (bank : Nat) :
    (zeroBank s g bank).pending = s.pending ∧ (zeroBank s g bank).life = s.life ∧ (bytesWf s.mem.bytes = true → bytesWf (zeroBank s g bank).mem.bytes = true) := by
  grind [zeroBank, memZero_keeps, bytesWf_filter]

theorem applyRetire_keeps (s : State) (g : Nat) (n : Nat) :
    (applyRetire s g n).pending = s.pending ∧ (applyRetire s g n).life = s.life ∧ (bytesWf s.mem.bytes = true → bytesWf (applyRetire s g n).mem.bytes = true) := by
  grind [applyRetire, zeroBank_keeps, setF_keeps, updGlade_keeps, dropBankWindow_keeps]

theorem changeWindow_keeps (s : State) (g : Nat) :
    (changeWindow s g).pending = s.pending ∧ (changeWindow s g).life = s.life ∧ (bytesWf s.mem.bytes = true → bytesWf (changeWindow s g).mem.bytes = true) := by
  grind [changeWindow, evictWindow_keeps, setF_keeps, memZero_keeps, foldB, foldPB, KeepsB]

theorem evictCopy_keeps (s : State) (k : Nat) :
    (evictCopy s k).pending = s.pending ∧ (evictCopy s k).life = s.life ∧ (evictCopy s k).mem.bytes = s.mem.bytes := by
  grind [evictCopy, bump_keeps, dropCopy_keeps, charge_keeps, credit_keeps]

theorem execBankRetirement_keeps (g : Sys2Proof.GladePath) (s : State) :
    ∀ t, (execBankRetirement g s) = .next t → t.pending = s.pending ∧ t.life = s.life ∧ (bytesWf s.mem.bytes = true → bytesWf t.mem.bytes = true) := by
  grind [execBankRetirement, applyRetire_keeps, updGlade_keeps, foldB, foldPB, KeepsB]

theorem execDeferredEviction_keeps (page : Nat) (s : State) :
    ∀ t, (execDeferredEviction page s) = .next t → t.pending = s.pending ∧ t.life = s.life ∧ t.mem.bytes = s.mem.bytes := by
  grind [execDeferredEviction, bump_keeps, dropWindow_keeps, dropCopy_keeps]

theorem execIdleRetentionEntry_keeps (g : Sys2Proof.GladePath) (bank : Nat) (s : State) :
    ∀ t, (execIdleRetentionEntry g bank s) = .next t → t.pending = s.pending ∧ t.life = s.life ∧ t.mem.bytes = s.mem.bytes := by
  grind [execIdleRetentionEntry, updGlade_keeps]

theorem execMigWinChange_keeps (g : Sys2Proof.GladePath) (s : State) :
    ∀ t, (execMigWinChange g s) = .next t → t.pending = s.pending ∧ t.life = s.life ∧ (bytesWf s.mem.bytes = true → bytesWf t.mem.bytes = true) := by
  grind [execMigWinChange, changeWindow_keeps]

theorem writeWindow_keeps (s : State) (g : Nat) (v : Sys2Proof.Word) :
    (writeWindow s g v).pending = s.pending ∧ (writeWindow s g v).life = s.life ∧ (writeWindow s g v).mem.bytes = s.mem.bytes := by
  grind [writeWindow, setF_keeps, refuse_keeps]

theorem execMigWinReqWrite_keeps (r : Sys2Proof.Requester) (g : Sys2Proof.GladePath) (value : Sys2Proof.Word) (s : State) :
    ∀ t, (execMigWinReqWrite r g value s) = .next t → t.pending = s.pending ∧ t.life = s.life ∧ t.mem.bytes = s.mem.bytes := by
  intro t ht
  show KeepsA s t
  unfold execMigWinReqWrite at ht
  try dsimp only at ht
  repeat' split at ht
  all_goals try simp only [Option.some.injEq, reduceCtorEq, Prod.mk.injEq, Host.Outcome.next.injEq] at ht
  all_goals try obtain ⟨ht, -⟩ := ht
  all_goals try subst ht
  all_goals repeat' (first | with_reducible exact KeepsA.refl _ | assumption | refine reach_peelA (fun _ => ?_) | with_reducible refine KeepsA.peel (writeWindow_keeps ..) ?_ | with_reducible refine KeepsA.peel (reach_keeps ..) ?_ | split)
  all_goals try with_reducible refine KeepsA.mk rfl ?_
  all_goals repeat' (first | with_reducible exact KeepsA.refl _ | assumption | refine reach_peelA (fun _ => ?_) | with_reducible refine KeepsA.peel (writeWindow_keeps ..) ?_ | with_reducible refine KeepsA.peel (reach_keeps ..) ?_ | split)
  all_goals unfold KeepsA
  all_goals grind [writeWindow_keeps, reach_keeps]

theorem prefetchStep_keeps (s : State) (n : Nat) :
    (prefetchStep s n).pending = s.pending ∧ (prefetchStep s n).life = s.life ∧ (bytesWf s.mem.bytes = true → bytesWf (prefetchStep s n).mem.bytes = true) := by
  unfold prefetchStep; grind [bump_keeps, makeResident_keeps, updJob_keeps]

theorem execPrefetch_keeps (job : Nat) (s : State) :
    ∀ t, (execPrefetch job s) = .next t → t.pending = s.pending ∧ t.life = s.life ∧ (bytesWf s.mem.bytes = true → bytesWf t.mem.bytes = true) := by
  grind [execPrefetch, prefetchStep_keeps]

theorem pendRetire_keeps (s : State) (g : Nat) (n : Nat) :
    (pendRetire s g n).pending = s.pending ∧ (pendRetire s g n).life = s.life ∧ (pendRetire s g n).mem.bytes = s.mem.bytes := by
  grind [pendRetire, updGlade_keeps]

theorem retireCopseBank_keeps (s : State) (q : Req) :
    (retireCopseBank s q).1.pending = s.pending ∧ (retireCopseBank s q).1.life = s.life ∧ (retireCopseBank s q).1.mem.bytes = s.mem.bytes := by
  grind [retireCopseBank, done_keeps, pendRetire_keeps, guards_keeps, fail_keeps]

theorem execRetireCopseScratchBank_keeps (c : Sys2Proof.Cmd) (s : State) :
    ∀ t, (execRetireCopseScratchBank c s) = .next t → t.pending = s.pending ∧ t.life = s.life ∧ (bytesWf s.mem.bytes = true → bytesWf t.mem.bytes = true) := by
  unfold execRetireCopseScratchBank runForm; split
  · refine runPlain_keeps (fun u q => ?_)
    grind [retireCopseBank_keeps]
  · grind

theorem retireBank_keeps (s : State) (q : Req) :
    (retireBank s q).1.pending = s.pending ∧ (retireBank s q).1.life = s.life ∧ (retireBank s q).1.mem.bytes = s.mem.bytes := by
  grind [retireBank, done_keeps, pendRetire_keeps, guards_keeps, fail_keeps]

theorem execRetireGladeBank_keeps (c : Sys2Proof.Cmd) (s : State) :
    ∀ t, (execRetireGladeBank c s) = .next t → t.pending = s.pending ∧ t.life = s.life ∧ (bytesWf s.mem.bytes = true → bytesWf t.mem.bytes = true) := by
  unfold execRetireGladeBank runForm; split
  · refine runPlain_keeps (fun u q => ?_)
    grind [retireBank_keeps]
  · grind

theorem markRetired_keeps (s : State) (p : Nat) :
    (markRetired s p).pending = s.pending ∧ (markRetired s p).life = s.life ∧ (markRetired s p).mem.bytes = s.mem.bytes := by
  grind [markRetired, bumpF_keeps]

theorem renamePage_keeps (s : State) (old : Nat) (new : Nat) :
    (renamePage s old new).pending = s.pending ∧ (renamePage s old new).life = s.life ∧ (renamePage s old new).mem.bytes = s.mem.bytes := by
  grind [renamePage]

theorem retirePage_keeps (s : State) (p : Nat) :
    ∀ t, (retirePage s p) = some t → t.pending = s.pending ∧ t.life = s.life ∧ (bytesWf s.mem.bytes = true → bytesWf t.mem.bytes = true) := by
  grind [retirePage, renamePage_keeps, memCopy_keeps, takePage_keeps, markRetired_keeps, swapPlaces_keeps]

theorem retireStack_keeps (s : State) (q : Req) :
    (retireStack s q).1.pending = s.pending ∧ (retireStack s q).1.life = s.life ∧ (bytesWf s.mem.bytes = true → bytesWf (retireStack s q).1.mem.bytes = true) := by
  grind [retireStack, done_keeps, retirePage_keeps, guards_keeps, fail_keeps]

theorem execRetireStackPage_keeps (c : Sys2Proof.Cmd) (s : State) :
    ∀ t, (execRetireStackPage c s) = .next t → t.pending = s.pending ∧ t.life = s.life ∧ (bytesWf s.mem.bytes = true → bytesWf t.mem.bytes = true) := by
  unfold execRetireStackPage runForm; split
  · refine runPlain_keeps (fun u q => ?_)
    grind [retireStack_keeps]
  · grind

end Sys2Proof.Machine
end

