-- ==== Sys2Proof/Laws/KeepsSessionOps.lean ====
section
/-! SUPPORT. What the operations of Machine/SessionOps.lean leave alone: the queue of commands, the states of the partitions,
the canonical form of memory. -/

namespace Sys2Proof.Machine

theorem noteRead_keeps (s : State) (sqid : Nat) (cid : Nat) :
    (noteRead s sqid cid).pending = s.pending ∧ (noteRead s sqid cid).life = s.life ∧ (noteRead s sqid cid).mem.bytes = s.mem.bytes := by
  grind [noteRead, updProg_keeps]

theorem cutSearch_keeps (s : State) (k : Nat) (st : Status) :
    (cutSearch s k st).pending = s.pending ∧ (cutSearch s k st).life = s.life ∧ (cutSearch s k st).mem.bytes = s.mem.bytes := by
  grind [cutSearch, endSearch_keeps, withdraw_keeps]

theorem abortAt_keeps (s : State) (sqid : Nat) (cid : Nat) (st : Status) :
    (abortAt s sqid cid st).pending = s.pending ∧ (abortAt s sqid cid st).life = s.life ∧ (bytesWf s.mem.bytes = true → bytesWf (abortAt s sqid cid st).mem.bytes = true) := by
  grind [abortAt, completeAt_keeps, endGang_keeps, endJob_keeps, cutSearch_keeps, dropAccess_keeps, noteRead_keeps]

theorem abortAll_keeps (s : State) (sel : Outstanding → Bool) (st : Status) :
    (abortAll s sel st).pending = s.pending ∧ (abortAll s sel st).life = s.life ∧ (bytesWf s.mem.bytes = true → bytesWf (abortAll s sel st).mem.bytes = true) := by
  grind [abortAll, abortAt_keeps, foldB, foldPB, KeepsB]

theorem closeSession_keeps (s : State) (p : Nat) (n : Nat) :
    (closeSession s p n).pending = s.pending ∧ (closeSession s p n).life = s.life ∧ (bytesWf s.mem.bytes = true → bytesWf (closeSession s p n).mem.bytes = true) := by
  grind [closeSession, updPart_keeps, abortAll_keeps, withdrawMembers_keeps]

theorem closeSessions_keeps (s : State) (p : Nat) (l : List Nat) :
    (closeSessions s p l).pending = s.pending ∧ (closeSessions s p l).life = s.life ∧ (bytesWf s.mem.bytes = true → bytesWf (closeSessions s p l).mem.bytes = true) := by
  grind [closeSessions, closeSession_keeps, foldB, foldPB, KeepsB]

theorem evidenceRecord_keeps (s : State) (p : Nat) (reason : Nat) (nonce : List Sys2Proof.Byte) :
    (evidenceRecord s p reason nonce).1.pending = s.pending ∧ (evidenceRecord s p reason nonce).1.life = s.life ∧ (evidenceRecord s p reason nonce).1.mem.bytes = s.mem.bytes := by
  grind [evidenceRecord, bump_keeps]

theorem evidence_keeps (s : State) (q : Req) :
    (evidence s q).1.pending = s.pending ∧ (evidence s q).1.life = s.life ∧ (evidence s q).1.mem.bytes = s.mem.bytes := by
  unfold evidence; repeat' split
  all_goals grind [evidenceRecord_keeps, guards_keeps, fail_keeps]

theorem execEvidence_keeps (c : Sys2Proof.Cmd) (s : State) :
    ∀ t, (execEvidence c s) = .next t → t.pending = s.pending ∧ t.life = s.life ∧ (bytesWf s.mem.bytes = true → bytesWf t.mem.bytes = true) := by
  unfold execEvidence
  refine runPlain_keeps (fun u q => ?_)
  grind [evidence_keeps]

end Sys2Proof.Machine
end

