-- ==== Sys2Proof/Laws/Maps.lean ====
section
/-! SUPPORT. Reading after writing: in the finite maps, in the byte stores, in the register file and its fields. -/

namespace Sys2Proof.Machine

theorem aGet?_aPut {α : Type} (m : AMap α) (k : Nat) (v : α) (j : Nat) :
    aGet? (aPut m k v) j = if j = k then some v else aGet? m j := by
  induction m with
  | nil => simp only [aPut, aGet?]; grind
  | cons a r ih =>
    obtain ⟨i, w⟩ := a
    simp only [aPut]
    split
    · simp only [aGet?]; grind
    · split
      · simp only [aGet?]; grind
      · simp only [aGet?, ih]; grind

theorem aGet?_aDel {α : Type} (m : AMap α) (k : Nat) (j : Nat) :
    aGet? (aDel m k) j = if j = k then none else aGet? m j := by
  induction m with
  | nil => simp [aDel, aGet?]
  | cons a r ih =>
    obtain ⟨i, w⟩ := a
    simp only [aDel, List.filter_cons] at *
    by_cases h : i = k
    · subst h; simp only [bne_self_eq_false, Bool.false_eq_true, if_false, ih, aGet?]; grind
    · simp only [bne_iff_ne, ne_eq, h, not_false_eq_true, if_true, aGet?, ih]; grind

theorem aGet?_aUpd {α : Type} (m : AMap α) (k : Nat) (f : α → α) (j : Nat) :
    aGet? (aUpd m k f) j = if j = k then (aGet? m j).map f else aGet? m j := by
  induction m with
  | nil => simp [aUpd, aGet?]
  | cons a r ih =>
    obtain ⟨i, w⟩ := a
    simp only [aUpd, List.map_cons] at *
    by_cases h : i = k
    · subst h; simp only [if_true, aGet?, ih]; grind
    · simp only [h, if_false, aGet?, ih]; grind

theorem aGetD_aPut {α : Type} (m : AMap α) (k : Nat) (v : α) (j : Nat) (d : α) :
    aGetD (aPut m k v) j d = if j = k then v else aGetD m j d := by
  unfold aGetD; rw [aGet?_aPut]; split <;> rfl

theorem aGetD_aDel {α : Type} (m : AMap α) (k : Nat) (j : Nat) (d : α) :
    aGetD (aDel m k) j d = if j = k then d else aGetD m j d := by
  unfold aGetD; rw [aGet?_aDel]; split <;> rfl

/-- A byte written is read again; every other byte reads as before. -/
theorem bGet_bPut (m : Bytes) (a : Nat) (b : Byte) (x : Nat) : bGet (bPut m a b) x = if x = a then b else bGet m x := by
  unfold bGet bPut
  split
  · rw [aGetD_aDel]; grind
  · rw [aGetD_aPut]

/-- Bytes written from an address on are read there; every other byte reads as before. -/
theorem bGet_bWrite (m : Bytes) (a : Nat) (l : List Byte) (x : Nat) :
    bGet (bWrite m a l) x = if a ≤ x ∧ x < a + l.length then l.getD (x - a) 0 else bGet m x := by
  induction l generalizing m a with
  | nil => simp [bWrite]
  | cons b r ih =>
    simp only [bWrite, ih, bGet_bPut, List.length_cons]
    by_cases h : x = a
    · subst h; simp
    · by_cases h2 : a + 1 ≤ x ∧ x < a + 1 + r.length
      · have e : x - a = (x - (a + 1)) + 1 := by omega
        rw [if_pos h2, if_pos (by omega), e, List.getD_cons_succ]
      · rw [if_neg h2, if_neg h, if_neg (by omega)]

theorem aGet?_filter_key {α : Type} (m : AMap α) (p : Nat → Bool) (j : Nat) :
    aGet? (m.filter fun e => p e.1) j = if p j then aGet? m j else none := by
  induction m with
  | nil => simp [aGet?]
  | cons a r ih =>
    obtain ⟨i, w⟩ := a
    simp only [List.filter_cons]
    split <;> simp only [aGet?, ih] <;> grind

/-- A range that was zeroed reads zero; every other byte reads as before. -/
theorem bGet_bZero (m : Bytes) (a n x : Nat) : bGet (bZero m a n) x = if a ≤ x ∧ x < a + n then 0 else bGet m x := by
  unfold bGet aGetD bZero
  rw [aGet?_filter_key m fun k => !(a ≤ k && k < a + n)]
  split <;> simp_all <;> grind

theorem aGet?_filter_ne {α : Type} (m : AMap α) (p : Nat × α → Bool) (j : Nat) (h : ∀ v, p (j, v) = true) :
    aGet? (m.filter p) j = aGet? m j := by
  induction m with
  | nil => rfl
  | cons a t ih =>
    obtain ⟨i, v⟩ := a
    simp only [List.filter_cons]
    split <;> simp only [aGet?, ih] <;> grind

theorem aGet?_none {α : Type} (m : AMap α) (k : Nat) (h : ∀ e ∈ m, e.1 ≠ k) : aGet? m k = none := by
  induction m with
  | nil => rfl
  | cons a t ih =>
    obtain ⟨i, v⟩ := a
    simp only [aGet?]
    rw [if_neg (h (i, v) (by simp)), ih fun e he => h e (by simp [he])]

theorem aGet?_filter_put {α : Type} (p : Nat × α → Bool) (k : Nat) (w : α) (m : AMap α) (h : ∀ e ∈ m, e.1 ≠ k) :
    aGet? ((aPut m k w).filter p) k = if p (k, w) then some w else none := by
  induction m with
  | nil => simp only [aPut, List.filter_cons, List.filter_nil]; split <;> simp [aGet?]
  | cons a t ih =>
    obtain ⟨i, v⟩ := a
    have h1 : i ≠ k := h (i, v) (by simp)
    have h2 : ∀ e ∈ t, e.1 ≠ k := fun e he => h e (by simp [he])
    have h3 : aGet? (((i, v) :: t).filter p) k = none :=
      aGet?_none _ k fun e he => h e (List.mem_filter.mp he).1
    simp only [aPut]
    split
    · rw [List.filter_cons]
      split
      · simp [aGet?]
      · exact h3
    · rw [if_neg fun e => h1 e.symm, List.filter_cons]
      split
      · simp only [aGet?, if_neg h1]; exact ih h2
      · exact ih h2

theorem aGet?_regPut (m : AMap Word) (a : Nat) (w : Word) (b : Nat) :
    aGet? (regPut m a w) b = if b = a then (if w = resetWord a then none else some w) else aGet? m b := by
  unfold regPut
  split
  · rename_i h; subst h
    rw [aGet?_filter_put _ _ _ _ (fun e he => by simpa using (List.mem_filter.mp he).2)]
    by_cases h : w = resetWord b <;> simp [h]
  · rename_i h
    rw [aGet?_filter_ne _ _ _ (fun v => by simp [h]), aGet?_aPut, if_neg h, aGet?_aDel, if_neg h]

/-- A register written holds the word written; every other register holds what it held. -/
theorem regGet_setReg (s : State) (a : Nat) (w : Word) (b : Nat) :
    regGet (setReg s a w) b = if b = a then w else regGet s b := by
  unfold regGet setReg aGetD
  rw [aGet?_regPut]
  split
  · rename_i h; subst h
    by_cases h : w = resetWord b <;> simp [h]
  · rfl

theorem bitsOf_lt (n hi lo : Nat) : bitsOf n hi lo < 2 ^ (hi + 1 - lo) := Nat.mod_lt _ (by positivity)

theorem putBits_eq (w hi lo v : Nat) : putBits w hi lo v =
    2 ^ (lo + (hi + 1 - lo)) * (w / 2 ^ (lo + (hi + 1 - lo))) + (2 ^ lo * (v % 2 ^ (hi + 1 - lo)) + w % 2 ^ lo) := by
  unfold putBits bitsOf
  rw [Nat.shiftRight_eq_div_pow, pow_add]
  generalize 2 ^ (hi + 1 - lo) = n
  generalize 2 ^ lo = L
  rw [← Nat.div_div_eq_div_mul]
  have h1 := Nat.div_add_mod w L
  have h2 := Nat.div_add_mod (w / L) n
  generalize w / L / n = A at *
  generalize w / L % n = M at *
  generalize w % L = R at *
  generalize v % n = V at *
  rw [← h2] at h1
  have e1 : L * (n * A + M) = L * n * A + M * L := by ring
  have e2 : V * L = L * V := by ring
  omega

theorem testBit_putBits (w hi lo v i : Nat) :
    (putBits w hi lo v).testBit i = if lo ≤ i ∧ i < lo + (hi + 1 - lo) then v.testBit (i - lo) else w.testBit i := by
  rw [putBits_eq]
  have hb : 2 ^ lo * (v % 2 ^ (hi + 1 - lo)) + w % 2 ^ lo < 2 ^ (lo + (hi + 1 - lo)) := by
    have h1 : w % 2 ^ lo < 2 ^ lo := Nat.mod_lt _ (by positivity)
    have h2 : v % 2 ^ (hi + 1 - lo) < 2 ^ (hi + 1 - lo) := Nat.mod_lt _ (by positivity)
    rw [pow_add]
    generalize v % 2 ^ (hi + 1 - lo) = V at *
    generalize w % 2 ^ lo = R at *
    calc 2 ^ lo * V + R < 2 ^ lo * V + 2 ^ lo * 1 := by omega
      _ = 2 ^ lo * (V + 1) := by ring
      _ ≤ 2 ^ lo * 2 ^ (hi + 1 - lo) := Nat.mul_le_mul_left _ h2
  rw [Nat.testBit_two_pow_mul_add _ hb]
  split
  · rw [Nat.testBit_two_pow_mul_add _ (Nat.mod_lt _ (by positivity))]
    split
    · rw [if_neg (by omega), Nat.testBit_mod_two_pow]; simp [*]
    · rw [if_pos (by omega), Nat.testBit_mod_two_pow]; simp only [Bool.and_eq_right_iff_imp]; intro _; simp; omega
  · rw [if_neg (by omega), ← Nat.shiftRight_eq_div_pow, Nat.testBit_shiftRight]
    congr 1; omega

theorem testBit_bitsOf (w hi lo i : Nat) : (bitsOf w hi lo).testBit i = (decide (i < hi + 1 - lo) && w.testBit (lo + i)) := by
  unfold bitsOf
  rw [Nat.testBit_mod_two_pow, Nat.testBit_shiftRight]

/-- What a field written holds. -/
theorem bitsOf_putBits (w hi lo v : Nat) : bitsOf (putBits w hi lo v) hi lo = v % 2 ^ (hi + 1 - lo) := by
  refine Nat.eq_of_testBit_eq fun i => ?_
  rw [testBit_bitsOf, testBit_putBits, Nat.testBit_mod_two_pow]
  by_cases h : i < hi + 1 - lo
  · rw [if_pos (by omega)]; simp [h]
  · simp [h]

/-- A field that lies apart from the one written keeps its value. -/
theorem bitsOf_putBits_ne (w hi lo v hi' lo' : Nat) (h : hi < lo' ∨ hi' < lo) :
    bitsOf (putBits w hi lo v) hi' lo' = bitsOf w hi' lo' := by
  refine Nat.eq_of_testBit_eq fun i => ?_
  rw [testBit_bitsOf, testBit_bitsOf, testBit_putBits]
  by_cases hi' : i < hi' + 1 - lo'
  · rw [if_neg (by omega)]
  · simp [hi']

theorem bitsOf_word (n hi lo : Nat) (h : hi ≤ 31) : bitsOf (BitVec.ofNat 32 n).toNat hi lo = bitsOf n hi lo := by
  refine Nat.eq_of_testBit_eq fun i => ?_
  rw [testBit_bitsOf, testBit_bitsOf, BitVec.toNat_ofNat, Nat.testBit_mod_two_pow]
  by_cases hi' : i < hi + 1 - lo
  · rw [show decide (lo + i < 32) = true by simp; omega, Bool.true_and]
  · simp [hi']

/-- What a register's field holds after a field was written. -/
theorem getF_setF (s : State) (a b : Nat) (f g : BitField) (v : Nat) (hg : g.hi ≤ 31) :
    getF (setF s a f v) b g =
      if b = a then bitsOf (putBits (regGet s a).toNat f.hi f.lo v) g.hi g.lo else getF s b g := by
  unfold getF setF
  rw [regGet_setReg]
  split
  · rw [bitsOf_word _ _ _ hg]
  · rfl

/-- A field written holds the value written. -/
theorem getF_setF_same (s : State) (a : Nat) (f : BitField) (v : Nat) (hf : f.hi ≤ 31) :
    getF (setF s a f v) a f = v % 2 ^ (f.hi + 1 - f.lo) := by
  rw [getF_setF _ _ _ _ _ _ hf, if_pos rfl, bitsOf_putBits]

/-- A field of another register, or one that lies apart, keeps its value. -/
theorem getF_setF_ne (s : State) (a b : Nat) (f g : BitField) (v : Nat) (hg : g.hi ≤ 31)
    (h : b ≠ a ∨ f.hi < g.lo ∨ g.hi < f.lo) : getF (setF s a f v) b g = getF s b g := by
  rw [getF_setF _ _ _ _ _ _ hg]
  split
  · rename_i e; subst e
    rw [bitsOf_putBits_ne _ _ _ _ _ _ (by tauto)]; rfl
  · rfl

theorem getF_setReg_ne (s : State) (a b : Nat) (w : Word) (g : BitField) (h : b ≠ a) :
    getF (setReg s a w) b g = getF s b g := by
  unfold getF; rw [regGet_setReg, if_neg h]

end Sys2Proof.Machine
end

