-- ==== Sys2Proof/Laws/Unchanged.lean ====
section
/-! SUPPORT. Which part of the state alone the operations on registers, events and the host interface change. -/

namespace Sys2Proof.Machine

theorem setReg_only (s : State) (a : Nat) (w : Word) : setReg s a w = { s with regs := (setReg s a w).regs } := rfl

theorem setF_only (s : State) (a : Nat) (f : BitField) (v : Nat) : setF s a f v = { s with regs := (setF s a f v).regs } := rfl

end Sys2Proof.Machine
end

