-- ==== Sys2Proof/Tests/Slice0.lean ====
section
/-! SUPPORT. Tests: ill-formed commands are refused by WellFormed, and small steps on a small state. -/

namespace Sys2Proof.Machine

/-! WellFormed refuses an ill-formed term for each of its checks -/

/-- A small command: queue, command, namespace, dwords, data buffer. -/
def tCmd (sqid cid nsid : Nat) (d : Vector Word 6) (buf : List Byte) : Cmd :=
  ⟨sqid, cid, nsid, d[0], d[1], d[2], d[3], d[4], d[5], buf⟩

theorem test_wf_cmd : Instr.wf (.identify (tCmd 65536 0 0 (Vector.replicate 6 0) [])) = false := by decide

end Sys2Proof.Machine
end

namespace Sys2Proof.Machine

theorem Gives.runs {i : Instr} {s t : State} {P : State → Prop} (h : Gives i s t) (hp : P t) : Runs i s P := ⟨t, h, hp⟩

/-! # Frames

A frame names the part of the state that may differ; frames compose. -/

theorem onlyRegs_iff (s t : State) : onlyRegs s t ↔ ∃ m, t = { s with regs := m } :=
  ⟨fun h => ⟨_, h⟩, by rintro ⟨m, rfl⟩; rfl⟩

theorem onlyPanel_iff (s t : State) : onlyPanel s t ↔ ∃ m l h, t = { s with regs := m, ras := l, host := h } :=
  ⟨fun h => ⟨_, _, _, h⟩, by rintro ⟨m, l, h, rfl⟩; rfl⟩

theorem onlyPanel.refl (s : State) : onlyPanel s s := rfl

theorem onlyRegs.trans {s t u : State} (h₁ : onlyRegs s t) (h₂ : onlyRegs t u) : onlyRegs s u := by
  obtain ⟨m, rfl⟩ := (onlyRegs_iff s t).mp h₁
  obtain ⟨m', rfl⟩ := (onlyRegs_iff _ u).mp h₂
  rfl

theorem onlyPanel.trans {s t u : State} (h₁ : onlyPanel s t) (h₂ : onlyPanel t u) : onlyPanel s u := by
  obtain ⟨m, l, h, rfl⟩ := (onlyPanel_iff s t).mp h₁
  obtain ⟨m', l', h', rfl⟩ := (onlyPanel_iff _ u).mp h₂
  rfl

theorem onlyRegs.toPanel {s t : State} (h : onlyRegs s t) : onlyPanel s t := by
  obtain ⟨m, rfl⟩ := (onlyRegs_iff s t).mp h
  rfl

theorem onlyRegs.getPart {s t : State} (h : onlyRegs s t) (p : Nat) : getPart t p = getPart s p := by
  obtain ⟨m, rfl⟩ := (onlyRegs_iff s t).mp h
  rfl

theorem onlyRegs_setReg (s : State) (a : Nat) (w : Word) : onlyRegs s (setReg s a w) := setReg_only s a w

theorem onlyRegs_setF (s : State) (a : Nat) (f : BitField) (v : Nat) : onlyRegs s (setF s a f v) := setF_only s a f v

theorem onlyRegs_setPair (s : State) (lo v : Nat) : onlyRegs s (setPair s lo v) :=
  (onlyRegs_setReg ..).trans (onlyRegs_setReg ..)

theorem regsBut.trans {l : List Nat} {s t u : State} (h₁ : regsBut l s t) (h₂ : regsBut l t u) : regsBut l s u :=
  fun a ha => (h₂ a ha).trans (h₁ a ha)

theorem regsBut.mono {l l' : List Nat} {s t : State} (h : regsBut l s t) (hl : l ⊆ l') : regsBut l' s t :=
  fun a ha => h a fun hm => ha (hl hm)

theorem regsBut_setReg {l : List Nat} (s : State) {a : Nat} (w : Word) (h : a ∈ l) : regsBut l s (setReg s a w) := by
  intro b hb
  rw [regGet_setReg, if_neg (ne_of_mem_of_not_mem h hb).symm]

theorem regsBut_setF {l : List Nat} (s : State) {a : Nat} (f : BitField) (v : Nat) (h : a ∈ l) :
    regsBut l s (setF s a f v) := regsBut_setReg s _ h

theorem regsBut_setPair {l : List Nat} (s : State) {lo : Nat} (v : Nat) (h : lo ∈ l) (h' : lo + 4 ∈ l) :
    regsBut l s (setPair s lo v) := (regsBut_setReg s _ h).trans (regsBut_setReg _ _ h')

/-! # Register pairs and bits -/

theorem bitOf_eq_testBit (n i : Nat) : bitOf n i = n.testBit i := by
  rw [Nat.testBit_eq_decide_div_mod_eq, bitOf, Nat.shiftRight_eq_div_pow]
  rfl

/-- A mask that is set throughout a field keeps the field. -/
theorem bitsOf_and_mask (v m : Word) (hi lo : Nat) (h : ∀ i < hi + 1 - lo, m.toNat.testBit (lo + i) = true) :
    bitsOf (v &&& m).toNat hi lo = bitsOf v.toNat hi lo := by
  refine Nat.eq_of_testBit_eq fun i => ?_
  rw [testBit_bitsOf, testBit_bitsOf, BitVec.toNat_and, Nat.testBit_and]
  by_cases hi' : i < hi + 1 - lo
  · rw [h i hi', Bool.and_true]
  · simp [hi']

/-- A pair written reads as the low 64 bits of the value. -/
theorem getPair_setPair (s : State) (lo v : Nat) : getPair (setPair s lo v) lo = v % 2 ^ 64 := by
  simp only [getPair, setPair, regGet_setReg, Nat.left_eq_add, Nat.reduceEqDiff, if_false, if_true, BitVec.toNat_ofNat]
  omega

theorem getPair_congr {s t : State} {lo : Nat} (h : regGet t lo = regGet s lo) (h' : regGet t (lo + 4) = regGet s (lo + 4)) :
    getPair t lo = getPair s lo := by
  rw [getPair, getPair, h, h']

theorem getPair_of_regsBut {l : List Nat} {s t : State} (h : regsBut l s t) {lo : Nat} (h₁ : lo ∉ l) (h₂ : lo + 4 ∉ l) :
    getPair t lo = getPair s lo := getPair_congr (h lo h₁) (h _ h₂)

/-! # Partitions -/

theorem getPart_updPart (s : State) (p : Nat) (f : Part → Part) (q : Nat) (h : aHas s.parts p = true) :
    getPart (updPart s p f) q = if q = p then f (getPart s q) else getPart s q := by
  unfold getPart updPart aGetD
  rw [aGet?_aUpd]
  split
  · rename_i e
    subst e
    obtain ⟨x, hx⟩ := Option.isSome_iff_exists.mp h
    simp [hx]
  · rfl

/-! # Writes that reach a register (R522, R523, R526) -/

theorem pageOf_of_livePage {s : State} {a : Nat} {p : PageInst} (h : livePage s a = some p) : pageOf a = some p := by
  unfold livePage at h
  split at h
  · cases h
  · split at h
    · rename_i e _
      exact e.trans h
    · cases h

theorem reach_of_reaches {s : State} {r : Requester} {a : Nat} (h : Reaches s r a) (v : Word) (k : PageInst → State) :
    ∃ p, livePage s a = some p ∧ reach s r a v k = k p := by
  obtain ⟨p, hp, ha, ho⟩ := h
  exact ⟨p, hp, by simp [reach, hp, ha, ho]⟩

/-- Past the header's registers a write goes to the rules of the hub's pages or of the block's. -/
theorem writeReg_of_reaches {s : State} {r : Requester} {a : Nat} (h : Reaches s r a) (ho : 0x40 ≤ a % 4096) (v : Word) :
    ∃ p, livePage s a = some p ∧
      writeReg s r a v = if p.stand = 0x1F then writeHub s r p a v else writeBlock s r p a v := by
  obtain ⟨p, hp, e⟩ := reach_of_reaches h v _
  refine ⟨p, hp, e.trans ?_⟩
  have past : ∀ x, x < 0x40 → a % 4096 ≠ x := by omega
  rw [if_neg (past Reg.BLK_CTL (by decide)), if_neg (past Reg.EVT_CAUSE (by decide)), if_neg (past Reg.EVT_FORCE (by decide)),
    if_neg (past Reg.TMO_LIMIT (by decide)), if_neg (Nat.not_lt.mpr ho)]

/-- A write that reaches a register of a hub page past its header. -/
theorem writeReg_hub {s : State} {r : Requester} {a : Nat} (h : Reaches s r a) (ho : 0x40 ≤ a % 4096)
    (hs : (pageOf a).all (·.stand == 0x1F) = true) (v : Word) : ∃ p, writeReg s r a v = writeHub s r p a v := by
  obtain ⟨p, hp, e⟩ := writeReg_of_reaches h ho v
  rw [pageOf_of_livePage hp] at hs
  exact ⟨p, e.trans (if_pos (by simpa using hs))⟩

/-! # The commands reach their registers

The operator reaches every aligned register whose page is there; from reset that holds of the registers written here. -/

theorem reaches_of_isOperator {s : State} {r : Requester} {a : Nat} {p : PageInst} (hp : livePage s a = some p)
    (ha : a % 4 = 0) (hr : isOperator s r = true) : Reaches s r a := ⟨p, hp, ha, by simp [hr]⟩

theorem reaches_at_reset {a : Nat} (h : a ∈ [pgFault + Reg.BLK_CTL, pgFault + Reg.EVT_CAUSE, pgFault + Reg.EVT_FORCE,
    Reg.QUOTA_SEL, Reg.QUOTA_CTL, Reg.PART_CFG, Reg.DBG_REQ_CFG, Reg.MGMT_CFG]) : Reaches State.reset .sideband a := by
  fin_cases h <;> exact reaches_of_isOperator rfl rfl rfl

/-! # The header's actions (R8, R517, R530) -/

theorem header_mod (page : Nat) {off : Nat} (h : off < 4096) : (page / 4096 * 4096 + off) % 4096 = off := by omega

theorem header_page (page : Nat) {off : Nat} (h : off < 4096) :
    (page / 4096 * 4096 + off) / 4096 * 4096 = page / 4096 * 4096 := by omega

theorem writeReg_blkCtl {s : State} {r : Requester} {page : Nat} (h : Reaches s r (page / 4096 * 4096 + Reg.BLK_CTL))
    (v : Word) : writeReg s r (page / 4096 * 4096 + Reg.BLK_CTL) v =
      if bitOf v.toNat 1 then clearErrors s (page / 4096 * 4096) else s := by
  obtain ⟨p, -, e⟩ := reach_of_reaches h v _
  refine e.trans ?_
  simp only [header_mod page (off := Reg.BLK_CTL) (by decide), header_page page (off := Reg.BLK_CTL) (by decide)]
  rfl

theorem writeReg_evtCause {s : State} {r : Requester} {page : Nat} (h : Reaches s r (page / 4096 * 4096 + Reg.EVT_CAUSE))
    (v : Word) : writeReg s r (page / 4096 * 4096 + Reg.EVT_CAUSE) v = clearCause s (page / 4096 * 4096) v := by
  obtain ⟨p, -, e⟩ := reach_of_reaches h v _
  refine e.trans ?_
  simp only [header_mod page (off := Reg.EVT_CAUSE) (by decide), header_page page (off := Reg.EVT_CAUSE) (by decide)]
  rfl

theorem writeReg_evtForce {s : State} {r : Requester} {page : Nat} (h : Reaches s r (page / 4096 * 4096 + Reg.EVT_FORCE))
    (v : Word) : writeReg s r (page / 4096 * 4096 + Reg.EVT_FORCE) v = forceEvents s (page / 4096 * 4096) v := by
  obtain ⟨p, -, e⟩ := reach_of_reaches h v _
  refine e.trans ?_
  simp only [header_mod page (off := Reg.EVT_FORCE) (by decide), header_page page (off := Reg.EVT_FORCE) (by decide)]
  rfl

/-! # Events (R516 to R519) -/

theorem onlyPanel_postFlags (s : State) (page code part a0 a1 flags : Nat) :
    onlyPanel s (postFlags s page code part a0 a1 flags) := rfl

theorem onlyPanel_refuse (s : State) (a : Nat) (v : Word) : onlyPanel s (refuse s a v) := rfl

theorem aGetD_regPut (m : AMap Word) (a : Nat) (w : Word) (b : Nat) :
    aGetD (regPut m a w) b (resetWord b) = if b = a then w else aGetD m b (resetWord b) :=
  regGet_setReg { State.reset with regs := m } a w b

/-- A record that enters the log changes no register but the count of lost records. -/
theorem aGetD_logTo (p : Panel) (e : EventRec) {b : Nat} (hb : b ≠ Reg.RAS_EVLOG_LOST) :
    aGetD (logTo p e).regs b (resetWord b) = aGetD p.regs b (resetWord b) := by
  have h : (logTo p e).regs = bumpReg p.regs Reg.RAS_EVLOG_LOST 1 ∨ (logTo p e).regs = p.regs := ite_eq_or_eq ..
  rcases h with h | h <;> rw [h]
  rw [bumpReg, aGetD_regPut, if_neg hb]

/-- A record enters a log that has room at its end. -/
theorem logTo_ras (p : Panel) (e : EventRec) (h : p.ras.log.length < 16384) : (logTo p e).ras =
    { p.ras with log := p.ras.log ++ [{ e with seq := p.ras.nextSeq }], nextSeq := p.ras.nextSeq + 1 } := by
  simp [logTo, Nat.not_le.mpr h]

/-- An event changes no register but its page's cause and the count of lost records. -/
theorem regGet_postFlags (s : State) (page code part a0 a1 flags : Nat) {b : Nat} (hb : b ≠ Reg.RAS_EVLOG_LOST) :
    regGet (postFlags s page code part a0 a1 flags) b =
      if b = page + Reg.EVT_CAUSE then regGet s b ||| BitVec.ofNat 32 (2 ^ (code / 256)) else regGet s b := by
  have key : regGet (postFlags s page code part a0 a1 flags) b = aGetD (regPut s.regs (page + Reg.EVT_CAUSE)
      (regGet s (page + Reg.EVT_CAUSE) ||| BitVec.ofNat 32 (2 ^ (code / 256)))) b (resetWord b) := by
    simp only [postFlags, onPanel, eventTo, regGet]
    split
    · rfl
    · exact aGetD_logTo _ _ hb
  rw [key, aGetD_regPut]
  split
  · rename_i e
    rw [e]
  · rfl

/-- An event of a category that its page does not mask enters a log that has room. -/
theorem postFlags_ras (s : State) (page code part a0 a1 flags : Nat) (hl : s.ras.log.length < 16384)
    (hm : bitOf (regGet s (page + Reg.EVT_MASK)).toNat (code / 256) = false ∨ code / 256 = 0x0A) :
    (postFlags s page code part a0 a1 flags).ras = { s.ras with
      log := s.ras.log ++ [⟨s.tb, s.ras.nextSeq, code, part, (resetWord page).toNat, flags, a0 % 2 ^ 64, a1 % 2 ^ 64, true⟩]
      nextSeq := s.ras.nextSeq + 1 } := by
  simp only [postFlags, onPanel, eventTo]
  have hne : page + Reg.EVT_MASK ≠ page + Reg.EVT_CAUSE := fun e => absurd (Nat.add_left_cancel e) (by decide)
  have hopen : ¬(code / 256 ≠ 0x0A ∧ bitOf (regGet s (page + Reg.EVT_MASK)).toNat (code / 256) = true) := by
    rintro ⟨hc, hb⟩
    exact hm.elim (fun h => absurd (h.symm.trans hb) (by decide)) hc
  rw [aGetD_regPut, if_neg hne]
  exact (congrArg Panel.ras (if_neg hopen)).trans (logTo_ras _ _ hl)

/-- The forced event of one category (R517). -/
def postForced (page : Nat) (s : State) (n : Nat) : State := postFlags s page (n * 256 + 0xFF) 0 0 0 1

/-- EVT_FORCE posts the forced events of the categories whose bits are set, in rising order. -/
theorem forceEvents_eq (s : State) (page : Nat) (v : Word) :
    forceEvents s page v = ((List.range 11).filter fun n => bitOf v.toNat n).foldl (postForced page) s :=
  (List.foldl_filter ..).symm

theorem onlyPanel_forceEvents (s : State) (page : Nat) (v : Word) : onlyPanel s (forceEvents s page v) := by
  rw [forceEvents_eq]
  exact foldl_keeps (onlyPanel s) _ (fun _ _ h => h.trans (onlyPanel_postFlags ..)) _ _ (onlyPanel.refl s)

theorem bitOf_or_two_pow (w : Word) {n i : Nat} (hn : n < 32) :
    bitOf (w ||| BitVec.ofNat 32 (2 ^ n)).toNat i = (bitOf w.toNat i || decide (i = n)) := by
  simp only [bitOf_eq_testBit, BitVec.toNat_or, Nat.testBit_or, BitVec.toNat_ofNat, Nat.testBit_mod_two_pow, Nat.testBit_two_pow]
  congr 1
  rw [Bool.eq_iff_iff]
  simp only [Bool.and_eq_true, decide_eq_true_eq]
  omega

/-- Forced events of a list of categories set these categories' cause bits and no other. -/
theorem bitOf_cause_postForced (page : Nat) (hp : page + Reg.EVT_CAUSE ≠ Reg.RAS_EVLOG_LOST) (i : Nat) (l : List Nat)
    (hl : ∀ n ∈ l, n < 32) (s : State) :
    bitOf (regGet (l.foldl (postForced page) s) (page + Reg.EVT_CAUSE)).toNat i =
      (bitOf (regGet s (page + Reg.EVT_CAUSE)).toNat i || decide (i ∈ l)) := by
  induction l generalizing s with
  | nil => simp
  | cons n l ih =>
    have hn : n < 32 := hl n (by simp)
    have hc : (n * 256 + 0xFF) / 256 = n := by omega
    rw [List.foldl_cons, ih (fun m hm => hl m (by simp [hm])), postForced, regGet_postFlags _ _ _ _ _ _ _ hp, if_pos rfl,
      hc, bitOf_or_two_pow _ hn]
    simp [Bool.or_assoc]

/-- A word with one category's bit forces that category's event alone. -/
theorem forceEvents_two_pow (s : State) (page : Nat) {n : Nat} (hn : n < 11) :
    forceEvents s page (BitVec.ofNat 32 (2 ^ n)) = postForced page s n := by
  have one : ∀ n < 11, ((List.range 11).filter fun m => bitOf (BitVec.ofNat 32 (2 ^ n)).toNat m) = [n] := by decide
  rw [forceEvents_eq, one n hn]
  rfl

/-- No page's cause register is the count of lost records. -/
theorem evtCause_ne_lost (page : Nat) : page / 4096 * 4096 + Reg.EVT_CAUSE ≠ Reg.RAS_EVLOG_LOST := by
  simp only [Reg.EVT_CAUSE, Reg.RAS_EVLOG_LOST]
  omega

/-! ## Error clear, cause bits and forced events -/

theorem onlyRegs_clearErrors (s : State) (page : Nat) : onlyRegs s (clearErrors s page) :=
  ((((onlyRegs_setReg ..).trans (onlyRegs_setReg ..)).trans (onlyRegs_setReg ..)).trans (onlyRegs_setReg ..)).trans
    (onlyRegs_setReg ..)

theorem regGet_clearErrors (s : State) (page b : Nat) : regGet (clearErrors s page) b =
    if b ∈ [page + Reg.ERR_CE_COUNT, page + Reg.ERR_UE_COUNT, page + Reg.ERR_LAST_CODE, page + Reg.ERR_LAST_ADDR_LO,
      page + Reg.ERR_LAST_ADDR_HI] then 0 else regGet s b := by
  simp only [clearErrors, regGet_setReg, List.mem_cons, List.not_mem_nil, or_false]
  grind

theorem bitOf_clearCause (s : State) (page : Nat) (v : Word) {i : Nat} (hi : i < 32) :
    bitOf (regGet (clearCause s page v) (page + Reg.EVT_CAUSE)).toNat i =
      (bitOf (regGet s (page + Reg.EVT_CAUSE)).toNat i && !bitOf v.toNat i) := by
  simp only [clearCause, regGet_setReg, if_true, bitOf_eq_testBit, BitVec.testBit_toNat]
  rw [BitVec.getLsbD_and, BitVec.getLsbD_not, decide_eq_true hi, Bool.true_and]

theorem errClr_effect {s : State} {r : Requester} {page : Nat} (h : Reaches s r (page / 4096 * 4096 + Reg.BLK_CTL)) :
    Gives (.errClr r page) s (clearErrors s (page / 4096 * 4096)) :=
  congrArg Host.Outcome.next (writeReg_blkCtl h 2)

theorem evtCauseClear_effect {s : State} {r : Requester} {page : Nat} (h : Reaches s r (page / 4096 * 4096 + Reg.EVT_CAUSE))
    (v : Word) : Gives (.evtCauseClear r page v) s (clearCause s (page / 4096 * 4096) v) :=
  congrArg Host.Outcome.next (writeReg_evtCause h v)

theorem evtForce_effect {s : State} {r : Requester} {page : Nat} (h : Reaches s r (page / 4096 * 4096 + Reg.EVT_FORCE))
    (v : Word) : Gives (.evtForce r page v) s (forceEvents s (page / 4096 * 4096) v) :=
  congrArg Host.Outcome.next (writeReg_evtForce h v)

/-- Settles O27: each command is its header action; the forced events' cause bits by induction on the categories forced. -/
theorem eventRegisters : Obligations.EventRegisters := by
  unfold Obligations.EventRegisters
  intro s r page v
  dsimp only
  refine ⟨fun h => ?_, fun h => ?_, fun h => ?_, fun n hn h hm hl => ?_⟩
  · refine (errClr_effect h).runs ⟨onlyRegs_clearErrors s _, fun b hb => ?_, ?_, ?_, ?_, ?_, ?_⟩
    · rw [regGet_clearErrors, if_neg hb]
    all_goals rw [regGet_clearErrors, if_pos (by simp)]
  · exact (evtCauseClear_effect h v).runs
      ⟨onlyRegs_setReg .., regsBut_setReg s _ (by simp), fun i hi => bitOf_clearCause s _ v hi⟩
  · refine (evtForce_effect h v).runs ⟨onlyPanel_forceEvents s _ v, fun i hi => ?_⟩
    rw [forceEvents_eq, bitOf_cause_postForced _ (evtCause_ne_lost page)]
    · simp [hi]
    · intro n hn
      have := List.mem_range.mp (List.mem_filter.mp hn).1
      omega
  · refine (evtForce_effect h _).runs ?_
    have hc : (n * 256 + 0xFF) / 256 = n := by omega
    rw [forceEvents_two_pow s _ hn, postForced, postFlags_ras _ _ _ _ _ _ _ hl (by rwa [hc])]
    exact ⟨rfl, rfl⟩

/-! # Ordinary fields (R6, R7, R11) -/

/-- The fields that a write stores: the read-write ones that do not refuse their value. -/
def storedFields (k : PageKind) (off : Nat) (fs : List FieldRow) (v : Nat) : List FieldRow :=
  let rw := fs.filter fun f => f.access == .rw || f.access == .rws
  rw.filter fun f => !(rw.filter fun f => fieldRefused k off f.lo (bitsOf v f.hi f.lo) v).contains f

theorem mem_storedFields (k : PageKind) (off : Nat) (fs : List FieldRow) (v : Nat) (f : FieldRow) :
    f ∈ storedFields k off fs v ↔
      f ∈ fs ∧ (f.access = .rw ∨ f.access = .rws) ∧ fieldRefused k off f.lo (bitsOf v f.hi f.lo) v = false := by
  simp only [storedFields, List.mem_filter, Bool.or_eq_true, beq_iff_eq, Bool.not_eq_true', List.contains_eq_mem,
    decide_eq_false_iff_not]
  grind

/-- Put into a word the bits that a value has in each of some fields. -/
def putFields (l : List FieldRow) (v w : Nat) : Nat := l.foldl (fun w f => putBits w f.hi f.lo (bitsOf v f.hi f.lo)) w

/-- A field that the others do not overlap holds the value's bits where it is put, and its own where it is not. -/
theorem bitsOf_putFields (l : List FieldRow) (v w : Nat) (f : FieldRow)
    (h : ∀ g ∈ l, g = f ∨ g.hi < f.lo ∨ f.hi < g.lo) :
    bitsOf (putFields l v w) f.hi f.lo = if f ∈ l then bitsOf v f.hi f.lo else bitsOf w f.hi f.lo := by
  induction l generalizing w with
  | nil => simp [putFields]
  | cons g l ih =>
    have ih' := ih (putBits w g.hi g.lo (bitsOf v g.hi g.lo)) fun x hx => h x (List.mem_cons_of_mem g hx)
    rw [putFields, List.foldl_cons, ← putFields, ih']
    by_cases e : g = f
    · subst e
      rw [bitsOf_putBits, Nat.mod_eq_of_lt (bitsOf_lt ..)]
      simp
    · rw [bitsOf_putBits_ne _ _ _ _ _ _ ((h g (by simp)).resolve_left e)]
      simp [Ne.symm e]

/-- The register with its stored fields put in; a write-refused event follows where a field refuses its value. -/
theorem writeFields_cases (s : State) (p : PageInst) (a : Nat) (fs : List FieldRow) (v : Word) :
    let t := setReg s a (BitVec.ofNat 32 (putFields (storedFields p.kind (a % 4096) fs v.toNat) v.toNat (regGet s a).toNat))
    writeFields s p a fs v = t ∨
      writeFields s p a fs v = refuse t a v ∧ ∃ lo x w, fieldRefused p.kind (a % 4096) lo x w = true := by
  intro t
  by_cases hb : ((fs.filter fun f => f.access == .rw || f.access == .rws).filter fun f =>
      fieldRefused p.kind (a % 4096) f.lo (bitsOf v.toNat f.hi f.lo) v.toNat).isEmpty = true
  · exact .inl (if_pos hb)
  · refine .inr ⟨if_neg hb, ?_⟩
    obtain ⟨f, hf⟩ := List.exists_mem_of_ne_nil _ fun e => hb (List.isEmpty_iff.mpr e)
    exact ⟨_, _, _, (List.mem_filter.mp hf).2⟩

theorem onlyPanel_writeFields (s : State) (p : PageInst) (a : Nat) (fs : List FieldRow) (v : Word) :
    onlyPanel s (writeFields s p a fs v) := by
  rcases writeFields_cases s p a fs v with e | ⟨e, -⟩ <;> rw [e]
  · exact (onlyRegs_setReg ..).toPanel
  · exact (onlyRegs_setReg ..).toPanel.trans (onlyPanel_refuse ..)

/-- The count of lost records has no field that refuses a value. -/
theorem ne_lost_of_fieldRefused {a : Nat} {p : PageInst} (hp : pageOf a = some p) {lo x w : Nat}
    (h : fieldRefused p.kind (a % 4096) lo x w = true) : a ≠ Reg.RAS_EVLOG_LOST := by
  rintro rfl
  obtain rfl : hubPage .fault = p := Option.some.inj hp
  exact absurd h Bool.false_ne_true

/-- Past its header, a register's ordinary write leaves in it the stored fields and no trace of the event. -/
theorem regGet_writeFields {s : State} {p : PageInst} {a : Nat} (hp : pageOf a = some p) (ho : 0x40 ≤ a % 4096)
    (fs : List FieldRow) (v : Word) : regGet (writeFields s p a fs v) a =
      BitVec.ofNat 32 (putFields (storedFields p.kind (a % 4096) fs v.toNat) v.toNat (regGet s a).toNat) := by
  rcases writeFields_cases s p a fs v with e | ⟨e, lo, x, w, hr⟩ <;> rw [e]
  · rw [regGet_setReg, if_pos rfl]
  · have hc : a ≠ a / 4096 * 4096 + Reg.EVT_CAUSE := by simp only [Reg.EVT_CAUSE]; omega
    rw [refuse, post, regGet_postFlags _ _ _ _ _ _ _ (ne_lost_of_fieldRefused hp hr), if_neg hc, regGet_setReg, if_pos rfl]

/-! # BAR2 writes -/

theorem writeHub_plain {p : PageInst} {a : Nat} (hs : p.stand = 0x1F) (ho : ownRule p a = false) (s : State) (r : Requester)
    (v : Word) : writeHub s r p a v = writeFields s p a (fieldsAt a) v := by
  rw [ownRule, if_pos hs, Bool.or_eq_false_iff, decide_eq_false_iff_not] at ho
  obtain ⟨hd, hl⟩ := ho
  simp only [List.contains_eq_mem, decide_eq_false_iff_not, List.mem_cons, List.not_mem_nil, or_false, not_or] at hl
  simp only [writeHub, hd, hl, or_self, if_false]

theorem writeBlock_plain {p : PageInst} {a : Nat} (hs : p.stand ≠ 0x1F) (ho : ownRule p a = false) (s : State) (r : Requester)
    (v : Word) : writeBlock s r p a v = writeFields s p a (fieldsAt a) v := by
  rw [ownRule, if_neg hs] at ho
  simp only [Bool.or_eq_false_iff, Bool.and_eq_false_iff, beq_eq_false_iff_ne, ← not_and_or] at ho
  obtain ⟨⟨⟨hw, hsusp⟩, hraw⟩, hrel⟩ := ho
  simp only [writeBlock, hw, hsusp, hraw, hrel, if_false]

/-- A register without a rule of its own has its fields written. -/
theorem writeReg_plain {s : State} {r : Requester} {a : Nat} {p : PageInst} (hp : livePage s a = some p) (h : Reaches s r a)
    (ha : 0x40 ≤ a % 4096) (ho : ownRule p a = false) (v : Word) :
    writeReg s r a v = writeFields s p a (fieldsAt a) v := by
  obtain ⟨q, hq, e⟩ := writeReg_of_reaches h ha v
  obtain rfl : p = q := Option.some.inj (hp.symm.trans hq)
  rw [e]
  split
  · rename_i hs
    exact writeHub_plain hs ho s r v
  · rename_i hs
    exact writeBlock_plain hs ho s r v

theorem writeReg_absent {s : State} {a : Nat} (h : livePage s a = none) (r : Requester) (v : Word) : writeReg s r a v = s := by
  simp [writeReg, reach, h]

theorem writeReg_unaligned {s : State} {a : Nat} {p : PageInst} (hp : livePage s a = some p) (ha : a % 4 ≠ 0) (r : Requester)
    (v : Word) : writeReg s r a v = refuse s (a / 4 * 4) v := by
  simp [writeReg, reach, hp, ha]

theorem writeReg_notOperator {s : State} {r : Requester} {a : Nat} {p : PageInst} (hp : livePage s a = some p) (ha : a % 4 = 0)
    (ho : operatorOnly p.kind (a % 4096) = true) (hw : writable a = true) (hr : isOperator s r = false) (v : Word) :
    writeReg s r a v = refuse s a v := by
  simp [writeReg, reach, hp, ha, ho, hw, hr]

/-- Settles O24: the refusals by the branches of `reach`, the stored fields by induction on the register's fields. -/
theorem registerAccess : Obligations.RegisterAccess := by
  unfold Obligations.RegisterAccess
  intro s r a v
  refine ⟨fun h => congrArg Host.Outcome.next (writeReg_absent h r v), fun p hp => ⟨fun ha => ?_, fun ha ho hw hr => ?_,
    fun h ha ho => ⟨_, congrArg Host.Outcome.next (writeReg_plain hp h ha ho v), onlyPanel_writeFields ..,
      fun f hf h31 hd => ?_⟩⟩⟩
  · exact congrArg Host.Outcome.next (writeReg_unaligned hp ha r v)
  · exact congrArg Host.Outcome.next (writeReg_notOperator hp ha ho hw hr v)
  · have hd' : ∀ g ∈ storedFields p.kind (a % 4096) (fieldsAt a) v.toNat, g = f ∨ g.hi < f.lo ∨ f.hi < g.lo :=
      fun g hg => hd g ((mem_storedFields ..).mp hg).1
    rw [regGet_writeFields (pageOf_of_livePage hp) ha, bitsOf_word _ _ _ h31, bitsOf_putFields _ _ _ _ hd']
    simp only [mem_storedFields, hf, true_and]

/-! # The quota page (R543) -/

/-- The registers that a quota snapshot fills. -/
def snapshotRegs : List Nat := [Reg.QUOTA_LIMIT_LO, Reg.QUOTA_LIMIT_HI, Reg.QUOTA_CHARGE_LO, Reg.QUOTA_CHARGE_HI,
  Reg.QUOTA_PEAK_LO, Reg.QUOTA_PEAK_HI, Reg.QUOTA_OVER]

/-- The partition that QUOTA_SEL selects. -/
def quotaPart (s : State) : Nat := bitsOf (regGet s Reg.QUOTA_SEL).toNat 11 0

/-- The tier that QUOTA_SEL selects. -/
def quotaTier (s : State) : Nat := getF s Reg.QUOTA_SEL Fld.QUOTA_SEL_tier

/-- What a snapshot shows of a partition's amounts: the selected tier's, zero of an absent partition. -/
def snapshotOf (s : State) (l : List Nat) : Nat := if aHas s.life (quotaPart s) then listAt l (quotaTier s) else 0

theorem quotaSnapshot_eq (s : State) : ∃ w, quotaSnapshot s =
    setReg (setPair (setPair (setPair s Reg.QUOTA_LIMIT_LO (snapshotOf s (getPart s (quotaPart s)).quota)) Reg.QUOTA_CHARGE_LO
      (snapshotOf s (getPart s (quotaPart s)).charge)) Reg.QUOTA_PEAK_LO (snapshotOf s (getPart s (quotaPart s)).peak))
      Reg.QUOTA_OVER w := ⟨_, rfl⟩

theorem onlyRegs_quotaSnapshot (s : State) : onlyRegs s (quotaSnapshot s) := by
  obtain ⟨w, e⟩ := quotaSnapshot_eq s
  rw [e]
  exact (((onlyRegs_setPair ..).trans (onlyRegs_setPair ..)).trans (onlyRegs_setPair ..)).trans (onlyRegs_setReg ..)

theorem regsBut_quotaSnapshot (s : State) : regsBut snapshotRegs s (quotaSnapshot s) := by
  obtain ⟨w, e⟩ := quotaSnapshot_eq s
  rw [e]
  refine (((regsBut_setPair s _ ?_ ?_).trans (regsBut_setPair _ _ ?_ ?_)).trans (regsBut_setPair _ _ ?_ ?_)).trans
    (regsBut_setReg _ _ ?_) <;> decide

theorem quotaSnapshot_limit (s : State) : getPair (quotaSnapshot s) Reg.QUOTA_LIMIT_LO =
    snapshotOf s (getPart s (quotaPart s)).quota % 2 ^ 64 := by
  obtain ⟨w, e⟩ := quotaSnapshot_eq s
  have hlater : regsBut (snapshotRegs.drop 2) (setPair s Reg.QUOTA_LIMIT_LO (snapshotOf s (getPart s (quotaPart s)).quota))
      (quotaSnapshot s) := by
    rw [e]
    refine ((regsBut_setPair _ _ ?_ ?_).trans (regsBut_setPair _ _ ?_ ?_)).trans (regsBut_setReg _ _ ?_) <;> decide
  rw [getPair_of_regsBut hlater (by decide) (by decide), getPair_setPair]

theorem quotaSnapshot_charge (s : State) : getPair (quotaSnapshot s) Reg.QUOTA_CHARGE_LO =
    snapshotOf s (getPart s (quotaPart s)).charge % 2 ^ 64 := by
  obtain ⟨w, e⟩ := quotaSnapshot_eq s
  have hlater : regsBut (snapshotRegs.drop 4) (setPair (setPair s Reg.QUOTA_LIMIT_LO
      (snapshotOf s (getPart s (quotaPart s)).quota)) Reg.QUOTA_CHARGE_LO (snapshotOf s (getPart s (quotaPart s)).charge))
      (quotaSnapshot s) := by
    rw [e]
    refine (regsBut_setPair _ _ ?_ ?_).trans (regsBut_setReg _ _ ?_) <;> decide
  rw [getPair_of_regsBut hlater (by decide) (by decide), getPair_setPair]

/-- A snapshot shows limit and charge of the partition and tier selected. -/
theorem quotaSnapshot_shows {s t : State} {p n : Nat} (hlife : t.life = s.life) (hp : quotaPart t = p) (hn : quotaTier t = n)
    (hq : (getPart t p).quota = (getPart s p).quota) (hc : (getPart t p).charge = (getPart s p).charge) :
    getPair (quotaSnapshot t) Reg.QUOTA_LIMIT_LO = (if aHas s.life p then listAt (getPart s p).quota n % 2 ^ 64 else 0) ∧
      getPair (quotaSnapshot t) Reg.QUOTA_CHARGE_LO = if aHas s.life p then listAt (getPart s p).charge n % 2 ^ 64 else 0 := by
  rw [quotaSnapshot_limit, quotaSnapshot_charge, snapshotOf, snapshotOf, hlife, hp, hn, hq, hc]
  split <;> exact ⟨rfl, rfl⟩

theorem quotaSelWrite_effect {s : State} {r : Requester} (h : Reaches s r Reg.QUOTA_SEL) (v : Word) :
    Gives (.quotaSelWrite r v) s (quotaSnapshot (setReg s Reg.QUOTA_SEL (v &&& 0x00070FFF))) := by
  obtain ⟨p, e⟩ := writeReg_hub h (by decide) (by decide) v
  exact congrArg Host.Outcome.next e

theorem quotaSnap_effect {s : State} {r : Requester} (h : Reaches s r Reg.QUOTA_CTL) :
    Gives (.quotaSnap r) s (quotaSnapshot s) := by
  obtain ⟨p, e⟩ := writeReg_hub h (by decide) (by decide) 1
  exact congrArg Host.Outcome.next e

theorem quotaPeakClr_effect {s : State} {r : Requester} (h : Reaches s r Reg.QUOTA_CTL) :
    Gives (.quotaPeakClr r) s (quotaSnapshot (clearPeak s)) := by
  obtain ⟨p, e⟩ := writeReg_hub h (by decide) (by decide) 2
  exact congrArg Host.Outcome.next e

/-- A partition whose peak in a tier is its charge there. -/
def withPeakCleared (n : Nat) (q : Part) : Part := { q with peak := q.peak.set n (listAt q.charge n) }

theorem clearPeak_eq {s : State} (h : aHas s.parts (quotaPart s) = true) :
    clearPeak s = updPart s (quotaPart s) (withPeakCleared (quotaTier s)) := if_pos h

/-- The peak's clearing changes the selected partition alone. -/
theorem getPart_clearPeak {s : State} (h : aHas s.parts (quotaPart s) = true) (p : Nat) : getPart (clearPeak s) p =
    if p = quotaPart s then withPeakCleared (quotaTier s) (getPart s p) else getPart s p := by
  rw [clearPeak_eq h, getPart_updPart s _ _ _ h]

theorem getPart_clearPeak_self {s : State} (h : aHas s.parts (quotaPart s) = true) :
    getPart (clearPeak s) (quotaPart s) = withPeakCleared (quotaTier s) (getPart s (quotaPart s)) := by
  rw [getPart_clearPeak h, if_pos rfl]

/-- The peak's clearing keeps the registers and so the selection. -/
theorem clearPeak_only {s : State} (h : aHas s.parts (quotaPart s) = true) : ∃ m, clearPeak s = { s with parts := m } :=
  ⟨_, clearPeak_eq h⟩

theorem quotaSnapshot_clearPeak_only {s : State} (h : aHas s.parts (quotaPart s) = true) : quotaSnapshot (clearPeak s) =
    { s with regs := (quotaSnapshot (clearPeak s)).regs, parts := (quotaSnapshot (clearPeak s)).parts } := by
  obtain ⟨m, hm⟩ := (onlyRegs_iff ..).mp (onlyRegs_quotaSnapshot (clearPeak s))
  obtain ⟨l, hl⟩ := clearPeak_only h
  rw [hm, hl]

theorem getPart_quotaSnapshot (s : State) (p : Nat) : getPart (quotaSnapshot s) p = getPart s p :=
  (onlyRegs_quotaSnapshot s).getPart p

theorem listAt_set_self {l : List Nat} {i : Nat} (h : i < l.length) (x : Nat) : listAt (l.set i x) i = x := by
  simp [listAt, h]

theorem quotaSnapshot_clearPeak_peak {s : State} (h : aHas s.parts (quotaPart s) = true)
    (hn : quotaTier s < (getPart s (quotaPart s)).peak.length) :
    listAt (getPart (quotaSnapshot (clearPeak s)) (quotaPart s)).peak (quotaTier s) =
      listAt (getPart s (quotaPart s)).charge (quotaTier s) := by
  rw [getPart_quotaSnapshot, getPart_clearPeak_self h, withPeakCleared, listAt_set_self hn]

theorem quotaSnapshot_clearPeak_part {s : State} (h : aHas s.parts (quotaPart s) = true) :
    getPart (quotaSnapshot (clearPeak s)) (quotaPart s) =
      { getPart s (quotaPart s) with peak := (getPart (quotaSnapshot (clearPeak s)) (quotaPart s)).peak } := by
  rw [getPart_quotaSnapshot, getPart_clearPeak_self h, withPeakCleared]

theorem quotaSnapshot_clearPeak_others {s : State} (h : aHas s.parts (quotaPart s) = true) {p : Nat} (hp : p ≠ quotaPart s) :
    getPart (quotaSnapshot (clearPeak s)) p = getPart s p := by
  rw [getPart_quotaSnapshot, getPart_clearPeak h, if_neg hp]

/-- The snapshot that follows a peak's clearing shows limit and charge as they were. -/
theorem quotaSnapshot_clearPeak_shows {s : State} (h : aHas s.parts (quotaPart s) = true) :
    let t := quotaSnapshot (clearPeak s)
    let q := getPart s (quotaPart s)
    getPair t Reg.QUOTA_LIMIT_LO = (if aHas s.life (quotaPart s) then listAt q.quota (quotaTier s) % 2 ^ 64 else 0) ∧
      getPair t Reg.QUOTA_CHARGE_LO = if aHas s.life (quotaPart s) then listAt q.charge (quotaTier s) % 2 ^ 64 else 0 := by
  obtain ⟨m, hm⟩ := clearPeak_only h
  refine quotaSnapshot_shows ?_ ?_ ?_ ?_ ?_
  · rw [hm]
  · rw [hm]; rfl
  · rw [hm]; rfl
  · rw [getPart_clearPeak_self h, withPeakCleared]
  · rw [getPart_clearPeak_self h, withPeakCleared]

/-! # Partition, debug and management configuration (R9, R440, R547, R548) -/

theorem updPart_only (s : State) (p : Nat) (f : Part → Part) :
    updPart s p f = { s with parts := (updPart s p f).parts } := rfl

theorem partCfgWrite_effect {s : State} {r : Requester} (h : Reaches s r Reg.PART_CFG) (v : Word) :
    Gives (.partCfgWrite r v) s (writePartCfg s v) := by
  obtain ⟨p, e⟩ := writeReg_hub h (by decide) (by decide) v
  exact congrArg Host.Outcome.next e

theorem writePartCfg_open {s : State} {p : Nat} (hp : p = getF s Reg.PART_SEL Fld.PART_SEL_partition)
    (h : partState s p = some .created ∨ partState s p = some .operator) (v : Word) :
    writePartCfg s v = updPart s p fun q => { q with cfg := v.toNat % 8 } := by
  subst hp
  rcases h with h | h <;> simp only [writePartCfg, h]

theorem writePartCfg_refused {s : State} {p : Nat} (hp : p = getF s Reg.PART_SEL Fld.PART_SEL_partition)
    (hc : partState s p ≠ some .created) (ho : partState s p ≠ some .operator) (v : Word) :
    writePartCfg s v = refuse s Reg.PART_CFG v := by
  subst hp
  dsimp only [writePartCfg]
  split
  · contradiction
  · contradiction
  · rfl

theorem dbgReqCfgWrite_effect {s : State} {r : Requester} (h : Reaches s r Reg.DBG_REQ_CFG) (v : Word) :
    Gives (.dbgReqCfgWrite r v) s (writeReqCfg s r v) := by
  obtain ⟨p, -, e⟩ := reach_of_reaches h v fun _ => writeReqCfg s r v
  exact congrArg Host.Outcome.next e

theorem smbAddrWrite_effect {s : State} {r : Requester} (h : Reaches s r Reg.MGMT_CFG) (v : Word) :
    Gives (.smbAddrWrite r v) s (endMessage (writeMgmtCfg s r v)) := by
  obtain ⟨p, e⟩ := writeReg_hub h (by decide) (by decide) v
  exact congrArg (fun t => Host.Outcome.next (endMessage t)) e

/-- Once the message has ended, MGMT_CFG holds the bus mode and the address, and no address waits. -/
theorem endMessage_writeMgmtCfg {s : State} {r : Requester} (h : r = .sideband ∨ s.mgmt.smbAddrWaiting = none) (v : Word) :
    endMessage (writeMgmtCfg s r v) =
      setF (setF { s with mgmt := { s.mgmt with smbAddrWaiting := none } } Reg.MGMT_CFG Fld.MGMT_CFG_i3c (bitsOf v.toNat 31 31))
        Reg.MGMT_CFG Fld.MGMT_CFG_smb_addr (bitsOf v.toNat 6 0) := by
  by_cases hr : r = .sideband
  · subst hr
    rfl
  · have hn := h.resolve_left hr
    have hs : { s with mgmt := { s.mgmt with smbAddrWaiting := none } } = s := by rw [← hn]
    have e : writeMgmtCfg s r v = setF (setF s Reg.MGMT_CFG Fld.MGMT_CFG_i3c (bitsOf v.toNat 31 31))
        Reg.MGMT_CFG Fld.MGMT_CFG_smb_addr (bitsOf v.toNat 6 0) := if_neg hr
    rw [hs, e, endMessage, setF_only, setF_only]
    simp only [hn]

theorem endMessage_writeMgmtCfg_only {s : State} {r : Requester} (h : r = .sideband ∨ s.mgmt.smbAddrWaiting = none)
    (v : Word) : ∃ m, endMessage (writeMgmtCfg s r v) =
      { s with regs := m, mgmt := { s.mgmt with smbAddrWaiting := none } } := by
  rw [endMessage_writeMgmtCfg h]
  exact (onlyRegs_iff ..).mp ((onlyRegs_setF ..).trans (onlyRegs_setF ..))

theorem regsBut_writeMgmtCfg {s : State} {r : Requester} (h : r = .sideband ∨ s.mgmt.smbAddrWaiting = none) (v : Word) :
    regsBut [Reg.MGMT_CFG] s (endMessage (writeMgmtCfg s r v)) := by
  rw [endMessage_writeMgmtCfg h]
  exact (regsBut_setF { s with mgmt := _ } _ _ (by simp)).trans (regsBut_setF _ _ _ (by simp))

theorem smbAddr_writeMgmtCfg {s : State} {r : Requester} (h : r = .sideband ∨ s.mgmt.smbAddrWaiting = none) (v : Word) :
    getF (endMessage (writeMgmtCfg s r v)) Reg.MGMT_CFG Fld.MGMT_CFG_smb_addr = bitsOf v.toNat 6 0 := by
  rw [endMessage_writeMgmtCfg h, getF_setF_same _ _ _ _ (by decide)]
  exact Nat.mod_eq_of_lt (bitsOf_lt ..)

/-- Settles O28: each command is a write of its register; a snapshot changes registers alone, `peak_clr` one peak before it. -/
theorem quotaAndConfigRegs : Obligations.QuotaAndConfigRegs := by
  unfold Obligations.QuotaAndConfigRegs
  intro s r v
  dsimp only
  refine ⟨fun h => ?_, fun h => ?_, fun h hp hn => ?_, fun h p hp => ⟨fun ho => ?_, fun hc ho => ?_⟩, fun h => ?_, fun h hw => ?_⟩
  · have hsel : regGet (setReg s Reg.QUOTA_SEL (v &&& 0x00070FFF)) Reg.QUOTA_SEL = v &&& 0x00070FFF := by
      rw [regGet_setReg, if_pos rfl]
    refine (quotaSelWrite_effect h v).runs ⟨(onlyRegs_setReg ..).trans (onlyRegs_quotaSnapshot _),
      (regsBut_setReg s _ (by simp)).trans ((regsBut_quotaSnapshot _).mono (List.subset_cons_self ..)),
      (regsBut_quotaSnapshot _ _ (by decide)).trans hsel, quotaSnapshot_shows rfl ?_ ?_ rfl rfl⟩
    · rw [quotaPart, hsel, bitsOf_and_mask _ _ _ _ (by decide)]
    · rw [quotaTier, getF, hsel]
      exact bitsOf_and_mask _ _ _ _ (by decide)
  · exact (quotaSnap_effect h).runs
      ⟨onlyRegs_quotaSnapshot s, regsBut_quotaSnapshot s, quotaSnapshot_shows rfl rfl rfl rfl rfl⟩
  · exact (quotaPeakClr_effect h).runs ⟨quotaSnapshot_clearPeak_only hp, quotaSnapshot_clearPeak_peak hp hn,
      quotaSnapshot_clearPeak_shows hp, quotaSnapshot_clearPeak_part hp, fun p => quotaSnapshot_clearPeak_others hp⟩
  · refine (partCfgWrite_effect h v).runs ?_
    rw [writePartCfg_open hp ho v]
    exact ⟨updPart_only .., rfl⟩
  · rw [← writePartCfg_refused hp hc ho v]
    exact partCfgWrite_effect h v
  · refine (dbgReqCfgWrite_effect h v).runs ?_
    unfold writeReqCfg
    split
    · rfl
    · refine ⟨onlyRegs_setF .., regsBut_setF s _ _ (by simp), ?_⟩
      rw [getF_setF_same _ _ _ _ (by decide)]
      simp [bitsOf, Fld.DBG_REQ_CFG_host]
  · obtain ⟨m, hm⟩ := endMessage_writeMgmtCfg_only hw v
    refine (smbAddrWrite_effect h v).runs ⟨?_, regsBut_writeMgmtCfg hw v, ?_, smbAddr_writeMgmtCfg hw v⟩
    all_goals rw [hm]

end Sys2Proof.Machine

namespace Sys2Proof.Machine

/-! # The core: what only a declared loss, a watchdog or a control fault changes

Stand loss, watchdogs and control faults run long recoveries: jobs end or restart, pages move, flash settles. The core
is the part of the state that these recoveries leave alone; each operation of theirs keeps it. -/

/-- What the core shows of the register file. -/
structure CoreRegs where
  stands : Word
  wdogFires : Word
  wdogLast : Word
  ctlFaults : Word
  lost : Nat
  redund : Nat

structure Core where
  life : AMap PState
  tb : Nat
  regs : CoreRegs
  standFires : AMap Nat
  faultTimes : List (Nat × Nat)
  glades : AMap Glade
  alms : AMap Alm
  rowsets : AMap RowSet
  homes : AMap (Option (List Nat))

def wordIn (m : AMap Word) (a : Nat) : Word := aGetD m a (resetWord a)

def coreRegs (m : AMap Word) : CoreRegs where
  stands := wordIn m Reg.HUB_STANDS
  wdogFires := wordIn m Reg.RAS_WDOG_FIRES
  wdogLast := wordIn m Reg.RAS_WDOG_LAST
  ctlFaults := wordIn m Reg.RAS_CTL_FAULT
  lost := bitsOf (wordIn m Reg.FTL_STAT).toNat Fld.FTL_STAT_lost_stand.hi Fld.FTL_STAT_lost_stand.lo
  redund := bitsOf (wordIn m Reg.FTL_STAT).toNat Fld.FTL_STAT_redund.hi Fld.FTL_STAT_redund.lo

/-- The pages of each adapter. -/
def homesOf (m : AMap Adapter) : AMap (Option (List Nat)) := m.map fun e => (e.1, e.2.pages)

def core (s : State) : Core where
  life := s.life
  tb := s.tb
  regs := coreRegs s.regs
  standFires := s.ras.standFires
  faultTimes := s.ras.faultTimes
  glades := s.glades
  alms := s.alms
  rowsets := s.rowsets
  homes := homesOf s.adapters

/-! ## Registers outside the core -/

/-- The core does not show the register. -/
def quiet (a : Nat) : Bool :=
  !List.contains [Reg.HUB_STANDS, Reg.RAS_WDOG_FIRES, Reg.RAS_WDOG_LAST, Reg.RAS_CTL_FAULT, Reg.FTL_STAT] a

theorem quiet_of_le {a : Nat} (h : 0x20000 ≤ a) : quiet a = true := by
  simp only [quiet, Reg.HUB_STANDS, Reg.RAS_WDOG_FIRES, Reg.RAS_WDOG_LAST, Reg.RAS_CTL_FAULT, Reg.FTL_STAT,
    Bool.not_eq_true', List.contains_eq_mem, decide_eq_false_iff_not, List.mem_cons, List.not_mem_nil, or_false]
  omega

@[simp] theorem quiet_stand (i n : Nat) : quiet (standBase i + n) = true := quiet_of_le (by unfold standBase; omega)

@[simp] theorem quiet_glade (i n : Nat) : quiet (gladePage i + n) = true := quiet_of_le (by unfold gladePage standBase; omega)

@[simp] theorem quiet_copse (i n : Nat) : quiet (copsePage i + n) = true :=
  quiet_of_le (by unfold copsePage gladePage standBase; omega)

@[simp] theorem quiet_copse1 (i n : Nat) : quiet (copsePage1 i + n) = true :=
  quiet_of_le (by unfold copsePage1 copsePage gladePage standBase; omega)

@[simp] theorem quiet_chan (i n : Nat) : quiet (chanPage i + n) = true := quiet_of_le (by unfold chanPage standBase; omega)

@[simp] theorem quiet_chan_add (i n m : Nat) : quiet (chanPage i + n + m) = true := by rw [Nat.add_assoc]; exact quiet_chan ..

@[simp] theorem quiet_ranger (i n : Nat) : quiet (rangerPage i + n) = true :=
  quiet_of_le (by unfold rangerPage chanPage standBase; omega)

@[simp] theorem quiet_stack (i n : Nat) : quiet (stackPage i + n) = true := quiet_of_le (by unfold stackPage standBase; omega)

@[simp] theorem quiet_chowen (i n : Nat) : quiet (chowenPage i + n) = true := quiet_of_le (by unfold chowenPage; omega)

/-- The hub's registers that the recoveries write. -/
@[simp] theorem quiet_hub : quiet Reg.FTL_SB = true ∧ quiet Reg.FTL_REBUILD = true ∧ quiet Reg.FTL_UNDURABLE = true ∧
    quiet Reg.TBL_EPOCH_REFUSED = true ∧ quiet Reg.VAL_LAST = true ∧ quiet Reg.VAL_LAST_WHERE = true ∧
    quiet Reg.VAL_REJECTS = true ∧ quiet Reg.ADPT_CLAMP = true ∧ quiet Reg.DSP_RESTARTS = true ∧ quiet Reg.DSP_REMAPS = true ∧
    quiet Reg.RECOV_STAT = true ∧ quiet Reg.FTL_RD_LIMIT = true ∧ quiet Reg.FOREST_EC_POISON = true ∧
    quiet Reg.FOREST_EC_READS = true ∧ quiet (pgFtl + Reg.EVT_CAUSE) = true ∧ quiet (pgFault + Reg.EVT_CAUSE) = true ∧
    quiet (pgSearch + Reg.EVT_CAUSE) = true ∧ quiet Reg.FTL_MEDIA_UNITS_LO = true ∧ quiet (Reg.FTL_MEDIA_UNITS_LO + 4) = true := by
  decide

theorem wordIn_regPut (m : AMap Word) (a : Nat) (w : Word) (b : Nat) :
    wordIn (regPut m a w) b = if b = a then w else wordIn m b := aGetD_regPut ..

theorem coreRegs_regPut {m : AMap Word} {a : Nat} (h : quiet a = true) (w : Word) : coreRegs (regPut m a w) = coreRegs m := by
  simp only [quiet, Bool.not_eq_true', List.contains_eq_mem, decide_eq_false_iff_not, List.mem_cons, List.not_mem_nil,
    or_false, not_or, eq_comm (a := a)] at h
  simp only [coreRegs, wordIn_regPut, h, if_false]

/-! ## Frames of the shared operations -/

/-- Whatever else of the state is replaced, the core stays. -/
@[simp] theorem core_replace (s : State) (pending : List Instr) (shadow : List (Nat × Nat × Word)) (fresh seedEpoch : Nat)
    (mem : Mem) (parts : AMap Part) (creations : AMap Nat) (host : HostIf) (sec : Security) (mgmt : Mgmt)
    (loadNo : Nat) (jobs : AMap Job) (nextJob : Nat) (copses : AMap Copse) (chans : AMap Channel) (ftl : Ftl)
    (index : AMap Index) (searches : AMap Search) (nextSearch : Nat) (commons : Commons) (tables : AMap Table)
    (evictions : AMap Nat) (gangs : AMap Gang) (forest : Forest) (power : Power) (trace : Trace) :
    core { s with pending, shadow, fresh, seedEpoch, mem, parts, creations, host, sec, mgmt, loadNo, jobs, nextJob, copses,
                  chans, ftl, index, searches, nextSearch, commons, tables, evictions, gangs, forest, power, trace } = core s := by
  rfl

@[simp] theorem core_ite (c : Prop) [Decidable c] (s t : State) : core (if c then s else t) = if c then core s else core t :=
  apply_ite ..

@[simp] theorem core_setReg {s : State} {a : Nat} (h : quiet a = true) (w : Word) : core (setReg s a w) = core s := by
  simp only [core, setReg, coreRegs_regPut h]

@[simp] theorem core_bump {s : State} {a : Nat} (h : quiet a = true) (n : Nat) : core (bump s a n) = core s := core_setReg h _

@[simp] theorem core_setF {s : State} {a : Nat} (h : quiet a = true) (f : BitField) (v : Nat) : core (setF s a f v) = core s :=
  core_setReg h _

@[simp] theorem core_bumpF {s : State} {a : Nat} (h : quiet a = true) (f : BitField) (v : Nat) :
    core (bumpF s a f v) = core s := core_setReg h _

@[simp] theorem core_setPair {s : State} {a : Nat} (h : quiet a = true) (h' : quiet (a + 4) = true) (v : Nat) :
    core (setPair s a v) = core s := (core_setReg h' _).trans (core_setReg h _)

@[simp] theorem core_bumpPair {s : State} {a : Nat} (h : quiet a = true) (h' : quiet (a + 4) = true) (n : Nat) :
    core (bumpPair s a n) = core s := core_setPair h h' _

@[simp] theorem core_foldl {β : Type} {g : State → β → State} (hg : ∀ s x, core (g s x) = core s) (l : List β) (s : State) :
    core (l.foldl g s) = core s :=
  foldl_keeps (fun t => core t = core s) g (fun _ x h => (hg _ x).trans h) l s rfl

@[simp] theorem core_foldl_fst {α β : Type} {g : State × α → β → State × α} (hg : ∀ a x, core (g a x).1 = core a.1)
    (l : List β) (a : State × α) : core (l.foldl g a).1 = core a.1 :=
  foldl_keeps (fun b => core b.1 = core a.1) g (fun _ x h => (hg _ x).trans h) l a rfl

/-- What the core shows of the panel. -/
def corePanel (p : Panel) : CoreRegs × AMap Nat × List (Nat × Nat) := (coreRegs p.regs, p.ras.standFires, p.ras.faultTimes)

theorem corePanel_logTo (p : Panel) (e : EventRec) : corePanel (logTo p e) = corePanel p := by
  have h : coreRegs (bumpReg p.regs Reg.RAS_EVLOG_LOST 1) = coreRegs p.regs := coreRegs_regPut (by decide) _
  simp only [corePanel, logTo, apply_ite coreRegs, h, ite_self]

theorem corePanel_eventTo (p : Panel) {page : Nat} (h : quiet (page + Reg.EVT_CAUSE) = true) (tb code part a0 a1 flags : Nat) :
    corePanel (eventTo p tb page code part a0 a1 flags) = corePanel p := by
  have hr : ∀ w r b, corePanel ⟨regPut p.regs (page + Reg.EVT_CAUSE) w, r, b⟩ = corePanel ⟨p.regs, r, b⟩ := fun w r b => by
    simp only [corePanel, coreRegs_regPut h]
  simp only [eventTo, apply_ite corePanel, corePanel_logTo, hr, ite_self]

theorem core_onPanel {s : State} {f : Panel → Panel} (h : corePanel (f ⟨s.regs, s.ras, s.host⟩) = corePanel ⟨s.regs, s.ras, s.host⟩) :
    core (onPanel s f) = core s := by
  simp only [corePanel, Prod.mk.injEq] at h
  simp only [core, onPanel, h]

@[simp] theorem core_postFlags {s : State} {page : Nat} (h : quiet (page + Reg.EVT_CAUSE) = true) (code part a0 a1 flags : Nat) :
    core (postFlags s page code part a0 a1 flags) = core s := core_onPanel (corePanel_eventTo _ h ..)

@[simp] theorem core_post {s : State} {page : Nat} (h : quiet (page + Reg.EVT_CAUSE) = true) (code part a0 a1 : Nat) :
    core (post s page code part a0 a1) = core s := core_postFlags h ..

end Sys2Proof.Machine

namespace Sys2Proof.Machine

section
variable {s : State} {a n k p q st ch die B port peer tier : Nat}

/-! ## Quotas, flash and the write buffer -/

@[simp] theorem core_updPart {f : Part → Part} : core (updPart s p f) = core s := by rfl

@[simp] theorem core_charge : core (charge s p tier n) = core s := by rfl

@[simp] theorem core_credit : core (credit s p tier n) = core s := by rfl

@[simp] theorem core_updChan {f : Channel → Channel} : core (updChan s ch f) = core s := by rfl

@[simp] theorem core_setDieOp {o : Option DieOp} : core (setDieOp s ch die o) = core s := by rfl

@[simp] theorem core_updBlock {f : Block → Block} : core (updBlock s k f) = core s := by rfl

@[simp] theorem core_kick : core (kick s) = core s := by simp [kick]

@[simp] theorem core_updSb {f : SuperBlock → SuperBlock} : core (updSb s B f) = core s := by rfl

theorem core_openSb {stream b : Nat} {t : State} (h : openSb s stream = some (t, b)) : core t = core s := by
  unfold openSb at h
  split at h
  · cases h
  · cases h
    simp

@[simp] theorem core_takeSlot {stream : Nat} : core (takeSlot s stream).1 = core s := by
  have fresh : ∀ f : State → Nat → SuperBlock → State × Option Nat, (∀ t b x, core (f t b x).1 = core t) →
      core (match openSb s stream with
        | none => (s, none)
        | some (t, b) => match getSb t b with | some x => f t b x | none => (t, none)).1 = core s := fun f hf => by
    split
    · rfl
    · rename_i t b h
      split <;> simp [hf, core_openSb h]
  unfold takeSlot
  dsimp only
  split
  · exact fresh _ fun _ _ _ => rfl
  · split
    · split
      · rfl
      · exact fresh _ fun _ _ _ => rfl
    · exact fresh _ fun _ _ _ => rfl

@[simp] theorem core_assignSlots : core (assignSlots s) = core s := by
  refine core_foldl (fun t b => ?_) _ _
  have h := core_takeSlot (s := t) (stream := 0)
  rcases hs : takeSlot t 0 with ⟨u, _ | k⟩
  · rfl
  · rw [hs] at h
    simpa using h

/-- A field of FTL_STAT written: of the core at most the lost stand and the redundancy change. -/
theorem core_setStat {f : BitField} {v : Nat} : core (setF s Reg.FTL_STAT f v) = { core s with regs := { (core s).regs with
    lost := getF (setF s Reg.FTL_STAT f v) Reg.FTL_STAT Fld.FTL_STAT_lost_stand
    redund := getF (setF s Reg.FTL_STAT f v) Reg.FTL_STAT Fld.FTL_STAT_redund } } := by
  have h : ∀ b, b ≠ Reg.FTL_STAT → wordIn (setF s Reg.FTL_STAT f v).regs b = wordIn s.regs b :=
    fun b hb => (regGet_setReg ..).trans (if_neg hb)
  rw [core, coreRegs, h _ (by decide), h _ (by decide), h _ (by decide), h _ (by decide)]
  rfl

@[simp] theorem core_setWriteProt {v : Nat} : core (setF s Reg.FTL_STAT Fld.FTL_STAT_write_prot v) = core s := by
  rw [core_setStat, getF_setF_ne _ _ _ _ _ _ (by decide) (by decide), getF_setF_ne _ _ _ _ _ _ (by decide) (by decide)]
  rfl

theorem core_setLost {v : Nat} : core (setF s Reg.FTL_STAT Fld.FTL_STAT_lost_stand v) =
    { core s with regs := { (core s).regs with lost := v % 32 } } := by
  rw [core_setStat, getF_setF_same _ _ _ _ (by decide), getF_setF_ne _ _ _ _ _ _ (by decide) (by decide)]
  rfl

theorem core_setRedund {v : Nat} : core (setF s Reg.FTL_STAT Fld.FTL_STAT_redund v) =
    { core s with regs := { (core s).regs with redund := v % 8 } } := by
  rw [core_setStat, getF_setF_same _ _ _ _ (by decide), getF_setF_ne _ _ _ _ _ _ (by decide) (by decide)]
  rfl

@[simp] theorem core_freeErased {sb : SuperBlock} : core (freeErased s B sb) = core s := by
  unfold freeErased
  dsimp only
  generalize hf : List.foldl _ (s, true) _ = r
  have h : core r.1 = core s := by
    rw [← hf]
    refine core_foldl_fst (fun acc x => ?_) _ _
    split <;> simp
  simp [h]

@[simp] theorem core_sweepErased : core (sweepErased s) = core s := by simp [sweepErased]

@[simp] theorem core_sweepReclaimed : core (sweepReclaimed s) = core s := by simp [sweepReclaimed]

@[simp] theorem core_countRebuild : core (countRebuild s) = core s := by unfold countRebuild; split <;> simp

@[simp] theorem core_resumeDies : core (resumeDies s) = core s := by rfl

@[simp] theorem core_flashSettle : core (flashSettle s) = core s := by simp [flashSettle]

@[simp] theorem core_queueRelocs {l : List (Nat × MapEntry)} : core (queueRelocs s l) = core s := by rfl

@[simp] theorem core_reslot {sel : BufUnit → Bool} : core (reslot s sel) = core s := by simp [reslot]

@[simp] theorem core_mapSet {e : Option MapEntry} : core (mapSet s k e) = core s := by rfl

@[simp] theorem core_landUnit {b : BufUnit} : core (landUnit s b) = core s := by unfold landUnit; split <;> simp

/-! ## Messages and completions -/

@[simp] theorem core_updAssoc {f : Assoc → Assoc} : core (updAssoc s port peer f) = core s := by rfl

@[simp] theorem core_queueMsgs : core (queueMsgs s) = core s := by
  refine core_foldl (fun t m => ?_) _ _
  split
  · rfl
  · split <;> simp

@[simp] theorem core_sendNumbered {f : SentFrame} : core (sendNumbered s port peer f) = core s := by
  simp [sendNumbered, chwReg, Nat.add_assoc]

@[simp] theorem core_nextEpoch : core (nextEpoch s port peer) = core s := by unfold nextEpoch; split <;> simp

@[simp] theorem core_transmit : core (transmit port peer n s) = core s := by
  induction n generalizing s with
  | zero => rfl
  | succ n ih =>
    unfold transmit
    dsimp only
    split
    · simp
    · split <;> simp [ih]

@[simp] theorem core_pump : core (pump s) = core s := by simp [pump]

@[simp] theorem core_sendMsg {bytes : List Byte} {delta : Option Nat} : core (sendMsg s peer ch bytes delta) = core s := by
  simp [sendMsg]

@[simp] theorem core_ackDeltas : core (ackDeltas s) = core s := by simp [ackDeltas]

@[simp] theorem core_completeAt {r : Reply} : core (completeAt s p q r) = core s := by rfl

@[simp] theorem core_settle : core (settle s) = core s := by simp [settle]

@[simp] theorem core_closeSb : core (closeSb s B) = core s := by simp [closeSb]

@[simp] theorem core_wordlineDone : core (wordlineDone s B ch) = core s := by unfold wordlineDone; split <;> simp

@[simp] theorem core_loseSlots : core (loseSlots s st) = core s := by
  refine (core_foldl (fun t e => ?_) _ _).trans ?_
  · split <;> simp
  · simp

@[simp] theorem core_aen {ty info : Nat} : core (aen s ty info) = core s := by rfl

@[simp] theorem core_undurable {unit cause : Nat} : core (undurable s p unit cause) = core s := by simp [undurable]

@[simp] theorem core_dropBuffered {b : BufUnit} {poison : Bool} {cause : Nat} :
    core (dropBuffered s b poison cause) = core s := by simp [dropBuffered]

@[simp] theorem core_loseCopies : core (loseCopies s st) = core s := by simp [loseCopies]

/-! ## Memory -/

@[simp] theorem core_freePages {l : List Nat} : core (freePages s l) = core s := by rfl

@[simp] theorem core_dropCopy : core (dropCopy s k) = core s := by unfold dropCopy; split <;> simp

@[simp] theorem core_dropWindow : core (dropWindow s k) = core s := by unfold dropWindow; split <;> simp

@[simp] theorem core_swapPlaces : core (swapPlaces s p q) = core s := by unfold swapPlaces; split <;> simp

/-- Registers that the core does not tell apart, one set or another. -/
theorem core_regs {m : AMap Word} (h : coreRegs m = coreRegs s.regs) : core { s with regs := m } = core s := by
  simp only [core, h]

theorem coreRegs_of_core {t : State} (h : core t = core s) : coreRegs t.regs = coreRegs s.regs := congrArg Core.regs h

@[simp] theorem core_countWrite : core (countWrite s a n) = core s := by
  refine core_regs ?_
  split
  · exact coreRegs_of_core (core_bumpPair (by simp) (by simp [Nat.add_assoc]) _)
  · rfl

@[simp] theorem core_countRead : core (countRead s a n) = core s := by
  refine core_regs ?_
  split
  · exact coreRegs_of_core (core_bumpPair (by simp) (by simp [Nat.add_assoc]) _)
  · rfl

@[simp] theorem core_memZero : core (memZero s a n) = core s := by simp [memZero]

@[simp] theorem core_takePage : core (takePage s p q) = core s := by
  have h := coreRegs_of_core (core_memZero (s := s) (a := locPage q) (n := 65536))
  unfold takePage
  dsimp only
  rw [core_replace]
  exact core_regs (by simp only [apply_ite coreRegs, h, ite_self])

@[simp] theorem core_memWrite {l : List Byte} : core (memWrite s a l) = core s := by simp [memWrite]

@[simp] theorem core_memCopy : core (memCopy s p q n) = core s := by simp [memCopy]

@[simp] theorem core_memPaste {c : Bytes} {bad : List Nat} : core (memPaste s a n c bad) = core s := by simp [memPaste]

@[simp] theorem core_scramble : core (scramble s a n) = core s := by simp [scramble]

@[simp] theorem core_freeRegion : core (freeRegion s a n) = core s := by rfl

@[simp] theorem core_takeRegion : core (takeRegion s p a n) = core s := by simp [takeRegion]

@[simp] theorem core_releasePages {l : List Nat} : core (releasePages s p l) = core s := by rfl

end

end Sys2Proof.Machine

namespace Sys2Proof.Machine

section
variable {s : State} {a n k p q st ch die B port peer tier : Nat} {j : Job} {al : Alm}

/-! ## Jobs: what they hold and what they leave -/

@[simp] theorem core_updJob {f : Job → Job} : core (updJob s n f) = core s := by rfl

@[simp] theorem core_unpinCopy : core (unpinCopy s k) = core s := by unfold unpinCopy; split <;> simp

@[simp] theorem core_dropPrefetch : core (dropPrefetch s n) = core s := by simp [dropPrefetch]

@[simp] theorem core_freeJobPages {tagged : Bool} {l : List Nat} : core (freeJobPages s tagged l) = core s := by
  simp [freeJobPages]

@[simp] theorem core_dropWork : core (dropWork s n) = core s := by unfold dropWork; split <;> simp

@[simp] theorem core_dropAccess {sel : Access → Bool} : core (dropAccess s sel) = core s := by rfl

@[simp] theorem core_dropAccesses : core (dropAccesses s n) = core s := by simp [dropAccesses]

@[simp] theorem core_shrinkTable {t t' : Table} : core (shrinkTable s k t t') = core s := by rfl

@[simp] theorem core_discardTable : core (discardTable s k) = core s := by unfold discardTable; split <;> simp

theorem core_installTable {t : State × Nat} (h : installTable s k = some t) : core t.1 = core s := by
  unfold installTable at h
  split at h
  · cases h
  · split at h
    · cases h
    · dsimp only at h
      split at h <;> cases h
      exact core_shrinkTable

@[simp] theorem core_updTable {f : Table → Table} : core (updTable s k f) = core s := by rfl

@[simp] theorem core_sweepTable : core (sweepTable s k) = core s := by unfold sweepTable; split <;> simp

@[simp] theorem core_unpinTable {epoch : Nat} : core (unpinTable s k epoch n) = core s := by simp [unpinTable]

@[simp] theorem core_leaveTable {pin : TablePin} {last : Bool} : core (leaveTable s n j pin last).1 = core s := by
  have unpin : ∀ t : State × Bool, core t.1 = core s → ∀ k e, core (if last then unpinTable t.1 k e n else t.1) = core s :=
    fun t h k e => by simp [h]
  unfold leaveTable
  dsimp only
  refine unpin _ ?_ _ _
  split
  · rfl
  · split
    · rfl
    · split
      · rfl
      · split
        · simp
        · split
          · rename_i h
            exact core_installTable h
          · simp

@[simp] theorem core_keepCommons : core (keepCommons s j al).1 = core s := by unfold keepCommons; split <;> simp

@[simp] theorem core_freeJobRegions {tagged : Bool} {l : List (Nat × Nat)} : core (freeJobRegions s tagged l) = core s := by
  simp [freeJobRegions]

@[simp] theorem core_updCopse {f : Copse → Copse} : core (updCopse s k f) = core s := by rfl

@[simp] theorem core_leaveCopse : core (leaveCopse s n k) = core s := by rfl

@[simp] theorem core_creditAll {l : List (Nat × Nat)} : core (creditAll s p l) = core s := by simp [creditAll]

@[simp] theorem core_releaseJob : core (releaseJob s n).1 = core s := by
  unfold releaseJob
  split
  · rfl
  · split
    · rfl
    · dsimp only
      generalize ht : List.foldl _ (_, false) _ = t
      have h : core t.1 = core s := by
        rw [← ht]
        exact (core_foldl_fst (fun acc x => by simp) _ _).trans (by simp)
      simp [apply_ite Prod.fst, h]

/-- What becomes of the adapters' pins leaves their pages. -/
theorem homesOf_map {f : Nat × Adapter → Adapter} (m : AMap Adapter) (h : ∀ e, (f e).pages = e.2.pages) :
    homesOf (m.map fun e => (e.1, f e)) = homesOf m := by
  simp [homesOf, Function.comp_def, h]

@[simp] theorem core_releaseGang : core (releaseGang s k) = core s := by
  unfold releaseGang
  split
  · rfl
  · rename_i g _
    dsimp only
    generalize ht : List.foldl _ s g.jobs = t
    have h : core t = core s := by
      rw [← ht]
      simp
    rw [← h, core, core, homesOf_map _ fun e => by split <;> rfl]

@[simp] theorem core_answer {r : Req} {pay : List Byte} : core (answer s r pay).1 = core s := by
  unfold answer; dsimp only; split <;> rfl

@[simp] theorem core_endGang {x : Status} : core (endGang s k x) = core s := by
  unfold endGang
  split
  · rfl
  · split
    · simp
    · simp

@[simp] theorem core_updIndex {f : Index → Index} : core (updIndex s p f) = core s := by rfl

@[simp] theorem core_dropBatch : core (dropBatch s n) = core s := by unfold dropBatch; split <;> simp

@[simp] theorem core_endSearch {r : Reply} : core (endSearch s k r) = core s := by unfold endSearch; split <;> simp

@[simp] theorem core_endJob {x : Status} {dw : Nat} : core (endJob s n x dw) = core s := by
  unfold endJob
  split
  · rfl
  · split
    · split <;> simp
    · dsimp only
      generalize hr : releaseJob s n = r
      have h : core r.1 = core s := by rw [← hr, core_releaseJob]
      simp [h]

@[simp] theorem core_recordReject {code index kind unit part : Nat} :
    core (recordReject s code index kind unit part) = core s := by simp [recordReject]

@[simp] theorem core_endUnbindable : core (endUnbindable s n) = core s := by unfold endUnbindable; split <;> simp

/-! ## The restart of a day -/

@[simp] theorem core_stopCopses : core (stopCopses s n) = core s := by rfl

@[simp] theorem core_scrambleBuf {b : BufDef} : core (scrambleBuf s n j b) = core s := by simp [scrambleBuf]

@[simp] theorem core_restartHot : core (restartHot s n) = core s := by unfold restartHot; split <;> simp

@[simp] theorem core_workPage : core (workPage s n p) = core s := by
  unfold workPage
  split
  · rfl
  · split
    · rfl
    · split
      · rfl
      · dsimp only
        split <;> simp

@[simp] theorem core_bufWrite {bn o len : Nat} {b : BufDef} {c : Bytes} {bad : List Nat} :
    core (bufWrite s n bn b o len c bad) = core s := by
  unfold bufWrite
  split
  · rfl
  · split
    · rfl
    · split
      · split <;> simp
      · split
        · simp
        · dsimp only
          split <;> simp

@[simp] theorem core_bufPut {bn o : Nat} {b : BufDef} {l : List Byte} : core (bufPut s n bn b o l) = core s := by
  simp [bufPut]

@[simp] theorem core_fillCopy {i slot : Nat} {it : RowItem} {b : Binding} {ad : Adapter} :
    core (fillCopy s n i slot it b ad al) = core s := by
  unfold fillCopy
  dsimp only
  split
  · simp
  · split <;> simp

@[simp] theorem core_fillCopies : core (fillCopies s n) = core s := by
  unfold fillCopies
  split
  · rfl
  · split
    · split
      · rfl
      · refine core_foldl (fun t x => core_foldl (fun u m => ?_) _ _) _ _
        split
        · rfl
        · split <;> simp
    · rfl

@[simp] theorem core_fillRoutes : core (fillRoutes s n) = core s := by
  unfold fillRoutes
  split
  · rfl
  · split
    · rfl
    · split
      · rfl
      · refine core_foldl (fun t it => ?_) _ _
        split
        · split <;> simp
        · rfl

@[simp] theorem core_clearSections : core (clearSections s n) = core s := by
  unfold clearSections
  split
  · rfl
  · split
    · rfl
    · split
      · rfl
      · refine core_foldl (fun t it => ?_) _ _
        split
        · split <;> simp
        · rfl

@[simp] theorem core_restartDay : core (restartDay s n) = core s := by
  unfold restartDay
  split
  · rfl
  · split <;> simp

@[simp] theorem core_loadInputs : core (loadInputs s n j al) = core s := by
  unfold loadInputs
  refine core_foldl_fst (fun acc x => ?_) _ _
  split <;> simp

/-! ## Bindings -/

@[simp] theorem core_enterCopse {c : Nat} {borrow : Bool} : core (enterCopse s n j al c k borrow) = core s := by rfl

@[simp] theorem core_loadKeys : core ((loadKeys s ch p).getD s) = core s := by
  unfold loadKeys
  dsimp only
  split
  · simp
  · split
    · simp
    · split
      · simp
      · split
        · rfl
        · split <;> simp

@[simp] theorem core_updProg {f : ProgRec → ProgRec} : core (updProg s p q f) = core s := by rfl

@[simp] theorem core_noteRebind : core (noteRebind s n) = core s := by
  unfold noteRebind
  split
  · rfl
  · rename_i j _
    cases j.gang <;> simp

@[simp] theorem core_applyRebind {pl : Plan} {rs bs : List Nat} : core (applyRebind s n j al pl rs bs) = core s := by
  simp [applyRebind]

@[simp] theorem core_rebindJob : core (rebindJob s n) = core s := by
  unfold rebindJob
  split
  · rfl
  · split
    · rfl
    · split
      · rfl
      · split
        · simp
        · split <;> simp

@[simp] theorem core_rebindAll : core (rebindAll s) = core s := by simp [rebindAll]

@[simp] theorem core_dropJob : core (dropJob s n) = core s := by unfold dropJob; split <;> simp

@[simp] theorem core_dropSearch : core (dropSearch s k) = core s := by unfold dropSearch; split <;> simp

@[simp] theorem core_stopWork : core (stopWork s) = core s := by simp [stopWork]

@[simp] theorem core_flushToHoldup : core (flushToHoldup s) = core s := by rfl

/-- Halting notes the dump and ends what ran; the times of stand fires and sequencer faults stay. -/
theorem core_halted (r : Ras) (ftl : Ftl) (power : Power) (h : r.standFires = s.ras.standFires)
    (h' : r.faultTimes = s.ras.faultTimes) : core { s with ras := r, ftl := ftl, power := power } = core s := by
  simp only [core, h, h']

/-- A fatal error halts the module; the stands, the sequencers' counts and the objects stay. -/
@[simp] theorem core_fatal : core (fatal s) = core s := by
  unfold fatal
  dsimp only
  split
  · simp
  · split
    · split
      · simp [core_halted]
      · simp
    · simp [core_halted]

end

end Sys2Proof.Machine

namespace Sys2Proof.Machine

section
variable {s : State} {a n k p q st ch die B : Nat} {j : Job} {al : Alm}

/-! ## Replays and spare copses -/

@[simp] theorem core_noteMismatch {ring : Nat} {h : HarvRun} : core (noteMismatch s k ring h) = core s := by
  simp [noteMismatch]

@[simp] theorem core_putReplay {c : Copse} {steps : Nat} : core (putReplay s k c steps) = core s := by
  simp [putReplay, Nat.add_assoc]

@[simp] theorem core_writeHarvest {e : Nat} {rows : List (List Byte)} : core (writeHarvest s n al k e rows) = core s := by
  unfold writeHarvest
  dsimp only
  split
  · rfl
  · split <;> simp

@[simp] theorem core_harvest {e : Nat} : core (harvest s n al k e).1 = core s := by simp [harvest]

@[simp] theorem core_replayHarvest {h : HarvRun} {attempt : Nat} {rings : List Nat} :
    core (replayHarvest s k h attempt rings) = core s := by
  unfold replayHarvest
  split
  · rfl
  · split <;> simp

@[simp] theorem core_markSuspect : core (markSuspect s k p) = core s := by simp [markSuspect]

@[simp] theorem core_moveBinding {c old new : Nat} : core (moveBinding s n j al c old new) = core s := by simp [moveBinding]

@[simp] theorem core_moveToSpare {b : CopseBind} : core (moveToSpare s k b).1 = core s := by
  unfold moveToSpare
  split
  · rfl
  · split
    · rfl
    · split
      · dsimp only
        split <;> simp
      · rfl

@[simp] theorem core_moveOther : core (moveOther s k n) = core s := by
  refine core_foldl (fun t b => ?_) _ _
  have h := core_moveToSpare (s := t) (k := k) (b := b)
  split <;> (rename_i e; rw [e] at h; simpa using h)

@[simp] theorem core_toSpare {e : Nat} {h : HarvRun} : core (toSpare s k e h) = core s := by
  unfold toSpare
  dsimp only
  generalize ht : moveToSpare _ k _ = t
  have ht : core t.1 = core s := by rw [← ht]; simp
  split
  · simpa using ht
  · split
    · exact ht
    · split
      · exact ht
      · simpa using ht

@[simp] theorem core_rebindCopse : core (rebindCopse s n k) = core s := by
  unfold rebindCopse
  split
  · rfl
  · split
    · rfl
    · split <;> simp

@[simp] theorem core_failSpare {h : HarvRun} : core (failSpare s k h) = core s := by
  unfold failSpare
  dsimp only
  split <;> simp

@[simp] theorem core_mismatch {e : Nat} {h : HarvRun} : core (mismatch s k e h) = core s := by simp [mismatch]

@[simp] theorem core_passTimeout {r : PassRun} : core (passTimeout s k r) = core s := by
  unfold passTimeout
  dsimp only
  split
  · simp
  · split
    · simp
    · split
      · simp
      · split
        · simp
        · generalize ht : moveToSpare _ k _ = t
          have ht : core t.1 = core s := by rw [← ht]; simp
          split <;> simpa using ht

@[simp] theorem core_copseControl : core (copseControl s k) = core s := by
  unfold copseControl
  split
  · simp
  · split <;> simp

/-! ## Media reads and operations that a channel reset ends -/

@[simp] theorem core_countBlockRead : core (countBlockRead s k) = core s := by simp [countBlockRead]

@[simp] theorem core_noteBits {bits : Nat} : core (noteBits s k bits) = core s := by simp [noteBits]

@[simp] theorem core_updAccess {f : Access → Access} : core (updAccess s k f) = core s := by rfl

@[simp] theorem core_finishRead : core (finishRead s k) = core s := by
  unfold finishRead
  split
  · rfl
  · split
    · rfl
    · dsimp only
      split <;> simp [poisonedReply]

@[simp] theorem core_enterUnit {u idx kind stream : Nat} {v : UnitVal} :
    core (enterUnit s p u idx kind stream v).1 = core s := by simp [enterUnit]

@[simp] theorem core_staleCopy : core (staleCopy s p k) = core s := by
  unfold staleCopy
  dsimp only
  split <;> simp

@[simp] theorem core_forestRead {u idx : Nat} : core (forestRead s p u idx).1 = core s := by
  unfold forestRead
  split
  · rfl
  · split
    · rfl
    · split
      · rfl
      · simp [apply_ite Prod.fst]

@[simp] theorem core_deliverRead {acc : Nat} {ok : Bool} : core (deliverRead s k acc ok) = core s := by
  unfold deliverRead
  split
  · rfl
  · dsimp only
    split
    · simp
    · split
      · simp
      · split
        · simp
        · split <;> simp

@[simp] theorem core_deliverSearch {x : Access} {ok : Bool} : core (deliverSearch s x ok) = core s := by
  unfold deliverSearch
  split
  · rfl
  · simp [fillSlot]

@[simp] theorem core_endAccess {x : Access} {ok : Bool} : core (endAccess s k x ok) = core s := by simp [endAccess]

@[simp] theorem core_dayFault {cause : DayFault} : core (dayFault s n cause) = core s := by
  unfold dayFault
  split
  · rfl
  · split
    · rfl
    · split <;> simp

@[simp] theorem core_tagMismatch : core (tagMismatch s n (rangerPage ch)) = core s := by
  unfold tagMismatch
  split <;> simp

@[simp] theorem core_dropTagged {x : Access} : core (dropTagged s k x) = core s := by simp [dropTagged]

@[simp] theorem core_readDone {x : Access} {results : List CodewordResult} {ok : Bool} :
    core (readDone s k x results ok) = core s := by simp [readDone]

@[simp] theorem core_interruptedProgram {o : DieOp} : core (interruptedProgram s ch die o) = core s := by
  simp [interruptedProgram]

@[simp] theorem core_eraseInactive : core (eraseInactive s ch die) = core s := by simp [eraseInactive]

@[simp] theorem core_resetDieOp {o : DieOp} : core (resetDieOp s ch die o) = core s := by simp [resetDieOp]

/-! ## Objects on a lost stand, searches, resets of a stand -/

@[simp] theorem core_objectLost {kind id : Nat} : core (objectLost s p kind id) = core s := by simp [objectLost]

@[simp] theorem core_loseTable {t : Table} : core (loseTable s k t) = core s := by simp [loseTable]

@[simp] theorem core_loseStaging : core (loseStaging s p) = core s := by simp [loseStaging]

@[simp] theorem core_loseWindow : core (loseWindow s p) = core s := by simp [loseWindow]

@[simp] theorem core_loseJob : core (loseJob s n j) = core s := by simp [loseJob]

@[simp] theorem core_restartSearch : core (restartSearch s k) = core s := by rfl

@[simp] theorem core_restartSearches : core (restartSearches s st) = core s := by simp [restartSearches]

@[simp] theorem core_zeroStand : core (zeroStand s st) = core s := by rfl

@[simp] theorem core_standReset : core (standReset s st) = core s := by
  refine core_restartSearches.trans ((core_foldl (fun t n => ?_) _ _).trans (by simp))
  split
  · split <;> simp
  · rfl

end

end Sys2Proof.Machine

namespace Sys2Proof.Machine

/-! # A stand is lost (R17, R252, R507 to R509) -/

section
variable {s t : State} {st p q : Nat}

/-! ## What the core says of the stands -/

theorem standPresent_of_core (h : (core t).regs.stands = (core s).regs.stands) (i : Nat) :
    standPresent t i = standPresent s i := by
  have h : regGet t Reg.HUB_STANDS = regGet s Reg.HUB_STANDS := h
  simp only [standPresent, getF, h]

theorem lostStand_of_core (h : (core t).regs.lost = (core s).regs.lost) : lostStand t = lostStand s := by
  have h : getF t Reg.FTL_STAT Fld.FTL_STAT_lost_stand = getF s Reg.FTL_STAT Fld.FTL_STAT_lost_stand := h
  simp only [lostStand, h]

theorem lt_of_standPresent (h : standPresent s st = true) : st < 8 := by
  simp only [standPresent, Bool.and_eq_true, decide_eq_true_eq] at h
  exact h.1.1

/-- A stand noted as failed in HUB_STANDS. -/
def noteFailed (s : State) (st : Nat) : State :=
  setF s Reg.HUB_STANDS Fld.HUB_STANDS_failed (getF s Reg.HUB_STANDS Fld.HUB_STANDS_failed ||| 2 ^ st)

theorem standPresent_noteFailed (i : Nat) : standPresent (noteFailed s st) i = (standPresent s i && i != st) := by
  have hp : getF (noteFailed s st) Reg.HUB_STANDS Fld.HUB_STANDS_present = getF s Reg.HUB_STANDS Fld.HUB_STANDS_present :=
    getF_setF_ne _ _ _ _ _ _ (by decide) (by decide)
  have hf : getF (noteFailed s st) Reg.HUB_STANDS Fld.HUB_STANDS_failed =
      (getF s Reg.HUB_STANDS Fld.HUB_STANDS_failed ||| 2 ^ st) % 2 ^ 8 := getF_setF_same _ _ _ _ (by decide)
  rw [standPresent, standPresent, hp, hf]
  by_cases hi : i < 8
  · simp only [bitOf_eq_testBit, Nat.testBit_mod_two_pow, Nat.testBit_or, Nat.testBit_two_pow, hi, decide_true,
      Bool.true_and, Bool.not_or, bne, eq_comm (a := st), Bool.and_assoc]
    rfl
  · simp [hi]

theorem core_noteFailed : core (noteFailed s st) =
    { core s with regs := { (core s).regs with stands := regGet (noteFailed s st) Reg.HUB_STANDS } } := by
  have h : ∀ b, b ≠ Reg.HUB_STANDS → wordIn (noteFailed s st).regs b = wordIn s.regs b :=
    fun b hb => (regGet_setReg ..).trans (if_neg hb)
  rw [core, coreRegs, h Reg.RAS_WDOG_FIRES (by decide), h Reg.RAS_WDOG_LAST (by decide), h Reg.RAS_CTL_FAULT (by decide),
    h Reg.FTL_STAT (by decide)]
  rfl

/-! ## The declaration -/

/-- The flash of a stand is lost: the first such stand is the lost one, a second leaves no redundancy (R252, R253). -/
def lossRegs (r : CoreRegs) (st : Nat) : CoreRegs :=
  if r.lost < 8 then { r with redund := 3 } else { r with lost := st % 32, redund := 1 }

theorem lostStand_isNone : (lostStand s).isNone = !decide ((core s).regs.lost < 8) := by
  have h : lostStand s = if (core s).regs.lost < 8 then some (core s).regs.lost else none := rfl
  rw [h]
  split <;> simp [*]

theorem core_loseFlash : core (loseFlash s st) = { core s with regs := lossRegs (core s).regs st } := by
  unfold loseFlash
  dsimp only
  rw [lostStand_isNone]
  by_cases h : (core s).regs.lost < 8 <;> simp [h, lossRegs, core_setLost, core_setRedund]

/-- A loss is declared: the stand is noted, the event posted, its share of flash is lost (R507). -/
def declareLoss (s : State) (st : Nat) : State :=
  loseFlash (aen (post (noteFailed s st) pgFault 0x0707 0 (pathCode (standBase st)) 0) 7 2) st

theorem core_declareLoss : core (declareLoss s st) = { core s with
    regs := lossRegs { (core s).regs with stands := regGet (noteFailed s st) Reg.HUB_STANDS } st } := by
  rw [declareLoss, core_loseFlash, core_aen, core_post (by simp), core_noteFailed]

/-- The objects that lay on the stand are gone, and the lost pages of the others replaced. -/
def clearStand (s : State) (st : Nat) : State := forgetStand (replacePages (loseObjects s st) st) st

/-- What follows the declaration and the loss of objects leaves the core. -/
theorem core_failStand (h : standPresent s st = true) : core (failStand s st) = core (clearStand (declareLoss s st) st) := by
  unfold failStand
  rw [if_neg (by simp [h])]
  dsimp only
  generalize hc : core (clearStand (declareLoss s st) st) = c
  rw [core_ite, core_fatal, ite_self]
  refine (core_foldl (fun t e => ?_) _ _).trans ?_
  · split
    · simp
    · rfl
  · refine (core_foldl (fun t n => core_rebindJob) _ _).trans ((core_foldl (fun t n => ?_) _ _).trans ?_)
    · split
      · split
        · simp
        · rfl
      · rfl
    · rw [core_restartSearches]
      exact hc

/-! ## No object keeps a page on the stand -/

/-- Objects and glades apart, the core is the same. -/
def sameButObjects (c d : Core) : Prop :=
  d = { c with glades := d.glades, alms := d.alms, rowsets := d.rowsets, homes := d.homes }

theorem sameButObjects.trans {c d e : Core} (h : sameButObjects c d) (h' : sameButObjects d e) : sameButObjects c e := by
  unfold sameButObjects at *
  rw [h', h]

/-- No almanac, row set or resident adapter has a page on the stand. -/
structure Cleared (st : Nat) (c : Core) : Prop where
  alms : ∀ h a, aGet? c.alms h = some a → pagesOn st a.pages = false
  rowsets : ∀ k r, aGet? c.rowsets k = some r → pagesOn st r.pages = false
  homes : ∀ k l, aGet? c.homes k = some l → pagesOn st (l.getD []) = false

theorem aGet?_mapVal {α β : Type} (m : AMap α) (f : α → β) (k : Nat) :
    aGet? (m.map fun e => (e.1, f e.2)) k = (aGet? m k).map f := by
  induction m with
  | nil => rfl
  | cons e r ih =>
    simp only [List.map_cons, aGet?, ih]
    split <;> rfl

theorem mem_of_aGet? {α : Type} {m : AMap α} {k : Nat} {v : α} (h : aGet? m k = some v) : (k, v) ∈ m := by
  induction m with
  | nil => cases h
  | cons e r ih =>
    simp only [aGet?] at h
    split at h
    · rename_i e
      cases h
      simp [← e]
    · exact List.mem_cons_of_mem _ (ih h)

theorem aGet?_homes (k : Nat) : aGet? (core s).homes k = (aGet? s.adapters k).map (·.pages) := aGet?_mapVal ..

theorem core_loseAlmanac {h : Nat} {a : Alm} : core (loseAlmanac s h a) = { core s with alms := aDel s.alms h } := by
  unfold loseAlmanac
  dsimp only
  generalize ht : List.foldl _ _ _ = t
  have hc : core t = core s := by
    rw [← ht]
    simp
  have ha : t.alms = s.alms := congrArg Core.alms hc
  rw [core_releasePages, ← hc, ← ha]
  rfl

theorem core_loseRowSet {k : Nat} {r : RowSet} : core (loseRowSet s k r) = { core s with rowsets := aDel s.rowsets k } := by
  have hc : core (objectLost s (k / 256) 3 (k % 256)) = core s := core_objectLost
  have hr : (objectLost s (k / 256) 3 (k % 256)).rowsets = s.rowsets := congrArg Core.rowsets hc
  rw [← hc, ← hr]
  rfl

theorem homesOf_aPut (m : AMap Adapter) (k : Nat) (a : Adapter) : homesOf (aPut m k a) = aPut (homesOf m) k a.pages := by
  induction m with
  | nil => rfl
  | cons e r ih =>
    simp only [homesOf, aPut, List.map_cons] at *
    split
    · rfl
    · split
      · rfl
      · rw [List.map_cons, ih]

theorem core_loseAdapter {k : Nat} {a : Adapter} : core (loseAdapter s k a) = { core s with homes := aPut (core s).homes k none } := by
  have hc : core (objectLost s a.partition 4 k) = core s := core_objectLost
  rw [← hc]
  unfold loseAdapter
  rw [core_releasePages, core]
  dsimp only
  rw [homesOf_aPut]
  rfl

/-- Folding an edit of single keys: the keys edited hold the new value, the others what they held. -/
theorem aGet?_foldl {α β : Type} {get : State → AMap β} {g : State → Nat × α → State} {v : Option β}
    (hg : ∀ s e k, aGet? (get (g s e)) k = if k = e.1 then v else aGet? (get s) k) (l : AMap α) (s : State) (k : Nat) :
    aGet? (get (l.foldl g s)) k = if k ∈ l.map (·.1) then v else aGet? (get s) k := by
  induction l generalizing s with
  | nil => rfl
  | cons e r ih =>
    rw [List.foldl_cons, ih, hg, List.map_cons]
    by_cases h : k = e.1
    · simp [h]
    · have : k ∈ e.1 :: r.map (·.1) ↔ k ∈ r.map (·.1) := by simp [h]
      simp only [this, h, if_false]

/-- Of the objects of a kind, those with a page on the stand are taken and the others stay. -/
theorem cleared_foldl {α β : Type} {get : State → AMap β} {g : State → Nat × α → State} {v : Option β} {m : AMap α}
    {f : α → β} {lost : α → Bool} {bad : β → Bool}
    (hg : ∀ s e k, aGet? (get (g s e)) k = if k = e.1 then v else aGet? (get s) k)
    (hm : ∀ k, aGet? (get s) k = (aGet? m k).map f) (hv : ∀ x ∈ v, bad x = false) (hb : ∀ x, bad (f x) = lost x) (k : Nat) (x : β)
    (h : aGet? (get ((m.filter fun e => lost e.2).foldl g s)) k = some x) : bad x = false := by
  rw [aGet?_foldl hg] at h
  split at h
  · exact hv x h
  · rename_i hk
    rw [hm, Option.map_eq_some_iff] at h
    obtain ⟨a, ha, rfl⟩ := h
    by_contra hx
    rw [hb, Bool.not_eq_false] at hx
    exact hk (List.mem_map.mpr ⟨(k, a), List.mem_filter.mpr ⟨mem_of_aGet? ha, hx⟩, rfl⟩)

end

end Sys2Proof.Machine

namespace Sys2Proof.Machine

section
variable {s t : State} {st p q : Nat}

def loseAlmanacs (s : State) (st : Nat) : State :=
  (s.alms.filter fun e => pagesOn st e.2.pages).foldl (fun s e => loseAlmanac s e.1 e.2) s

def loseTables (s : State) (st : Nat) : State :=
  (s.tables.filter fun e => pagesOn st e.2.allPages).foldl (fun s e => loseTable s e.1 e.2) s

def loseRowSets (s : State) (st : Nat) : State :=
  (s.rowsets.filter fun e => pagesOn st e.2.pages).foldl (fun s e => loseRowSet s e.1 e.2) s

def loseAdapters (s : State) (st : Nat) : State :=
  (s.adapters.filter fun e => pagesOn st (e.2.pages.getD [])).foldl (fun s e => loseAdapter s e.1 e.2) s

theorem core_loseAlmanacs : core (loseAlmanacs s st) = { core s with alms := (loseAlmanacs s st).alms } :=
  foldl_keeps (fun t => core t = { core s with alms := t.alms }) _ (fun t e ht => by
    have h := core_loseAlmanac (s := t) (h := e.1) (a := e.2)
    have h' : (loseAlmanac t e.1 e.2).alms = aDel t.alms e.1 := congrArg Core.alms h
    rw [h, h', ht]) _ _ rfl

theorem core_loseRowSets : core (loseRowSets s st) = { core s with rowsets := (loseRowSets s st).rowsets } :=
  foldl_keeps (fun t => core t = { core s with rowsets := t.rowsets }) _ (fun t e ht => by
    have h := core_loseRowSet (s := t) (k := e.1) (r := e.2)
    have h' : (loseRowSet t e.1 e.2).rowsets = aDel t.rowsets e.1 := congrArg Core.rowsets h
    rw [h, h', ht]) _ _ rfl

theorem core_loseAdapters : core (loseAdapters s st) = { core s with homes := (core (loseAdapters s st)).homes } :=
  foldl_keeps (fun t => core t = { core s with homes := (core t).homes }) _ (fun t e ht => by
    rw [core_loseAdapter, ht]) _ _ rfl

theorem loseAlmanacs_clears (h : Nat) (a : Alm) (ha : aGet? (loseAlmanacs s st).alms h = some a) : pagesOn st a.pages = false :=
  cleared_foldl (get := State.alms) (f := id) (lost := fun a => pagesOn st a.pages) (bad := fun a => pagesOn st a.pages) (v := none)
    (fun _ _ k => (congrArg (fun c : Core => aGet? c.alms k) core_loseAlmanac).trans (aGet?_aDel ..))
    (by simp) (by simp) (fun _ => rfl) h a ha

theorem loseRowSets_clears (k : Nat) (r : RowSet) (hr : aGet? (loseRowSets s st).rowsets k = some r) :
    pagesOn st r.pages = false :=
  cleared_foldl (get := State.rowsets) (f := id) (lost := fun r => pagesOn st r.pages) (bad := fun r => pagesOn st r.pages) (v := none)
    (fun _ _ k => (congrArg (fun c : Core => aGet? c.rowsets k) core_loseRowSet).trans (aGet?_aDel ..))
    (by simp) (by simp) (fun _ => rfl) k r hr

theorem loseAdapters_clears (k : Nat) (l : Option (List Nat)) (hl : aGet? (core (loseAdapters s st)).homes k = some l) :
    pagesOn st (l.getD []) = false :=
  cleared_foldl (get := fun t => (core t).homes) (f := Adapter.pages) (lost := fun a => pagesOn st (a.pages.getD []))
    (bad := fun l => pagesOn st (l.getD [])) (v := some none)
    (fun _ _ k => (congrArg (fun c : Core => aGet? c.homes k) core_loseAdapter).trans (aGet?_aPut ..))
    aGet?_homes (by simp [pagesOn]) (fun _ => rfl) k l hl

/-- The kinds of objects that the core does not name are lost beside those that it names (R508). -/
theorem core_loseObjects : core (loseObjects s st) =
    core (loseAdapters (loseRowSets (loseTables (loseAlmanacs s st) st) st) st) := by
  unfold loseObjects
  refine (core_foldl (fun t e => core_loseJob) _ _).trans ((core_foldl (fun t e => core_loseWindow) _ _).trans
    (core_foldl (fun t e => core_loseStaging) _ _))

theorem loseObjects_clears : sameButObjects (core s) (core (loseObjects s st)) ∧ Cleared st (core (loseObjects s st)) := by
  have ht : core (loseTables (loseAlmanacs s st) st) = core (loseAlmanacs s st) := core_foldl (fun _ _ => core_loseTable) _ _
  rw [core_loseObjects]
  refine ⟨?_, fun h a ha => ?_, fun k r hr => ?_, loseAdapters_clears⟩
  · rw [sameButObjects, core_loseAdapters, core_loseRowSets, ht, core_loseAlmanacs]
  · rw [core_loseAdapters, core_loseRowSets, ht] at ha
    exact loseAlmanacs_clears h a ha
  · rw [core_loseAdapters] at hr
    exact loseRowSets_clears k r hr

/-! ## Lost pages are replaced by pages of stands that serve -/

theorem lowestPage_stack {m : Mem} {k fuel x : Nat} (h : lowestPage m k fuel x = some p) : p / 2 ^ 20 = k := by
  induction fuel generalizing x with
  | zero => cases h
  | succ fuel ih =>
    unfold lowestPage at h
    split at h
    · cases h
    · split at h
      · rename_i hx _
        cases h
        have hs : stackPages k ≤ 1048576 := by
          unfold stackPages
          split
          · decide
          · split <;> decide
        omega
      · exact ih h

theorem firstPage_stack {l : List Nat} (h : firstPage s l = some p) : p / 2 ^ 20 ∈ l := by
  induction l with
  | nil => cases h
  | cons k r ih =>
    unfold firstPage at h
    split at h
    · rename_i hp
      cases h
      rw [lowestPage_stack hp]
      exact List.mem_cons_self
    · exact List.mem_cons_of_mem _ (ih h)

/-- A page taken from a stand that serves does not lie on one that does not. -/
theorem pageOn_firstPage (hs : standPresent s st = false) (h : firstPage s (liveStacks s) = some p) : pageOn st p = false := by
  have hm := (List.mem_filter.mp (firstPage_stack h)).2
  by_contra hp
  rw [Bool.not_eq_false, pageOn, beq_iff_eq] at hp
  rw [hp, hs] at hm
  cases hm

/-- The new name of a page. -/
def renamed (p q x : Nat) : Nat := if x = p then q else x

theorem pagesOn_renamed {l : List Nat} (hq : pageOn st q = false) (h : pagesOn st l = false) :
    pagesOn st (l.map (renamed p q)) = false := by
  simp only [pagesOn, List.any_eq_false, List.mem_map] at *
  rintro _ ⟨x, hx, rfl⟩
  unfold renamed
  split
  · simp [hq]
  · exact h x hx

theorem renamePage_alms (k : Nat) : aGet? (core (renamePage s p q)).alms k =
    (aGet? s.alms k).map fun a => { a with pages := a.pages.map (renamed p q) } :=
  aGet?_mapVal s.alms (fun a => ({ a with pages := a.pages.map (renamed p q) } : Alm)) k

theorem renamePage_rowsets (k : Nat) : aGet? (core (renamePage s p q)).rowsets k =
    (aGet? s.rowsets k).map fun r => { r with pages := r.pages.map (renamed p q) } :=
  aGet?_mapVal s.rowsets (fun r => ({ r with pages := r.pages.map (renamed p q) } : RowSet)) k

theorem renamePage_homes (k : Nat) : aGet? (core (renamePage s p q)).homes k =
    (aGet? (core s).homes k).map fun l => l.map (List.map (renamed p q)) := by
  have h : aGet? (renamePage s p q).adapters k = (aGet? s.adapters k).map fun a =>
      { a with pages := a.pages.map (List.map (renamed p q)) } :=
    aGet?_mapVal s.adapters (fun a => ({ a with pages := a.pages.map (List.map (renamed p q)) } : Adapter)) k
  rw [aGet?_homes, aGet?_homes, h, Option.map_map, Option.map_map]
  rfl

theorem renamePage_clears (hq : pageOn st q = false) (h : Cleared st (core s)) :
    sameButObjects (core s) (core (renamePage s p q)) ∧ Cleared st (core (renamePage s p q)) := by
  refine ⟨rfl, fun k a ha => ?_, fun k r hr => ?_, fun k l hl => ?_⟩
  · rw [renamePage_alms, Option.map_eq_some_iff] at ha
    obtain ⟨b, hb, rfl⟩ := ha
    exact pagesOn_renamed hq (h.alms k b hb)
  · rw [renamePage_rowsets, Option.map_eq_some_iff] at hr
    obtain ⟨b, hb, rfl⟩ := hr
    exact pagesOn_renamed hq (h.rowsets k b hb)
  · rw [renamePage_homes, Option.map_eq_some_iff] at hl
    obtain ⟨b, hb, rfl⟩ := hl
    cases b with
    | none => rfl
    | some b => exact pagesOn_renamed hq (h.homes k (some b) hb)

theorem replacePage_clears (hs : standPresent s st = false) (h : Cleared st (core s)) :
    sameButObjects (core s) (core (replacePage s p)) ∧ Cleared st (core (replacePage s p)) := by
  unfold replacePage
  split
  · exact ⟨rfl, h⟩
  · split
    · exact ⟨rfl, h⟩
    · rename_i u _ _ q hq
      have hq : firstPage s (liveStacks s) = some q := by
        split at hq
        · exact hq
        · cases hq
      have e : core (swapPlaces (memZero (takePage s u.owner q) (locPage q) 65536) p q) = core s := by simp
      have hr := renamePage_clears (p := p) (pageOn_firstPage hs hq) (e ▸ h)
      rwa [e] at hr

theorem foldl_replacePage_clears (hs : standPresent s st = false) (h : Cleared st (core s)) (l : List Nat) (he : core t = core s) :
    sameButObjects (core s) (core (l.foldl replacePage t)) ∧ Cleared st (core (l.foldl replacePage t)) := by
  refine foldl_keeps (fun t => sameButObjects (core s) (core t) ∧ Cleared st (core t)) _ (fun t p ht => ?_) _ _ ?_
  · have hr : (core t).regs = (core s).regs := by rw [ht.1]
    have hp := replacePage_clears (p := p) ((standPresent_of_core (congrArg CoreRegs.stands hr) st).trans hs) ht.2
    exact ⟨ht.1.trans hp.1, hp.2⟩
  · rw [he]
    exact ⟨rfl, h⟩

theorem replacePages_clears (hs : standPresent s st = false) (h : Cleared st (core s)) :
    sameButObjects (core s) (core (replacePages s st)) ∧ Cleared st (core (replacePages s st)) := by
  unfold replacePages
  exact foldl_replacePage_clears hs h _ (by simp)

theorem core_forgetStand : core (forgetStand s st) = { core s with glades := s.glades.filter fun e => e.1 / 4 != st } := by
  rfl

theorem forgetStand_clears (h : Cleared st (core s)) :
    sameButObjects (core s) (core (forgetStand s st)) ∧ Cleared st (core (forgetStand s st)) := by
  rw [core_forgetStand]
  exact ⟨rfl, h.alms, h.rowsets, h.homes⟩

theorem clearStand_clears (hs : standPresent s st = false) :
    sameButObjects (core s) (core (clearStand s st)) ∧ Cleared st (core (clearStand s st)) := by
  obtain ⟨f1, c1⟩ := loseObjects_clears (s := s) (st := st)
  have hr : (core (loseObjects s st)).regs = (core s).regs := by rw [f1]
  obtain ⟨f2, c2⟩ := replacePages_clears ((standPresent_of_core (congrArg CoreRegs.stands hr) st).trans hs) c1
  obtain ⟨f3, c3⟩ := forgetStand_clears c2
  exact ⟨(f1.trans f2).trans f3, c3⟩

/-! ## What a declared loss leaves -/

theorem lossRegs_keeps (r : CoreRegs) : (lossRegs r st).stands = r.stands ∧ (lossRegs r st).wdogFires = r.wdogFires ∧
    (lossRegs r st).wdogLast = r.wdogLast := by
  unfold lossRegs
  split <;> exact ⟨rfl, rfl, rfl⟩

/-- A declared loss takes the stand off every object; of the rest of the core only the registers that show it change. -/
theorem failStand_effect (h : standPresent s st = true) : sameButObjects { core s with
      regs := lossRegs { (core s).regs with stands := regGet (noteFailed s st) Reg.HUB_STANDS } st } (core (failStand s st)) ∧
    Cleared st (core (failStand s st)) := by
  have hd := core_declareLoss (s := s) (st := st)
  have hs : standPresent (declareLoss s st) st = false := by
    rw [standPresent_of_core (s := noteFailed s st) (by rw [hd]; exact (lossRegs_keeps _).1), standPresent_noteFailed]
    simp
  rw [core_failStand h, ← hd]
  exact clearStand_clears hs

theorem regs_failStand (h : standPresent s st = true) : (core (failStand s st)).regs =
    lossRegs { (core s).regs with stands := regGet (noteFailed s st) Reg.HUB_STANDS } st := by
  rw [(failStand_effect h).1]

theorem life_failStand (h : standPresent s st = true) : (failStand s st).life = s.life :=
  show (core (failStand s st)).life = (core s).life by rw [(failStand_effect h).1]

theorem standPresent_failStand (h : standPresent s st = true) (i : Nat) :
    standPresent (failStand s st) i = (standPresent s i && i != st) := by
  rw [← standPresent_noteFailed]
  refine standPresent_of_core ?_ i
  rw [regs_failStand h]
  exact (lossRegs_keeps _).1

theorem lostStand_none_iff : lostStand s = none ↔ ¬(core s).regs.lost < 8 := by
  have h := lostStand_isNone (s := s)
  rw [Bool.eq_iff_iff, Option.isNone_iff_eq_none] at h
  simpa using h

/-- The first stand lost is named, and redundancy is lost with it. -/
theorem failStand_first (h : standPresent s st = true) (hl : lostStand s = none) : lostStand (failStand s st) = some st ∧
    getF (failStand s st) Reg.FTL_STAT Fld.FTL_STAT_redund = 1 := by
  have hst := lt_of_standPresent h
  have hr := regs_failStand h
  rw [lossRegs, if_neg (lostStand_none_iff.mp hl)] at hr
  have e1 : getF (failStand s st) Reg.FTL_STAT Fld.FTL_STAT_lost_stand = st % 32 := congrArg CoreRegs.lost hr
  refine ⟨?_, congrArg CoreRegs.redund hr⟩
  rw [lostStand, e1, Nat.mod_eq_of_lt (by omega), if_pos hst]

/-- A second stand lost leaves the first one named. -/
theorem failStand_second (h : standPresent s st = true) (hl : lostStand s ≠ none) : lostStand (failStand s st) = lostStand s ∧
    getF (failStand s st) Reg.FTL_STAT Fld.FTL_STAT_redund = 3 := by
  have hr := regs_failStand h
  rw [lossRegs, if_pos (not_not.mp (mt lostStand_none_iff.mpr hl))] at hr
  exact ⟨lostStand_of_core (by rw [hr]), congrArg CoreRegs.redund hr⟩

theorem standFailure_effect (he : engineOn s = true) (cause : StandFailCause) :
    Gives (.standFailure st cause) s (failStand s st) := congrArg Host.Outcome.next (if_pos he)

theorem failStand_absent (h : standPresent s st = false) : failStand s st = s := if_pos (by simp [h])

end

end Sys2Proof.Machine

namespace Sys2Proof.Machine

/-! # Sequencer faults, watchdogs and resets of a stand (R503 to R505) -/

section
variable {s t : State} {st g k a n : Nat}

theorem getGlade_of_core (i : Nat) : getGlade s i = aGetD (core s).glades i Glade.blank := rfl

theorem regGet_setReg_ne {b : Nat} (w : Word) (h : b ≠ a) : regGet (setReg s a w) b = regGet s b :=
  (regGet_setReg ..).trans (if_neg h)

/-- A counter adds and stops at its greatest value. -/
theorem regGet_bump : (regGet (bump s a n) a).toNat = min ((regGet s a).toNat + n) 0xFFFFFFFF := by
  have h : regGet (bump s a n) a = BitVec.ofNat 32 (min ((regGet s a).toNat + n) 0xFFFFFFFF) :=
    (regGet_setReg ..).trans (if_pos rfl)
  rw [h, BitVec.toNat_ofNat]
  omega

/-- A count of sequencer faults or of watchdog fires is a register of the core's own. -/
theorem core_setCount (h : a ∈ [Reg.RAS_WDOG_FIRES, Reg.RAS_WDOG_LAST, Reg.RAS_CTL_FAULT]) (w : Word) :
    core (setReg s a w) = { core s with regs := { (core s).regs with
      wdogFires := regGet (setReg s a w) Reg.RAS_WDOG_FIRES
      wdogLast := regGet (setReg s a w) Reg.RAS_WDOG_LAST
      ctlFaults := regGet (setReg s a w) Reg.RAS_CTL_FAULT } } := by
  have hn : Reg.HUB_STANDS ≠ a ∧ Reg.FTL_STAT ≠ a := by
    simp only [List.mem_cons, List.not_mem_nil, or_false] at h
    rcases h with rfl | rfl | rfl <;> decide
  have hs : wordIn (setReg s a w).regs Reg.HUB_STANDS = wordIn s.regs Reg.HUB_STANDS := regGet_setReg_ne w hn.1
  have hf : wordIn (setReg s a w).regs Reg.FTL_STAT = wordIn s.regs Reg.FTL_STAT := regGet_setReg_ne w hn.2
  rw [core, coreRegs, hs, hf]
  rfl

/-! ## Control faults -/

theorem core_thirdFault {page : Nat} : core (thirdFault s page).1 = { core s with faultTimes :=
    (s.ras.faultTimes.filter fun e => s.tb ≤ e.2 + 6000000000) ++ [(page, s.tb)] } := by rfl

/-- The fault counted is the third where two of the page's lie within 60 s (R504). -/
theorem thirdFault_third {page : Nat} : (thirdFault s page).2 =
    decide (2 ≤ (s.ras.faultTimes.filter fun e => e.1 = page ∧ s.tb ≤ e.2 + 6000000000).length) := by
  simp only [thirdFault, List.filter_append, List.filter_filter, List.length_append]
  simp only [List.filter_cons, beq_self_eq_true, if_true, List.filter_nil, List.length_singleton, Bool.decide_and,
    ge_iff_le, Nat.reduceLeDiff]
  rfl

/-- The third fault excludes the glade, and nothing else of the core but the times of faults changes. -/
theorem core_gladeControl : ∃ f, core (gladeControl s g) = { core s with
    faultTimes := f
    glades := if 2 ≤ (s.ras.faultTimes.filter fun e => e.1 = gladePage g ∧ s.tb ≤ e.2 + 6000000000).length then
      aPut s.glades g { getGlade s g with ctlExcluded := true } else s.glades } := by
  unfold gladeControl
  dsimp only
  generalize ht : List.foldl _ s _ = t
  have hc : core t = core s := by rw [← ht]; simp
  have h3 := thirdFault_third (s := t) (page := gladePage g)
  have hf : t.ras.faultTimes = s.ras.faultTimes := congrArg Core.faultTimes hc
  have hb : t.tb = s.tb := congrArg Core.tb hc
  have hg : t.glades = s.glades := congrArg Core.glades hc
  rw [hf, hb] at h3
  have h3' : core (thirdFault t (gladePage g)).1 = { core s with faultTimes := (core (thirdFault t (gladePage g)).1).faultTimes } := by
    rw [core_thirdFault, hc]
  refine ⟨(core (thirdFault t (gladePage g)).1).faultTimes, ?_⟩
  rw [h3]
  simp only [decide_eq_true_eq]
  split
  · have hu : core (updGlade (thirdFault t (gladePage g)).1 g fun x => { x with ctlExcluded := true }) =
        { core (thirdFault t (gladePage g)).1 with glades := aPut t.glades g { getGlade t g with ctlExcluded := true } } := rfl
    rw [core_rebindAll, hu, h3', getGlade, getGlade, hg]
  · exact h3'

theorem core_channelControl : ∃ f, core (channelControl s k) = { core s with faultTimes := f } := by
  unfold channelControl
  dsimp only
  generalize ht : List.foldl (fun (s : State) (o : Nat × DieOp) => resetDieOp s k o.1 o.2) _ _ = t
  have hc : core t = core s := by rw [← ht]; simp
  refine ⟨(core (thirdFault t (chanPage k)).1).faultTimes, ?_⟩
  have h3 : core (thirdFault t (chanPage k)).1 = { core s with faultTimes := (core (thirdFault t (chanPage k)).1).faultTimes } := by
    rw [core_thirdFault, hc]
  split
  · rw [core_rebindAll, core_setF (by simp)]
    exact h3
  · exact h3

/-- Containing a fault of a sequencer outside the hub leaves the partitions' states and the core's registers. -/
theorem core_contain {q : Sequencer} (h : ∀ i, q ≠ .hub i) :
    (core (contain s q)).life = s.life ∧ (core (contain s q)).regs = (core s).regs := by
  cases q with
  | copse p =>
    rw [show contain s (.copse p) = copseControl s p.index from rfl, core_copseControl]
    exact ⟨rfl, rfl⟩
  | gladeUnit p =>
    obtain ⟨f, e⟩ := core_gladeControl (s := s) (g := p.index)
    rw [show contain s (.gladeUnit p) = gladeControl s p.index from rfl, e]
    exact ⟨rfl, rfl⟩
  | channel p =>
    obtain ⟨f, e⟩ := core_channelControl (s := s) (k := p.index)
    rw [show contain s (.channel p) = flashSettle (channelControl s p.index) from rfl, core_flashSettle, e]
    exact ⟨rfl, rfl⟩
  | standControl st =>
    rw [show contain s (.standControl st) = standReset s st from rfl, core_standReset]
    exact ⟨rfl, rfl⟩
  | hub i => exact absurd rfl (h i)

/-- A control fault noted: the event is posted and the fault counted. -/
def noteControl (s : State) (q : Sequencer) (group : Nat) : State :=
  bump (post s (sequencerPage q) 0x0304 0 (sequencerArg q) group) Reg.RAS_CTL_FAULT 1

theorem quiet_sequencerPage {q : Sequencer} (h : ∀ i, q ≠ .hub i) : quiet (sequencerPage q + Reg.EVT_CAUSE) = true := by
  cases q with
  | hub i => exact absurd rfl (h i)
  | _ => simp [sequencerPage]

theorem controlParityFault_effect {q : Sequencer} (he : engineOn s = true) (hp : sequencerPresent s q = true)
    (h : ∀ i, q ≠ .hub i) (group : Nat) : Gives (.controlParityFault q group) s (contain (noteControl s q group) q) := by
  refine congrArg Host.Outcome.next ?_
  cases q with
  | hub i => exact absurd rfl (h i)
  | _ => simp [he, hp, noteControl]

theorem core_noteControl {q : Sequencer} (h : ∀ i, q ≠ .hub i) (group : Nat) : core (noteControl s q group) =
    { core s with regs := { (core s).regs with ctlFaults := regGet (noteControl s q group) Reg.RAS_CTL_FAULT } } := by
  have hp := core_post (s := s) (quiet_sequencerPage h) 0x0304 0 (sequencerArg q) group
  generalize hu : post s (sequencerPage q) 0x0304 0 (sequencerArg q) group = u at hp
  have e : core (bump u Reg.RAS_CTL_FAULT 1) = _ := core_setCount (by decide) _
  rw [noteControl, hu, e, regGet_setReg_ne _ (by decide), regGet_setReg_ne _ (by decide), ← hp]
  rfl

theorem noteControl_counts {q : Sequencer} (h : ∀ i, q ≠ .hub i) (group : Nat) :
    (regGet (noteControl s q group) Reg.RAS_CTL_FAULT).toNat = min ((regGet s Reg.RAS_CTL_FAULT).toNat + 1) 0xFFFFFFFF := by
  have hp := congrArg (fun c => c.regs.ctlFaults) (core_post (s := s) (quiet_sequencerPage h) 0x0304 0 (sequencerArg q) group)
  have hp : regGet (post s (sequencerPage q) 0x0304 0 (sequencerArg q) group) Reg.RAS_CTL_FAULT = regGet s Reg.RAS_CTL_FAULT := hp
  rw [noteControl, regGet_bump, hp]

/-! ## A stand control reset without a job in the stand -/

theorem dropWindow_jobs : (dropWindow s k).jobs = s.jobs := by unfold dropWindow; split <;> rfl

/-- On-chip memory and ports of a stand: every store of its locations but the stacks and the recovery memory. -/
theorem bGet_zeroStand (b : Nat) : bGet (zeroStand s st).mem.bytes b =
    if locStand b = st ∧ locStore b ≠ 3 ∧ locStore b ≠ 8 then 0 else bGet s.mem.bytes b := by
  have h : aGet? (zeroStand s st).mem.bytes b = _ :=
    aGet?_filter_key s.mem.bytes (fun b => locStand b != st || locStore b == 3 || locStore b == 8) b
  unfold bGet aGetD
  rw [h]
  by_cases h1 : locStand b = st <;> by_cases h2 : locStore b = 3 <;> by_cases h3 : locStore b = 8 <;> simp [h1, h2, h3]

theorem restartSearches_keeps : (restartSearches s st).jobs = s.jobs ∧ (restartSearches s st).mem = s.mem :=
  foldl_keeps (fun t : State => t.jobs = s.jobs ∧ t.mem = s.mem) (fun (s : State) (e : Nat × Search) => restartSearch s e.1)
    (fun _ _ h => h) _ _ ⟨rfl, rfl⟩

/-- Where no job has a unit in the stand, its reset touches no job and no memory but the stand's on-chip memory. -/
theorem standReset_idle (h : ∀ e ∈ s.jobs, jobIn st e.2 = false) : (standReset s st).jobs = s.jobs ∧
    ∀ b, bGet (standReset s st).mem.bytes b =
      if locStand b = st ∧ locStore b ≠ 3 ∧ locStore b ≠ 8 then 0 else bGet s.mem.bytes b := by
  unfold standReset
  dsimp only
  generalize ht : List.foldl (fun (s : State) (e : Nat × Copy) => dropWindow s e.1) s _ = t
  have hk : t.jobs = s.jobs ∧ t.mem.bytes = s.mem.bytes := by
    rw [← ht]
    exact foldl_keeps (fun t : State => t.jobs = s.jobs ∧ t.mem.bytes = s.mem.bytes) _
      (fun u e hu => ⟨dropWindow_jobs.trans hu.1, (dropWindow_keeps u _).2.2.trans hu.2⟩) _ _ ⟨rfl, rfl⟩
  have hj : (zeroStand t st).jobs = s.jobs := hk.1
  have none_hit : ((zeroStand t st).jobs.filter fun e => e.2.isBound && !e.2.finished && jobIn st e.2) = [] := by
    rw [hj, List.filter_eq_nil_iff]
    intro e he
    simp [h e he]
  rw [none_hit]
  refine ⟨restartSearches_keeps.1.trans hj, fun b => ?_⟩
  rw [restartSearches_keeps.2, List.map_nil, List.foldl_nil, bGet_zeroStand, hk.2]

/-! ## Watchdogs of the stands -/

/-- Noting a fire leaves the partitions' states, the times of earlier fires and the stands. -/
theorem noteFire_keeps (i : Nat) : (noteFire s i).life = s.life ∧ (noteFire s i).tb = s.tb ∧
    (noteFire s i).ras.standFires = s.ras.standFires ∧ ∀ x, standPresent (noteFire s i) x = standPresent s x := by
  have e : core (noteFire s i) = core (bump (setF s Reg.RAS_WDOG_LAST Fld.RAS_WDOG_LAST_which i) Reg.RAS_WDOG_FIRES 1) :=
    core_post (by simp) ..
  refine ⟨congrArg Core.life e, congrArg Core.tb e, congrArg Core.standFires e, fun x => standPresent_of_core ?_ x⟩
  rw [e]
  exact (regGet_setReg_ne _ (by decide)).trans (regGet_setReg_ne _ (by decide))

theorem noteFire_counts (i : Nat) :
    (regGet (noteFire s i) Reg.RAS_WDOG_FIRES).toNat = min ((regGet s Reg.RAS_WDOG_FIRES).toNat + 1) 0xFFFFFFFF := by
  have e : regGet (noteFire s i) Reg.RAS_WDOG_FIRES = _ := congrArg (fun c => c.regs.wdogFires) (core_post (by simp) ..)
  rw [e]
  refine regGet_bump.trans ?_
  rw [show regGet (setF s Reg.RAS_WDOG_LAST Fld.RAS_WDOG_LAST_which i) Reg.RAS_WDOG_FIRES = _ from
    regGet_setReg_ne _ (by decide)]

theorem noteFire_last (i : Nat) : getF (noteFire s i) Reg.RAS_WDOG_LAST Fld.RAS_WDOG_LAST_which = i % 256 := by
  have e : regGet (noteFire s i) Reg.RAS_WDOG_LAST = _ := congrArg (fun c => c.regs.wdogLast) (core_post (by simp) ..)
  have e' : regGet (bump (setF s Reg.RAS_WDOG_LAST Fld.RAS_WDOG_LAST_which i) Reg.RAS_WDOG_FIRES 1) Reg.RAS_WDOG_LAST = _ :=
    regGet_setReg_ne _ (by decide)
  rw [getF, e.trans e']
  exact getF_setF_same _ _ _ _ (by decide)

/-- A stand's second fire within 10 s fails it (R505). -/
theorem standFire_again {f : Nat} (hf : aGet? s.ras.standFires st = some f) (ht : s.tb ≤ f + 1000000000) :
    standFire s st = failStand { s with ras := { s.ras with standFires := aDel s.ras.standFires st } } st := by
  unfold standFire
  rw [hf]
  exact if_pos ht

/-- A first fire, or one later than that, resets the stand and is remembered. -/
theorem standFire_first (h : ∀ f, aGet? s.ras.standFires st = some f → f + 1000000000 < s.tb) :
    standFire s st = standReset { s with ras := { s.ras with standFires := aPut s.ras.standFires st s.tb } } st := by
  unfold standFire
  cases hf : aGet? s.ras.standFires st with
  | none => rfl
  | some f => exact if_neg (Nat.not_le.mpr (h f hf))

/-- A watchdog's fire leaves the partitions' states and its own records. -/
theorem core_standFire (h : standPresent s st = true) : (standFire s st).life = s.life ∧
    (core (standFire s st)).regs.wdogFires = (core s).regs.wdogFires ∧
    (core (standFire s st)).regs.wdogLast = (core s).regs.wdogLast := by
  by_cases ha : ∃ f, aGet? s.ras.standFires st = some f ∧ s.tb ≤ f + 1000000000
  · obtain ⟨f, hf, ht⟩ := ha
    rw [standFire_again hf ht]
    refine ⟨life_failStand h, ?_⟩
    rw [regs_failStand (by exact h)]
    exact (lossRegs_keeps _).2
  · rw [standFire_first fun f hf => Nat.not_le.mp fun ht => ha ⟨f, hf, ht⟩]
    have e := core_standReset (s := { s with ras := { s.ras with standFires := aPut s.ras.standFires st s.tb } }) (st := st)
    exact ⟨congrArg Core.life e, congrArg (fun c => c.regs.wdogFires) e, congrArg (fun c => c.regs.wdogLast) e⟩

theorem watchdogFire_effect (hst : st < 8) (he : engineOn s = true) (hp : standPresent s st = true) :
    Gives (.watchdogFire (16 + st)) s (standFire (noteFire s (16 + st)) st) := by
  have h : 16 + st - 16 = st := by omega
  refine congrArg Host.Outcome.next ?_
  rw [if_neg (by omega), h, if_pos ⟨by omega, by omega, he, hp⟩]

end

end Sys2Proof.Machine

namespace Sys2Proof.Machine

/-! # The map share, the rebuild, patrol reads, the TRNG (R252, R412, R490, R498) -/

section
variable {s t : State}

/-- The super-blocks left to rebuild are none once no unit lies on the lost stand. -/
theorem countRebuild_none {l : Nat} (hl : lostStand s = some l)
    (h : ∀ e ∈ s.ftl.map, (e.2.state = 1 ∨ e.2.state = 2) → addrStand e.2.addr ≠ l) :
    countRebuild s = setF s Reg.FTL_REBUILD Fld.FTL_REBUILD_sb_left 0 := by
  have hn : (s.ftl.map.filter fun e => (e.2.state == 1 || e.2.state == 2) && addrStand e.2.addr == l) = [] := by
    rw [List.filter_eq_nil_iff]
    intro e he
    have := h e he
    simp only [Bool.and_eq_true, Bool.or_eq_true, beq_iff_eq]
    tauto
  unfold countRebuild
  rw [hl]
  dsimp only
  rw [hn]
  rfl

theorem rebuildComplete_effect {l : Nat} (hr : ready s = true) (hl : lostStand s = some l)
    (hd : getF s Reg.FTL_STAT Fld.FTL_STAT_redund = 1)
    (h : ∀ e ∈ s.ftl.map, (e.2.state = 1 ∨ e.2.state = 2) → addrStand e.2.addr ≠ l) : Gives .rebuildComplete s
      (setF (setF s Reg.FTL_REBUILD Fld.FTL_REBUILD_sb_left 0) Reg.FTL_STAT Fld.FTL_STAT_redund 2) := by
  refine congrArg Host.Outcome.next ?_
  rw [countRebuild_none hl h]
  exact if_pos ⟨hr, (getF_setF_ne _ _ _ _ _ _ (by decide) (by decide)).trans hd, getF_setF_same _ _ _ _ (by decide)⟩

/-- The state after a patrol read of stack k has gone on to the next line. -/
def patrolPast (s : State) (k : Nat) : State :=
  { s with ras := { s.ras with patrol := aPut s.ras.patrol k ((aGetD s.ras.patrol k 0 + 1) % stackLines) } }

/-- The line that the patrol of stack k reads next. -/
def patrolKey (s : State) (k : Nat) : Nat := locPage (k * 2 ^ 20) + aGetD s.ras.patrol k 0 * 64

theorem patrol_quiet {k : Nat} {found : EccResult} (h : found = .clean ∨ isPoisoned s.mem (patrolKey s k) = true) (b : Bool) :
    patrol s k found b = patrolPast s k := by
  unfold patrol
  dsimp only
  rcases h with rfl | h
  · exact ite_self _
  · exact if_pos h

theorem patrol_corrected (k : Nat) (n : BitVec 16) (b : Bool) :
    patrol s k (.corrected n) b = patrolPast s k ∨
      patrol s k (.corrected n) b = correctable (patrolPast s k) (patrolKey s k) false := ite_eq_or_eq ..

theorem eventTo_patrol (p : Panel) (tb page code part a0 a1 flags : Nat) :
    (eventTo p tb page code part a0 a1 flags).ras.patrol = p.ras.patrol := by
  unfold eventTo
  dsimp only
  split <;> rfl

theorem onlyPanel_onPanel (s : State) (f : Panel → Panel) : onlyPanel s (onPanel s f) := rfl

theorem onlyRegs_noteError (s : State) (page code loc : Nat) (ue : Bool) : onlyRegs s (noteError s page code loc ue) :=
  (((onlyRegs_setReg ..).trans (onlyRegs_setReg ..)).trans (onlyRegs_setReg ..)).trans (onlyRegs_setReg ..)

/-- A correction is counted and written back: the patrol's place stays, and what the memory holds. -/
theorem correctable_keeps_patrol (key : Nat) (test : Bool) :
    (correctable s key test).ras.patrol = s.ras.patrol ∧ onlyPanel s (correctable s key test) := by
  unfold correctable
  refine ⟨?_, (onlyRegs_noteError ..).toPanel.trans (onlyPanel_onPanel _ _)⟩
  unfold onPanel
  dsimp only
  rw [apply_ite Panel.ras, apply_ite Ras.patrol, eventTo_patrol, ite_self]
  rfl

theorem patrolRead_effect {p : StackPath} (ho : operational s = true) (hp : p.ok = true) (hs : standPresent s p.stand = true)
    (hf : getF s (stackPage p.index + Reg.STACK_STAT) Fld.STACK_STAT_state = 3) (found : EccResult) (b : Bool) :
    Gives (.patrolRead p found b) s (patrol s p.index found b) := congrArg Host.Outcome.next (if_pos ⟨ho, hp, hs, hf⟩)

theorem trngOk_setF (v : Nat) : trngOk (setF s Reg.SEC_STAT Fld.SEC_STAT_trng v) = (v % 4 != 2) := by
  rw [trngOk, getF_setF_same _ _ _ _ (by decide)]
  rfl

theorem trngRetest_effect (h : trngOk s = false) (healthy : Bool) : Gives (.trngRetest healthy) s
    (setF s Reg.SEC_STAT Fld.SEC_STAT_trng (if healthy then 1 else 2)) := congrArg Host.Outcome.next (if_neg (by simp [h]))

/-! # Windows of the step-rate monitor (R37) -/

/-- A copse at the start of a window. -/
def freshWindow (c : Copse) : Copse := { c with winSteps := 0, winMult := false, winLookup := false, winShort := false }

/-- The rate register of copse i of a stand. -/
def rateReg (st i : Nat) : Nat := standBase st + Reg.STAND_SRM_RATE + 4 * i

/-- A window shown: mode and rate in the rate register, the copse at the start of the next one. -/
def windowShown (s : State) (st i rate : Nat) : State :=
  updCopse (setF (setF { s with fresh := s.fresh + 1 } (rateReg st i) Fld.STAND_SRM_RATE_mode
    (windowMode (getCopse s (16 * st + i)))) (rateReg st i) Fld.STAND_SRM_RATE_rate rate) (16 * st + i) freshWindow

/-- t differs from s in what a step-rate window touches at most. -/
def onlyWindow (s t : State) : Prop :=
  t = { s with regs := t.regs, ras := t.ras, host := t.host, copses := t.copses, fresh := t.fresh }

theorem onlyWindow_iff (s t : State) : onlyWindow s t ↔ ∃ m l h c f, t = { s with regs := m, ras := l, host := h, copses := c, fresh := f } :=
  ⟨fun h => ⟨_, _, _, _, _, h⟩, by rintro ⟨m, l, h, c, f, rfl⟩; rfl⟩

theorem windowShown_frame (st i rate : Nat) : ∃ m f, windowShown s st i rate = { s with
    regs := m, fresh := f, copses := aPut s.copses (16 * st + i) (freshWindow (getCopse s (16 * st + i))) } := ⟨_, _, rfl⟩

theorem rateReg_post (u : State) (st code p a0 a1 i : Nat) :
    regGet (post u (standBase st) code p a0 a1) (rateReg st i) = regGet u (rateReg st i) := by
  have hl : rateReg st i ≠ Reg.RAS_EVLOG_LOST := by unfold rateReg standBase Reg.RAS_EVLOG_LOST; omega
  have hc : rateReg st i ≠ standBase st + Reg.EVT_CAUSE := by unfold rateReg Reg.STAND_SRM_RATE Reg.EVT_CAUSE; omega
  rw [post, regGet_postFlags _ _ _ _ _ _ _ hl, if_neg hc]

/-- A window's end shows it and posts at most an event of the stand's page; an idle window shows rate 0. -/
theorem windowEnd_eq {st i : Nat} (hi : i < 16) : ∃ rate, ((getCopse s (16 * st + i)).winSteps = 0 → rate = 0) ∧
    (windowEnd s (16 * st + i) = windowShown s st i rate ∨
      ∃ a0 a1, windowEnd s (16 * st + i) = post (windowShown s st i rate) (standBase st) 0x0802 0 a0 a1) := by
  have h1 : (16 * st + i) / 16 = st := by omega
  have h2 : (16 * st + i) % 16 = i := by omega
  unfold windowEnd windowShown rateReg freshWindow
  simp only [h1, h2]
  generalize hr : ite (windowMode (getCopse s (16 * st + i)) = 0) _ _ = rate
  refine ⟨rate, fun h => ?_, (ite_eq_or_eq _ _ _).symm.imp id fun h => ⟨_, _, h⟩⟩
  rw [← hr, if_pos (by simp [windowMode, h])]

/-- What one copse's window leaves, in the copse, in its register and in those of the stand's other copses. -/
theorem windowEnd_effect {st i : Nat} (hi : i < 16) : onlyWindow s (windowEnd s (16 * st + i)) ∧
    (windowEnd s (16 * st + i)).copses = aPut s.copses (16 * st + i) (freshWindow (getCopse s (16 * st + i))) ∧
    ∃ rate, ((getCopse s (16 * st + i)).winSteps = 0 → rate = 0) ∧
      ∀ j, regGet (windowEnd s (16 * st + i)) (rateReg st j) = regGet (windowShown s st i rate) (rateReg st j) := by
  obtain ⟨rate, h0, h⟩ := windowEnd_eq (s := s) (st := st) hi
  obtain ⟨m, f, hw⟩ := windowShown_frame (s := s) st i rate
  rcases h with h | ⟨a0, a1, h⟩
  · refine ⟨?_, ?_, rate, h0, fun _ => by rw [h]⟩
    · rw [h, hw]
      rfl
    · rw [h, hw]
  · obtain ⟨m', l, x, hp⟩ := (onlyPanel_iff ..).mp (onlyPanel_postFlags (windowShown s st i rate) (standBase st) 0x0802 0 a0 a1 0)
    have h' : windowEnd s (16 * st + i) = _ := h.trans hp
    refine ⟨?_, ?_, rate, h0, fun j => by rw [h, rateReg_post]⟩
    · rw [h', hw]
      rfl
    · rw [h', hw]

theorem rateReg_inj {st i j : Nat} (h : rateReg st i = rateReg st j) : i = j := by unfold rateReg at h; omega

/-- Copse i of a stand and its rate register are in t as in s. -/
def windowSame (st i : Nat) (s t : State) : Prop :=
  getCopse t (16 * st + i) = getCopse s (16 * st + i) ∧ regGet t (rateReg st i) = regGet s (rateReg st i)

/-- The window of copse i has ended: its mode shows and the next one begins (R37). -/
def windowEnded (st i : Nat) (s t : State) : Prop :=
  let c := getCopse s (16 * st + i)
  let a := rateReg st i
  getCopse t (16 * st + i) = freshWindow c ∧
    (c.winSteps = 0 → regGet t a = BitVec.ofNat 32 (putBits (putBits (regGet s a).toNat 31 30 0) 15 0 0)) ∧
    (c.winSteps ≠ 0 → c.winMult = true → getF t a Fld.STAND_SRM_RATE_mode = if c.winLookup then 3 else 1) ∧
    (c.winSteps ≠ 0 → c.winMult = false → getF t a Fld.STAND_SRM_RATE_mode = 2)

theorem rateReg_windowShown_ne {st i j rate : Nat} (h : j ≠ i) :
    regGet (windowShown s st i rate) (rateReg st j) = regGet s (rateReg st j) := by
  have hne : rateReg st j ≠ rateReg st i := fun e => h (rateReg_inj e)
  have hu : ∀ u k, regGet (updCopse u k freshWindow) (rateReg st j) = regGet u (rateReg st j) := fun _ _ => rfl
  rw [windowShown, hu, setF, regGet_setReg_ne _ hne, setF, regGet_setReg_ne _ hne]
  rfl

theorem windowEnd_others {st i j : Nat} (hi : i < 16) (h : j ≠ i) : windowSame st j s (windowEnd s (16 * st + i)) := by
  obtain ⟨-, hc, rate, -, hr⟩ := windowEnd_effect (s := s) (st := st) hi
  refine ⟨?_, (hr j).trans (rateReg_windowShown_ne h)⟩
  rw [getCopse, hc, aGetD_aPut, if_neg (by omega)]
  rfl

/-- A word is cut to 32 bits after its fields are put as well as before. -/
theorem putBits_word (n hi lo v : Nat) :
    BitVec.ofNat 32 (putBits (BitVec.ofNat 32 n).toNat hi lo v) = BitVec.ofNat 32 (putBits n hi lo v) := by
  refine BitVec.eq_of_toNat_eq (Nat.eq_of_testBit_eq fun i => ?_)
  simp only [BitVec.toNat_ofNat, Nat.testBit_mod_two_pow, testBit_putBits]
  by_cases h : i < 32 <;> simp [h]

theorem windowShown_mode (st i rate : Nat) : getF (windowShown s st i rate) (rateReg st i) Fld.STAND_SRM_RATE_mode =
    windowMode (getCopse s (16 * st + i)) % 4 := by
  have hu : ∀ u k, getF (updCopse u k freshWindow) (rateReg st i) Fld.STAND_SRM_RATE_mode =
    getF u (rateReg st i) Fld.STAND_SRM_RATE_mode := fun _ _ => rfl
  rw [windowShown, hu, getF_setF_ne _ _ _ _ _ _ (by decide) (.inr (.inl (by decide))), getF_setF_same _ _ _ _ (by decide)]
  rfl

theorem windowShown_idle {st i : Nat} (h : (getCopse s (16 * st + i)).winSteps = 0) :
    regGet (windowShown s st i 0) (rateReg st i) =
      BitVec.ofNat 32 (putBits (putBits (regGet s (rateReg st i)).toNat 31 30 0) 15 0 0) := by
  have hu : ∀ u k, regGet (updCopse u k freshWindow) (rateReg st i) = regGet u (rateReg st i) := fun _ _ => rfl
  have hm : windowMode (getCopse s (16 * st + i)) = 0 := by simp [windowMode, h]
  rw [windowShown, hu, hm, setF, regGet_setReg, if_pos rfl, setF, regGet_setReg, if_pos rfl, putBits_word]
  rfl

theorem windowEnd_ends {st i : Nat} (hi : i < 16) : windowEnded st i s (windowEnd s (16 * st + i)) := by
  obtain ⟨-, hc, rate, h0, hr⟩ := windowEnd_effect (s := s) (st := st) hi
  have hm : getF (windowEnd s (16 * st + i)) (rateReg st i) Fld.STAND_SRM_RATE_mode =
      windowMode (getCopse s (16 * st + i)) % 4 := by
    rw [← windowShown_mode, getF, hr i]
    rfl
  refine ⟨?_, fun hz => ?_, fun hn hw => ?_, fun hn hw => ?_⟩
  · rw [getCopse, hc, aGetD_aPut, if_pos rfl]
  · rw [hr i, h0 hz, windowShown_idle hz]
  · rw [hm, windowMode, if_neg hn]
    cases (getCopse s (16 * st + i)).winLookup <;> simp [hw]
  · rw [hm, windowMode, if_neg hn]
    simp [hw]

theorem onlyWindow.trans {u : State} (h : onlyWindow s u) (h' : onlyWindow u t) : onlyWindow s t := by
  obtain ⟨m, l, x, c, f, rfl⟩ := (onlyWindow_iff ..).mp h
  obtain ⟨m', l', x', c', f', rfl⟩ := (onlyWindow_iff ..).mp h'
  rfl

theorem windowEnded.then_same {u : State} {st i : Nat} (h : windowEnded st i s u) (h' : windowSame st i u t) :
    windowEnded st i s t := by
  simp only [windowEnded, getF, h'.1, h'.2] at *
  exact h

theorem windowSame.then_ended {u : State} {st i : Nat} (h : windowSame st i s u) (h' : windowEnded st i u t) :
    windowEnded st i s t := by
  simp only [windowEnded, h.1, h.2] at *
  exact h'

/-- The stand's copses one after the other: each one's window ends, and none touches another's. -/
theorem windows_end (st : Nat) {n : Nat} (hn : n ≤ 16) (t : State)
    (ht : (List.range n).foldl (fun s i => windowEnd s (16 * st + i)) s = t) :
    onlyWindow s t ∧ (∀ i < n, windowEnded st i s t) ∧ ∀ i, n ≤ i → windowSame st i s t := by
  induction n generalizing t with
  | zero =>
    subst ht
    exact ⟨rfl, by simp, fun _ _ => ⟨rfl, rfl⟩⟩
  | succ n ih =>
    rw [List.range_succ, List.foldl_append] at ht
    obtain ⟨hf, hd, hs⟩ := ih (by omega) _ rfl
    generalize List.foldl _ s (List.range n) = u at *
    replace ht : windowEnd u (16 * st + n) = t := ht
    subst ht
    refine ⟨hf.trans (windowEnd_effect hn).1, fun i hi => ?_, fun i hi => ?_⟩
    · by_cases h : i = n
      · subst h
        exact (hs i (Nat.le_refl i)).then_ended (windowEnd_ends hn)
      · exact (hd i (by omega)).then_same (windowEnd_others hn h)
    · have h' := windowEnd_others (s := u) (st := st) (j := i) hn (by omega)
      exact ⟨h'.1.trans (hs i (by omega)).1, h'.2.trans (hs i (by omega)).2⟩

end

/-! # The obligation -/

section
variable {s : State} {st : Nat}

/-- What a declared loss leaves, as the state shows it (R17, R252, R508). -/
theorem standFailure_leaves (h : standPresent s st = true) : (failStand s st).life = s.life ∧
    (∀ x, standPresent (failStand s st) x = (standPresent s x && x != st)) ∧
    (lostStand s = none → lostStand (failStand s st) = some st ∧ getF (failStand s st) Reg.FTL_STAT Fld.FTL_STAT_redund = 1) ∧
    (lostStand s ≠ none → lostStand (failStand s st) = lostStand s ∧
      getF (failStand s st) Reg.FTL_STAT Fld.FTL_STAT_redund = 3) ∧
    (∀ h a, aGet? (failStand s st).alms h = some a → pagesOn st a.pages = false) ∧
    (∀ k r, aGet? (failStand s st).rowsets k = some r → pagesOn st r.pages = false) ∧
    (∀ k a, aGet? (failStand s st).adapters k = some a → pagesOn st (a.pages.getD []) = false) := by
  obtain ⟨-, hc⟩ := failStand_effect h
  exact ⟨life_failStand h, standPresent_failStand h, failStand_first h, failStand_second h, hc.alms, hc.rowsets,
    fun k a ha => hc.homes k a.pages (by rw [aGet?_homes, ha]; rfl)⟩

/-- The third control fault of a glade within 60 s excludes it (R504). -/
theorem contain_glade (g : GladePath) : (getGlade (contain s (.gladeUnit g)) g.index).ctlExcluded =
    ((getGlade s g.index).ctlExcluded || decide
      (2 ≤ (s.ras.faultTimes.filter fun e => e.1 = gladePage g.index ∧ s.tb ≤ e.2 + 6000000000).length)) := by
  obtain ⟨f, e⟩ := core_gladeControl (s := s) (g := g.index)
  rw [show contain s (.gladeUnit g) = gladeControl s g.index from rfl, getGlade_of_core, e]
  dsimp only
  split
  · rename_i h
    rw [aGetD_aPut, if_pos rfl, decide_eq_true h, Bool.or_true]
  · rename_i h
    rw [decide_eq_false h, Bool.or_false]
    rfl

theorem rebuildComplete_leaves {l : Nat} (hr : ready s = true) (hl : lostStand s = some l)
    (hd : getF s Reg.FTL_STAT Fld.FTL_STAT_redund = 1)
    (h : ∀ e ∈ s.ftl.map, (e.2.state = 1 ∨ e.2.state = 2) → addrStand e.2.addr ≠ l) : Runs .rebuildComplete s fun t =>
      onlyRegs s t ∧ regsBut [Reg.FTL_STAT, Reg.FTL_REBUILD] s t ∧ getF t Reg.FTL_STAT Fld.FTL_STAT_redund = 2 ∧
      lostStand t = some l ∧ getF t Reg.FTL_REBUILD Fld.FTL_REBUILD_sb_left = 0 := by
  have hleft : core (setF s Reg.FTL_REBUILD Fld.FTL_REBUILD_sb_left 0) = core s := core_setF (a := Reg.FTL_REBUILD) (by simp) _ _
  refine (rebuildComplete_effect hr hl hd h).runs ⟨(onlyRegs_setF ..).trans (onlyRegs_setF ..),
    (regsBut_setF s _ _ (by simp)).trans (regsBut_setF _ _ _ (by simp)), getF_setF_same _ _ _ _ (by decide), ?_, ?_⟩
  · rw [← hl]
    exact lostStand_of_core (by rw [core_setRedund, hleft])
  · rw [getF_setF_ne _ _ _ _ _ _ (by decide) (by decide), getF_setF_same _ _ _ _ (by decide), Nat.zero_mod]

theorem controlParityFault_leaves {q : Sequencer} (he : engineOn s = true) (hp : sequencerPresent s q = true)
    (hq : ∀ i, q ≠ .hub i) (group : Nat) : Runs (.controlParityFault q group) s fun t => t.life = s.life ∧
      (regGet t Reg.RAS_CTL_FAULT).toNat = min ((regGet s Reg.RAS_CTL_FAULT).toNat + 1) 0xFFFFFFFF ∧
      (∀ g, q = .gladeUnit g → (getGlade t g.index).ctlExcluded = ((getGlade s g.index).ctlExcluded || decide
        (2 ≤ (s.ras.faultTimes.filter fun e => e.1 = gladePage g.index ∧ s.tb ≤ e.2 + 6000000000).length))) ∧
      (∀ st, q = .standControl st → (∀ e ∈ s.jobs, jobIn st e.2 = false) →
        t.jobs = s.jobs ∧ ∀ a, bGet t.mem.bytes a =
          if locStand a = st ∧ locStore a ≠ 3 ∧ locStore a ≠ 8 then 0 else bGet s.mem.bytes a) := by
  have hk := core_noteControl (s := s) hq group
  obtain ⟨hlife, hregs⟩ := core_contain (s := noteControl s q group) hq
  refine (controlParityFault_effect he hp hq group).runs
    ⟨hlife, ?_, fun g hg => ?_, fun st hst hj => ?_⟩
  · rw [← noteControl_counts hq group]
    exact congrArg (fun r => r.ctlFaults.toNat) hregs
  · subst hg
    have hf : (noteControl s (.gladeUnit g) group).ras.faultTimes = s.ras.faultTimes := congrArg Core.faultTimes hk
    have h := contain_glade (s := noteControl s (.gladeUnit g) group) g
    rw [hf] at h
    exact h
  · subst hst
    exact standReset_idle (s := noteControl s (.standControl st) group) hj

/-- A first fire, or a later one, resets the stand; a second within 10 s fails it (R505). -/
theorem watchdogFire_leaves (hst : st < 8) (he : engineOn s = true) (hp : standPresent s st = true) :
    Runs (.watchdogFire (16 + st)) s fun t => t.life = s.life ∧
      (regGet t Reg.RAS_WDOG_FIRES).toNat = min ((regGet s Reg.RAS_WDOG_FIRES).toNat + 1) 0xFFFFFFFF ∧
      getF t Reg.RAS_WDOG_LAST Fld.RAS_WDOG_LAST_which = 16 + st ∧
      ((∀ f, aGet? s.ras.standFires st = some f → f + 1000000000 < s.tb) →
        aGet? t.ras.standFires st = some s.tb ∧ standPresent t st = true) ∧
      (∀ f, aGet? s.ras.standFires st = some f → s.tb ≤ f + 1000000000 → standPresent t st = false) := by
  have hlast := noteFire_last (s := s) (16 + st)
  have hcount := noteFire_counts (s := s) (16 + st)
  obtain ⟨hlife, htb, hfires, hpres⟩ := noteFire_keeps (s := s) (16 + st)
  refine (watchdogFire_effect hst he hp).runs ?_
  generalize noteFire s (16 + st) = u at *
  have hu : standPresent u st = true := (hpres st).trans hp
  obtain ⟨hl, hc, hw⟩ := core_standFire hu
  rw [← htb, ← hfires]
  refine ⟨hl.trans hlife, ?_, ?_, fun h => ?_, fun f hf ht => ?_⟩
  · rw [← hcount]
    exact congrArg BitVec.toNat hc
  · rw [Nat.mod_eq_of_lt (by omega)] at hlast
    rw [← hlast]
    exact congrArg (fun w : Word => bitsOf w.toNat 7 0) hw
  · rw [standFire_first h]
    have e := core_standReset (s := { u with ras := { u.ras with standFires := aPut u.ras.standFires st u.tb } }) (st := st)
    refine ⟨?_, (standPresent_of_core (by rw [e]; rfl) st).trans hu⟩
    refine (congrArg (fun c : Core => aGet? c.standFires st) e).trans ((aGet?_aPut ..).trans (if_pos rfl))
  · rw [standFire_again hf ht, standPresent_failStand (by exact hu)]
    simp

theorem srmWindowEnd_leaves (hst : st < 8) (he : engineOn s = true) (hp : standPresent s st = true) :
    Runs (.srmWindowEnd st) s fun t => onlyWindow s t ∧ ∀ i, i < 16 → windowEnded st i s t := by
  obtain ⟨hf, hd, -⟩ := windows_end (s := s) st (Nat.le_refl 16) _ rfl
  exact Gives.runs (congrArg Host.Outcome.next (if_pos ⟨hst, he, hp⟩)) ⟨hf, hd⟩

end

/-- Settles O55: the core's frames through the recoveries, then each clause by what its command does to the core. -/
theorem standsAndSequencers : Obligations.StandsAndSequencers := by
  unfold Obligations.StandsAndSequencers
  refine ⟨fun s st cause he => ⟨fun h => ?_, fun h => ?_⟩, fun s => ⟨_, rfl, rfl, rfl⟩,
    fun s l hr hl hd hm => rebuildComplete_leaves hr hl hd hm, fun s q group he hp hq => controlParityFault_leaves he hp hq group,
    fun s st hst he hp => watchdogFire_leaves hst he hp, fun s p found b ho hp hs hf => ⟨fun h => ?_, fun n hn => ?_⟩,
    fun s => ?_, fun s healthy h => ?_, fun s st hst he hp => srmWindowEnd_leaves hst he hp⟩
  · have e := standFailure_effect (st := st) he cause
    rwa [failStand_absent h] at e
  · exact (standFailure_effect he cause).runs (standFailure_leaves h)
  · have e := patrolRead_effect ho hp hs hf found b
    rw [patrol_quiet h] at e
    exact e.runs ⟨rfl, rfl⟩
  · subst hn
    refine (patrolRead_effect ho hp hs hf _ b).runs ?_
    rcases patrol_corrected (s := s) p.index n b with e | e <;> rw [e]
    · exact ⟨rfl, rfl⟩
    · obtain ⟨hk, ho⟩ := correctable_keeps_patrol (s := patrolPast s p.index) (patrolKey s p.index) false
      exact ⟨hk, (show onlyPanel s (patrolPast s p.index) from rfl).trans ho⟩
  · exact ⟨_, rfl, onlyRegs_setF .., regsBut_setF s _ _ (by simp), trngOk_setF 2⟩
  · refine (trngRetest_effect h healthy).runs ⟨onlyRegs_setF .., regsBut_setF s _ _ (by simp), ?_⟩
    rw [trngOk_setF]
    cases healthy <;> rfl

end Sys2Proof.Machine

namespace Sys2Proof.Machine

/-! # Seasons: a close, its merge, the flip and the freeing (R25, R306 to R308) -/

section
variable {s u : State} {x : Index} {cl : Closing} {p k : Nat}

@[simp] theorem getIndex_put (s : State) (p : Nat) (y : Index) : getIndex { s with index := aPut s.index p y } p = some y :=
  (aGet?_aPut ..).trans (if_pos rfl)

theorem getIndex_accept (s : State) (c : Cmd) (opcode : Nat) (session : Option Nat) (p : Nat) :
    getIndex (accept s c opcode session) p = getIndex s p := rfl

theorem getIndex_updIndex {f : Index → Index} (h : getIndex s p = some x) : getIndex (updIndex s p f) p = some (f x) :=
  (aGet?_aUpd ..).trans ((if_pos rfl).trans (congrArg (Option.map f) h))

/-! ## The close (R25) -/

/-- A close noted: the command stays outstanding until the version flips. -/
theorem closeSeason_opens {q : Req} (h10 : q.c.cdw10 = 0) (h11 : q.c.cdw11 = 0) (h13 : q.c.cdw13 = 0)
    (hs : isSealed s q.part = true) (hx : getIndex s q.part = some x) (hc : x.closing = none) :
    closeSeason s q = (updIndex s q.part fun x => { x with closing := some (Closing.asked q.c) }, none) := by
  unfold closeSeason
  rw [guards_pass (by simp [h10, h11, h13, hs])]
  simp [hx, hc]

theorem vzSeason_effect {c : Cmd} {q : Req} (hp : PlainBegins s c 0x8C u q) (h10 : c.cdw10 = 0) (h11 : c.cdw11 = 0)
    (h13 : c.cdw13 = 0) (hs : isSealed u q.part = true) (hx : getIndex u q.part = some x) (hc : x.closing = none) :
    Gives (.vzSeason c) s
      (accept (updIndex u q.part fun x => { x with closing := some (Closing.asked c) }) q.c q.opcode q.session) := by
  have hq : q.c = c := by rw [hp.2.1]
  subst hq
  exact (runPlain_begins hp ..).trans (congrArg _ (runBody_waits (closeSeason_opens h10 h11 h13 hs hx hc)))

theorem vzSeason_leaves {c : Cmd} {q : Req} (hp : PlainBegins s c 0x8C u q) (h10 : c.cdw10 = 0) (h11 : c.cdw11 = 0)
    (h13 : c.cdw13 = 0) (hs : isSealed u q.part = true) (hx : getIndex u q.part = some x) (hc : x.closing = none) :
    Runs (.vzSeason c) s fun t => t.mem = u.mem ∧ t.life = u.life ∧
      getIndex t q.part = some { x with closing := some (Closing.asked c) } := by
  refine (vzSeason_effect hp h10 h11 h13 hs hx hc).runs ⟨rfl, rfl, ?_⟩
  exact (getIndex_accept ..).trans (getIndex_updIndex hx)

/-! ## The merge (R306) -/

@[simp] theorem core_pagePlace {kind : Nat} : core (pagePlace s kind).1 = core s := by
  unfold pagePlace
  split
  · dsimp only
    split <;> simp
  · rfl

@[simp] theorem core_writePage {v : Nat} {g : GraphVersion} : core (writePage s p v g k) = core s := by
  unfold writePage
  dsimp only
  split
  · rfl
  · have h := core_pagePlace (s := s) (kind := (pagePayload (getPart s p).desc g k).1)
    split
    · rfl
    · rename_i e
      rw [e] at h
      simpa using h

theorem seasonTakesEffect_effect (hx : getIndex s p = some x) (hc : x.closing = some cl) (he : engineOn s = true)
    (hs : isSealed s p = true) (h0 : cl.phase = 0) (hb : batchHolds s p = false) :
    Gives (.seasonTakesEffect p) s (mergeSeason s p x cl) := by
  show execSeasonTakesEffect p s = _
  simp [execSeasonTakesEffect, hx, hc, he, hs, h0, hb]

theorem core_mergeSeason : core (mergeSeason s p x cl) = core s := by simp [mergeSeason]

/-- What a merge leaves: the partition's index goes over to the next season with the merged graph in its close. -/
theorem mergeSeason_leaves : (mergeSeason s p x cl).life = s.life ∧ ∃ d, getIndex (mergeSeason s p x cl) p =
    some { carryOver x with closing := some d } ∧ d.phase = 2 ∧ d.objs = x.held ∧ d.next.isSome = true ∧
      d.nodes = x.staging.map (·.1) := by
  exact ⟨congrArg Core.life (core_mergeSeason (cl := cl)), _, getIndex_put .., rfl, rfl, rfl, rfl⟩

theorem carryOver_lists (k : Nat) : (aGet? (carryOver x).ingest k).isSome = (aGet? x.ingest k).isSome := by
  have h := aGet?_mapVal x.ingest (fun o => { o with season := x.season + 1, formed := 0, vectors := [] }) k
  exact (congrArg Option.isSome h).trans Option.isSome_map

/-! ## The flip (R307, R308) -/

theorem versionFlip_effect {g : GraphVersion} (hx : getIndex s p = some x) (hc : x.closing = some cl) (he : engineOn s = true)
    (hg : cl.next = some g) (h2 : cl.phase = 2) (hp : (pinsVersion s p fun v => decide (v < x.version)) = false) :
    Gives (.versionFlip p) s (flipVersion s p x cl g) := by
  show execVersionFlip p s = _
  simp [execVersionFlip, hx, hc, he, hg, h2, hp]

/-- A season's completion goes to the host: neither memory nor an index changes. -/
theorem completeSeason_keeps : (completeSeason s x cl).mem = s.mem ∧ (completeSeason s x cl).index = s.index := by
  unfold completeSeason
  split <;> exact ⟨rfl, rfl⟩

theorem completeSeason_command (h : cl.command = true) :
    ∃ v, completeSeason s x cl = completeAt v cl.sqid cl.cid (replyDw stSuccess (x.season - 1)) :=
  ⟨_, if_neg (by simp [h])⟩

theorem flipVersion_leaves (g : GraphVersion) : (flipVersion s p x cl g).mem = s.mem ∧
    (∃ c, getIndex (flipVersion s p x cl g) p =
      some { x with version := x.version + 1, flash := aPut x.flash (x.version + 1) g, closing := c }) ∧
    (cl.command = true →
      ∃ v, flipVersion s p x cl g = completeAt v cl.sqid cl.cid (replyDw stSuccess (x.season - 1))) := by
  refine ⟨completeSeason_keeps.1, ⟨some { cl with phase := 3, objs := [], next := none }, ?_⟩,
    fun h => completeSeason_command h⟩
  exact (congrArg (aGet? · p) completeSeason_keeps.2).trans (getIndex_put ..)

/-! ## The freeing (R306) -/

theorem versionFreeing_effect (hx : getIndex s p = some x) (hc : x.closing = some cl) (he : engineOn s = true)
    (h3 : cl.phase = 3) (hp : (pinsVersion s p fun v => decide (v < x.version)) = false) :
    Gives (.versionFreeing p) s { s with index := aPut s.index p (freeVersion x cl) } := by
  show execVersionFreeing p s = _
  simp [execVersionFreeing, hx, hc, he, h3, hp]

/-- What a freeing drops: the version before, and the season set's records and tombstones. -/
theorem freeVersion_drops : aGet? (freeVersion x cl).flash (x.version - 1) = none ∧
    (∀ e ∈ (freeVersion x cl).staging, cl.nodes.contains e.1 = false) ∧
    (∀ n ∈ (freeVersion x cl).tombs, cl.tombs.contains n = false) := by
  refine ⟨(aGet?_aDel ..).trans (if_pos rfl), fun e he => ?_, fun n hn => ?_⟩
  · simpa using (List.mem_filter.mp he).2
  · simpa using (List.mem_filter.mp hn).2

end

/-- Settles O42: each step's effect on the partition's index, and what it leaves alone. -/
theorem seasonLifecycle : Obligations.SeasonLifecycle := by
  unfold Obligations.SeasonLifecycle
  refine fun s u c q x => ⟨fun hp h10 h11 h13 hs hx hc => vzSeason_leaves hp h10 h11 h13 hs hx hc,
    fun p cl hx hc he => ⟨fun hs h0 hb => ?_, fun g hg h2 hp => ?_, fun h3 hp => ?_⟩⟩
  · obtain ⟨hl, d, hy, h⟩ := mergeSeason_leaves (s := s) (p := p) (x := x) (cl := cl)
    obtain ⟨hphase, hobjs, hnext, hnodes⟩ := h
    exact (seasonTakesEffect_effect hx hc he hs h0 hb).runs
      ⟨hl, _, d, hy, rfl, rfl, rfl, rfl, rfl, hphase, hobjs, hnext, hnodes, carryOver_lists⟩
  · obtain ⟨hm, ⟨_, hy⟩, hcmd⟩ := flipVersion_leaves (s := s) (p := p) (x := x) (cl := cl) g
    exact (versionFlip_effect hx hc he hg h2 hp).runs
      ⟨_, hy, rfl, (aGet?_aPut ..).trans (if_pos rfl), rfl, hm, hcmd⟩
  · exact (versionFreeing_effect hx hc he h3 hp).runs
      ⟨rfl, _, getIndex_put .., rfl, rfl, fun k hk => (aGet?_aPut ..).trans (if_neg hk), freeVersion_drops⟩

end Sys2Proof.Machine

namespace Sys2Proof.Machine

/-! # Media reads: attempts, parity, cancellation (R47, R49, R211, R221, R225, R228, R251) -/

section
variable {s t : State} {a n k p ch die B : Nat}

/-! ## What flash's own follow-up work leaves alone

An access that ends completes host commands, frees resident pages and lets reclaim and erases go on. The map, the pages
on flash, the queued relocations, the other accesses and the counters of failed reads are no part of that work. -/

/-- The counters of degraded accesses and, on a ranger's page, of index pages that do not authenticate. -/
def counted (a : Nat) : Bool :=
  decide (a = Reg.FTL_DEGRADED ∨ 0x01000000 ≤ a ∧ a % 0x2000 = 0x1000 + Reg.RANGER_TAGFAIL)

structure Media where
  map : AMap MapEntry
  pages : AMap NandPage
  relocs : List Reloc
  accesses : AMap Access
  counters : Nat → Word

def media (s : State) : Media where
  map := s.ftl.map
  pages := s.ftl.pages
  relocs := s.ftl.relocs
  accesses := s.ftl.accesses
  counters a := if counted a then regGet s a else 0

theorem counted_tagFail (ch : Nat) : counted (rangerPage ch + Reg.RANGER_TAGFAIL) = true :=
  decide_eq_true (by unfold rangerPage chanPage standBase Reg.RANGER_TAGFAIL; omega)

theorem counted_chan (ch : Nat) (h : n < 0x1000) : counted (chanPage ch + n) = false :=
  decide_eq_false (by unfold chanPage standBase Reg.FTL_DEGRADED Reg.RANGER_TAGFAIL; omega)

@[simp] theorem counted_hub : counted Reg.FTL_SB = false ∧ counted Reg.FTL_STAT = false ∧ counted Reg.FTL_REBUILD = false ∧
    counted Reg.FOREST_EC_POISON = false ∧ counted Reg.FOREST_EC_READS = false ∧ counted Reg.RAS_EVLOG_LOST = false ∧
    counted (pgFtl + Reg.EVT_CAUSE) = false := by decide

theorem counted_ne {b : Nat} (ha : counted a = false) (hb : counted b = true) : b ≠ a := by
  rintro rfl
  exact absurd (hb.symm.trans ha) (by decide)

theorem regGet_of_counters (h : (media t).counters = (media s).counters) (ha : counted a = true) :
    regGet t a = regGet s a := by
  simpa [media, ha] using congrFun h a

/-- States with the same translation layer and the same counters. -/
theorem media_congr (hf : t.ftl = s.ftl) (hr : ∀ b, counted b = true → regGet t b = regGet s b) : media t = media s := by
  have hc : (media t).counters = (media s).counters := funext fun b => by
    by_cases hb : counted b = true
    · simp only [media, hb, if_true, hr b hb]
    · simp only [media, hb, if_false, Bool.false_eq_true]
  rw [media, hf]
  exact congrArg (Media.mk s.ftl.map s.ftl.pages s.ftl.relocs s.ftl.accesses) hc

/-! ### Records and registers -/

/-- Whatever is replaced beside the translation layer and the registers. -/
@[simp] theorem media_replace (s : State) (pending : List Instr) (shadow : List (Nat × Nat × Word)) (tb fresh seedEpoch : Nat)
    (mem : Mem) (life : AMap PState) (parts : AMap Part) (creations : AMap Nat) (host : HostIf) (ras : Ras) (sec : Security)
    (mgmt : Mgmt) (chans : AMap Channel) (index : AMap Index) (searches : AMap Search) :
    media { s with pending, shadow, tb, fresh, seedEpoch, mem, life, parts, creations, host, ras, sec, mgmt, chans, index,
                   searches } = media s := rfl

/-- The parts of the translation layer that the view does not show. -/
@[simp] theorem media_ftl (s : State) (buf : List BufUnit) (nextOrder : Nat) (sbs : AMap SuperBlock) (opened sbErases members : AMap Nat)
    (reads : AMap ReadWait) (credit : Nat) (refreshQueue : List Nat) (blocks : AMap Block) :
    media { s with ftl := { s.ftl with buf, nextOrder, sbs, opened, sbErases, members, reads, credit, refreshQueue, blocks } } =
      media s := rfl

@[simp] theorem media_ite (c : Prop) [Decidable c] (s t : State) : media (if c then s else t) = if c then media s else media t :=
  apply_ite ..

@[simp] theorem media_setReg (h : counted a = false) (w : Word) : media (setReg s a w) = media s :=
  media_congr rfl fun _ hb => regGet_setReg_ne w (counted_ne h hb)

@[simp] theorem media_bump (h : counted a = false) : media (bump s a n) = media s := media_setReg h _

@[simp] theorem media_setF (h : counted a = false) (f : BitField) (v : Nat) : media (setF s a f v) = media s := media_setReg h _

@[simp] theorem media_bumpF (h : counted a = false) (f : BitField) (v : Nat) : media (bumpF s a f v) = media s := media_setReg h _

@[simp] theorem media_post {page : Nat} (h : counted (page + Reg.EVT_CAUSE) = false) (code part a0 a1 : Nat) :
    media (post s page code part a0 a1) = media s :=
  media_congr rfl fun _ hb => (regGet_postFlags _ _ _ _ _ _ _ (counted_ne (by decide) hb)).trans (if_neg (counted_ne h hb))

@[simp] theorem media_foldl {β : Type} {g : State → β → State} (hg : ∀ s x, media (g s x) = media s) (l : List β) (s : State) :
    media (l.foldl g s) = media s :=
  foldl_keeps (fun t => media t = media s) g (fun _ x h => (hg _ x).trans h) l s rfl

/-! ### Dies, blocks and super-blocks -/

@[simp] theorem media_updBlock {f : Block → Block} : media (updBlock s k f) = media s := rfl

@[simp] theorem media_setDieOp {o : Option DieOp} : media (setDieOp s ch die o) = media s := rfl

@[simp] theorem media_updSb {f : SuperBlock → SuperBlock} : media (updSb s B f) = media s := rfl

@[simp] theorem media_resumeDies : media (resumeDies s) = media s := rfl

@[simp] theorem media_countRebuild : media (countRebuild s) = media s := by unfold countRebuild; split <;> simp

theorem addrDie_lt (a : Nat) : addrDie a < 8 := bitsOf_lt a 28 26

/-- An erase in progress shows in a register of its channel. -/
theorem counted_eraseActive (ch a : Nat) : counted (chanPage ch + Reg.CH_ERASE_ACTIVE + 4 * addrDie a) = false := by
  have h := addrDie_lt a
  rw [Nat.add_assoc]
  exact counted_chan ch (by unfold Reg.CH_ERASE_ACTIVE; omega)

@[simp] theorem media_kick : media (kick s) = media s := by simp [kick, counted_eraseActive]

/-- t differs from s in the super-blocks and the count of free ones at most. -/
def onlySlots (s t : State) : Prop :=
  t = { s with regs := t.regs, ftl := { s.ftl with sbs := t.ftl.sbs, opened := t.ftl.opened } } ∧ regsBut [Reg.FTL_SB] s t

theorem onlySlots.media_eq (h : onlySlots s t) : media t = media s := by
  obtain ⟨e, hr⟩ := h
  have hm : media t = media { s with regs := t.regs } := by rw [e]; rfl
  refine hm.trans (media_congr rfl fun b hb => hr b ?_)
  simpa using counted_ne (by decide) hb

theorem onlySlots.refl (s : State) : onlySlots s s := ⟨rfl, fun _ _ => rfl⟩

theorem onlySlots.updSb (h : onlySlots s t) (f : SuperBlock → SuperBlock) : onlySlots s (updSb t B f) := by
  obtain ⟨e, hr⟩ := h
  exact ⟨by rw [e]; rfl, hr⟩

theorem onlySlots_openSb {stream b : Nat} (h : openSb s stream = some (t, b)) : onlySlots s t := by
  unfold openSb at h
  split at h
  · cases h
  · cases h
    exact ⟨rfl, regsBut_setF s _ _ (by simp)⟩

/-- A slot taken: of a super-block that is open, or of one that it opens. -/
theorem onlySlots_takeSlot (stream : Nat) : onlySlots s (takeSlot s stream).1 := by
  have fresh : ∀ f : State → Nat → SuperBlock → State × Option Nat, (∀ t b x, onlySlots s t → onlySlots s (f t b x).1) →
      onlySlots s (match openSb s stream with
        | none => (s, none)
        | some (t, b) => match getSb t b with | some x => f t b x | none => (t, none)).1 := fun f hf => by
    split
    · exact .refl s
    · rename_i t b h
      split
      · exact hf _ _ _ (onlySlots_openSb h)
      · exact onlySlots_openSb h
  unfold takeSlot
  dsimp only
  split
  · exact fresh _ fun _ _ _ h => h.updSb _
  · split
    · split
      · exact (onlySlots.refl s).updSb _
      · exact fresh _ fun _ _ _ h => h.updSb _
    · exact fresh _ fun _ _ _ h => h.updSb _

@[simp] theorem media_takeSlot {stream : Nat} : media (takeSlot s stream).1 = media s := (onlySlots_takeSlot stream).media_eq

@[simp] theorem media_assignSlots : media (assignSlots s) = media s := by
  refine media_foldl (fun t b => ?_) _ _
  have h := media_takeSlot (s := t) (stream := 0)
  rcases hs : takeSlot t 0 with ⟨u, _ | k⟩
  · rfl
  · rw [hs] at h
    simpa using h

@[simp] theorem media_freeErased {sb : SuperBlock} : media (freeErased s B sb) = media s := by
  unfold freeErased
  dsimp only
  generalize hf : List.foldl _ (s, true) _ = r
  have h : media r.1 = media s := by
    rw [← hf]
    refine foldl_keeps (fun b : State × Bool => media b.1 = media s) _ (fun acc x hacc => ?_) _ _ rfl
    split <;> simpa using hacc
  simp [h]

@[simp] theorem media_sweepErased : media (sweepErased s) = media s := by simp [sweepErased]

@[simp] theorem media_sweepReclaimed : media (sweepReclaimed s) = media s := by simp [sweepReclaimed]

@[simp] theorem media_flashSettle : media (flashSettle s) = media s := by simp [flashSettle]

/-! ### Whoever waits for the access -/

@[simp] theorem media_completeAt {i j : Nat} {r : Reply} : media (completeAt s i j r) = media s := rfl

@[simp] theorem media_updProg {i j : Nat} {f : ProgRec → ProgRec} : media (updProg s i j f) = media s := rfl

@[simp] theorem media_finishRead : media (finishRead s k) = media s := by
  unfold finishRead
  split
  · rfl
  · split
    · rfl
    · dsimp only
      split <;> simp [poisonedReply]

@[simp] theorem media_dropCopy : media (dropCopy s k) = media s := by unfold dropCopy; split <;> rfl

@[simp] theorem media_staleCopy : media (staleCopy s p k) = media s := by
  unfold staleCopy
  dsimp only
  split <;> simp

@[simp] theorem media_enterUnit {u idx kind stream : Nat} {v : UnitVal} :
    media (enterUnit s p u idx kind stream v).1 = media s := by simp [enterUnit]

/-- A unit rebuilt from other modules goes to the write buffer; its map entry waits until it is on flash. -/
@[simp] theorem media_forestRead {u idx : Nat} : media (forestRead s p u idx).1 = media s := by
  unfold forestRead
  split
  · rfl
  · split
    · rfl
    · split
      · rfl
      · simp [apply_ite Prod.fst]

@[simp] theorem media_deliverRead {acc : Nat} {ok : Bool} : media (deliverRead s k acc ok) = media s := by
  unfold deliverRead
  split
  · rfl
  · dsimp only
    split
    · simp
    · split
      · simp
      · split
        · simp
        · split <;> simp

@[simp] theorem media_fillSlot {version : Nat} : media (fillSlot s p version a) = media s := rfl

@[simp] theorem media_deliverSearch {x : Access} {ok : Bool} : media (deliverSearch s x ok) = media s := by
  unfold deliverSearch
  split
  · rfl
  · split <;> simp

/-- An access that ends is no longer listed. -/
theorem media_endAccess {x : Access} {ok : Bool} :
    media (endAccess s k x ok) = { media s with accesses := aDel s.ftl.accesses k } := by
  simp only [endAccess, media_flashSettle, media_ite, media_deliverRead, media_deliverSearch, media_resumeDies, ite_self]
  rfl

end

end Sys2Proof.Machine

namespace Sys2Proof.Machine

section
variable {s : State} {id k n : Nat} {a : Access} {results : List CodewordResult} {ok : Bool}

/-! ## The end of an access -/

theorem aGet?_endAccess : aGet? (endAccess s id a ok).ftl.accesses id = none := by
  have h : (endAccess s id a ok).ftl.accesses = aDel s.ftl.accesses id := congrArg Media.accesses media_endAccess
  rw [h, aGet?_aDel, if_pos rfl]

theorem mapGet_endAccess (i : Nat) : mapGet (endAccess s id a ok) i = mapGet s i := by
  have h : (endAccess s id a ok).ftl.map = s.ftl.map := congrArg Media.map media_endAccess
  rw [mapGet, mapGet, h]

theorem relocs_endAccess : (endAccess s id a ok).ftl.relocs = s.ftl.relocs := congrArg Media.relocs media_endAccess

theorem regGet_endAccess {b : Nat} (hb : counted b = true) : regGet (endAccess s id a ok) b = regGet s b :=
  regGet_of_counters (by rw [media_endAccess]) hb

theorem aGet?_updAccess {f : Access → Access} (ha : aGet? s.ftl.accesses id = some a) :
    aGet? (updAccess s id f).ftl.accesses id = some (f a) :=
  (aGet?_aUpd ..).trans ((if_pos rfl).trans (congrArg (Option.map f) ha))

/-! ## One attempt (R221, R225, R228, R250) -/

theorem getBlock_updBlock (f : Block → Block) (j : Nat) :
    getBlock (updBlock s k f) j = if j = k then f (getBlock s k) else getBlock s j := aGetD_aPut ..

theorem getBlock_post (page code part a0 a1 j : Nat) : getBlock (post s page code part a0 a1) j = getBlock s j := rfl

theorem countBlockRead_reads : (getBlock (countBlockRead s k) k).reads = (getBlock s k).reads + 1 := by
  have h : getBlock (countBlockRead s k) k = getBlock (updBlock s k fun b => { b with reads := b.reads + 1 }) k := 
    (apply_ite (getBlock · k) ..).trans (ite_self _)
  rw [h, getBlock_updBlock, if_pos rfl]

@[simp] theorem media_countBlockRead : media (countBlockRead s k) = media s := by simp [countBlockRead]

@[simp] theorem media_noteBits : media (noteBits s k n) = media s := by
  simp [noteBits, counted_chan _ (show Reg.CH_WARN_COUNT < 0x1000 by decide), counted_chan _ (show Reg.EVT_CAUSE < 0x1000 by decide)]

/-- A read-warning marks its block and counts no read of it. -/
theorem noteBits_reads (j : Nat) : (getBlock (noteBits s k n) j).reads = (getBlock s j).reads := by
  unfold noteBits
  dsimp only
  split
  · rfl
  · split
    · rfl
    · rw [getBlock_post, getBlock_updBlock]
      split
      · rename_i e
        rw [e]
        rfl
      · rfl

/-- The codewords that an attempt reads: all four at first, then those that failed the last one. -/
def codewordsRead (a : Access) : List Nat := if a.attempt = 0 then [0, 1, 2, 3] else a.failed

/-- The state once an attempt is read and counted: whether its access goes on is not yet decided. -/
def attempted (s : State) (id : Nat) (a : Access) (results : List CodewordResult) : State :=
  let s1 := countBlockRead s (blockKey a.addr)
  let s2 := if isLadder s a (a.attempt + 1) then bump s1 (chanPage (addrChan a.addr) + Reg.CH_RETRY) 1 else s1
  updAccess ((passedBits results).foldl (fun s b => noteBits s (blockKey a.addr) b) s2) id fun x =>
    { x with attempt := a.attempt + 1, failed := failedOf (codewordsRead a) results }

theorem readDone_eq : readDone s id a results ok =
    if !(failedOf (codewordsRead a) results).isEmpty then attempted s id a results
    else if ((aGet? s.ftl.pages a.addr).any fun p => p.kind == 1) ∧ !ok then
      endAccess (bump (attempted s id a results) (rangerPage (addrChan a.addr) + Reg.RANGER_TAGFAIL) 1) id a false
    else if tagDiffers s a then dropTagged (attempted s id a results) id a
    else if a.search ∧ isMirrorTry s a (a.attempt + 1) then
      bump (attempted s id a results) (rangerPage (addrChan a.addr) + Reg.RANGER_MIRROR) 1
    else attempted s id a results := by
  unfold readDone
  cases aGet? s.ftl.pages a.addr <;> rfl

theorem media_attempted : media (attempted s id a results) = { media s with
    accesses := aUpd s.ftl.accesses id fun x =>
      { x with attempt := a.attempt + 1, failed := failedOf (codewordsRead a) results } } := by
  have h : ∀ u, media u = media s → ∀ f, media (updAccess u id f) = { media s with accesses := aUpd s.ftl.accesses id f } := by
    intro u hu f
    have ha : u.ftl.accesses = s.ftl.accesses := congrArg Media.accesses hu
    rw [← hu, ← ha]
    rfl
  exact h _ (by simp [counted_chan _ (show Reg.CH_RETRY < 0x1000 by decide)]) _

theorem attempted_reads : (getBlock (attempted s id a results) (blockKey a.addr)).reads =
    (getBlock s (blockKey a.addr)).reads + 1 := by
  refine foldl_keeps (fun t => (getBlock t (blockKey a.addr)).reads = (getBlock s (blockKey a.addr)).reads + 1) _
    (fun t b ht => (noteBits_reads _).trans ht) (passedBits results) _ ?_
  split <;> exact countBlockRead_reads

/-- What an attempt notes: the attempt, the codewords that failed it, and a read of the block. -/
def noted (s : State) (id : Nat) (a : Access) (results : List CodewordResult) (t : State) : Prop :=
  aGet? t.ftl.accesses id = some { a with attempt := a.attempt + 1, failed := failedOf (codewordsRead a) results } ∧
    t.ftl.map = s.ftl.map ∧ t.ftl.pages = s.ftl.pages ∧
    (getBlock t (blockKey a.addr)).reads = (getBlock s (blockKey a.addr)).reads + 1

theorem attempted_notes (ha : aGet? s.ftl.accesses id = some a) : noted s id a results (attempted s id a results) := by
  have h := media_attempted (s := s) (id := id) (a := a) (results := results)
  have hacc : (attempted s id a results).ftl.accesses = _ := congrArg Media.accesses h
  refine ⟨?_, congrArg Media.map h, congrArg Media.pages h, attempted_reads⟩
  rw [hacc, aGet?_aUpd, if_pos rfl, ha]
  rfl

/-- An attempt that does not end its access: it failed, or its unit is in order and the reader's own. -/
theorem readDone_notes (ha : aGet? s.ftl.accesses id = some a) (h : failedOf (codewordsRead a) results ≠ [] ∨
    (((aGet? s.ftl.pages a.addr).any fun p => p.kind == 1) = false ∨ ok = true) ∧ tagDiffers s a = false) :
    noted s id a results (readDone s id a results ok) := by
  rw [readDone_eq]
  by_cases hbad : failedOf (codewordsRead a) results = []
  · obtain ⟨hpage, htag⟩ := h.resolve_left (absurd hbad)
    have hauth : ¬(((aGet? s.ftl.pages a.addr).any fun p => p.kind == 1) = true ∧ (!ok) = true) := by
      rintro ⟨hi, ho⟩
      rcases hpage with h | h
      · exact absurd (h.symm.trans hi) (by decide)
      · simp [h] at ho
    rw [if_neg (by simp [hbad]), if_neg hauth, if_neg (by simp [htag])]
    split <;> exact attempted_notes ha
  · rw [if_pos (by simp [hbad])]
    exact attempted_notes ha

/-- An index page that does not authenticate is counted at its ranger, and its access ends (R221). -/
theorem readDone_unauthentic (hbad : failedOf (codewordsRead a) results = [])
    (hi : ((aGet? s.ftl.pages a.addr).any fun p => p.kind == 1) = true) :
    aGet? (readDone s id a results false).ftl.accesses id = none ∧
      (regGet (readDone s id a results false) (rangerPage (addrChan a.addr) + Reg.RANGER_TAGFAIL)).toNat =
        min ((regGet s (rangerPage (addrChan a.addr) + Reg.RANGER_TAGFAIL)).toNat + 1) 0xFFFFFFFF := by
  rw [readDone_eq, if_neg (by simp [hbad]), if_pos ⟨hi, rfl⟩]
  refine ⟨aGet?_endAccess, ?_⟩
  have hc := counted_tagFail (addrChan a.addr)
  have hr : regGet (attempted s id a results) (rangerPage (addrChan a.addr) + Reg.RANGER_TAGFAIL) =
      regGet s (rangerPage (addrChan a.addr) + Reg.RANGER_TAGFAIL) := regGet_of_counters (by rw [media_attempted]) hc
  rw [regGet_endAccess hc, regGet_bump, hr]

theorem nandReadComplete_effect (ha : aGet? s.ftl.accesses id = some a) (hw : wantsRead s a = true)
    (hd : dieReadable s (addrChan a.addr) (addrDie a.addr) = true)
    (hl : results.length = if a.attempt = 0 then 4 else a.failed.length) :
    Gives (.nandReadComplete id results ok) s (readDone s id a results ok) := by
  show execNandReadComplete id results ok s = _
  simp [execNandReadComplete, ha, hw, hd, hl]

/-! ## The end of the attempts (R225, R251, R252) -/

variable {chOk crossOk : Bool} {e : MapEntry}

theorem mediaAccessComplete_effect (ha : aGet? s.ftl.accesses id = some a) (hc : a.cancelled = false) :
    Gives (.mediaAccessComplete id chOk crossOk) s (accessDone s id a chOk crossOk) := by
  show execMediaAccessComplete id chOk crossOk s = _
  simp [execMediaAccessComplete, ha, hc]

theorem accessDone_passed (hd : dieUp s (addrChan a.addr) (addrDie a.addr) = true) (h0 : a.attempt ≠ 0) (hf : a.failed = []) :
    accessDone s id a chOk crossOk = endAccess s id a true := by
  simp [accessDone, hd, h0, hf]

/-- The last attempt failed: the channel counts it before the degraded access. -/
theorem accessDone_failed (hd : dieUp s (addrChan a.addr) (addrDie a.addr) = true) (hf : a.failed ≠ []) (h0 : 0 < a.attempt)
    (hl : lastAttempt s a ≤ a.attempt) : accessDone s id a chOk crossOk =
      degraded (bump s (chanPage (addrChan a.addr) + Reg.CH_UNCORR) 1) id a chOk crossOk := by
  simp [accessDone, hd, hf, Nat.ne_of_gt h0, Nat.not_lt.mpr hl]

/-- Channel parity rebuilds a unit while no stand is lost. -/
theorem degraded_served (hm : mapGet s a.idx = some e) (hadr : e.addr = a.addr) (h3 : e.state ≠ 3) (hl : lostStand s = none) :
    degraded s id a true crossOk = endAccess (queueRelocs (bump s Reg.FTL_DEGRADED 1) [(a.idx, e)]) id a true := by
  have hm' : mapGet (bump s Reg.FTL_DEGRADED 1) a.idx = some e := hm
  simp [degraded, hm', hadr, h3, hl]

/-- With no parity left the unit's map entry becomes poisoned. -/
theorem degraded_lost (hm : mapGet s a.idx = some e) (hadr : e.addr = a.addr) (h3 : e.state ≠ 3) :
    degraded s id a false false = endAccess (mapSet (bump s Reg.FTL_DEGRADED 1) a.idx (some poisonedEntry)) id a false := by
  have hm' : mapGet (bump s Reg.FTL_DEGRADED 1) a.idx = some e := hm
  simp [degraded, hm', hadr, h3]

/-- A mapped unit whose page is there has a relocation queued, if not by this request then by an earlier one. -/
theorem queueRelocs_queues {i : Nat} (hp : (aGet? s.ftl.pages e.addr).isSome = true) :
    ∃ r ∈ (queueRelocs s [(i, e)]).ftl.relocs, r.idx = i := by
  obtain ⟨pg, hpg⟩ := Option.isSome_iff_exists.mp hp
  by_cases h : i ∈ s.ftl.relocs.map (·.idx)
  · obtain ⟨r, hr, hi⟩ := List.mem_map.mp h
    exact ⟨r, List.mem_append_left _ hr, hi⟩
  · refine ⟨{ idx := i, partition := pg.partition, kind := pg.kind, old := e.addr, val := pg.val },
      List.mem_append_right _ ?_, rfl⟩
    simpa [hpg] using h

theorem lostStand_bump_chan (ch : Nat) : lostStand (bump s (chanPage ch + Reg.CH_UNCORR) 1) = lostStand s :=
  lostStand_of_core (congrArg (·.regs.lost) (core_bump (quiet_chan ..) _))

/-- A unit rebuilt through parity keeps its place in the map until its relocation. -/
theorem degraded_rebuilds (hm : mapGet s a.idx = some e) (hadr : e.addr = a.addr) (h3 : e.state ≠ 3) (hl : lostStand s = none)
    (hp : (aGet? s.ftl.pages a.addr).isSome = true) :
    aGet? (degraded s id a true crossOk).ftl.accesses id = none ∧ mapGet (degraded s id a true crossOk) a.idx = some e ∧
      ∃ r ∈ (degraded s id a true crossOk).ftl.relocs, r.idx = a.idx := by
  rw [degraded_served hm hadr h3 hl, relocs_endAccess]
  exact ⟨aGet?_endAccess, (mapGet_endAccess _).trans hm,
    queueRelocs_queues (s := bump s Reg.FTL_DEGRADED 1) (hadr ▸ hp)⟩

theorem degraded_poisons (hm : mapGet s a.idx = some e) (hadr : e.addr = a.addr) (h3 : e.state ≠ 3) :
    aGet? (degraded s id a false false).ftl.accesses id = none ∧
      mapGet (degraded s id a false false) a.idx = some poisonedEntry ∧
      (regGet (degraded s id a false false) Reg.FTL_DEGRADED).toNat =
        min ((regGet s Reg.FTL_DEGRADED).toNat + 1) 0xFFFFFFFF := by
  rw [degraded_lost hm hadr h3, regGet_endAccess (by decide)]
  exact ⟨aGet?_endAccess, (mapGet_endAccess _).trans ((aGet?_aPut ..).trans (if_pos rfl)), regGet_bump⟩

/-! ## Limits that expire (R47, R49, R211) -/

theorem mediaAccessTimeout_effect (ha : aGet? s.ftl.accesses id = some a) (hc : a.cancelled = false) :
    Gives (.mediaAccessTimeout id) s (updAccess s id fun x => { x with cancelled := true }) := by
  show execMediaAccessTimeout id s = _
  simp [execMediaAccessTimeout, ha, hc]

theorem cancellationStop_effect (ha : aGet? s.ftl.accesses id = some a) (hc : a.cancelled = true) :
    Gives (.cancellationStop id ok) s (cancelStop s id a ok) := by
  show execCancellationStop id ok s = _
  simp [execCancellationStop, ha, hc]

/-- The state in which a success after the cancellation is discarded and counted. -/
def discarded (s : State) (a : Access) (ok : Bool) : State :=
  if ok ∧ standPresent s (addrStand a.addr) then bump s (standBase (addrStand a.addr) + Reg.STAND_TMO_DISCARD) 1 else s

/-- The access as its degraded access finds it: no attempt left, the last one failed. -/
def outOfAttempts (s : State) (a x : Access) : Access :=
  { x with cancelled := false, attempt := lastAttempt s a, failed := if x.failed.isEmpty then [0] else x.failed }

theorem cancelStop_eq : cancelStop s id a ok = if a.asker = 3 then endAccess (discarded s a ok) id a false
    else updAccess (discarded s a ok) id (outOfAttempts s a) := rfl

theorem discarded_ftl : (discarded s a ok).ftl = s.ftl := by unfold discarded; split <;> rfl

theorem outOfAttempts_fails (x : Access) : (outOfAttempts s a x).failed ≠ [] := by
  unfold outOfAttempts
  cases h : x.failed <;> simp

theorem cancelStop_waited (ha : aGet? s.ftl.accesses id = some a) (h3 : a.asker ≠ 3) :
    aGet? (cancelStop s id a ok).ftl.accesses id = some (outOfAttempts s a a) ∧
      (cancelStop s id a ok).ftl.map = s.ftl.map ∧ (cancelStop s id a ok).regs = (discarded s a ok).regs := by
  rw [cancelStop_eq, if_neg h3]
  have h := discarded_ftl (s := s) (a := a) (ok := ok)
  exact ⟨aGet?_updAccess (by rw [h]; exact ha), (congrArg Ftl.map h :), rfl⟩

theorem discarded_counts (hs : standPresent s (addrStand a.addr) = true) :
    (regGet (discarded s a true) (standBase (addrStand a.addr) + Reg.STAND_TMO_DISCARD)).toNat =
      min ((regGet s (standBase (addrStand a.addr) + Reg.STAND_TMO_DISCARD)).toNat + 1) 0xFFFFFFFF := by
  rw [discarded, if_pos ⟨rfl, hs⟩, regGet_bump]

/-- A die that does not answer fails every codeword that the attempt reads. -/
theorem failedOf_failed (l : List Nat) : failedOf l (List.replicate l.length .failed) = l := by
  induction l with
  | nil => rfl
  | cons x l ih => exact congrArg (x :: ·) ih

theorem codewordsRead_length : (codewordsRead a).length = if a.attempt = 0 then 4 else a.failed.length := by
  unfold codewordsRead; split <;> rfl

/-- An access that wants a further attempt has codewords to read. -/
theorem codewordsRead_ne_nil (h : wantsRead s a = true) : codewordsRead a ≠ [] := by
  unfold codewordsRead
  split
  · simp
  · rename_i h0
    simp only [wantsRead, Bool.and_eq_true, Bool.or_eq_true, beq_iff_eq, h0, false_or] at h
    obtain ⟨⟨-, hf⟩, -⟩ := h
    simpa using hf

theorem nandOpTimeout_effect {d : DiePath} {again : Bool} (hd : dieUp s (16 * d.stand + d.chan) d.die = true)
    (ho : dieOp s (16 * d.stand + d.chan) d.die = none) (hr : dieRead s (16 * d.stand + d.chan) d.die = some (id, a)) :
    Gives (.nandOpTimeout d again) s (flashSettle (readDone s id a (List.replicate (codewordsRead a).length .failed) true)) := by
  show execNandOpTimeout d again s = _
  simp [execNandOpTimeout, opTimeout, hd, ho, hr, codewordsRead_length]

theorem wantsRead_of_dieRead {ch die : Nat} (h : dieRead s ch die = some (id, a)) : wantsRead s a = true := by
  have h := List.find?_some h
  simp only [Bool.and_eq_true] at h
  exact h.2

theorem timedOut_notes (ha : aGet? s.ftl.accesses id = some a) (hw : wantsRead s a = true) :
    ∃ x, aGet? (flashSettle (readDone s id a (List.replicate (codewordsRead a).length .failed) true)).ftl.accesses id = some x ∧
      x.attempt = a.attempt + 1 ∧ x.failed ≠ [] := by
  have hbad : failedOf (codewordsRead a) (List.replicate (codewordsRead a).length .failed) ≠ [] := by
    rw [failedOf_failed]
    exact codewordsRead_ne_nil hw
  obtain ⟨hx, -⟩ := readDone_notes (ok := true) ha (.inl hbad)
  exact ⟨_, (congrArg (fun m => aGet? m.accesses id) media_flashSettle).trans hx, rfl, hbad⟩

end

/-- Settles O51: each step's outcome by its own lemma; what an access's end sets going leaves the map, the relocations and
the counters alone (`media_endAccess`). -/
theorem nandReads : Obligations.NandReads := by
  unfold Obligations.NandReads
  refine fun s id a ha => ⟨fun results ok hw hd hl => ⟨fun h => ?_, fun hbad hi ho => ?_⟩,
    fun chOk crossOk hc => ⟨fun hd h0 hf => ?_, fun hd hf h0 hl _ e hm hadr h3 => ⟨fun hch hlost hp => ?_, fun hch hcr => ?_⟩⟩,
    fun hc => ?_, fun ok hc => ⟨fun h3 => ?_, fun h3 => ?_⟩, fun d again hd ho hr => ?_⟩
  · exact (nandReadComplete_effect ha hw hd hl).runs (readDone_notes ha h)
  · subst ho
    exact (nandReadComplete_effect ha hw hd hl).runs (readDone_unauthentic hbad hi)
  · refine (mediaAccessComplete_effect ha hc).runs ?_
    rw [accessDone_passed hd h0 hf]
    exact aGet?_endAccess
  · refine (mediaAccessComplete_effect ha hc).runs ?_
    rw [accessDone_failed hd hf h0 hl, hch]
    exact degraded_rebuilds hm hadr h3 ((lostStand_bump_chan _).trans hlost) hp
  · refine (mediaAccessComplete_effect ha hc).runs ?_
    have hcount : regGet (bump s (chanPage (addrChan a.addr) + Reg.CH_UNCORR) 1) Reg.FTL_DEGRADED = regGet s Reg.FTL_DEGRADED :=
      regGet_of_counters (congrArg Media.counters (media_bump (counted_chan _ (by decide)))) (by decide)
    rw [accessDone_failed hd hf h0 hl, hch, hcr, ← hcount]
    exact degraded_poisons hm hadr h3
  · exact (mediaAccessTimeout_effect ha hc).runs ⟨rfl, rfl, aGet?_updAccess ha⟩
  · refine (cancellationStop_effect ha hc).runs ?_
    rw [cancelStop_eq, if_pos h3]
    exact aGet?_endAccess
  · obtain ⟨hx, hmap, hregs⟩ := cancelStop_waited (ok := ok) ha h3
    refine (cancellationStop_effect ha hc).runs ⟨⟨_, hx, rfl, rfl, outOfAttempts_fails a⟩, hmap, ?_⟩
    rintro rfl hs
    dsimp only
    rw [regGet, hregs]
    exact discarded_counts hs
  · exact (nandOpTimeout_effect hd ho hr).runs (timedOut_notes ha (wantsRead_of_dieRead hr))

end Sys2Proof.Machine

namespace Sys2Proof.Machine

/-! # The dispatcher's view: what the ends and restarts of jobs leave alone

A job that ends, restarts its day or moves to a spare copse frees pages, completes commands and lets flash settle. The
bench is the part of the state that copse and calendar rows speak of: the registers that count their outcomes, the
almanacs, the copses, the jobs. -/

/-- The counts of late arrivals and of checks and the health on the pages of stands and copses. -/
def standReg (a : Nat) : Bool :=
  decide (0x01000000 ≤ a ∧ a % 0x200000 < 0x100000 ∧ (a % 0x2000 = Reg.STAND_TMO_LATE ∨
    a % 0x2000 = 0x1000 + Reg.COPSE_CHK_FAIL ∨ a % 0x2000 = 0x1000 + Reg.COPSE_CHK_REEXEC ∨
    a % 0x2000 = 0x1000 + Reg.COPSE_HEALTH))

/-- The dispatcher's causes and counts, and the validator's last rejection. -/
def hubReg (a : Nat) : Bool := [pgDispatcher + Reg.EVT_CAUSE, Reg.DSP_LATE, Reg.DSP_RESTARTS, Reg.DSP_COMMITS_LO,
  Reg.DSP_COMMITS_LO + 4, Reg.VAL_LAST].contains a

/-- The bench shows the register in neither way. -/
def hidden (a : Nat) : Bool := !standReg a && !hubReg a

/-- A stand's register as the bench shows it: without the count of runs as a spare. -/
def shown (a : Nat) (w : Word) : Word :=
  if a % 0x2000 = 0x1000 + Reg.COPSE_HEALTH then
    BitVec.ofNat 32 (putBits w.toNat Fld.COPSE_HEALTH_spare_runs.hi Fld.COPSE_HEALTH_spare_runs.lo 0) else w

structure Floor where
  tb : Nat
  alms : AMap Alm
  stands : Nat → Word
  hub : Nat → Word

structure Bench where
  floor : Floor
  copses : AMap Copse
  jobs : AMap Job

def floorOf (s : State) : Floor where
  tb := s.tb
  alms := s.alms
  stands a := if standReg a then shown a (regGet s a) else 0
  hub a := if hubReg a then regGet s a else 0

def bench (s : State) : Bench := ⟨floorOf s, s.copses, s.jobs⟩

/-- A job without what the writes and follow-up work of its day touch. -/
def fixedJob (j : Job) : Job :=
  { j with work := [], held := [], reads := [], slots := [], nextSeq := 0, exps := [], tables := [] }

/-- The bench with each job reduced to its fixed part. -/
def Bench.still (b : Bench) : Bench := { b with jobs := b.jobs.map fun e => (e.1, fixedJob e.2) }

/-! ## Registers of the bench -/

theorem hidden_of_page {a : Nat} (h : 0x01000000 ≤ a) (h' : 0x100000 ≤ a % 0x200000) : hidden a = true := by
  have hs : standReg a = false := decide_eq_false (by omega)
  have hh : hubReg a = false := by
    simp only [hubReg, Reg.DSP_LATE, Reg.DSP_RESTARTS, Reg.DSP_COMMITS_LO, Reg.VAL_LAST, pgDispatcher, Reg.EVT_CAUSE,
      List.contains_eq_mem, decide_eq_false_iff_not, List.mem_cons, List.not_mem_nil, or_false]
    omega
  simp [hidden, hs, hh]

theorem hidden_ranger (i : Nat) {n : Nat} (h : n < 0x1000) : hidden (rangerPage i + n) = true :=
  hidden_of_page (by unfold rangerPage chanPage standBase; omega) (by unfold rangerPage chanPage standBase; omega)

theorem hidden_stack (i : Nat) {n : Nat} (h : n < 0x1000) : hidden (stackPage i + n) = true :=
  hidden_of_page (by unfold stackPage standBase; omega) (by unfold stackPage standBase; omega)

/-- A register of a copse's first page, or of its second apart from those that the bench shows. -/
theorem hidden_copse (k : Nat) {n : Nat} (h : n < 0x2000) (hn : n ≠ Reg.STAND_TMO_LATE ∧ n ≠ 0x1000 + Reg.COPSE_CHK_FAIL ∧
    n ≠ 0x1000 + Reg.COPSE_CHK_REEXEC ∧ n ≠ 0x1000 + Reg.COPSE_HEALTH) : hidden (copsePage k + n) = true := by
  have ha : 0x01000000 ≤ copsePage k + n ∧ (copsePage k + n) % 0x2000 = n := by
    unfold copsePage gladePage standBase
    omega
  have hs : standReg (copsePage k + n) = false := decide_eq_false (by rw [ha.2]; tauto)
  have hh : hubReg (copsePage k + n) = false := by
    simp only [hubReg, Reg.DSP_LATE, Reg.DSP_RESTARTS, Reg.DSP_COMMITS_LO, Reg.VAL_LAST, pgDispatcher, Reg.EVT_CAUSE,
      List.contains_eq_mem, decide_eq_false_iff_not, List.mem_cons, List.not_mem_nil, or_false]
    omega
  simp [hidden, hs, hh]

@[simp] theorem hidden_hub : hidden Reg.FTL_SB = true ∧ hidden Reg.TBL_EPOCH_REFUSED = true ∧ hidden Reg.VAL_LAST_WHERE = true ∧
    hidden Reg.VAL_REJECTS = true ∧ hidden Reg.ADPT_CLAMP = true ∧ hidden Reg.DSP_REMAPS = true ∧
    hidden Reg.TRC_LOST = true := by decide

theorem hidden_ne {a b : Nat} (h : hidden a = true) (hb : standReg b = true ∨ hubReg b = true) : b ≠ a := by
  rintro rfl
  rcases hb with hb | hb <;> simp [hidden, hb] at h

theorem standReg_copse1 (k : Nat) {n : Nat} (hn : n = Reg.COPSE_CHK_FAIL ∨ n = Reg.COPSE_CHK_REEXEC ∨ n = Reg.COPSE_HEALTH) :
    standReg (copsePage1 k + n) = true := by
  have ha : 0x01000000 ≤ copsePage1 k + n ∧ (copsePage1 k + n) % 0x200000 < 0x100000 ∧ (copsePage1 k + n) % 0x2000 = 0x1000 + n := by
    unfold copsePage1 copsePage gladePage standBase
    unfold Reg.COPSE_CHK_FAIL Reg.COPSE_CHK_REEXEC Reg.COPSE_HEALTH at hn
    omega
  exact decide_eq_true ⟨ha.1, ha.2.1, by rw [ha.2.2]; rcases hn with rfl | rfl | rfl <;> simp⟩

theorem standReg_late (i : Nat) : standReg (standBase i + Reg.STAND_TMO_LATE) = true :=
  decide_eq_true (by unfold standBase Reg.STAND_TMO_LATE; omega)

/-- A field put twice holds what was put last. -/
theorem putBits_putBits (w hi lo v v' : Nat) : putBits (putBits w hi lo v) hi lo v' = putBits w hi lo v' := by
  refine Nat.eq_of_testBit_eq fun i => ?_
  simp only [testBit_putBits]
  split <;> rfl

section
variable {s t : State} {a n k : Nat}

/-- A stand's register is read from the floor, but for a copse's health. -/
theorem regGet_of_stands (h : (bench t).floor.stands = (bench s).floor.stands) (ha : standReg a = true)
    (hh : a % 0x2000 ≠ 0x1000 + Reg.COPSE_HEALTH) : regGet t a = regGet s a := by
  have e : (if standReg a then shown a (regGet t a) else 0) = if standReg a then shown a (regGet s a) else 0 := congrFun h a
  simpa [ha, shown, hh] using e

/-- Of a copse's health every field but the count of runs as a spare is read from the floor. -/
theorem getF_health_of_stands (h : (bench t).floor.stands = (bench s).floor.stands) {f : BitField} (hf : f.hi ≤ 31)
    (hs : 15 < f.lo ∨ f.hi < 8) : getF t (copsePage1 k + Reg.COPSE_HEALTH) f = getF s (copsePage1 k + Reg.COPSE_HEALTH) f := by
  have hk := standReg_copse1 k (n := Reg.COPSE_HEALTH) (by simp)
  have hm : (copsePage1 k + Reg.COPSE_HEALTH) % 0x2000 = 0x1000 + Reg.COPSE_HEALTH := by
    unfold copsePage1 copsePage gladePage standBase Reg.COPSE_HEALTH; omega
  have e := congrFun h (copsePage1 k + Reg.COPSE_HEALTH)
  simp only [bench, floorOf, hk, if_true, shown, hm] at e
  have e' := congrArg (fun w : Word => bitsOf w.toNat f.hi f.lo) e
  simp only [bitsOf_word _ _ _ hf] at e'
  rwa [bitsOf_putBits_ne _ _ _ _ _ _ (by simpa [Fld.COPSE_HEALTH_spare_runs] using hs),
    bitsOf_putBits_ne _ _ _ _ _ _ (by simpa [Fld.COPSE_HEALTH_spare_runs] using hs)] at e'

theorem regGet_of_hub (h : (bench t).floor.hub = (bench s).floor.hub) (ha : hubReg a = true) : regGet t a = regGet s a := by
  have e : (if hubReg a then regGet t a else 0) = if hubReg a then regGet s a else 0 := congrFun h a
  simpa [ha] using e

/-- Whatever else of the state is replaced, the bench stays. -/
@[simp] theorem bench_replace (s : State) (pending : List Instr) (shadow : List (Nat × Nat × Word)) (fresh seedEpoch : Nat)
    (mem : Mem) (life : AMap PState) (parts : AMap Part) (creations : AMap Nat) (host : HostIf) (ras : Ras) (sec : Security)
    (mgmt : Mgmt) (loadNo nextJob : Nat) (glades : AMap Glade) (chans : AMap Channel) (ftl : Ftl) (index : AMap Index)
    (searches : AMap Search) (nextSearch : Nat) (commons : Commons) (tables : AMap Table) (adapters : AMap Adapter)
    (evictions : AMap Nat) (rowsets : AMap RowSet) (gangs : AMap Gang) (forest : Forest) (power : Power) (trace : Trace) :
    bench { s with pending, shadow, fresh, seedEpoch, mem, life, parts, creations, host, ras, sec, mgmt, loadNo, nextJob,
                   glades, chans, ftl, index, searches, nextSearch, commons, tables, adapters, evictions, rowsets, gangs,
                   forest, power, trace } = bench s := rfl

/-- States that agree in all but registers that the bench hides. -/
theorem floorOf_congr (h1 : t.tb = s.tb) (h2 : t.alms = s.alms)
    (hr : ∀ b, standReg b = true ∨ hubReg b = true → regGet t b = regGet s b) : floorOf t = floorOf s := by
  have hs : (floorOf t).stands = (floorOf s).stands := funext fun b => by
    by_cases hb : standReg b = true <;> simp [floorOf, hb, hr b]
  have hh : (floorOf t).hub = (floorOf s).hub := funext fun b => by
    by_cases hb : hubReg b = true <;> simp [floorOf, hb, hr b]
  exact (congrArg₂ (Floor.mk t.tb t.alms) hs hh).trans (by rw [h1, h2]; rfl)

@[simp] theorem bench_setReg (h : hidden a = true) (w : Word) : bench (setReg s a w) = bench s := by
  have e : floorOf (setReg s a w) = floorOf s := floorOf_congr rfl rfl fun b hb => regGet_setReg_ne w (hidden_ne h hb)
  rw [bench, e]
  rfl

@[simp] theorem bench_bump (h : hidden a = true) : bench (bump s a n) = bench s := bench_setReg h _

@[simp] theorem bench_setF (h : hidden a = true) (f : BitField) (v : Nat) : bench (setF s a f v) = bench s := bench_setReg h _

@[simp] theorem bench_bumpF (h : hidden a = true) (f : BitField) (v : Nat) : bench (bumpF s a f v) = bench s := bench_setReg h _

@[simp] theorem bench_bumpPair (h : hidden a = true) (h' : hidden (a + 4) = true) : bench (bumpPair s a n) = bench s :=
  (bench_setReg h' _).trans (bench_setReg h _)

theorem stands_setReg (h : standReg a = false) (w : Word) :
    (bench (setReg s a w)).floor.stands = (bench s).floor.stands := funext fun b => by
  show (if standReg b then _ else _) = if standReg b then _ else _
  by_cases hb : b = a
  · rw [hb, h]
    rfl
  · rw [regGet_setReg_ne _ hb]

theorem hub_setReg (h : hubReg a = false) (w : Word) : (bench (setReg s a w)).floor.hub = (bench s).floor.hub :=
  funext fun b => by
  show (if hubReg b then _ else _) = if hubReg b then _ else _
  by_cases hb : b = a
  · rw [hb, h]
    rfl
  · rw [regGet_setReg_ne _ hb]

/-- The hub's registers and the stands' are apart. -/
theorem standReg_of_hub (h : hubReg a = true) : standReg a = false := by
  simp only [hubReg, List.contains_eq_mem, decide_eq_true_eq, List.mem_cons, List.not_mem_nil, or_false] at h
  rcases h with rfl | rfl | rfl | rfl | rfl | rfl <;> decide

/-- A copse's runs as a spare are counted apart from what the bench shows of its health. -/
@[simp] theorem bench_spareRuns (v : Nat) :
    bench (setF s (copsePage1 k + Reg.COPSE_HEALTH) Fld.COPSE_HEALTH_spare_runs v) = bench s := by
  generalize hb : copsePage1 k + Reg.COPSE_HEALTH = b
  have hk : standReg b = true := hb ▸ standReg_copse1 k (by simp)
  have hm : b % 0x2000 = 0x1000 + Reg.COPSE_HEALTH := by
    subst hb; unfold copsePage1 copsePage gladePage standBase Reg.COPSE_HEALTH; omega
  have hub : hubReg b = false := Bool.eq_false_iff.mpr fun h => absurd (hk.symm.trans (standReg_of_hub h)) (by decide)
  have hs : (bench (setF s b Fld.COPSE_HEALTH_spare_runs v)).floor.stands = (bench s).floor.stands := funext fun c => by
    show (if standReg c then _ else _) = if standReg c then _ else _
    by_cases hc : c = b
    · rw [hc, setF, regGet_setReg, if_pos rfl, shown, shown, if_pos hm, if_pos hm, putBits_word, putBits_putBits]
    · rw [setF, regGet_setReg_ne _ hc]
  exact congrArg (Bench.mk · s.copses s.jobs) (congrArg₂ (Floor.mk s.tb s.alms) hs (hub_setReg hub _))

@[simp] theorem bench_ite (c : Prop) [Decidable c] (s t : State) : bench (if c then s else t) = if c then bench s else bench t :=
  apply_ite ..

@[simp] theorem bench_foldl {β : Type} {g : State → β → State} (hg : ∀ s x, bench (g s x) = bench s) (l : List β) (s : State) :
    bench (l.foldl g s) = bench s :=
  foldl_keeps (fun t => bench t = bench s) g (fun _ x h => (hg _ x).trans h) l s rfl

@[simp] theorem bench_foldl_fst {α β : Type} {g : State × α → β → State × α} (hg : ∀ a x, bench (g a x).1 = bench a.1)
    (l : List β) (a : State × α) : bench (l.foldl g a).1 = bench a.1 :=
  foldl_keeps (fun b => bench b.1 = bench a.1) g (fun _ x h => (hg _ x).trans h) l a rfl

end

end Sys2Proof.Machine

namespace Sys2Proof.Machine

section
variable {s : State} {a n k p q st : Nat} {j : Job} {al : Alm}

/-! ## Operations that leave the bench as it is -/

@[simp] theorem bench_credit {tier : Nat} : bench (credit s p tier n) = bench s := by rfl

@[simp] theorem bench_creditAll {l : List (Nat × Nat)} : bench (creditAll s p l) = bench s := by simp [creditAll]

@[simp] theorem bench_freePages {l : List Nat} : bench (freePages s l) = bench s := by rfl

@[simp] theorem bench_releasePages {l : List Nat} : bench (releasePages s p l) = bench s := by rfl

@[simp] theorem bench_dropCopy : bench (dropCopy s k) = bench s := by unfold dropCopy; split <;> simp

@[simp] theorem bench_unpinCopy : bench (unpinCopy s k) = bench s := by unfold unpinCopy; split <;> simp

@[simp] theorem bench_staleCopy : bench (staleCopy s p k) = bench s := by unfold staleCopy; dsimp only; split <;> simp

@[simp] theorem bench_swapPlaces : bench (swapPlaces s p q) = bench s := by unfold swapPlaces; split <;> simp

/-- Registers replaced by those of a state with the same bench. -/
theorem bench_regs {t : State} (h : bench t = bench s) : bench { s with regs := t.regs } = bench s := by
  have e : floorOf { s with regs := t.regs } = floorOf s := by
    have hf : floorOf t = floorOf s := congrArg Bench.floor h
    exact congrArg₂ (Floor.mk s.tb s.alms) (congrArg Floor.stands hf :) (congrArg Floor.hub hf :)
  rw [bench, e]
  rfl

@[simp] theorem bench_countWrite : bench (countWrite s a n) = bench s := by
  unfold countWrite
  split
  · exact bench_regs (bench_bumpPair (hidden_stack _ (by decide)) (hidden_stack _ (n := Reg.STACK_WR_LO + 4) (by decide)))
  · rfl

@[simp] theorem bench_countRead : bench (countRead s a n) = bench s := by
  unfold countRead
  split
  · exact bench_regs (bench_bumpPair (hidden_stack _ (by decide)) (hidden_stack _ (n := Reg.STACK_RD_LO + 4) (by decide)))
  · rfl

@[simp] theorem bench_memZero : bench (memZero s a n) = bench s := by simp [memZero]

@[simp] theorem bench_memWrite {l : List Byte} : bench (memWrite s a l) = bench s := by simp [memWrite]

@[simp] theorem bench_memCopy : bench (memCopy s p q n) = bench s := by simp [memCopy]

@[simp] theorem bench_memPaste {c : Bytes} {bad : List Nat} : bench (memPaste s a n c bad) = bench s := by simp [memPaste]

@[simp] theorem bench_takePage : bench (takePage s p q) = bench s := by
  have e : ∀ (c : Bool) (u : State), bench u = bench s → bench { s with regs := if c = true then s.regs else u.regs } = bench s :=
    fun c u hu => by cases c; exacts [bench_regs hu, rfl]
  unfold takePage
  generalize hz : memZero s (locPage q) 65536 = z
  have hz : bench z = bench s := hz ▸ bench_memZero
  dsimp only
  rw [bench_replace]
  exact e _ z hz

@[simp] theorem bench_scramble : bench (scramble s a n) = bench s := by simp [scramble]

@[simp] theorem bench_scrambleBuf {b : BufDef} : bench (scrambleBuf s n j b) = bench s := by simp [scrambleBuf]

@[simp] theorem bench_freeRegion : bench (freeRegion s a n) = bench s := by rfl

@[simp] theorem bench_takeRegion : bench (takeRegion s p a n) = bench s := by simp [takeRegion]

@[simp] theorem bench_freeJobPages {tagged : Bool} {l : List Nat} : bench (freeJobPages s tagged l) = bench s := by
  simp [freeJobPages]

@[simp] theorem bench_freeJobRegions {tagged : Bool} {l : List (Nat × Nat)} : bench (freeJobRegions s tagged l) = bench s := by
  simp [freeJobRegions]

@[simp] theorem bench_dropPrefetch : bench (dropPrefetch s n) = bench s := by simp [dropPrefetch]

@[simp] theorem bench_dropAccess {sel : Access → Bool} : bench (dropAccess s sel) = bench s := by rfl

@[simp] theorem bench_orphanAccess {sel : Access → Bool} : bench (orphanAccess s sel) = bench s := by rfl

@[simp] theorem bench_shrinkTable {t t' : Table} : bench (shrinkTable s k t t') = bench s := by rfl

@[simp] theorem bench_updTable {f : Table → Table} : bench (updTable s k f) = bench s := by rfl

@[simp] theorem bench_discardTable : bench (discardTable s k) = bench s := by unfold discardTable; split <;> simp

@[simp] theorem bench_sweepTable : bench (sweepTable s k) = bench s := by unfold sweepTable; split <;> simp

@[simp] theorem bench_unpinTable {epoch : Nat} : bench (unpinTable s k epoch n) = bench s := by simp [unpinTable]

theorem bench_installTable {t : State × Nat} (h : installTable s k = some t) : bench t.1 = bench s := by
  unfold installTable at h
  split at h
  · cases h
  · split at h
    · cases h
    · dsimp only at h
      split at h <;> cases h
      exact bench_shrinkTable

@[simp] theorem bench_leaveTable {pin : TablePin} {last : Bool} : bench (leaveTable s n j pin last).1 = bench s := by
  have unpin : ∀ t : State × Bool, bench t.1 = bench s → ∀ k e, bench (if last then unpinTable t.1 k e n else t.1) = bench s :=
    fun t h k e => by simp [h]
  unfold leaveTable
  dsimp only
  refine unpin _ ?_ _ _
  split
  · rfl
  · split
    · rfl
    · split
      · rfl
      · split
        · simp
        · split
          · rename_i h
            exact bench_installTable h
          · simp

@[simp] theorem bench_keepCommons : bench (keepCommons s j al).1 = bench s := by unfold keepCommons; split <;> simp

@[simp] theorem bench_completeAt {r : Reply} : bench (completeAt s p q r) = bench s := by rfl

@[simp] theorem bench_updProg {f : ProgRec → ProgRec} : bench (updProg s p q f) = bench s := by rfl

@[simp] theorem bench_answer {r : Req} {pay : List Byte} : bench (answer s r pay).1 = bench s := by
  unfold answer; dsimp only; split <;> rfl

@[simp] theorem bench_whenDurable {c : Cmd} {l : List Nat} {r : Reply} : bench (whenDurable s c l r).1 = bench s := by
  unfold whenDurable; split <;> simp

@[simp] theorem bench_updIndex {f : Index → Index} : bench (updIndex s p f) = bench s := by rfl

@[simp] theorem bench_dropBatch : bench (dropBatch s n) = bench s := by unfold dropBatch; split <;> simp

@[simp] theorem bench_endSearch {r : Reply} : bench (endSearch s k r) = bench s := by unfold endSearch; split <;> simp

@[simp] theorem bench_loadKeys : bench ((loadKeys s k p).getD s) = bench s := by
  have h : hidden (rangerPage k + Reg.RANGER_KEYS) = true := hidden_ranger k (by decide)
  unfold loadKeys
  dsimp only
  split
  · rfl
  · split
    · exact (bench_bumpF h ..).trans rfl
    · split
      · exact (bench_bumpF h ..).trans rfl
      · split
        · rfl
        · split
          · exact (bench_bumpF h ..).trans rfl
          · rfl

/-! ## Writes of held data -/

@[simp] theorem bench_takeSlot {stream : Nat} : bench (takeSlot s stream).1 = bench s := by
  obtain ⟨e, hr⟩ := onlySlots_takeSlot (s := s) stream
  rw [e]
  refine Eq.trans rfl (bench_regs (s := s) (t := { s with regs := (takeSlot s stream).1.regs }) ?_)
  have hf : floorOf { s with regs := (takeSlot s stream).1.regs } = floorOf s := floorOf_congr rfl rfl fun b hb =>
    hr b (by simpa using hidden_ne hidden_hub.1 hb)
  rw [bench, hf]
  rfl

@[simp] theorem bench_enterUnit {u idx kind stream : Nat} {v : UnitVal} :
    bench (enterUnit s p u idx kind stream v).1 = bench s := by simp [enterUnit]

@[simp] theorem bench_mapSet {e : Option MapEntry} : bench (mapSet s k e) = bench s := by rfl

@[simp] theorem bench_writeNow {l : List Byte} : bench (writeNow s p n l).1 = bench s := by
  refine bench_foldl_fst (fun acc x => ?_) _ _
  split <;> simp

end

end Sys2Proof.Machine

namespace Sys2Proof.Machine

section
variable {s t : State} {a n k p q st : Nat} {j : Job} {al : Alm}

/-! ## Jobs on the bench -/

/-- Change the job with a number. -/
def Bench.updJob (b : Bench) (n : Nat) (f : Job → Job) : Bench := { b with jobs := aUpd b.jobs n f }

theorem bench_updJob (f : Job → Job) : bench (updJob s n f) = (bench s).updJob n f := rfl

theorem getJob_of_bench (h : (bench t).jobs = (bench s).jobs) (n : Nat) : getJob t n = getJob s n := congrArg (aGet? · n) h

theorem jobAlm_of_floor (h : (bench t).floor.alms = (bench s).floor.alms) (j : Job) : jobAlm t j = jobAlm s j :=
  congrArg (aGet? · j.handle) h

theorem getJob_updJob (f : Job → Job) (m : Nat) :
    getJob (updJob s n f) m = if m = n then (getJob s m).map f else getJob s m := aGet?_aUpd ..

theorem getJob_updJob_self {f : Job → Job} (hj : getJob s n = some j) : getJob (updJob s n f) n = some (f j) := by
  rw [getJob_updJob, if_pos rfl, hj]
  rfl

theorem map_aUpd {α β : Type} (m : AMap α) (k : Nat) (f : α → α) (g : α → β) (h : ∀ v, g (f v) = g v) :
    (aUpd m k f).map (fun e => (e.1, g e.2)) = m.map fun e => (e.1, g e.2) := by
  rw [aUpd, List.map_map]
  refine List.map_congr_left fun e _ => ?_
  dsimp only [Function.comp]
  split
  · exact congrArg _ (h _)
  · rfl

@[simp] theorem still_updJob {f : Job → Job} (h : ∀ j, fixedJob (f j) = fixedJob j) :
    (bench (updJob s n f)).still = (bench s).still :=
  congrArg (Bench.mk (bench s).floor s.copses) (map_aUpd _ _ _ _ h)

@[simp] theorem floor_updJob {f : Job → Job} : (bench (updJob s n f)).floor = (bench s).floor := by rfl

@[simp] theorem floor_updCopse {f : Copse → Copse} : (bench (updCopse s k f)).floor = (bench s).floor := by rfl

/-- What keeps the bench but for the volatile parts of jobs keeps the floor and the copses. -/
theorem floor_of_still (h : (bench t).still = (bench s).still) : (bench t).floor = (bench s).floor :=
  (congrArg Bench.floor h :)

theorem copses_of_still (h : (bench t).still = (bench s).still) : t.copses = s.copses :=
  (congrArg Bench.copses h :)

theorem getJob_of_still (h : (bench t).still = (bench s).still) (n : Nat) :
    (getJob t n).map fixedJob = (getJob s n).map fixedJob := by
  have e : aGet? (t.jobs.map fun e => (e.1, fixedJob e.2)) n = aGet? (s.jobs.map fun e => (e.1, fixedJob e.2)) n :=
    congrArg (aGet? · n) (congrArg Bench.jobs h)
  rwa [aGet?_mapVal, aGet?_mapVal] at e

theorem job_of_still (h : (bench t).still = (bench s).still) (hj : getJob s n = some j) :
    ∃ j', getJob t n = some j' ∧ fixedJob j' = fixedJob j := by
  have e := getJob_of_still h n
  rw [hj] at e
  simpa using e

@[simp] theorem Bench.still_ite (c : Prop) [Decidable c] (b d : Bench) :
    (if c then b else d).still = if c then b.still else d.still := apply_ite ..

@[simp] theorem still_foldl {β : Type} {g : State → β → State} (hg : ∀ s x, (bench (g s x)).still = (bench s).still)
    (l : List β) (s : State) : (bench (l.foldl g s)).still = (bench s).still :=
  foldl_keeps (fun t => (bench t).still = (bench s).still) g (fun _ x h => (hg _ x).trans h) l s rfl

@[simp] theorem floor_foldl {β : Type} {g : State → β → State} (hg : ∀ s x, (bench (g s x)).floor = (bench s).floor)
    (l : List β) (s : State) : (bench (l.foldl g s)).floor = (bench s).floor :=
  foldl_keeps (fun t => (bench t).floor = (bench s).floor) g (fun _ x h => (hg _ x).trans h) l s rfl

@[simp] theorem stands_foldl {β : Type} {g : State → β → State} (hg : ∀ s x, (bench (g s x)).floor.stands = (bench s).floor.stands)
    (l : List β) (s : State) : (bench (l.foldl g s)).floor.stands = (bench s).floor.stands :=
  foldl_keeps (fun t => (bench t).floor.stands = (bench s).floor.stands) g (fun _ x h => (hg _ x).trans h) l s rfl

/-! ## Writes into buffers, routes, sections and weight copies -/

@[simp] theorem still_workPage : (bench (workPage s n p)).still = (bench s).still := by
  unfold workPage
  split
  · rfl
  · split
    · rfl
    · split
      · rfl
      · dsimp only
        split
        · rfl
        · exact (still_updJob (by exact fun _ => rfl)).trans (by simp)

@[simp] theorem still_bufWrite {bn o len : Nat} {b : BufDef} {c : Bytes} {bad : List Nat} :
    (bench (bufWrite s n bn b o len c bad)).still = (bench s).still := by
  unfold bufWrite
  split
  · rfl
  · split
    · rfl
    · split
      · split
        · rfl
        · exact still_updJob (by exact fun _ => rfl)
      · split
        · exact still_foldl (fun _ _ => still_updJob (by exact fun _ => rfl)) _ _
        · dsimp only
          split
          · simp
          · rw [still_foldl (fun _ _ => by rw [bench_memPaste])]
            simp

@[simp] theorem still_bufPut {bn o : Nat} {b : BufDef} {l : List Byte} :
    (bench (bufPut s n bn b o l)).still = (bench s).still := still_bufWrite

@[simp] theorem still_fillCopy {i slot : Nat} {it : RowItem} {b : Binding} {ad : Adapter} :
    (bench (fillCopy s n i slot it b ad al)).still = (bench s).still := by
  have h : ∀ f : Job → Job, (∀ j, fixedJob (f j) = fixedJob j) → (bench (updJob s n f)).still = (bench s).still :=
    fun f hf => still_updJob hf
  unfold fillCopy
  dsimp only
  split
  · exact h _ fun _ => rfl
  · split
    · exact h _ fun _ => rfl
    · rw [bench_bump (by simp), still_bufPut]
      exact h _ fun _ => rfl

@[simp] theorem still_fillCopies : (bench (fillCopies s n)).still = (bench s).still := by
  unfold fillCopies
  split
  · rfl
  · split
    · split
      · rfl
      · refine still_foldl (fun t x => still_foldl (fun u m => ?_) _ _) _ _
        split
        · rfl
        · split
          · simp
          · rfl
    · rfl

@[simp] theorem still_fillRoutes : (bench (fillRoutes s n)).still = (bench s).still := by
  unfold fillRoutes
  split
  · rfl
  · split
    · rfl
    · split
      · rfl
      · refine still_foldl (fun t it => ?_) _ _
        split
        · split <;> simp
        · rfl

@[simp] theorem still_clearSections : (bench (clearSections s n)).still = (bench s).still := by
  unfold clearSections
  split
  · rfl
  · split
    · rfl
    · split
      · rfl
      · refine still_foldl (fun t it => ?_) _ _
        split
        · split <;> simp
        · rfl

@[simp] theorem still_restartHot : (bench (restartHot s n)).still = (bench s).still := by
  unfold restartHot
  split
  · rfl
  · exact still_updJob (by exact fun _ => rfl)

/-- What a dawn writes into a job's buffers. -/
def fillDawn (s : State) (n : Nat) : State := restartHot (fillCopies (fillRoutes (clearSections s n) n) n) n

@[simp] theorem still_fillDawn : (bench (fillDawn s n)).still = (bench s).still := by simp [fillDawn]

@[simp] theorem bench_loadInputs : bench (loadInputs s n j al) = bench s := by
  refine bench_foldl_fst (fun acc x => ?_) _ _
  split <;> simp

/-! ## The end of a job -/

theorem bench_dropAccesses : bench (dropAccesses s n) = (bench s).updJob n fun j => { j with reads := [] } := by
  unfold dropAccesses
  simp [bench_updJob]

theorem bench_dropWork (hj : getJob s n = some j) :
    bench (dropWork s n) = (bench s).updJob n fun j => { j with work := [], held := [] } := by
  unfold dropWork
  rw [hj]
  simp [bench_updJob]

@[simp] theorem floor_dropAccesses : (bench (dropAccesses s n)).floor = (bench s).floor := by rw [bench_dropAccesses]; rfl

@[simp] theorem floor_dropWork : (bench (dropWork s n)).floor = (bench s).floor := by
  unfold dropWork
  split
  · rfl
  · simp

@[simp] theorem floor_leaveCopse : (bench (leaveCopse s n k)).floor = (bench s).floor := by rfl

@[simp] theorem floor_releaseJob : (bench (releaseJob s n).1).floor = (bench s).floor := by
  unfold releaseJob
  split
  · rfl
  · split
    · rfl
    · dsimp only
      generalize ht : List.foldl _ (_, false) _ = t
      have h : (bench t.1).floor = (bench s).floor := by
        rw [← ht, bench_foldl_fst fun acc x => by simp]
        simp
      generalize hu : List.foldl _ _ (List.range 128) = u
      have hu : (bench u).floor = (bench s).floor := by
        rw [← hu]
        refine (floor_foldl (fun t k => ?_) _ _).trans ?_
        · split <;> simp
        · rw [bench_freeJobPages, bench_freeJobRegions, ← h]
          split <;> simp
      rw [bench_creditAll]
      exact hu

end

end Sys2Proof.Machine

namespace Sys2Proof.Machine

section
variable {s t : State} {a n k p q st : Nat} {j : Job} {al : Alm}

@[simp] theorem floor_releaseGang : (bench (releaseGang s k)).floor = (bench s).floor := by
  unfold releaseGang
  split
  · rfl
  · simp

@[simp] theorem floor_endGang {x : Status} : (bench (endGang s k x)).floor = (bench s).floor := by
  unfold endGang
  split
  · rfl
  · split <;> simp

/-- A job that ends leaves the floor. -/
@[simp] theorem floor_endJob {x : Status} {dw : Nat} : (bench (endJob s n x dw)).floor = (bench s).floor := by
  unfold endJob
  split
  · rfl
  · split
    · split <;> simp
    · dsimp only
      generalize hr : releaseJob s n = r
      have h : (bench r.1).floor = (bench s).floor := by rw [← hr, floor_releaseJob]
      simp [h]

/-- A rejection shows in the validator's page alone. -/
theorem stands_recordReject {code index kind unit part : Nat} :
    (bench (recordReject s code index kind unit part)).floor.stands = (bench s).floor.stands := by
  rw [recordReject, bench_bump (by simp), bench_setReg (by simp), stands_setReg (by decide)]

@[simp] theorem stands_endUnbindable : (bench (endUnbindable s n)).floor.stands = (bench s).floor.stands := by
  unfold endUnbindable
  split
  · rfl
  · rw [floor_endJob, stands_recordReject]

/-! ## The restart of a day -/

/-- A job put back to the dawn of its day (R146). -/
def redawned (tb : Nat) (a : Alm) (j : Job) : Job :=
  { j with toks := initToks a, staging := [], segDir := j.segDir.filter fun e => e.1 < 2 ^ 40
           cals := j.cals.map fun r => CalRun.start r.dawn
           slots := j.slots.map fun e => (e.1, { e.2 with thisDay := false }), prefetched := []
           dropPosted := false, dayStart := tb, pfDone := [] }

/-- A job without what it wrote in its day. -/
def unwritten (j : Job) : Job := { j with reads := [], work := [], held := [] }

/-- The state in which nothing of a job's day is left. -/
def clearDay (s : State) (n : Nat) (j : Job) (a : Alm) : State :=
  (a.bufs.filter fun b => b.kind == 0 || b.kind == 4).foldl (fun s b => scrambleBuf s n j b)
    (stopCopses (dropPrefetch (dropWork (dropAccesses s n) n) n) n)

/-- The state in which a restart fills the buffers of the dawn: the job put back, the restart counted. -/
def atRedawn (s : State) (n : Nat) (j : Job) (a : Alm) : State :=
  bump (updJob (clearDay s n j a) n (redawned s.tb a)) Reg.DSP_RESTARTS 1

theorem restartDay_eq (hj : getJob s n = some j) (ha : jobAlm s j = some al) :
    restartDay s n = fillDawn (atRedawn s n j al) n := by
  unfold restartDay
  rw [hj]
  dsimp only
  rw [ha]
  rfl

theorem aUpd_aUpd {α : Type} (m : AMap α) (k : Nat) (f g : α → α) : aUpd (aUpd m k f) k g = aUpd m k fun v => g (f v) := by
  rw [aUpd, aUpd, List.map_map]
  refine List.map_congr_left fun e _ => ?_
  by_cases h : e.1 = k <;> simp [h]

theorem bench_clearDay (hj : getJob s n = some j) :
    bench (clearDay s n j al) = { (bench s).updJob n unwritten with copses := (clearDay s n j al).copses } := by
  have hr : getJob (dropAccesses s n) n = some { j with reads := [] } :=
    (congrArg (fun b : Bench => aGet? b.jobs n) bench_dropAccesses).trans (getJob_updJob_self hj)
  have hb : bench (dropPrefetch (dropWork (dropAccesses s n) n) n) = (bench s).updJob n unwritten := by
    rw [bench_dropPrefetch, bench_dropWork hr, bench_dropAccesses, Bench.updJob, Bench.updJob, aUpd_aUpd]
    rfl
  have hs : bench (clearDay s n j al) = bench (stopCopses (dropPrefetch (dropWork (dropAccesses s n) n) n) n) :=
    bench_foldl (fun _ _ => bench_scrambleBuf) _ _
  have hc : bench (stopCopses (dropPrefetch (dropWork (dropAccesses s n) n) n) n) =
      { bench (dropPrefetch (dropWork (dropAccesses s n) n) n) with copses := (clearDay s n j al).copses } := by
    rw [show (clearDay s n j al).copses = _ from congrArg Bench.copses hs]
    rfl
  rw [hs, hc, hb]

theorem getJob_atRedawn (hj : getJob s n = some j) :
    getJob (atRedawn s n j al) n = some (redawned s.tb al (unwritten j)) :=
  getJob_updJob_self ((congrArg (fun b : Bench => aGet? b.jobs n) (bench_clearDay hj)).trans (getJob_updJob_self hj))

theorem floor_clearDay (hj : getJob s n = some j) : (bench (clearDay s n j al)).floor = (bench s).floor := by
  rw [bench_clearDay hj]
  rfl

/-- A restart is counted, and shows in no other register of the bench. -/
theorem stands_atRedawn (hj : getJob s n = some j) :
    (bench (atRedawn s n j al)).floor.stands = (bench s).floor.stands := by
  rw [atRedawn, bump, ← floor_clearDay (al := al) hj]
  exact stands_setReg (by decide) _

theorem regGet_atRedawn (hj : getJob s n = some j) : (regGet (atRedawn s n j al) Reg.DSP_RESTARTS).toNat =
    min ((regGet s Reg.DSP_RESTARTS).toNat + 1) 0xFFFFFFFF := by
  rw [atRedawn, regGet_bump, ← regGet_of_hub (congrArg Floor.hub (floor_clearDay (al := al) hj)) (by decide)]
  rfl

theorem jobAlm_atRedawn (hj : getJob s n = some j) : jobAlm (atRedawn s n j al) j = jobAlm s j :=
  jobAlm_of_floor (t := clearDay s n j al) (by rw [floor_clearDay hj]) j

/-! ### Dawns of almanacs without a row plan -/

/-- Without a row plan a dawn fills no routes, sections or weight copies. -/
theorem fillCopies_unplanned (hj : getJob s n = some j) (ha : jobAlm s j = some al) (hp : al.plan = none) :
    fillCopies s n = s := by
  unfold fillCopies
  rw [hj]
  dsimp only
  rw [ha]
  split
  · rename_i h _
    cases h
    rw [hp]
  · rfl

theorem fillDawn_unplanned (hj : getJob s n = some j) (ha : jobAlm s j = some al) (hp : al.plan = none) :
    fillDawn s n = restartHot s n := by
  have hc : clearSections s n = s := by
    unfold clearSections
    rw [hj]
    dsimp only
    rw [ha]
    dsimp only
    rw [hp]
  have hr : fillRoutes s n = s := by
    unfold fillRoutes
    rw [hj]
    dsimp only
    rw [ha]
    dsimp only
    rw [hp]
  rw [fillDawn, hc, hr, fillCopies_unplanned hj ha hp]

theorem getJob_restartHot (hj : getJob s n = some j) : ∃ l, getJob (restartHot s n) n = some { j with tables := l } := by
  unfold restartHot
  rw [hj]
  exact ⟨_, getJob_updJob_self hj⟩

/-- What a day's restart makes of its job, but for what the fills of the dawn write (R146). -/
theorem getJob_restartDay (hj : getJob s n = some j) (ha : jobAlm s j = some al) : ∃ j', getJob (restartDay s n) n = some j' ∧
    fixedJob j' = fixedJob (redawned s.tb al j) ∧ (al.plan = none → j'.work = [] ∧ j'.held = []) := by
  rw [restartDay_eq hj ha]
  have h0 := getJob_atRedawn (al := al) hj
  obtain ⟨j', hj', hfix⟩ := job_of_still (still_fillDawn (n := n)) h0
  refine ⟨j', hj', hfix, fun hp => ?_⟩
  have ha' : jobAlm (atRedawn s n j al) (redawned s.tb al (unwritten j)) = some al := (jobAlm_atRedawn hj).trans ha
  rw [fillDawn_unplanned h0 ha' hp] at hj'
  obtain ⟨l, hl⟩ := getJob_restartHot h0
  cases hl.symm.trans hj'
  exact ⟨rfl, rfl⟩

@[simp] theorem stands_restartDay : (bench (restartDay s n)).floor.stands = (bench s).floor.stands := by
  rcases hj : getJob s n with _ | j
  · unfold restartDay
    rw [hj]
  rcases ha : jobAlm s j with _ | al
  · unfold restartDay
    rw [hj]
    dsimp only
    rw [ha]
  rw [restartDay_eq hj ha, floor_of_still still_fillDawn, stands_atRedawn hj]

theorem restarts_restartDay (hj : getJob s n = some j) (ha : jobAlm s j = some al) :
    (regGet (restartDay s n) Reg.DSP_RESTARTS).toNat = min ((regGet s Reg.DSP_RESTARTS).toNat + 1) 0xFFFFFFFF := by
  rw [restartDay_eq hj ha, ← regGet_atRedawn (al := al) hj]
  exact congrArg _ (regGet_of_hub (by rw [floor_of_still still_fillDawn]) (by decide))

end

end Sys2Proof.Machine

namespace Sys2Proof.Machine

/-! # Calendars: the next entry, the trace, the run after an entry -/

section
variable {s t : State} {u : UnitRef} {x : Issue} {j : Job} {r : CalRun} {n : Nat}

/-- What the next entry of a calendar tells of its job (R140). -/
theorem issueOf_some {cls : Nat} (h : issueOf s u cls = some x) : getJob s u.job = some x.job ∧
    jobAlm s x.job = some x.alm ∧ x.job.cals[u.cal]? = some x.run ∧ x.job.isBound = true ∧ x.job.finished = false := by
  unfold issueOf at h
  split at h
  · cases h
  · rename_i j hj
    split at h
    · rename_i a r ha hr
      split at h
      · cases h
      · split at h
        · cases h
        · split at h
          · rename_i hc
            obtain ⟨-, hb, hf, -⟩ := hc
            cases h
            exact ⟨hj, ha, hr, hb, by simpa using hf⟩
          · cases h
    · cases h

/-- t differs from s in the trace and the count of records lost at most. -/
def onlyTrace (s t : State) : Prop := t = { s with regs := t.regs, trace := t.trace } ∧ regsBut [Reg.TRC_LOST] s t

theorem onlyTrace.refl (s : State) : onlyTrace s s := ⟨rfl, fun _ _ => rfl⟩

theorem onlyTrace.trans {v : State} (h : onlyTrace s t) (h' : onlyTrace t v) : onlyTrace s v := by
  refine ⟨?_, h.2.trans h'.2⟩
  rw [h'.1, h.1]

theorem onlyTrace_tracePush (s : State) (r : TraceRec) : onlyTrace s (tracePush s r) := by
  unfold tracePush
  dsimp only
  split
  · exact ⟨rfl, regsBut_setReg (l := [Reg.TRC_LOST]) { s with trace := _ } _ (by simp)⟩
  · exact ⟨rfl, fun _ _ => rfl⟩

theorem onlyTrace_traceEntry (s : State) (u : UnitRef) (i k : Nat) : onlyTrace s (traceEntry s u i k) := by
  have push : ∀ (c : Prop) [Decidable c] (r : TraceRec), onlyTrace s (if c then tracePush s r else s) := fun c _ r => by
    split
    · exact onlyTrace_tracePush ..
    · exact .refl s
  unfold traceEntry
  split
  · exact .refl s
  · split
    · exact .refl s
    · split
      · exact .refl s
      · exact push ..

theorem onlyTrace_traceWhole (s : State) (u : UnitRef) (i : Nat) : onlyTrace s (traceWhole s u i) :=
  (onlyTrace_traceEntry ..).trans (onlyTrace_traceEntry ..)

theorem onlyTrace.jobs (h : onlyTrace s t) : t.jobs = s.jobs := by rw [h.1]

theorem onlyTrace.getJob (h : onlyTrace s t) (n : Nat) : getJob t n = getJob s n := congrArg (aGet? · n) h.jobs

theorem onlyTrace.copses (h : onlyTrace s t) : t.copses = s.copses := by rw [h.1]

theorem onlyTrace.regGet (h : onlyTrace s t) {a : Nat} (ha : a ≠ Reg.TRC_LOST) : regGet t a = regGet s a :=
  h.2 a (by simpa using ha)

theorem onlyTrace.bench_eq (h : onlyTrace s t) : bench t = bench s := by
  have hf : floorOf t = floorOf s := floorOf_congr (by rw [h.1]) (by rw [h.1]) fun b hb =>
    h.regGet (hidden_ne (by decide) hb)
  rw [bench, hf, h.copses, h.jobs]
  rfl

@[simp] theorem bench_traceEntry {i k : Nat} : bench (traceEntry s u i k) = bench s := (onlyTrace_traceEntry ..).bench_eq

/-- A calendar's run replaced in its job. -/
theorem getJob_updCal (hj : getJob s u.job = some j) (hr : j.cals[u.cal]? = some r) (f : CalRun → CalRun) :
    getJob (updCal s u f) u.job = some (withRun j u (f r)) := by
  refine (getJob_updJob_self hj).trans ?_
  rw [hr]
  rfl

theorem getJob_updJob_ne (f : Job → Job) {m : Nat} (h : m ≠ n) : getJob (updJob s n f) m = getJob s m := by
  rw [getJob_updJob, if_neg h]

theorem otherJobs_updJob (f : Job → Job) : otherJobs n s (updJob s n f) := fun _ h => getJob_updJob_ne f h

theorem otherJobs.trans {v : State} (h : otherJobs n s t) (h' : otherJobs n t v) : otherJobs n s v :=
  fun k hk => (h' k hk).trans (h k hk)

theorem stepCal_eq (s : State) (u : UnitRef) : stepCal s u = updCal s u pastEntry := rfl

theorem onlyTraced.refl (n : Nat) (s : State) : onlyTraced n s s := ⟨rfl, fun _ _ => rfl⟩

theorem onlyTraced.trans {v : State} (h : onlyTraced n s t) (h' : onlyTraced n t v) : onlyTraced n s v := by
  refine ⟨?_, h.2.trans h'.2⟩
  rw [h'.1, h.1]

theorem onlyTrace.traced (h : onlyTrace s t) (n : Nat) : onlyTraced n s t := by
  refine ⟨?_, fun k _ => h.getJob k⟩
  rw [h.1]

theorem onlyTraced_updJob (s : State) (n : Nat) (f : Job → Job) : onlyTraced n s (updJob s n f) := ⟨rfl, otherJobs_updJob f⟩

/-- A calendar goes on from a state that differs in its job and the trace alone. -/
theorem onlyTraced.updCal (h : onlyTraced u.job s t) (f : CalRun → CalRun) : onlyTraced u.job s (updCal t u f) :=
  h.trans (onlyTraced_updJob ..)

end

end Sys2Proof.Machine

namespace Sys2Proof.Machine

/-! # Tokens, waits, fences and days (R136, R139, R144, R149 to R151) -/

/-- Of the state only the job of a calendar, the trace and the registers may differ, and the job is j. -/
def goesTo (n : Nat) (s t : State) (j : Job) : Prop := onlyTraced n s t ∧ getJob t n = some j

section
variable {s t : State} {u : UnitRef} {x : Issue} {j : Job} {r : CalRun} {n : Nat} {w : WaitDef}

theorem goesTo.updCal (h : goesTo u.job s t j) (hr : j.cals[u.cal]? = some r) (f : CalRun → CalRun) :
    goesTo u.job s (updCal t u f) (withRun j u (f r)) := ⟨h.1.updCal f, getJob_updCal h.2 hr f⟩

theorem goesTo.trace {v : State} (h : goesTo n s t j) (h' : onlyTrace t v) : goesTo n s v j :=
  ⟨h.1.trans (h'.traced n), (h'.getJob n).trans h.2⟩

theorem goesTo_updJob (hj : getJob s n = some j) (f : Job → Job) : goesTo n s (updJob s n f) (f j) :=
  ⟨onlyTraced_updJob .., getJob_updJob_self hj⟩

/-- A calendar goes on past an entry, halted there or not. -/
theorem goesTo.passEntry (h : goesTo u.job s t j) (hr : j.cals[u.cal]? = some r) (x : Issue) :
    goesTo u.job s (passEntry t u x) (withRun j u (pastEntry r)) := by
  have h1 : onlyTrace t (if x.run.halt = .running then traceEntry t u x.run.pc 0 else traceEntry t u x.run.pc 3) := by
    split <;> exact onlyTrace_traceEntry ..
  exact (h.trace (h1.trans (onlyTrace_traceEntry ..))).updCal hr _

/-- A calendar that runs halts at its next entry. -/
theorem goesTo_haltCal (hj : getJob s u.job = some x.job) (hr : x.job.cals[u.cal]? = some x.run) (hh : x.run.halt = .running)
    (h : Halt) : goesTo u.job s (haltCal s u x h) (withRun x.job u { x.run with halt := h, late := false }) := by
  rw [haltCal, if_pos hh]
  have h0 : goesTo u.job s s x.job := ⟨.refl .., hj⟩
  exact (h0.trace ((onlyTrace_traceEntry ..).trans (onlyTrace_traceEntry ..))).updCal hr fun r => { r with halt := h, late := false }

/-! ## PUT and TAKE -/

/-- The channel of a token entry, its count of tokens, and those it holds now. -/
def Issue.chan (x : Issue) : Nat := fld x.entry 123 108
def Issue.count (x : Issue) : Nat := fld x.entry 107 102 + 1
def Issue.held (x : Issue) : Nat := x.job.toks.getD x.chan 0
def Issue.room (x : Issue) : Nat := (x.alm.chans[x.chan]?).elim 0 (·.capacity)

/-- The job's tokens of the entry's channel set to a count. -/
def Issue.setToks (x : Issue) (n : Nat) (j : Job) : Job := { j with toks := j.toks.set x.chan n }

theorem issuePut_eq (h : issueOf s u 9 = some x) : issuePut s u =
    if !unitRuns s u x ∨ !x.run.inFlight.isEmpty ∨ x.held + x.count > x.room then s
    else stepCal (traceWhole (updJob s u.job (x.setToks (x.held + x.count))) u x.run.pc) u := by
  have hc : x.room = match x.alm.chans[fld x.entry 123 108]? with | some c => c.capacity | none => 0 := by
    unfold Issue.room Issue.chan
    cases x.alm.chans[fld x.entry 123 108]? <;> rfl
  rw [hc]
  unfold issuePut
  rw [h]
  rfl

theorem put_goes (h : issueOf s u 9 = some x) (hu : unitRuns s u x = true) (hf : x.run.inFlight = [])
    (hc : x.held + x.count ≤ x.room) : goesTo u.job s (issuePut s u)
      { withRun x.job u (pastEntry x.run) with toks := x.job.toks.set x.chan (x.held + x.count) } := by
  obtain ⟨hj, -, hr, -⟩ := issueOf_some h
  rw [issuePut_eq h, if_neg (by simp [hu, hf, hc]), stepCal_eq]
  exact ((goesTo_updJob hj (x.setToks (x.held + x.count))).trace (onlyTrace_traceWhole ..)).updCal (r := x.run) hr pastEntry

theorem put_waits (h : issueOf s u 9 = some x) (hw : x.run.inFlight ≠ [] ∨ x.room < x.held + x.count) : issuePut s u = s := by
  rw [issuePut_eq h, if_pos]
  rcases hw with hw | hw
  · exact .inr (.inl (by simpa using hw))
  · exact .inr (.inr hw)

theorem issueTake_eq (h : issueOf s u 10 = some x) (hu : unitRuns s u x = true) : issueTake s u =
    if x.held < x.count then haltCal s u x .atTake
    else passEntry (updJob s u.job (x.setToks (x.held - x.count))) u x := by
  unfold issueTake
  rw [h]
  exact if_neg (by simp [hu])

theorem take_goes (h : issueOf s u 10 = some x) (hu : unitRuns s u x = true) (hn : x.count ≤ x.held) :
    goesTo u.job s (issueTake s u)
      { withRun x.job u (pastEntry x.run) with toks := x.job.toks.set x.chan (x.held - x.count) } := by
  obtain ⟨hj, -, hr, -⟩ := issueOf_some h
  rw [issueTake_eq h hu, if_neg (Nat.not_lt.mpr hn)]
  exact (goesTo_updJob hj (x.setToks (x.held - x.count))).passEntry (r := x.run) hr x

theorem take_halts (h : issueOf s u 10 = some x) (hu : unitRuns s u x = true) (hn : x.held < x.count)
    (hh : x.run.halt = .running) : goesTo u.job s (issueTake s u) (withRun x.job u { x.run with halt := .atTake, late := false }) := by
  obtain ⟨hj, -, hr, -⟩ := issueOf_some h
  rw [issueTake_eq h hu, if_pos hn]
  exact goesTo_haltCal hj hr hh _

/-! ## WAIT, FENCE and DAY -/

theorem issueWait_eq (h : issueOf s u 11 = some x) (hu : unitRuns s u x = true) (hw : x.alm.waits[x.chan]? = some w) :
    issueWait s u = if stagingOf x.job w.buf = ⟨.full, w.tag⟩ then passEntry s u x else haltCal s u x (.atWait s.tb) := by
  have hst : (stagingOf x.job w.buf = ⟨.full, w.tag⟩) =
      ((stagingOf x.job w.buf).fill = .full ∧ (stagingOf x.job w.buf).tag = w.tag) := by
    cases stagingOf x.job w.buf
    simp
  simp only [hst]
  unfold issueWait
  rw [h]
  dsimp only
  rw [show x.alm.waits[fld x.entry 123 108]? = some w from hw]
  exact if_neg (by simp [hu])

theorem wait_goes (h : issueOf s u 11 = some x) (hu : unitRuns s u x = true) (hw : x.alm.waits[x.chan]? = some w)
    (hs : stagingOf x.job w.buf = ⟨.full, w.tag⟩) : goesTo u.job s (issueWait s u) (withRun x.job u (pastEntry x.run)) := by
  obtain ⟨hj, -, hr, -⟩ := issueOf_some h
  have h0 : goesTo u.job s s x.job := ⟨.refl .., hj⟩
  rw [issueWait_eq h hu hw, if_pos hs]
  exact h0.passEntry hr x

theorem wait_halts (h : issueOf s u 11 = some x) (hu : unitRuns s u x = true) (hw : x.alm.waits[x.chan]? = some w)
    (hs : stagingOf x.job w.buf ≠ ⟨.full, w.tag⟩) (hh : x.run.halt = .running) :
    goesTo u.job s (issueWait s u) (withRun x.job u { x.run with halt := .atWait s.tb, late := false }) := by
  obtain ⟨hj, -, hr, -⟩ := issueOf_some h
  rw [issueWait_eq h hu hw, if_neg hs]
  exact goesTo_haltCal hj hr hh _

theorem issueFence_eq (h : issueOf s u 13 = some x) (hu : unitRuns s u x = true) :
    issueFence s u = if x.run.inFlight.isEmpty then passEntry s u x else haltCal s u x .atFence := by
  unfold issueFence
  rw [h]
  exact if_neg (by simp [hu])

theorem fence_goes (h : issueOf s u 13 = some x) (hu : unitRuns s u x = true) (hf : x.run.inFlight = []) :
    goesTo u.job s (issueFence s u) (withRun x.job u (pastEntry x.run)) := by
  obtain ⟨hj, -, hr, -⟩ := issueOf_some h
  have h0 : goesTo u.job s s x.job := ⟨.refl .., hj⟩
  rw [issueFence_eq h hu, if_pos (by simp [hf])]
  exact h0.passEntry hr x

theorem fence_halts (h : issueOf s u 13 = some x) (hu : unitRuns s u x = true) (hf : x.run.inFlight ≠ [])
    (hh : x.run.halt = .running) : goesTo u.job s (issueFence s u) (withRun x.job u { x.run with halt := .atFence, late := false }) := by
  obtain ⟨hj, -, hr, -⟩ := issueOf_some h
  rw [issueFence_eq h hu, if_neg (by simp [hf])]
  exact goesTo_haltCal hj hr hh _

theorem day_halts (h : issueOf s u 12 = some x) (hu : unitRuns s u x = true) (hh : x.run.halt = .running) :
    goesTo u.job s (issueDay s u) (withRun x.job u { x.run with halt := .atDay, late := false }) := by
  obtain ⟨hj, -, hr, -⟩ := issueOf_some h
  have e : issueDay s u = haltCal s u x .atDay := by
    unfold issueDay
    rw [h]
    exact if_neg (by simp [hu])
  rw [e]
  exact goesTo_haltCal hj hr hh _

/-! ## The budget of a wait (R151) -/

theorem waitLate_again {since : Nat} (h : issueOf s u 11 = some x) (hh : x.run.halt = .atWait since) (hl : x.run.late = true) :
    waitLate s u = s := by
  unfold waitLate
  rw [h]
  dsimp only
  rw [hh]
  exact if_pos hl

theorem waitLate_first {since : Nat} (h : issueOf s u 11 = some x) (hh : x.run.halt = .atWait since) (hl : x.run.late = false) :
    waitLate s u = updCal (bump (post s pgDispatcher 0x0401 x.job.partition x.chan 0) Reg.DSP_LATE_TIER 1) u
      fun r => { r with late := true } := by
  unfold waitLate
  rw [h]
  dsimp only
  rw [hh]
  exact if_neg (by simp [hl])

theorem waitLate_posts {since : Nat} (h : issueOf s u 11 = some x) (hh : x.run.halt = .atWait since) (hl : x.run.late = false) :
    waitLate s u = { s with jobs := (waitLate s u).jobs, regs := (waitLate s u).regs, ras := (waitLate s u).ras
                            host := (waitLate s u).host } ∧
    getJob (waitLate s u) u.job = some (withRun x.job u { x.run with late := true }) ∧
    (regGet (waitLate s u) Reg.DSP_LATE_TIER).toNat = min ((regGet s Reg.DSP_LATE_TIER).toNat + 1) 0xFFFFFFFF := by
  obtain ⟨hj, -, hr, -⟩ := issueOf_some h
  rw [waitLate_first h hh hl]
  refine ⟨rfl, getJob_updCal (j := x.job) hj hr _, ?_⟩
  have hp : regGet (post s pgDispatcher 0x0401 x.job.partition x.chan 0) Reg.DSP_LATE_TIER = regGet s Reg.DSP_LATE_TIER :=
    (regGet_postFlags _ _ _ _ _ _ _ (by decide)).trans (if_neg (by decide))
  rw [← hp]
  exact regGet_bump

end

end Sys2Proof.Machine

namespace Sys2Proof.Machine

section
variable {s t : State} {a : Alm} {j : Job} {r : CalRun} {n b i k : Nat} {w : WaitDef} {st : Staging}

/-! ## A job that ends is no longer listed -/

theorem getJob_releaseJob (s : State) (n : Nat) : getJob (releaseJob s n).1 n = none := by
  have gone : ∀ t : State, getJob { t with jobs := aDel t.jobs n } n = none := fun t => (aGet?_aDel ..).trans (if_pos rfl)
  rcases hj : getJob s n with _ | j
  · unfold releaseJob
    rw [hj]
    exact hj
  rcases ha : jobAlm s j with _ | a
  · unfold releaseJob
    rw [hj]
    dsimp only
    rw [ha]
    exact gone s
  unfold releaseJob
  rw [hj]
  dsimp only
  rw [ha]
  exact (getJob_of_bench (by rw [bench_creditAll]) n).trans (gone _)

/-- A job that is not a gang's goes when it ends. -/
theorem getJob_endJob (hj : getJob s n = some j) (hk : j.kind ≠ 1) (x : Status) (dw : Nat) :
    getJob (endJob s n x dw) n = none := by
  have h : bench (endJob s n x dw) = bench (releaseJob s n).1 := by
    unfold endJob
    rw [hj]
    dsimp only
    rw [if_neg hk]
    split
    · exact bench_dropBatch
    · split
      · rw [bench_foldl fun _ _ => bench_endSearch, bench_replace]
      · split <;> simp
  exact (getJob_of_bench (congrArg Bench.jobs h) n).trans (getJob_releaseJob s n)

/-! ## Fills that complete (R150) -/

/-- The wait point on buffer b at which a calendar's run is halted. -/
def waitOn (a : Alm) (b i : Nat) (r : CalRun) : Option WaitDef :=
  match r.halt with
  | .atWait _ => ((a.cals[i]?).bind fun c => a.waits[fld (c.entries.getD r.pc 0) 123 108]?).filter fun w => w.buf == b
  | _ => none

theorem waitOn_some : waitOn a b i r = some w ↔ (∃ since, r.halt = .atWait since) ∧
    ∃ c, a.cals[i]? = some c ∧ a.waits[fld (c.entries.getD r.pc 0) 123 108]? = some w ∧ w.buf = b := by
  unfold waitOn
  split
  · rename_i since h
    simp only [Option.filter_eq_some_iff, Option.bind_eq_some_iff, h, Halt.atWait.injEq, exists_eq', true_and, beq_iff_eq]
    exact ⟨fun ⟨⟨c, hc, hw⟩, hb⟩ => ⟨c, hc, hw, hb⟩, fun ⟨c, hc, hw, hb⟩ => ⟨⟨c, hc, hw⟩, hb⟩⟩
  · rename_i h
    simp only [reduceCtorEq, false_iff, not_and]
    rintro ⟨since, hs⟩
    exact absurd hs (h since)

/-- What a fill of buffer b does to calendar i of a job. -/
def meetFill (n b : Nat) (a : Alm) (st : Staging) (s : State) (i : Nat) : State :=
  match getJob s n with
  | none => s
  | some j =>
    match j.cals[i]?, a.cals[i]? with
    | some r, some c =>
      match r.halt with
      | .atWait _ =>
        let e := c.entries.getD r.pc 0
        match a.waits[fld e 123 108]? with
        | none => s
        | some w =>
          if w.buf ≠ b ∨ st.fill ≠ .full then s
          else if st.tag = w.tag then passEntry s ⟨n, i⟩ ⟨j, a, c, r, e⟩
          else endJob (post s pgDispatcher 0x0504 j.partition (fld e 123 108) (argPair w.tag st.tag)) n stInternal 0
      | _ => s
    | _, _ => s

theorem fillWaits_eq (hj : getJob s n = some j) (ha : jobAlm s j = some a) :
    fillWaits s n b = (List.range j.cals.length).foldl (meetFill n b a (stagingOf j b)) s := by
  unfold fillWaits
  rw [hj]
  dsimp only
  rw [ha]
  rfl

theorem meetFill_gone (hj : getJob s n = none) : meetFill n b a st s i = s := by
  unfold meetFill
  rw [hj]

theorem meetFill_unfilled (hf : st.fill ≠ .full) : meetFill n b a st s i = s := by
  unfold meetFill
  split
  · rfl
  · split
    · split
      · dsimp only
        split
        · rfl
        · exact if_pos (.inr hf)
      · rfl
    · rfl

theorem meetFill_elsewhere (hj : getJob s n = some j) (hr : j.cals[i]? = some r) (hw : waitOn a b i r = none) :
    meetFill n b a st s i = s := by
  unfold meetFill
  rw [hj]
  dsimp only
  rw [hr]
  split
  · rename_i c hr' hc
    cases hr'
    split
    · rename_i since hh
      split
      · rfl
      · rename_i w hwt
        refine if_pos (.inl fun hb => ?_)
        have h := waitOn_some.mpr ⟨⟨since, hh⟩, c, hc, hwt, hb⟩
        rw [hw] at h
        cases h
    · rfl
  · rfl

theorem meetFill_waiting (hj : getJob s n = some j) (hr : j.cals[i]? = some r) (hw : waitOn a b i r = some w)
    (hf : st.fill = .full) : ∃ x a0 a1, meetFill n b a st s i = if st.tag = w.tag then passEntry s ⟨n, i⟩ x
      else endJob (post s pgDispatcher 0x0504 j.partition a0 a1) n stInternal 0 := by
  obtain ⟨⟨since, hh⟩, c, hc, hwt, hb⟩ := waitOn_some.mp hw
  refine ⟨⟨j, a, c, r, c.entries.getD r.pc 0⟩, fld (c.entries.getD r.pc 0) 123 108, argPair w.tag st.tag, ?_⟩
  unfold meetFill
  rw [hj]
  dsimp only
  rw [hr, hc]
  dsimp only
  rw [hh]
  dsimp only
  rw [hwt]
  exact if_neg (by simp [hb, hf])

/-- The runs of a job once the fill has met its first m calendars. -/
def metRun (a : Alm) (b m i : Nat) (r : CalRun) : CalRun :=
  if i < m ∧ (waitOn a b i r).isSome then pastEntry r else r

/-- The first m calendars of a job have met the fill, and each that waited went on. -/
def allMet (s : State) (n b m : Nat) (j : Job) (a : Alm) (t : State) : Prop :=
  onlyTraced n s t ∧ ∃ j', getJob t n = some j' ∧ j' = { j with cals := j'.cals } ∧
    ∀ i r, j.cals[i]? = some r → j'.cals[i]? = some (metRun a b m i r)

/-- The job has ended with the dispatcher's event of a wrong tag. -/
def endedByTag (n : Nat) (t : State) : Prop :=
  getJob t n = none ∧ bitOf (regGet t (pgDispatcher + Reg.EVT_CAUSE)).toNat 5 = true

theorem endJob_byTag (hj : getJob s n = some j) (hk : j.kind ≠ 1) (p a0 a1 : Nat) :
    endedByTag n (endJob (post s pgDispatcher 0x0504 p a0 a1) n stInternal 0) := by
  have hp : getJob (post s pgDispatcher 0x0504 p a0 a1) n = some j := hj
  refine ⟨getJob_endJob hp hk _ _, ?_⟩
  rw [regGet_of_hub (s := post s pgDispatcher 0x0504 p a0 a1) (by rw [floor_endJob]) (by decide), post,
    regGet_postFlags _ _ _ _ _ _ _ (by decide), if_pos rfl, bitOf_or_two_pow _ (by decide)]
  simp

/-- One more calendar meets the fill, and it went on or did not wait. -/
theorem allMet_succ {m : Nat} (h : allMet s n b m j a t) (hf : st.fill = .full) (hr : j.cals[m]? = some r)
    (hw : ∀ w, waitOn a b m r = some w → st.tag = w.tag) : allMet s n b (m + 1) j a (meetFill n b a st t m) := by
  obtain ⟨hs, j', hj', he, hruns⟩ := h
  have hr' : j'.cals[m]? = some r := by rw [hruns m r hr, metRun, if_neg (by simp)]
  rcases ho : waitOn a b m r with _ | w
  · rw [meetFill_elsewhere hj' hr' ho]
    refine ⟨hs, j', hj', he, fun i r₁ h₁ => ?_⟩
    rw [hruns i r₁ h₁]
    by_cases hi : i = m
    · subst hi
      cases h₁.symm.trans hr
      simp [metRun, ho]
    · simp only [metRun, show i < m + 1 ↔ i < m by omega]
  · obtain ⟨x, a0, a1, e⟩ := meetFill_waiting hj' hr' ho hf
    rw [e, if_pos (hw w ho)]
    obtain ⟨hs', hj''⟩ := goesTo.passEntry (u := ⟨n, m⟩) ⟨hs, hj'⟩ hr' x
    refine ⟨hs', _, hj'', by rw [he]; rfl, fun i r₁ h₁ => ?_⟩
    show (j'.cals.set m _)[i]? = _
    by_cases hi : i = m
    · subst hi
      cases h₁.symm.trans hr
      simp [metRun, ho, List.getElem?_set_self (List.getElem?_eq_some_iff.mp hr').1]
    · rw [List.getElem?_set_ne (Ne.symm hi), hruns i r₁ h₁]
      simp only [metRun, show i < m + 1 ↔ i < m by omega]

/-- The fill has met the first m calendars: each waited with its tag, or one did not and the job has ended. -/
theorem fill_meets (hj : getJob s n = some j) (hf : st.fill = .full) {m : Nat} (hm : m ≤ j.cals.length) {t : State}
    (ht : (List.range m).foldl (meetFill n b a st) s = t) :
    (allMet s n b m j a t ∧ ∀ i r w, i < m → j.cals[i]? = some r → waitOn a b i r = some w → w.tag = st.tag) ∨
      ((j.kind ≠ 1 → endedByTag n t) ∧ ∃ i r w, j.cals[i]? = some r ∧ waitOn a b i r = some w ∧ w.tag ≠ st.tag) := by
  induction m generalizing t with
  | zero =>
    subst ht
    exact .inl ⟨⟨.refl .., j, hj, rfl, fun i r hr => by rw [hr, metRun, if_neg (by simp)]⟩, fun _ _ _ h => absurd h (by simp)⟩
  | succ m ih =>
    rw [List.range_succ, List.foldl_append, List.foldl_cons, List.foldl_nil] at ht
    rcases ih (by omega) rfl with ⟨hmet, htags⟩ | ⟨hend, hex⟩
    · obtain ⟨r, hr⟩ : ∃ r, j.cals[m]? = some r := ⟨_, List.getElem?_eq_getElem (by omega)⟩
      by_cases hw : ∀ w, waitOn a b m r = some w → st.tag = w.tag
      · refine .inl ⟨ht ▸ allMet_succ hmet hf hr hw, fun i r₁ w hi h₁ ho => ?_⟩
        rcases Nat.lt_succ_iff_lt_or_eq.mp hi with hi | rfl
        · exact htags i r₁ w hi h₁ ho
        · cases h₁.symm.trans hr
          exact (hw w ho).symm
      · push Not at hw
        obtain ⟨w, ho, hne⟩ := hw
        refine .inr ⟨fun hk => ?_, m, r, w, hr, ho, Ne.symm hne⟩
        obtain ⟨hs, j', hj', he, hruns⟩ := hmet
        have hr' : j'.cals[m]? = some r := by rw [hruns m r hr, metRun, if_neg (by simp)]
        obtain ⟨x, a0, a1, e⟩ := meetFill_waiting hj' hr' ho hf
        rw [e, if_neg hne] at ht
        subst ht
        exact endJob_byTag hj' (by rw [he]; exact hk) ..
    · refine .inr ⟨fun hk => ?_, hex⟩
      have h := hend hk
      rw [meetFill_gone h.1] at ht
      exact ht ▸ h

theorem fillWaits_unfilled (hj : getJob s n = some j) (ha : jobAlm s j = some a) (hf : (stagingOf j b).fill ≠ .full) :
    fillWaits s n b = s := by
  rw [fillWaits_eq hj ha]
  exact foldl_keeps (· = s) _ (fun t i h => (meetFill_unfilled hf).trans h) _ _ rfl

/-- A fill whose tag every waiting calendar expects lets all of them on. -/
theorem fillWaits_goes (hj : getJob s n = some j) (ha : jobAlm s j = some a) (hf : (stagingOf j b).fill = .full)
    (hw : ∀ i r w, j.cals[i]? = some r → waitOn a b i r = some w → w.tag = (stagingOf j b).tag) :
    allMet s n b j.cals.length j a (fillWaits s n b) := by
  rw [fillWaits_eq hj ha]
  rcases fill_meets hj hf (le_refl _) rfl with ⟨h, -⟩ | ⟨-, i, r, w, hr, ho, hne⟩
  · exact h
  · exact absurd (hw i r w hr ho) hne

/-- A fill with another tag than one of the calendars expects ends the job. -/
theorem fillWaits_ends (hj : getJob s n = some j) (ha : jobAlm s j = some a) (hf : (stagingOf j b).fill = .full)
    (hk : j.kind ≠ 1) (hr : j.cals[i]? = some r) (ho : waitOn a b i r = some w) (hne : w.tag ≠ (stagingOf j b).tag) :
    endedByTag n (fillWaits s n b) := by
  rw [fillWaits_eq hj ha]
  rcases fill_meets hj hf (le_refl _) rfl with ⟨-, h⟩ | ⟨h, -⟩
  · exact absurd (h i r w (List.getElem?_eq_some_iff.mp hr).1 hr ho) hne
  · exact h hk

end

end Sys2Proof.Machine

namespace Sys2Proof.Machine

section
variable {s t : State} {a : Alm} {j : Job} {n k : Nat} {cause : DayFault}

/-! ## Faults that end a day (R146, R147, R355, R497) -/

/-- A fault of the kind has restarted the job's day before. -/
def faultAgain (cause : DayFault) (j : Job) : Prop :=
  (cause = .tagMismatch ∨ cause = .ringOwnership ∨ cause = .addressFault) ∧ 1 ≤ j.faultRestarts ∨
    cause = .poison ∧ 1 ≤ j.poisonRestarts ∨ cause = .sealFail ∧ 1 ≤ j.sealRestarts

/-- The job with the restart counted for the kind of its fault. -/
def noteFault (cause : DayFault) (j : Job) : Job :=
  match cause with
  | .tagMismatch | .ringOwnership | .addressFault => { j with faultRestarts := j.faultRestarts + 1 }
  | .poison => { j with poisonRestarts := j.poisonRestarts + 1 }
  | .sealFail => { j with sealRestarts := j.sealRestarts + 1 }
  | .unitReset | .standLost => j

theorem updJob_id (s : State) (n : Nat) : updJob s n (fun j => j) = s := by
  simp [updJob, aUpd]

theorem dayFault_restarts (hj : getJob s n = some j) (hb : j.isBound = true) (hf : j.finished = false)
    (h : ¬ faultAgain cause j) : dayFault s n cause = restartDay (updJob s n (noteFault cause)) n := by
  unfold dayFault
  rw [hj]
  dsimp only
  rw [if_neg (by simp [hb, hf])]
  cases cause
  case unitReset | standLost => exact congrArg (restartDay · n) (updJob_id s n).symm
  all_goals
    simp only [faultAgain, reduceCtorEq, false_or, or_false, true_and, false_and, or_true] at h
    exact if_neg h

theorem dayFault_ends (hj : getJob s n = some j) (hb : j.isBound = true) (hf : j.finished = false)
    (h : faultAgain cause j) : ∃ st, dayFault s n cause = endJob s n st 0 := by
  unfold dayFault
  rw [hj]
  dsimp only
  rw [if_neg (by simp [hb, hf])]
  cases cause
  case unitReset | standLost => simp [faultAgain] at h
  all_goals
    simp only [faultAgain, reduceCtorEq, false_or, or_false, true_and, false_and, or_true] at h
    exact ⟨_, if_pos h⟩

/-- What a fault's first restart makes of the job (R146). -/
theorem dayFault_redawns (hj : getJob s n = some j) (ha : jobAlm s j = some a) (hb : j.isBound = true) (hf : j.finished = false)
    (h : ¬ faultAgain cause j) : ∃ j', getJob (dayFault s n cause) n = some j' ∧
      fixedJob j' = fixedJob (redawned s.tb a (noteFault cause j)) ∧ (a.plan = none → j'.work = [] ∧ j'.held = []) := by
  have ha' : jobAlm (updJob s n (noteFault cause)) (noteFault cause j) = some a := by
    rw [← ha]
    cases cause <;> rfl
  rw [dayFault_restarts hj hb hf h]
  exact getJob_restartDay (getJob_updJob_self hj) ha'

theorem dayFault_counts (hj : getJob s n = some j) (ha : jobAlm s j = some a) (hb : j.isBound = true) (hf : j.finished = false)
    (h : ¬ faultAgain cause j) :
    (regGet (dayFault s n cause) Reg.DSP_RESTARTS).toNat = min ((regGet s Reg.DSP_RESTARTS).toNat + 1) 0xFFFFFFFF := by
  have ha' : jobAlm (updJob s n (noteFault cause)) (noteFault cause j) = some a := by
    rw [← ha]
    cases cause <;> rfl
  rw [dayFault_restarts hj hb hf h]
  exact restarts_restartDay (getJob_updJob_self hj) ha'

/-- Whatever the fault, the fields that no restart touches. -/
theorem redawned_noteFault (tb : Nat) : (redawned tb a (noteFault cause j)).day = j.day ∧
    (redawned tb a (noteFault cause j)).cals = j.cals.map fun r => CalRun.start r.dawn := by
  cases cause <;> exact ⟨rfl, rfl⟩

theorem dayFaultRestart_effect (he : engineOn s = true) : Gives (.dayFaultRestart n cause) s (dayFault s n cause) :=
  congrArg Host.Outcome.next (if_pos he)

/-! ## The dispatcher's limit (R50, R164, R455) -/

/-- Fills of a job still fillsAwaited. -/
def fillsAwaited (j : Job) : Nat := (j.staging.filter fun e => e.2.fill == .filling).length

theorem dayLimitExpiry_unfinished (hj : getJob s n = some j) (he : engineOn s = true) (hb : j.isBound = true)
    (hy : j.cls = 1 → yieldedCopse s n = false) (hf : j.finished = false) (retrying : Bool) : ∃ sel,
      Gives (.dayLimitExpiry n retrying) s
        (endJob (orphanAccess (bump s Reg.DSP_LATE (fillsAwaited j)) sel) n (limitStatus j retrying) 0) := by
  have hy' : ¬(j.cls = 1 ∧ yieldedCopse s n = true) := fun h => by simp [hy h.1] at h
  refine ⟨fun e => e.asker == 1 && e.waiter / 2 ^ 40 == n, congrArg Host.Outcome.next ?_⟩
  rw [hj]
  dsimp only
  rw [if_neg (by simp [he, hb, hy']), if_neg (by simp [hf])]
  rfl

theorem dayLimit_ends (hj : getJob s n = some j) (hk : j.kind ≠ 1) (sel : Access → Bool) (x : Status) :
    getJob (endJob (orphanAccess (bump s Reg.DSP_LATE (fillsAwaited j)) sel) n x 0) n = none ∧
    (regGet (endJob (orphanAccess (bump s Reg.DSP_LATE (fillsAwaited j)) sel) n x 0) Reg.DSP_LATE).toNat =
      min ((regGet s Reg.DSP_LATE).toNat + fillsAwaited j) 0xFFFFFFFF := by
  have hp : getJob (orphanAccess (bump s Reg.DSP_LATE (fillsAwaited j)) sel) n = some j := hj
  refine ⟨getJob_endJob hp hk _ _, ?_⟩
  rw [regGet_of_hub (s := bump s Reg.DSP_LATE (fillsAwaited j)) (by rw [floor_endJob, bench_orphanAccess]) (by decide)]
  exact regGet_bump

theorem gangs_endGang (s : State) (k : Nat) (x : Status) : aGet? (endGang s k x).gangs k = none := by
  have hrel : ∀ t : State, aGet? (releaseGang t k).gangs k = none := fun t => by
    unfold releaseGang
    split
    · assumption
    · exact (aGet?_aDel ..).trans (if_pos rfl)
  unfold endGang
  split
  · assumption
  · split
    · exact hrel s
    · exact hrel _

theorem dayLimitExpiry_gang {g : Gang} (hj : getJob s n = some j) (he : engineOn s = true) (hb : j.isBound = true)
    (hy : j.cls = 1 → yieldedCopse s n = false) (hf : j.finished = true) (hk : j.gang = some k) (hg : aGet? s.gangs k = some g)
    (hp : g.phase = 1 ∨ g.phase = 2) (retrying : Bool) : ∃ x, Gives (.dayLimitExpiry n retrying) s (endGang s k x) := by
  have hy' : ¬(j.cls = 1 ∧ yieldedCopse s n = true) := fun h => by simp [hy h.1] at h
  refine ⟨if g.phase = 1 then stTierLate else stNested, congrArg Host.Outcome.next ?_⟩
  rw [hj]
  dsimp only
  rw [if_neg (by simp [he, hb, hy']), if_pos hf, hk]
  dsimp only
  rw [hg]
  rcases hp with hp | hp <;> simp [hp]

end

end Sys2Proof.Machine

namespace Sys2Proof.Machine

section
variable {s t : State} {a : Alm} {j : Job} {n k : Nat} {o : List Nat}

/-! ## The commit of a day (R144, R145) -/

/-- A committed page replaced by its working page; keys from 2^32 on are tables'. -/
def putPage (w : Nat × Nat) (ps : List Nat) : List Nat := if w.1 < 2 ^ 32 then ps.set w.1 w.2 else ps

/-- The committed pages once the working pages of a day took their places. -/
def swapped (work : AMap Nat) (ps : List Nat) : List Nat := work.foldl (fun ps w => putPage w ps) ps

theorem length_swapped (work : AMap Nat) (ps : List Nat) : (swapped work ps).length = ps.length :=
  foldl_keeps (fun l => l.length = ps.length) _ (fun l w h => by unfold putPage; split <;> simp [h]) work ps rfl

theorem swapped_ne {work : AMap Nat} {pg : Nat} (h : ∀ e ∈ work, e.1 ≠ pg) (ps : List Nat) : (swapped work ps)[pg]? = ps[pg]? := by
  induction work generalizing ps with
  | nil => rfl
  | cons e r ih =>
    have he := h e (by simp)
    refine (ih (fun e he => h e (by simp [he])) _).trans ?_
    show (putPage e ps)[pg]? = _
    unfold putPage
    split
    · exact List.getElem?_set_ne he
    · rfl

/-- A working page of a buffer is the committed page after the swap. -/
theorem swapped_get {work : AMap Nat} (hs : aSorted work = true) {pg p : Nat} (hp : aGet? work pg = some p) (h32 : pg < 2 ^ 32)
    {ps : List Nat} (hl : pg < ps.length) : (swapped work ps)[pg]? = some p := by
  rw [aSorted_iff] at hs
  induction work generalizing ps with
  | nil => cases hp
  | cons e r ih =>
    obtain ⟨i, v⟩ := e
    rw [List.pairwise_cons] at hs
    by_cases hi : i = pg
    · subst hi
      obtain rfl : v = p := by simpa [aGet?] using hp
      refine (swapped_ne (work := r) (fun e he => (Nat.ne_of_lt (hs.1 e he)).symm) (putPage (i, v) ps)).trans ?_
      rw [putPage, if_pos h32, List.getElem?_set_self hl]
    · rw [aGet?, if_neg hi] at hp
      refine ih hs.2 hp ?_
      have hlen := length_swapped [(i, v)] ps
      exact hlen ▸ hl

theorem Bench.updJob_updJob (b : Bench) (n : Nat) (f g : Job → Job) :
    (b.updJob n f).updJob n g = b.updJob n fun j => g (f j) := by
  simp only [Bench.updJob, aUpd_aUpd]

theorem Bench.updJob_id (b : Bench) (n : Nat) : b.updJob n (fun j => j) = b := by
  simp [Bench.updJob, aUpd]

/-- Steps that each replace a page of a job and leave the bench else. -/
theorem bench_swapFold {g : State → Nat × Nat → State}
    (hg : ∀ s w, bench (g s w) = (bench s).updJob n fun x => { x with pages := putPage w x.pages }) (l : AMap Nat) (s : State) :
    bench (l.foldl g s) = (bench s).updJob n fun x => { x with pages := swapped l x.pages } := by
  induction l generalizing s with
  | nil => exact (Bench.updJob_id _ _).symm
  | cons w r ih =>
    refine (ih (g s w)).trans ?_
    rw [hg, Bench.updJob_updJob]
    rfl

theorem bench_swapPages (hj : getJob s n = some j) : bench (swapPages s n) =
    (bench s).updJob n fun x => { x with pages := swapped j.work x.pages, work := [] } := by
  unfold swapPages
  rw [hj]
  dsimp only
  rw [bench_updJob, bench_swapFold (n := n), Bench.updJob_updJob]
  intro s w
  split
  · rename_i hw
    simp only [putPage, hw, if_true]
    rw [bench_updJob]
    split <;> simp
  · rename_i hw
    simp only [putPage, hw, if_false]
    refine Eq.trans ?_ (Bench.updJob_id _ _).symm
    split
    · rfl
    · simp

theorem bench_passHeld (hj : getJob s n = some j) : ∃ o, bench (passHeld s n) =
    (bench s).updJob n fun x => { x with held := [], orders := x.orders ++ o } := by
  unfold passHeld
  rw [hj]
  dsimp only
  generalize ht : List.foldl _ (s, ([] : List Nat)) j.held = t
  have h : bench t.1 = bench s := by
    rw [← ht]
    refine bench_foldl_fst (fun acc h => ?_) _ _
    generalize hw : writeNow acc.1 h.partition h.off h.data = r
    have hr : bench r.1 = bench acc.1 := by rw [← hw, bench_writeNow]
    split
    · refine (bench_foldl (fun u x => ?_) _ _).trans hr
      split
      · rw [bench_mapSet, bench_replace]
      · rfl
    · exact hr
  exact ⟨t.2, by rw [bench_updJob, h]⟩

/-- A job whose day is committed, with the flash versions that the commit wrote. -/
def committed (o : List Nat) (j : Job) : Job :=
  { j with pages := swapped j.work j.pages, work := [], held := [], orders := j.orders ++ o
           segDir := (j.segDir.filter fun e => e.1 ≥ 2 ^ 40).foldl (fun m e => aPut m (e.1 - 2 ^ 40) e.2)
             (j.segDir.filter fun e => e.1 < 2 ^ 40)
           day := j.day + 1, faultRestarts := 0, copseRestarts := 0, poisonRestarts := 0, sealRestarts := 0 }

theorem Bench.job_updJob {b : Bench} {f : Job → Job} (h : aGet? b.jobs n = some j) : aGet? (b.updJob n f).jobs n = some (f j) :=
  (aGet?_aUpd ..).trans (by rw [if_pos rfl, h]; rfl)

/-- The state in which a commit counts: pages, held writes and segments of the day took their places (R145). -/
def dayRecorded (s : State) (n : Nat) (j : Job) (a : Alm) : State :=
  let s2 := commitSegs (passHeld (swapPages s n) n) n
  let s3 := if j.partition = 4095 ∧ a.plan.isNone then freeWindow s2 ((j.work.filter (·.1 < 2 ^ 32)).map (·.1)) else s2
  let s4 := updJob s3 n fun x => { x with day := x.day + 1, faultRestarts := 0, copseRestarts := 0, poisonRestarts := 0,
                                          sealRestarts := 0 }
  let s5 := if j.command ∧ j.kind = 0 then
      updProg s4 j.sqid j.cid fun r => { r with lastDay := some j.day, units := r.units + a.days.getD j.day 0 }
    else s4
  if j.kind = 1 ∧ j.copy = 0 then updProg s5 j.sqid j.cid fun r => { r with lastDay := some j.day } else s5

theorem dayRecorded_job (hj : getJob s n = some j) : ∃ o,
    (bench (dayRecorded s n j a)).floor = (bench s).floor ∧ getJob (dayRecorded s n j a) n = some (committed o j) := by
  have h1 : aGet? (bench (swapPages s n)).jobs n = _ := (congrArg (fun b : Bench => aGet? b.jobs n) (bench_swapPages hj)).trans
    (Bench.job_updJob hj)
  obtain ⟨o, ho⟩ := bench_passHeld h1
  have hd : bench (dayRecorded s n j a) = (bench (passHeld (swapPages s n) n)).updJob n (fun x => { x with
      segDir := (x.segDir.filter fun e => e.1 ≥ 2 ^ 40).foldl (fun m e => aPut m (e.1 - 2 ^ 40) e.2)
        (x.segDir.filter fun e => e.1 < 2 ^ 40)
      day := x.day + 1, faultRestarts := 0, copseRestarts := 0, poisonRestarts := 0, sealRestarts := 0 }) := by
    simp only [dayRecorded, bench_ite, bench_updProg, bench_updJob, commitSegs, freeWindow, bench_replace, ite_self,
      Bench.updJob_updJob]
  rw [ho, Bench.updJob_updJob, bench_swapPages hj, Bench.updJob_updJob] at hd
  exact ⟨o, by rw [hd]; rfl, (congrArg (fun b : Bench => aGet? b.jobs n) hd).trans (Bench.job_updJob hj)⟩

theorem getPair_bumpPair (s : State) (lo v : Nat) : getPair (bumpPair s lo v) lo = (getPair s lo + v) % 2 ^ 64 := by
  rw [bumpPair, getPair_setPair, Nat.mod_mod]

/-- A commit that is counted shows the count as long as the hub's registers stay. -/
theorem commits_of_hub (h : (bench t).floor.hub = (bench s).floor.hub) : getPair t Reg.DSP_COMMITS_LO = getPair s Reg.DSP_COMMITS_LO :=
  getPair_congr (regGet_of_hub h (by decide)) (regGet_of_hub h (by decide))

/-- The day of a job that reads no table is counted, then the job ends or goes to its next dawn. -/
theorem commitDay_eq (hj : getJob s n = some j) (ht : j.tables = [])
    (hp : a.days.length ≤ j.day + 1 → outputPoison s n j a = false) : ∃ o u, commitDay s n j a =
      (if a.days.length ≤ j.day + 1 then finishJob u n (committed o j) a else nextDawn u n a) ∧ u.tb = s.tb ∧ u.alms = s.alms ∧
      getJob u n = some (committed o j) ∧ getPair u Reg.DSP_COMMITS_LO = (getPair s Reg.DSP_COMMITS_LO + 1) % 2 ^ 64 := by
  obtain ⟨o, hf, hjob⟩ := dayRecorded_job (a := a) hj
  have hw : writeBackHot s n = some s := by
    unfold writeBackHot
    rw [hj]
    dsimp only
    rw [ht]
    rfl
  have hj' : getJob (bumpPair (dayRecorded s n j a) Reg.DSP_COMMITS_LO 1) n = some (committed o j) := hjob
  refine ⟨o, bumpPair (dayRecorded s n j a) Reg.DSP_COMMITS_LO 1, ?_, congrArg Floor.tb hf, congrArg Floor.alms hf, hj', ?_⟩
  · have hpo : (decide (j.day + 1 ≥ a.days.length) && outputPoison s n j a) = false := by
      by_cases h : a.days.length ≤ j.day + 1
      · rw [hp h, Bool.and_false]
      · simp [h]
    have e : commitDay s n j a = match getJob (bumpPair (dayRecorded s n j a) Reg.DSP_COMMITS_LO 1) n with
        | none => bumpPair (dayRecorded s n j a) Reg.DSP_COMMITS_LO 1
        | some j1 => if decide (j.day + 1 ≥ a.days.length) then finishJob (bumpPair (dayRecorded s n j a) Reg.DSP_COMMITS_LO 1) n j1 a
          else nextDawn (bumpPair (dayRecorded s n j a) Reg.DSP_COMMITS_LO 1) n a := by
      unfold commitDay
      rw [hw]
      exact if_neg (by simp [hpo])
    rw [e, hj']
    simp only [ge_iff_le, decide_eq_true_eq]
  · rw [getPair_bumpPair, commits_of_hub (congrArg Floor.hub hf)]

/-! ### The last day -/

theorem bench_answerReply {q : Req} {x : Status} {d0 d1 : Nat} {pay : List Byte} :
    bench (answerReply s q x d0 d1 pay).1 = bench s := bench_answer

theorem bench_of_whenDurable {c : Cmd} {l : List Nat} {r : Reply} {x : Option Reply} (h : whenDurable s c l r = (t, x)) :
    bench t = bench s := by
  rw [← bench_whenDurable (s := s) (c := c) (l := l) (r := r), h]

/-- A job without a row plan is released after its last day (R161). -/
theorem bench_finishJob (hp : a.plan = none) : bench (finishJob s n j a) = bench (releaseJob s n).1 := by
  unfold finishJob
  rw [hp]
  dsimp only
  split
  · unfold finishCommand
    dsimp only
    split
    · rfl
    · split
      · split
        · split
          · rename_i h
            rw [bench_completeAt, bench_of_whenDurable h, bench_answerReply]
          · rename_i h
            rw [bench_of_whenDurable h, bench_answerReply]
        · rw [bench_completeAt, bench_answerReply]
      · rw [bench_answerReply]
  · rfl

theorem commitDay_last (hj : getJob s n = some j) (ht : j.tables = []) (hp : a.plan = none)
    (hl : a.days.length ≤ j.day + 1) (ho : outputPoison s n j a = false) :
    getPair (commitDay s n j a) Reg.DSP_COMMITS_LO = (getPair s Reg.DSP_COMMITS_LO + 1) % 2 ^ 64 ∧
      getJob (commitDay s n j a) n = none := by
  obtain ⟨o, u, he, -, -, -, hc⟩ := commitDay_eq (a := a) hj ht fun _ => ho
  rw [if_pos hl] at he
  have hb := bench_finishJob (s := u) (n := n) (j := committed o j) hp
  rw [he]
  exact ⟨(commits_of_hub (by rw [hb, floor_releaseJob])).trans hc,
    (getJob_of_bench (congrArg Bench.jobs hb) n).trans (getJob_releaseJob u n)⟩

/-! ### The dawn of the next day -/

/-- A job at the dawn of its next day, with its live prefetches (R145, R149). -/
def dawned (tb : Nat) (a : Alm) (live : List (Nat × Nat)) (j : Job) : Job :=
  { j with pfDone := live, cals := j.cals.map fun r => { CalRun.start (r.pc + 1) with draw := none }
           toks := initToks a, staging := [], dayStart := tb, dropPosted := false
           slots := j.slots.map fun e => (e.1, { e.2 with thisDay := false }), prefetched := [] }

theorem bench_endDayPins (hj : getJob s n = some j) : ∃ live, bench (endDayPins s n) =
    (bench s).updJob n fun x => { x with pfDone := live } := by
  unfold endDayPins
  rw [hj]
  exact ⟨_, (bench_foldl (fun _ _ => by rw [bench_unpinCopy, bench_replace]) _ _).trans (bench_updJob _)⟩

theorem nextDawn_eq (hj : getJob s n = some j) : ∃ live u, nextDawn s n a = fillCopies u n ∧
    (bench u).floor = (bench s).floor ∧ getJob u n = some (dawned s.tb a live j) := by
  obtain ⟨live, hl⟩ := bench_endDayPins hj
  unfold nextDawn
  rw [hj]
  dsimp only
  generalize hv : List.foldl _ _ (a.bufs.filter _) = v
  have hb : bench v = (bench s).updJob n fun x => { x with pfDone := live } := by
    rw [← hv, bench_foldl fun _ _ => bench_scrambleBuf, bench_foldl _, hl]
    intro t i
    split <;> simp
  exact ⟨live, _, rfl, by rw [bench_updJob, hb]; rfl,
    getJob_updJob_self ((congrArg (fun b : Bench => aGet? b.jobs n) hb).trans (Bench.job_updJob hj))⟩

/-- What a commit before the last day makes of its job. -/
theorem commitDay_next (hj : getJob s n = some j) (ha : jobAlm s j = some a) (ht : j.tables = []) (hl : j.day + 1 < a.days.length) :
    getPair (commitDay s n j a) Reg.DSP_COMMITS_LO = (getPair s Reg.DSP_COMMITS_LO + 1) % 2 ^ 64 ∧
    ∃ o live j', getJob (commitDay s n j a) n = some j' ∧ fixedJob j' = fixedJob (dawned s.tb a live (committed o j)) ∧
      (a.plan = none → j' = dawned s.tb a live (committed o j)) := by
  obtain ⟨o, u, he, htb, halm, hju, hc⟩ := commitDay_eq (a := a) hj ht fun h => absurd h (by omega)
  rw [if_neg (by omega)] at he
  obtain ⟨live, v, hv, hf, hjv⟩ := nextDawn_eq (a := a) hju
  rw [htb] at hjv
  obtain ⟨j', hj', hfix⟩ := job_of_still still_fillCopies hjv
  rw [he, hv]
  refine ⟨(commits_of_hub (by rw [floor_of_still still_fillCopies, hf])).trans hc, o, live, j', hj', hfix, fun hp => ?_⟩
  have hav : jobAlm v (dawned s.tb a live (committed o j)) = some a := by
    rw [← ha, jobAlm_of_floor (s := u) (by rw [hf])]
    exact congrArg (aGet? · j.handle) halm
  rw [fillCopies_unplanned hjv hav hp, hjv] at hj'
  exact (Option.some.inj hj').symm

end

end Sys2Proof.Machine

namespace Sys2Proof.Machine

section
variable {s t : State} {a : Alm} {j : Job} {n k p : Nat} {pl : Plan} {rs bs L : List Nat}

/-! ## The binding of a job (R136, R157, R163, R164) -/

/-- Pages of a job are taken whatever jobs there are. -/
theorem takeJobPages_jobs (part k n : Nat) (s : State) (jobs : AMap Job) : takeJobPages part L k n { s with jobs } =
    (takeJobPages part L k n s).map fun x => ({ x.1 with jobs }, x.2) := by
  have hfirst : ∀ (s : State) l, firstPage { s with jobs } l = firstPage s l := fun s l => by
    induction l with
    | nil => rfl
    | cons x r ih => simp only [firstPage, ih]
  induction k generalizing n s with
  | zero => rfl
  | succ k ih =>
    have htake : ∀ q, takePage { s with jobs } part q = { takePage s part q with jobs } := fun _ => rfl
    have hlive : liveStacks { s with jobs } = liveStacks s := rfl
    simp only [takeJobPages, hfirst, hlive, htake, ih]
    split
    · rfl
    · rename_i q hq
      rcases takeJobPages part L k (n + 1) (takePage s part q) with _ | ⟨u, l⟩ <;> rfl

/-- A job as its binding to a plan leaves it, but for its pages and regions. -/
def boundJob (tb : Nat) (a : Alm) (pl : Plan) (rs bs : List Nat) (j : Job) : Job :=
  { j with isBound := true, copses := (List.range a.nCopse).map fun c => (aGetD pl.copses c (0, false)).1
           glades := (List.range a.nGlade).map fun g => (aGetD pl.glades g (0, 0)).1
           bases := (List.range a.nGlade).map fun g => (aGetD pl.glades g (0, 0)).2
           rangers := rs, rbases := bs, borrower := pl.copses.any (·.2.2), cals := a.cals.map fun _ => CalRun.start 0
           toks := initToks a, staging := [], dayStart := tb }

theorem enterCopses_jobs (s : State) (n : Nat) (j : Job) (a : Alm) (l : AMap (Nat × Bool)) :
    (l.foldl (fun s e => enterCopse s n j a e.1 e.2.1 e.2.2) s).jobs = s.jobs :=
  foldl_keeps (fun t => t.jobs = s.jobs) (fun s e => enterCopse s n j a e.1 e.2.1 e.2.2) 
    (fun t e (h : t.jobs = s.jobs) => (show (enterCopse t n j a e.1 e.2.1 e.2.2).jobs = s.jobs from h)) l s rfl

theorem startJob_job (h : (takeJobPages j.partition (jobStands s (boundJob s.tb a pl rs bs j)) (pagesFor (stackNeed a)) 0 s).isSome = true) :
    ∃ t pages regions j', startJob s n j a pl rs bs = some t ∧ getJob t n = some j' ∧
      fixedJob j' = fixedJob { boundJob s.tb a pl rs bs j with pages := pages, regions := regions } := by
  obtain ⟨⟨s1, pages⟩, hp⟩ := Option.isSome_iff_exists.mp h
  have hb : startJob s n j a pl rs bs = match takeJobPages j.partition (jobStands s (boundJob s.tb a pl rs bs j))
      (pagesFor (stackNeed a)) 0 s with | none => none | some (s1, pages) => _ := rfl
  rw [hp] at hb
  dsimp only at hb
  generalize hs3 : List.foldl _ _ pl.copses = s3 at hb
  have h3 : getJob s3 n = some { boundJob s.tb a pl rs bs j with pages := pages } := by
    have e : s3.jobs = aPut s1.jobs n { boundJob s.tb a pl rs bs j with pages := pages } :=
      hs3 ▸ enterCopses_jobs ..
    rw [getJob, e]
    exact (aGet?_aPut ..).trans (if_pos rfl)
  generalize hreg : List.filter _ _ = regions at hb
  generalize hs5 : List.foldl _ _ pages = s5 at hb
  have h5 : bench s5 = bench s3 := by
    rw [← hs5, bench_foldl fun _ _ => bench_scramble, bench_foldl fun _ _ => by simp]
  generalize hs8 : List.foldl _ _ (List.range rs.length) = s8 at hb
  have h8 : bench s8 = (bench s3).updJob n fun x => { x with regions := regions.map fun r => (r.1, r.2, j.partition) } := by
    rw [← hs8, bench_foldl fun _ _ => bench_loadKeys, bench_loadInputs, bench_updJob, h5]
  obtain ⟨j', hj', hf⟩ := job_of_still still_fillDawn
    ((congrArg (fun b : Bench => aGet? b.jobs n) h8).trans (Bench.job_updJob h3))
  exact ⟨_, pages, _, j', hb, hj', hf⟩

theorem execJobBind_unbound (he : engineOn s = true) (hj : getJob s n = some j) (hb : j.isBound = false) :
    Gives (.jobBind n) s (bindJob s n) := by
  refine congrArg Host.Outcome.next ?_
  rw [if_neg (by simp [he]), hj]
  exact if_neg (by simp [hb])

/-- A job of a row plan ends at its binding where the commons holds no model (R164). -/
theorem bindJob_noModel (hj : getJob s n = some j) (ha : jobAlm s j = some a) (hb : j.isBound = false) (hf : j.finished = false)
    (hr : runningJobs s < 1024) (hp : a.plan ≠ none) (hm : getF s Reg.COMMONS_STAT Fld.COMMONS_STAT_model ≠ 2) :
    bindJob s n = endJob s n stRejected 0x18 := by
  unfold bindJob
  rw [hj]
  dsimp only
  rw [ha]
  dsimp only
  rw [if_neg (by simp [hb, hf, hr]), if_pos ⟨Option.isSome_iff_ne_none.mpr hp, hm⟩]

theorem bindJob_unbindable (hj : getJob s n = some j) (ha : jobAlm s j = some a) (hb : j.isBound = false) (hf : j.finished = false)
    (hr : runningJobs s < 1024) (hp : a.plan = none ∨ getF s Reg.COMMONS_STAT Fld.COMMONS_STAT_model = 2)
    (hc : couldBind s a j.cls = false) : bindJob s n = endUnbindable s n := by
  unfold bindJob
  rw [hj]
  dsimp only
  rw [ha]
  dsimp only
  rw [if_neg (by simp [hb, hf, hr]), if_neg (by rcases hp with hp | hp <;> simp [hp]), if_pos (by simp [hc])]

/-- A job that no plan could serve ends, and the validator tells why. -/
theorem endUnbindable_shows (hj : getJob s n = some j) (hk : j.kind ≠ 1) : getJob (endUnbindable s n) n = none ∧
    getF (endUnbindable s n) Reg.VAL_LAST Fld.VAL_LAST_code = 0x14 := by
  have e : endUnbindable s n = endJob (recordReject s 0x14 0 7 j.handle j.partition) n stRejected 0x14 := by
    unfold endUnbindable
    rw [hj]
  have hj' : getJob (recordReject s 0x14 0 7 j.handle j.partition) n = some j := hj
  rw [e]
  refine ⟨getJob_endJob hj' hk _ _, ?_⟩
  rw [getF, regGet_of_hub (s := recordReject s 0x14 0 7 j.handle j.partition) (by rw [floor_endJob]) (by decide),
    recordReject, show ∀ u : State, bump u Reg.VAL_REJECTS 1 = setReg u Reg.VAL_REJECTS _ from fun _ => rfl,
    regGet_setReg_ne _ (by decide), regGet_setReg_ne _ (by decide), regGet_setReg, if_pos rfl]
  decide

/-- A job that reads no table is bound to its plan. -/
theorem bindJob_binds (hj : getJob s n = some j) (ha : jobAlm s j = some a) (hb : j.isBound = false) (hf : j.finished = false)
    (hr : runningJobs s < 1024) (hp : a.plan = none ∨ getF s Reg.COMMONS_STAT Fld.COMMONS_STAT_model = 2)
    (hc : couldBind s a j.cls = true) (ht : almTables a = []) (hpl : planJob s a j.cls false = some pl)
    (hrg : planRangers s a ((List.range a.nGlade).map fun g => (aGetD pl.glades g (0, 0)).1) [] (List.range a.nRanger) [] [] =
      some (rs, bs)) (hpg : (takeJobPages j.partition (jobStands s (boundJob s.tb a pl rs bs j)) (pagesFor (stackNeed a)) 0 s).isSome = true) :
    ∃ pages regions tables j', getJob (bindJob s n) n = some j' ∧
      fixedJob j' = fixedJob { boundJob s.tb a pl rs bs { j with tables := tables } with pages := pages, regions := regions } := by
  have hs1 : ∀ u : State, pinTables u n a j.partition = u := fun u => by
    unfold pinTables
    rw [ht]
    rfl
  have hfree : scatterFree s a j.partition = true := by
    unfold scatterFree
    rw [ht]
    rfl
  have hpg' : (takeJobPages j.partition (jobStands { s with jobs := aPut s.jobs n { j with tables := jobPins s a j.partition } }
      (boundJob s.tb a pl rs bs { j with tables := jobPins s a j.partition })) (pagesFor (stackNeed a)) 0
      { s with jobs := aPut s.jobs n { j with tables := jobPins s a j.partition } }).isSome = true := by
    rw [takeJobPages_jobs, Option.isSome_map]
    exact hpg
  obtain ⟨t, pages, regions, j', hst, hj', hfix⟩ := startJob_job (n := n) (j := { j with tables := jobPins s a j.partition }) hpg'
  refine ⟨pages, regions, _, j', ?_, hfix⟩
  rw [← hj']
  congr 1
  unfold bindJob
  rw [hj]
  dsimp only
  rw [ha]
  dsimp only
  rw [if_neg (by simp [hb, hf, hr]), if_neg (by rcases hp with hp | hp <;> simp [hp]), if_neg (by simp [hc]),
    if_neg (by simp [hfree]), hpl]
  dsimp only
  rw [hrg]
  dsimp only
  rw [hs1, hst]

end

end Sys2Proof.Machine

namespace Sys2Proof.Machine

section
variable {s : State} {a : Alm} {j : Job} {n : Nat}

/-! ## The clauses of R144 to R164 in the terms of their statement -/

theorem execDayCommit_done (hj : getJob s n = some j) (ha : jobAlm s j = some a) (he : engineOn s = true) (hd : dayDone s n j = true) :
    Gives (.dayCommit n) s (commitDay s n j a) := by
  refine congrArg Host.Outcome.next ?_
  rw [hj]
  dsimp only
  rw [ha]
  exact if_pos (by simp [he, hd])

theorem commitDay_next_shows (hj : getJob s n = some j) (ha : jobAlm s j = some a) (ht : j.tables = []) (hl : j.day + 1 < a.days.length) :
    ∃ j', getJob (commitDay s n j a) n = some j' ∧ j'.day = j.day + 1 ∧
      j'.toks = initToks a ∧ j'.staging = [] ∧ j'.faultRestarts = 0 ∧ j'.dayStart = s.tb ∧
      j'.cals = (j.cals.map fun r => { CalRun.start (r.pc + 1) with draw := none }) ∧
      (a.plan = none → j'.work = [] ∧ j'.held = [] ∧ (aSorted j.work = true →
        ∀ pg p, aGet? j.work pg = some p → pg < 2 ^ 32 → pg < j.pages.length → j'.pages[pg]? = some p)) := by
  obtain ⟨-, o, live, j', hj', hfix, hno⟩ := commitDay_next hj ha ht hl
  refine ⟨j', hj', (congrArg Job.day hfix :), (congrArg Job.toks hfix :), (congrArg Job.staging hfix :),
    (congrArg Job.faultRestarts hfix :), (congrArg Job.dayStart hfix :), (congrArg Job.cals hfix :), fun hp => ?_⟩
  rw [hno hp]
  exact ⟨rfl, rfl, fun hs pg p hg h32 hlen => swapped_get hs hg h32 hlen⟩

theorem dayFault_redawns_shows {cause : DayFault} (hj : getJob s n = some j) (ha : jobAlm s j = some a) (hb : j.isBound = true)
    (hf : j.finished = false) (h : ¬ faultAgain cause j) : ∃ j', getJob (dayFault s n cause) n = some j' ∧ j'.day = j.day ∧
      j'.toks = initToks a ∧ j'.staging = [] ∧ j'.cals = (j.cals.map fun r => CalRun.start r.dawn) ∧
      (a.plan = none → j'.work = [] ∧ j'.held = []) ∧
      (regGet (dayFault s n cause) Reg.DSP_RESTARTS).toNat = min ((regGet s Reg.DSP_RESTARTS).toNat + 1) 0xFFFFFFFF := by
  obtain ⟨j', hj', hfix, hno⟩ := dayFault_redawns hj ha hb hf h
  obtain ⟨hday, hcals⟩ := redawned_noteFault (a := a) (j := j) (cause := cause) s.tb
  exact ⟨j', hj', (congrArg Job.day hfix).trans hday, (congrArg Job.toks hfix :), (congrArg Job.staging hfix :),
    (congrArg Job.cals hfix).trans hcals, hno, dayFault_counts hj ha hb hf h⟩

/-- A fill that completes, in the terms of the calendars that wait for it. -/
theorem fillWaits_goes_shows {b : Nat} (hj : getJob s n = some j) (ha : jobAlm s j = some a) (hf : (stagingOf j b).fill = .full)
    (hw : ∀ i r w, j.cals[i]? = some r → waitOn a b i r = some w → w.tag = (stagingOf j b).tag) :
    onlyTraced n s (fillWaits s n b) ∧ ∃ j', getJob (fillWaits s n b) n = some j' ∧ j' = { j with cals := j'.cals } ∧
      ∀ i r, j.cals[i]? = some r → ((∃ w, waitOn a b i r = some w) → j'.cals[i]? = some (pastEntry r)) ∧
        ((¬ ∃ w, waitOn a b i r = some w) → j'.cals[i]? = some r) := by
  obtain ⟨ho, j', hj', he, hm⟩ := fillWaits_goes hj ha hf hw
  refine ⟨ho, j', hj', he, fun i r hr => ?_⟩
  have hi : i < j.cals.length := (List.getElem?_eq_some_iff.mp hr).1
  rw [hm i r hr]
  refine ⟨fun h => ?_, fun h => ?_⟩
  · rw [metRun, if_pos ⟨hi, Option.isSome_iff_exists.mpr h⟩]
  · rw [metRun, if_neg fun hc => h (Option.isSome_iff_exists.mp hc.2)]

end

/-- Settles O58: the entries of a calendar by what their job becomes (goesTo), fills, faults and commits over the bench,
which the ends and restarts of jobs keep. -/
theorem calendarEntries : Obligations.CalendarEntries := by
  unfold Obligations.CalendarEntries
  refine ⟨fun s u x => ⟨fun h => ⟨fun ⟨hu, hf, hc⟩ => ?_, fun hw => ?_⟩, fun h hu => ⟨fun hn => ?_, fun hn hh => ?_⟩,
      fun w h hu hw => ⟨fun hs => ?_, fun hs hh => ?_⟩, fun h hu => ⟨fun hf => ?_, fun hf hh => ?_⟩, fun h hu hh => ?_,
      fun since h hh => ⟨fun hl => ?_, fun hl => ?_⟩⟩,
    fun s n b j a hj ha => ⟨fun hf => ?_, fun hf hw => ?_, fun hf hk ⟨i, r, w, ⟨hr, hh, hc⟩, hne⟩ => ?_⟩,
    fun s n j a hj ha he => ⟨fun hb hf cause => ⟨fun hg => ?_, fun hg hk => ?_⟩,
      fun hb hy retrying => ⟨fun hf hk => ?_, fun k g hf hk hg hp => ?_⟩,
      fun hd ht => ⟨fun hl => ?_, fun hl hp ho => ?_⟩,
      fun hb hf hr => ⟨fun hp hm hk => ?_, fun hp => ⟨fun hc hk => ?_, fun pl rs bs hc ht hpl hrg hpg => ?_⟩⟩⟩⟩
  · exact Gives.runs rfl (put_goes h hu hf hc)
  · exact congrArg Host.Outcome.next (put_waits h hw)
  · exact Gives.runs rfl (take_goes h hu hn)
  · exact Gives.runs rfl (take_halts h hu hn hh)
  · exact Gives.runs rfl (wait_goes h hu hw hs)
  · exact Gives.runs rfl (wait_halts h hu hw hs hh)
  · exact Gives.runs rfl (fence_goes h hu hf)
  · exact Gives.runs rfl (fence_halts h hu hf hh)
  · exact Gives.runs rfl (day_halts h hu hh)
  · exact congrArg Host.Outcome.next (waitLate_again h hh hl)
  · exact Gives.runs rfl (waitLate_posts h hh hl)
  · exact congrArg Host.Outcome.next (fillWaits_unfilled hj ha hf)
  · refine Gives.runs rfl ?_
    obtain ⟨ho, j', hj', he, hm⟩ := fillWaits_goes_shows hj ha hf fun i r w hr ho => hw i r w ⟨hr, waitOn_some.mp ho⟩
    refine ⟨ho, j', hj', he, fun i r hr => ⟨fun ⟨w, _, hw⟩ => ?_, fun h => ?_⟩⟩
    · exact (hm i r hr).1 ⟨w, waitOn_some.mpr hw⟩
    · exact (hm i r hr).2 fun ⟨w, hw⟩ => h ⟨w, hr, waitOn_some.mp hw⟩
  · exact Gives.runs rfl (fillWaits_ends hj ha hf hk hr (waitOn_some.mpr ⟨hh, hc⟩) hne)
  · exact (dayFaultRestart_effect he).runs (dayFault_redawns_shows hj ha hb hf hg)
  · obtain ⟨st, hst⟩ := dayFault_ends hj hb hf hg
    exact (dayFaultRestart_effect he).runs (by rw [hst]; exact getJob_endJob hj hk _ _)
  · obtain ⟨sel, hgives⟩ := dayLimitExpiry_unfinished hj he hb hy hf retrying
    exact hgives.runs (dayLimit_ends hj hk sel _)
  · obtain ⟨st, hgives⟩ := dayLimitExpiry_gang hj he hb hy hf hk hg hp retrying
    exact hgives.runs (gangs_endGang ..)
  · exact (execDayCommit_done hj ha he hd).runs ⟨(commitDay_next hj ha ht hl).1, commitDay_next_shows hj ha ht hl⟩
  · exact (execDayCommit_done hj ha he hd).runs (commitDay_last hj ht hp hl ho)
  · exact (execJobBind_unbound he hj hb).runs
      (by rw [bindJob_noModel hj ha hb hf hr hp hm]; exact getJob_endJob hj hk _ _)
  · exact (execJobBind_unbound he hj hb).runs (by rw [bindJob_unbindable hj ha hb hf hr hp hc]; exact endUnbindable_shows hj hk)
  · obtain ⟨pages, regions, tables, j', hj', hfix⟩ := bindJob_binds hj ha hb hf hr hp hc ht hpl hrg hpg
    exact (execJobBind_unbound he hj hb).runs ⟨j', hj', (congrArg Job.isBound hfix :), (congrArg Job.day hfix :),
      (congrArg Job.glades hfix :), (congrArg Job.rangers hfix :), (congrArg Job.copses hfix :), (congrArg Job.toks hfix :),
      (congrArg Job.staging hfix :), (congrArg Job.cals hfix :)⟩

end Sys2Proof.Machine

namespace Sys2Proof.Machine

/-! # Copses: contexts, passes and harvests enter (R84 to R101, R110) -/

/-- The pages of copses lie in the upper half of a 64 KiB page of their glade. -/
theorem copsePage_mod (k : Nat) {n : Nat} (h : n < 0x2000) : 0x8000 ≤ (copsePage k + n) % 0x10000 := by
  unfold copsePage gladePage standBase
  omega

theorem gladePage_mod (g : Nat) : gladePage g % 0x10000 = 0 := by
  unfold gladePage standBase
  omega

section
variable {s t v : State} {u : UnitRef} {x : Issue} {j : Job} {a : Alm} {r : CalRun} {n k : Nat}

theorem getCopse_updCopse (s : State) (k : Nat) (f : Copse → Copse) (i : Nat) :
    getCopse (updCopse s k f) i = if i = k then f (getCopse s k) else getCopse s i := aGetD_aPut ..

theorem getCopse_updCopse_self (s : State) (k : Nat) (f : Copse → Copse) : getCopse (updCopse s k f) k = f (getCopse s k) := by
  rw [getCopse_updCopse, if_pos rfl]

/-- Every copse but k is as it was. -/
def otherCopses (k : Nat) (s t : State) : Prop := ∀ i, i ≠ k → getCopse t i = getCopse s i

theorem otherCopses_updCopse (s : State) (k : Nat) (f : Copse → Copse) : otherCopses k s (updCopse s k f) := fun i hi => by
  rw [getCopse_updCopse, if_neg hi]

theorem getCopse_congr (h : t.copses = s.copses) (k : Nat) : getCopse t k = getCopse s k := by
  rw [getCopse, getCopse, h]

/-- t differs from s in the banks in retention, and in registers of glades, at most. -/
def onlyWakes (s t : State) : Prop :=
  t = { s with glades := t.glades, regs := t.regs } ∧ ∀ b, b % 0x10000 ≠ Reg.GLADE_RET_WAKES → regGet t b = regGet s b

theorem onlyWakes.refl (s : State) : onlyWakes s s := ⟨rfl, fun _ _ => rfl⟩

theorem onlyWakes.trans (h : onlyWakes s t) (h' : onlyWakes t v) : onlyWakes s v := by
  refine ⟨?_, fun b hb => (h'.2 b hb).trans (h.2 b hb)⟩
  rw [h'.1, h.1]

theorem onlyWakes_touchBuf (s : State) (n bn o len : Nat) (a : Alm) : onlyWakes s (touchBuf s n bn o len a) := by
  unfold touchBuf
  split
  · dsimp only
    split
    · exact .refl s
    · refine ⟨rfl, fun b hb => regGet_setReg_ne _ fun e => hb ?_⟩
      have := gladePage_mod (banksOf s n ‹_› ‹_› o len).1
      rw [e, Nat.add_mod, this]
      decide
  · exact .refl s

theorem onlyWakes.jobs (h : onlyWakes s t) : t.jobs = s.jobs := by rw [h.1]

theorem onlyWakes.getJob (h : onlyWakes s t) (n : Nat) : getJob t n = getJob s n := congrArg (aGet? · n) h.jobs

theorem onlyWakes.getCopse (h : onlyWakes s t) (k : Nat) : getCopse t k = getCopse s k := getCopse_congr (by rw [h.1]) k

theorem onlyWakes.mem (h : onlyWakes s t) : t.mem = s.mem := by rw [h.1]

/-- A copse's registers are no glade's. -/
theorem onlyWakes.regGet_copse (h : onlyWakes s t) (k : Nat) {n : Nat} (hn : n < 0x2000) :
    regGet t (copsePage k + n) = regGet s (copsePage k + n) :=
  h.2 _ fun e => by
    have := copsePage_mod k hn
    rw [e] at this
    exact absurd this (by decide)

theorem onlyTrace.mem (h : onlyTrace s t) : t.mem = s.mem := by rw [h.1]

/-! ## CTX (R90, R91, R95 to R97) -/

theorem issueCtx_eq {img : List Byte} (h : issueOf s u 2 = some x) (hk : x.job.copseOf x.cal.index = k) (hm : mayRun (getCopse s k) u.job = true)
    (hi : ctxImage s u.job x.job x.alm x.entry = some (img, false)) : issueCtx s u =
      match placeCtx (getCopse s k) u.job (mkCtx x.run.pc x.entry img) with
      | none => s
      | some c => stepCal (traceWhole (updCopse (touchBuf s u.job (fld x.entry 63 52) (64 * fld x.entry 51 32)
          (imageBytes (fld x.entry 107 106)) x.alm) k fun _ => c) u x.run.pc) u := by
  unfold issueCtx
  rw [h]
  dsimp only
  rw [hk]
  rw [if_neg (by simp [hm]), hi]
  exact if_neg (by simp)

/-- A context with a place goes there, and its calendar goes on. -/
theorem ctx_puts {img : List Byte} {d : Copse} (h : issueOf s u 2 = some x) (hk : x.job.copseOf x.cal.index = k)
    (hm : mayRun (getCopse s k) u.job = true) (hi : ctxImage s u.job x.job x.alm x.entry = some (img, false))
    (hp : placeCtx (getCopse s k) u.job (mkCtx x.run.pc x.entry img) = some d) :
    getCopse (issueCtx s u) k = d ∧ otherCopses k s (issueCtx s u) ∧
      getJob (issueCtx s u) u.job = some (withRun x.job u (pastEntry x.run)) ∧ otherJobs u.job s (issueCtx s u) ∧
      (issueCtx s u).mem = s.mem := by
  obtain ⟨hj, -, hr, -⟩ := issueOf_some h
  rw [issueCtx_eq h hk hm hi, hp]
  dsimp only
  generalize hw : touchBuf s u.job _ _ _ x.alm = w
  have hw : onlyWakes s w := hw ▸ onlyWakes_touchBuf ..
  have ht := onlyTrace_traceWhole (updCopse w k fun _ => d) u x.run.pc
  have hj' : getJob (traceWhole (updCopse w k fun _ => d) u x.run.pc) u.job = some x.job :=
    (ht.getJob _).trans ((hw.getJob _).trans hj)
  refine ⟨?_, fun i hi => ?_, getJob_updCal hj' hr _, fun n hn => ?_, ht.mem.trans hw.mem⟩
  · exact (getCopse_congr ht.copses _).trans (getCopse_updCopse_self ..)
  · exact (getCopse_congr ht.copses i).trans ((otherCopses_updCopse w _ _ i hi).trans (hw.getCopse i))
  · exact (otherJobs_updJob _ n hn).trans ((ht.getJob n).trans (hw.getJob n))

theorem ctx_waits {img : List Byte} (h : issueOf s u 2 = some x) (hk : x.job.copseOf x.cal.index = k)
    (hm : mayRun (getCopse s k) u.job = true) (hi : ctxImage s u.job x.job x.alm x.entry = some (img, false))
    (hp : placeCtx (getCopse s k) u.job (mkCtx x.run.pc x.entry img) = none) : issueCtx s u = s := by
  rw [issueCtx_eq h hk hm hi, hp]

/-- The place of a context that begins or stands alone, by the copse's slots (R91, R95). -/
theorem placeCtx_first {c : Copse} {z : Ctx} (hz : z.dwellLen = 0 ∨ z.dwellPos = 0) : placeCtx c n z =
    if isBorrower c n then
      if c.slotA.isSome ∧ c.slotB.isSome then none else some { c with slotBorrower := some z, memberCtx := none }
    else if c.slotA.isNone then some { c with slotA := some z, activeB := false, memberCtx := none }
    else if c.slotB.isNone then some { c with slotB := some z, activeB := true, memberCtx := none }
    else none := if_neg (by omega)

theorem placeCtx_full {c : Copse} {z : Ctx} (hz : z.dwellLen = 0 ∨ z.dwellPos = 0) (ha : c.slotA ≠ none) (hb : c.slotB ≠ none) :
    placeCtx c n z = none := by
  have ha' : c.slotA.isSome = true := Option.isSome_iff_ne_none.mpr ha
  have hb' : c.slotB.isSome = true := Option.isSome_iff_ne_none.mpr hb
  rw [placeCtx_first hz]
  split
  · exact if_pos ⟨ha', hb'⟩
  · rw [if_neg (by simp [ha]), if_neg (by simp [hb])]

/-! ## PASS (R85 to R89, R110) -/

/-- A copse that a job's pass entered. -/
def passed (c : Copse) (n : Nat) (p : PassRun) (ring part : Nat) : Copse :=
  { clearNans c n with memberCtx := (clearNans c n).memberCtx.map fun z => { z with nans := 0 }
                       pass := some p, ringOwner := aPut (clearNans c n).ringOwner ring part }

theorem clearNans_rings (c : Copse) (n : Nat) : (clearNans c n).rings = c.rings := by
  unfold clearNans
  split
  · rfl
  · split <;> rfl

theorem pass_enters {first : Ctx} (h : issueOf s u 1 = some x) (hk : x.job.copseOf x.cal.index = k) (hm : mayRun (getCopse s k) u.job = true)
    (hh : passesHeld s (k / 16) = false) (hf : activeCtx (getCopse s k) u.job = some first)
    (hb : bitOf (maskFor (getCopse s k) u.job) (fld x.entry 123 121) = true)
    (hv : (getCopse s k).harv = none) (hp : (getCopse s k).pass = none)
    {m : PassMember} (hmk : m = mkMember s u.job x.job x.alm x.run.pc x.entry
      ((getCopse s k).memberCtx.getD first))
    (hc : passClash s u.job x.job x.alm (getCopse s k) m = none) :
    issuePass s u = launchCal (traceEntry (updCopse s k fun c => passed c u.job
      ⟨u.job, u.cal, isBorrower (getCopse s k) u.job, [m], fld x.entry 119 104 + 1, first.dwellLen + 1, 0⟩
      (fld x.entry 123 121) x.job.partition) u x.run.pc 0) u := by
  subst hmk
  have hjoin : joinPass (getCopse s k) u (first.dwellLen + 1) (fld x.entry 119 104 + 1) =
      some ⟨u.job, u.cal, isBorrower (getCopse s k) u.job, [], fld x.entry 119 104 + 1,
        first.dwellLen + 1, 0⟩ := by
    unfold joinPass
    rw [if_neg (by simp [hv]), hp]
  unfold issuePass
  rw [h]
  dsimp only
  rw [hk]
  rw [if_neg (by simp [hm, hh]), if_neg (by simp [hb]), hf]
  dsimp only
  rw [hjoin]
  dsimp only
  rw [hc]
  rfl

theorem pass_shows {f : Copse → Copse} (hj : getJob s u.job = some x.job) (hr : x.job.cals[u.cal]? = some x.run)
    (ht : t = launchCal (traceEntry (updCopse s k f) u x.run.pc 0) u) : getCopse t k = f (getCopse s k) ∧ otherCopses k s t ∧
      onlyTraced u.job { s with copses := t.copses } t ∧ getJob t u.job = some (withRun x.job u (launched x.run)) := by
  have h := onlyTrace_traceEntry (updCopse s k f) u x.run.pc 0
  have hg : goesTo u.job (updCopse s k f) (updCopse s k f) x.job := ⟨.refl .., hj⟩
  obtain ⟨ho, hjob⟩ := (hg.trace h).updCal hr launched
  subst ht
  have hc : (launchCal (traceEntry (updCopse s k f) u x.run.pc 0) u).copses = (updCopse s k f).copses := h.copses
  refine ⟨(getCopse_congr hc k).trans (getCopse_updCopse_self ..), fun i hi => ?_, ?_, hjob⟩
  · exact (getCopse_congr hc i).trans (otherCopses_updCopse s k f i hi)
  · rw [hc]
    exact ho

theorem pass_waits {first : Ctx} (h : issueOf s u 1 = some x) (hk : x.job.copseOf x.cal.index = k) (hm : mayRun (getCopse s k) u.job = true)
    (hh : passesHeld s (k / 16) = false) (hf : activeCtx (getCopse s k) u.job = some first)
    (hb : bitOf (maskFor (getCopse s k) u.job) (fld x.entry 123 121) = true)
    (hv : (getCopse s k).harv ≠ none) : issuePass s u = s := by
  unfold issuePass
  rw [h]
  dsimp only
  rw [hk]
  rw [if_neg (by simp [hm, hh]), if_neg (by simp [hb]), hf]
  dsimp only
  rw [joinPass, if_pos (Option.isSome_iff_ne_none.mpr hv)]

/-- A pass into a ring that its binding may not use restarts the day, the first time (R110, R146). -/
theorem pass_faults (h : issueOf s u 1 = some x) (hk : x.job.copseOf x.cal.index = k) (hm : mayRun (getCopse s k) u.job = true)
    (hh : passesHeld s (k / 16) = false)
    (hb : bitOf (maskFor (getCopse s k) u.job) (fld x.entry 123 121) = false) (h0 : x.job.faultRestarts = 0) :
    ∃ j', getJob (issuePass s u) u.job = some j' ∧ j'.day = x.job.day ∧ j'.faultRestarts = 1 ∧
      j'.cals = x.job.cals.map fun r => CalRun.start r.dawn := by
  obtain ⟨hj, ha, -, hbd, hfin⟩ := issueOf_some h
  have e : issuePass s u = dayFault (post s (copsePage k) 0x0303 x.job.partition 0 0) u.job .ringOwnership := by
    unfold issuePass
    rw [h]
    dsimp only
    rw [hk]
    rw [if_neg (by simp [hm, hh]), if_pos (by simp [hb])]
    rfl
  have hj' : getJob (post s (copsePage k) 0x0303 x.job.partition 0 0) u.job = some x.job := hj
  obtain ⟨j', hj'', hfix, -⟩ := dayFault_redawns (cause := .ringOwnership) hj' ha hbd hfin (by simp [faultAgain, h0])
  rw [e]
  refine ⟨j', hj'', (congrArg Job.day hfix :), ?_, (congrArg Job.cals hfix :)⟩
  have hr : j'.faultRestarts = x.job.faultRestarts + 1 := (congrArg Job.faultRestarts hfix :)
  rw [hr, h0]

/-! ## HARV (R92, R93, R99 to R101) -/

@[simp] theorem still_writeHarvest {e : Nat} {rows : List (List Byte)} :
    (bench (writeHarvest s n a k e rows)).still = (bench s).still := by
  unfold writeHarvest
  dsimp only
  split
  · rfl
  · refine (still_foldl (fun _ _ => still_bufPut) _ _).trans ?_
    split
    · exact still_bufPut
    · rfl

/-- A harvest changes what its rings gave and what is free in its copse, and writes buffers. -/
theorem harvest_still (s : State) (n : Nat) (a : Alm) (k e : Nat) : ∃ free sets,
    (bench (harvest s n a k e).1).still = (bench (updCopse s k fun c => { c with free := free, sets := sets })).still ∧
      (harvest s n a k e).2 = compareHarv (getCopse s k) e := ⟨_, _, still_writeHarvest, rfl⟩

theorem harv_waits (h : issueOf s u 3 = some x) (hk : x.job.copseOf x.cal.index = k) (hb : (getCopse s k).pass ≠ none ∨
    (getCopse s k).harv ≠ none) : issueHarv s u = s := by
  unfold issueHarv
  rw [h]
  dsimp only
  rw [hk]
  exact if_pos (.inr (by simpa [Option.isSome_iff_ne_none] using hb))

theorem issueHarv_eq {b : BufDef} (h : issueOf s u 3 = some x) (hk : x.job.copseOf x.cal.index = k)
    (hm : mayRun (getCopse s k) u.job = true) (hp : (getCopse s k).pass = none) (hv : (getCopse s k).harv = none)
    (hr : ∀ r ∈ harvRings x.entry, bitOf (maskFor (getCopse s k) u.job) r = true)
    (hc : harvClash x.alm (getCopse s k) x.entry = none) (hb : bufOf x.alm (fld x.entry 111 100) = some b)
    (hs : hardStop s x.job b (64 * fld x.entry 99 80) (255 * (64 * fld x.entry 79 64) + harvRowBytes x.entry) = none) :
    ∃ w, onlyWakes s w ∧ issueHarv s u = launchCal (traceEntry (updCopse (harvest w u.job x.alm k x.entry).1 k fun c =>
      { c with harv := some ⟨u.job, u.cal, x.run.pc, isBorrower (getCopse s k) u.job, 0, (harvest w u.job x.alm k x.entry).2, false⟩ })
      u x.run.pc 0) u := by
  refine ⟨_, onlyWakes_touchBuf s u.job (fld x.entry 111 100) (64 * fld x.entry 99 80)
    (255 * (64 * fld x.entry 79 64) + harvRowBytes x.entry) x.alm, ?_⟩
  unfold issueHarv
  rw [h]
  dsimp only
  rw [hk, if_neg (by simp [hm, hp, hv]), if_neg (by simpa using hr), hc]
  dsimp only
  rw [hb]
  dsimp only
  rw [hs]

theorem harv_leaves {b : BufDef} (h : issueOf s u 3 = some x) (hk : x.job.copseOf x.cal.index = k)
    (hm : mayRun (getCopse s k) u.job = true) (hp : (getCopse s k).pass = none) (hv : (getCopse s k).harv = none)
    (hr : ∀ r ∈ harvRings x.entry, bitOf (maskFor (getCopse s k) u.job) r = true)
    (hc : harvClash x.alm (getCopse s k) x.entry = none) (hb : bufOf x.alm (fld x.entry 111 100) = some b)
    (hs : hardStop s x.job b (64 * fld x.entry 99 80) (255 * (64 * fld x.entry 79 64) + harvRowBytes x.entry) = none) :
    (getCopse (issueHarv s u) k).harv = some ⟨u.job, u.cal, x.run.pc, isBorrower (getCopse s k) u.job, 0,
        compareHarv (getCopse s k) x.entry, false⟩ ∧
      (getCopse (issueHarv s u) k).rings = (getCopse s k).rings ∧ otherCopses k s (issueHarv s u) ∧
      ∃ j', getJob (issueHarv s u) u.job = some j' ∧ j'.cals = x.job.cals.set u.cal (launched x.run) := by
  obtain ⟨hj, -, hrun, -⟩ := issueOf_some h
  obtain ⟨w, hw, e⟩ := issueHarv_eq h hk hm hp hv hr hc hb hs
  obtain ⟨free, sets, hstill, hcmp⟩ := harvest_still w u.job x.alm k x.entry
  rw [hcmp] at e
  generalize (harvest w u.job x.alm k x.entry).1 = v at e hstill
  have hvk : ∀ i, getCopse v i = if i = k then { getCopse s k with free := free, sets := sets } else getCopse s i := fun i => by
    rw [getCopse_congr (copses_of_still hstill), getCopse_updCopse, hw.getCopse, hw.getCopse]
  obtain ⟨j', hj', hfix⟩ := job_of_still (n := u.job) hstill ((hw.getJob _).trans hj)
  have hcals : j'.cals = x.job.cals := (congrArg Job.cals hfix :)
  obtain ⟨hck, hothers, -, hjob⟩ := pass_shows (x := { x with job := j' }) hj' (by rw [hcals]; exact hrun) e
  rw [hck, hvk, if_pos rfl, hw.getCopse]
  refine ⟨rfl, rfl, fun i hi => ?_, _, hjob, congrArg (·.set u.cal (launched x.run)) hcals⟩
  rw [hothers i hi, hvk, if_neg hi]

end

end Sys2Proof.Machine

namespace Sys2Proof.Machine

section
variable {s t v : State} {u : UnitRef} {j : Job} {a : Alm} {c : Copse} {r : CalRun} {n k : Nat}

/-! # Copses: a step (R84, R87) -/

/-! ## The arithmetic does not touch the count of steps of a window -/

@[simp] theorem winSteps_cellAdd {key : Nat} {d : Int} : (cellAdd c key d).winSteps = c.winSteps := by
  unfold cellAdd
  split
  · rfl
  · dsimp only
    split <;> rfl

theorem winSteps_foldl {β : Type} {g : Copse → β → Copse} (hg : ∀ c x, (g c x).winSteps = c.winSteps) (l : List β) (c : Copse) :
    (l.foldl g c).winSteps = c.winSteps :=
  foldl_keeps (fun d => d.winSteps = c.winSteps) g (fun _ x h => (hg _ x).trans h) l c rfl

@[simp] theorem winSteps_stepMultiply {ring : Nat} {w x : List Int} : (stepMultiply c ring w x).winSteps = c.winSteps :=
  winSteps_foldl (fun _ _ => winSteps_foldl (fun _ _ => winSteps_cellAdd) _ _) _ _

@[simp] theorem winSteps_stepLookup {ring : Nat} {l : List (List Int)} {codes : List Nat} :
    (stepLookup c ring l codes).winSteps = c.winSteps :=
  winSteps_foldl (fun _ _ => winSteps_foldl (fun _ _ => winSteps_cellAdd) _ _) _ _

@[simp] theorem winSteps_chargeRing {ring edge lut nan : Nat} : (chargeRing c ring edge lut nan).winSteps = c.winSteps := by rfl

@[simp] theorem winSteps_stepMember {lseed : Nat → DWord} {first : Ctx} {m : PassMember} {w x : List Byte} {i : Nat}
    {write builds : Bool} : (stepMember lseed first m w x i write builds c).winSteps = c.winSteps := by
  unfold stepMember
  split
  · rfl
  · dsimp only
    split
    · simp
    · split <;> simp

@[simp] theorem winSteps_loadRing {img : Bytes} {ring : Nat} : (loadRing img ring c).winSteps = c.winSteps := by
  unfold loadRing
  refine winSteps_foldl (fun c i => ?_) _ _
  dsimp only

@[simp] theorem winSteps_startPass {img : Bytes} {m : PassMember} : (startPass img m c).winSteps = c.winSteps := by
  unfold startPass
  dsimp only
  split
  · rfl
  · split
    · rw [winSteps_loadRing]
    · rfl

@[simp] theorem winSteps_memberStep {first : Ctx} {m : PassMember} {i : Nat} {builds : Bool} {lseed : Nat → DWord} :
    (memberStep s n j a first m i builds lseed c).winSteps = c.winSteps := by
  unfold memberStep
  dsimp only
  rw [winSteps_stepMember]
  split
  · exact winSteps_startPass
  · rfl

/-! ## Registers -/

theorem regGet_bump_ne {b i m : Nat} (h : b ≠ i) : regGet (bump s i m) b = regGet s b := regGet_setReg_ne _ h

theorem regGet_bumpPair_ne {b i m : Nat} (h : b ≠ i) (h' : b ≠ i + 4) : regGet (bumpPair s i m) b = regGet s b :=
  (regGet_setReg_ne _ h').trans (regGet_setReg_ne _ h)

theorem regGet_setF_ne {b i m : Nat} {f : BitField} (h : b ≠ i) : regGet (setF s i f m) b = regGet s b := regGet_setReg_ne _ h

theorem regGet_updCopse (s : State) (k : Nat) (f : Copse → Copse) (b : Nat) : regGet (updCopse s k f) b = regGet s b := rfl

theorem getPair_updCopse (s : State) (k : Nat) (f : Copse → Copse) (lo : Nat) : getPair (updCopse s k f) lo = getPair s lo := rfl

theorem copses_bumpPair (s : State) (lo m : Nat) : (bumpPair s lo m).copses = s.copses := rfl

/-- A register of a copse's second page, by its place from the first. -/
theorem copsePage1_add (k n : Nat) : copsePage1 k + n = copsePage k + (0x1000 + n) := Nat.add_assoc ..

/-! ## Entries that complete (R85) -/

theorem getJob_landCal (hj : getJob s u.job = some j) (e : Nat) : ∃ j', getJob (landCal s u e) u.job = some j' ∧
    ∀ run', j'.cals[u.cal]? = some run' → ∃ run, j.cals[u.cal]? = some run ∧ run'.inFlight = run.inFlight.filter (· != e) := by
  refine ⟨_, getJob_updJob_self hj, fun run' h => ?_⟩
  rcases hr : j.cals[u.cal]? with _ | run
  · simp only [hr, reduceCtorEq] at h
  · refine ⟨run, rfl, ?_⟩
    have hl : u.cal < j.cals.length := (List.getElem?_eq_some_iff.mp hr).1
    simp only [hr, List.getElem?_set_self hl, Option.some.injEq] at h
    exact h ▸ rfl

/-- The entries of a pass's members are complete: none is in flight. -/
def landAll (s : State) (u : UnitRef) (l : List PassMember) : State :=
  l.foldl (fun s m => landCal (traceEntry s u m.entry 1) u m.entry) s

theorem landAll_lands (l : List PassMember) (hj : getJob s u.job = some j) :
    onlyTraced u.job s (landAll s u l) ∧ regsBut [Reg.TRC_LOST] s (landAll s u l) ∧
      ∃ j', getJob (landAll s u l) u.job = some j' ∧ ∀ run', j'.cals[u.cal]? = some run' → ∃ run, j.cals[u.cal]? = some run ∧
        run'.inFlight ⊆ run.inFlight ∧ ∀ y ∈ l, y.entry ∉ run'.inFlight := by
  induction l generalizing s j with
  | nil => exact ⟨.refl .., fun _ _ => rfl, j, hj, fun run h => ⟨run, h, fun _ h => h, by simp⟩⟩
  | cons m l ih =>
    have ht := onlyTrace_traceEntry s u m.entry 1
    obtain ⟨j1, hj1, h1⟩ := getJob_landCal ((ht.getJob _).trans hj) m.entry
    obtain ⟨ho, hregs, j', hj', hland⟩ := ih hj1
    refine ⟨((ht.traced _).updCal _).trans ho, ht.2.trans hregs, j', hj', fun run' h => ?_⟩
    obtain ⟨run1, hr1, hsub, hnot⟩ := hland run' h
    obtain ⟨run, hr, he⟩ := h1 run1 hr1
    rw [he] at hsub
    refine ⟨run, hr, fun e h => List.mem_of_mem_filter (hsub h), fun y hy => ?_⟩
    rcases List.mem_cons.mp hy with rfl | hy
    · exact fun h => by simpa using hsub h
    · exact hnot y hy

/-- A copse whose pass ended: a borrower from which it was asked gives it back. -/
def freed (p : PassRun) (c : Copse) : Copse :=
  { c with pass := none, replays := 0, lent := if p.borrower ∧ c.yielding then false else c.lent
           yielding := if p.borrower then false else c.yielding }

theorem endPass_eq (s : State) (k : Nat) (p : PassRun) : endPass s k p =
    landAll (bumpWrap (updCopse s k (freed p)) (copsePage k + Reg.COPSE_PASSES) p.size) ⟨p.job, p.cal⟩ p.members := rfl

/-- The end of a pass: the copse is free, the set's passes are counted, their entries complete (R85, R87). -/
theorem endPass_ends {p : PassRun} (hj : getJob s p.job = some j) :
    (getCopse (endPass s k p) k).pass = none ∧ (getCopse (endPass s k p) k).rings = (getCopse s k).rings ∧
    (getCopse (endPass s k p) k).winSteps = (getCopse s k).winSteps ∧ (endPass s k p).mem = s.mem ∧
    regGet (endPass s k p) (copsePage k + Reg.COPSE_PASSES) = regGet s (copsePage k + Reg.COPSE_PASSES) + BitVec.ofNat 32 p.size ∧
    regsBut [copsePage k + Reg.COPSE_PASSES, Reg.TRC_LOST] s (endPass s k p) ∧
    ∃ j', getJob (endPass s k p) p.job = some j' ∧
      ∀ run, j'.cals[p.cal]? = some run → ∀ y ∈ p.members, y.entry ∉ run.inFlight := by
  rw [endPass_eq]
  generalize hv : bumpWrap _ _ p.size = v
  have hc : getCopse v k = freed p (getCopse s k) :=
    (getCopse_congr (congrArg State.copses hv).symm k).trans (getCopse_updCopse_self s k (freed p))
  have hj' : getJob v p.job = some j := hv ▸ hj
  have hregs : regsBut [copsePage k + Reg.COPSE_PASSES] s v := hv ▸ regsBut_setReg (updCopse s k _) _ (by simp)
  have hp : regGet v (copsePage k + Reg.COPSE_PASSES) = regGet s (copsePage k + Reg.COPSE_PASSES) + BitVec.ofNat 32 p.size :=
    hv ▸ (regGet_setReg ..).trans (if_pos rfl)
  have hm : v.mem = s.mem := hv ▸ rfl
  obtain ⟨ho, hl, jf, hjf, hland⟩ := landAll_lands (u := ⟨p.job, p.cal⟩) p.members hj'
  have hcop : getCopse (landAll v ⟨p.job, p.cal⟩ p.members) k = getCopse v k := getCopse_congr (by rw [ho.1]) k
  have hne : copsePage k + Reg.COPSE_PASSES ≠ Reg.TRC_LOST := by
    unfold copsePage gladePage standBase Reg.COPSE_PASSES Reg.TRC_LOST
    omega
  refine ⟨by rw [hcop, hc]; rfl, by rw [hcop, hc]; rfl, by rw [hcop, hc]; rfl, ?_, ?_, fun b hb => ?_, jf, hjf, fun run h => ?_⟩
  · rw [ho.1]
    exact hm
  · rw [hl _ (by simpa using hne), hp]
  · rw [hl b (by simp only [List.mem_cons, not_or] at hb ⊢; exact hb.2), hregs b (by simp only [List.mem_cons, not_or] at hb ⊢; exact ⟨hb.1, by simp⟩)]
  · obtain ⟨-, -, -, hnot⟩ := hland run h
    exact hnot

/-! ## A step -/

/-- A copse after a step of a pass: the member's arithmetic, the step counted. -/
def stepped (p : PassRun) (m0 : PassMember) (c : Copse) : Copse :=
  { c with pass := some { p with done := p.done + 1 }
           winSteps := c.winSteps + 1, winMult := c.winMult || m0.ctx.mode == 0
           winLookup := c.winLookup || m0.ctx.mode != 0
           winShort := c.winShort || (m0.ctx.mode == 2 && decide (p.size < 4)) }

theorem stepCopse_eq {p : PassRun} {m m0 : PassMember} (hp : (getCopse s k).pass = some p) (hj : getJob s p.job = some j)
    (ha : jobAlm s j = some a) (hm : p.members[p.done % p.size]? = some m) (h0 : p.members.head? = some m0)
    (hb : (stepBytes s p.job j a m m0.ctx.mode m0.ctx.afmt (p.done / p.size)).2.2 = false)
    (hi : getF s (copsePage1 k + Reg.COPSE_CHK_INJECT) Fld.COPSE_CHK_INJECT_arm = 0) :
    ∃ w, onlyWakes s w ∧ stepCopse s k = (fun v => if p.done + 1 = p.steps * p.size then endPass v k p else v)
      (updCopse (bumpPair (updCopse w k (memberStep s p.job j a m0.ctx m (p.done / p.size) (p.done % p.size == 0) (laneSeed s k)))
        (copsePage k + Reg.COPSE_STEPS_LO) 1) k (stepped p m0)) := by
  have hw := (onlyWakes_touchBuf s p.job m.wbuf (m.woff + p.done / p.size * weightBytes m0.ctx.mode) (weightBytes m0.ctx.mode) a).trans
    (onlyWakes_touchBuf _ p.job m.abuf (m.aoff + p.done / p.size * 128 * actBytes m0.ctx.afmt) (128 * actBytes m0.ctx.afmt) a)
  refine ⟨_, hw, ?_⟩
  unfold stepCopse
  dsimp only
  rw [hp]
  dsimp only
  rw [hj, hm, h0]
  dsimp only
  rw [ha]
  dsimp only
  rw [if_neg (by simp [hb])]
  generalize touchBuf _ p.job m.abuf _ _ a = w at hw
  have hinj : ∀ f, inject (updCopse w k f) k m.ring j.partition = updCopse w k f := fun f => by
    refine if_neg fun h => ?_
    have e : regGet (updCopse w k f) (copsePage1 k + Reg.COPSE_CHK_INJECT) = regGet s (copsePage1 k + Reg.COPSE_CHK_INJECT) := by
      rw [regGet_updCopse, copsePage1_add]
      exact hw.regGet_copse k (by decide)
    rw [getF, e] at h
    rw [getF] at hi
    rw [hi] at h
    exact absurd h.1 (by decide)
  rw [hinj]
  rfl

theorem stepCopse_idle (hp : (getCopse s k).pass = none) : stepCopse s k = s := by
  unfold stepCopse
  dsimp only
  rw [hp]

/-- What a step of the array shows (R84, R87). -/
theorem stepCopse_steps {p : PassRun} {m m0 : PassMember} (hp : (getCopse s k).pass = some p) (hj : getJob s p.job = some j)
    (ha : jobAlm s j = some a) (hm : p.members[p.done % p.size]? = some m) (h0 : p.members.head? = some m0)
    (hb : (stepBytes s p.job j a m m0.ctx.mode m0.ctx.afmt (p.done / p.size)).2.2 = false)
    (hi : getF s (copsePage1 k + Reg.COPSE_CHK_INJECT) Fld.COPSE_CHK_INJECT_arm = 0) :
    getPair (stepCopse s k) (copsePage k + Reg.COPSE_STEPS_LO) = (getPair s (copsePage k + Reg.COPSE_STEPS_LO) + 1) % 2 ^ 64 ∧
    (stepCopse s k).mem = s.mem ∧ (getCopse (stepCopse s k) k).winSteps = (getCopse s k).winSteps + 1 ∧
    (getCopse (stepCopse s k) k).rings = (memberStep s p.job j a m0.ctx m (p.done / p.size) (p.done % p.size == 0)
      (laneSeed s k) (getCopse s k)).rings ∧
    (p.done + 1 ≠ p.steps * p.size →
      (getCopse (stepCopse s k) k).pass = some { p with done := p.done + 1 } ∧ (stepCopse s k).jobs = s.jobs) ∧
    (p.done + 1 = p.steps * p.size → (getCopse (stepCopse s k) k).pass = none ∧
      regGet (stepCopse s k) (copsePage k + Reg.COPSE_PASSES) = regGet s (copsePage k + Reg.COPSE_PASSES) + BitVec.ofNat 32 p.size ∧
      ∃ j', getJob (stepCopse s k) p.job = some j' ∧
        ∀ run, j'.cals[p.cal]? = some run → ∀ y ∈ p.members, y.entry ∉ run.inFlight) := by
  obtain ⟨w, hw, e⟩ := stepCopse_eq hp hj ha hm h0 hb hi
  rw [e]
  generalize hv : updCopse (bumpPair _ _ 1) k (stepped p m0) = v
  have hc : getCopse v k = stepped p m0 (memberStep s p.job j a m0.ctx m (p.done / p.size) (p.done % p.size == 0) (laneSeed s k)
      (getCopse s k)) := by
    rw [← hv, getCopse_updCopse_self, ← hw.getCopse k]
    exact congrArg (stepped p m0) (getCopse_updCopse_self ..)
  have hwin : (getCopse v k).winSteps = (getCopse s k).winSteps + 1 := by
    rw [hc]
    exact congrArg (· + 1) winSteps_memberStep
  have hrings := congrArg Copse.rings hc
  have hjobs : v.jobs = s.jobs := (congrArg State.jobs hv).symm.trans hw.jobs
  have hmem : v.mem = s.mem := (congrArg State.mem hv).symm.trans hw.mem
  have hsteps : getPair v (copsePage k + Reg.COPSE_STEPS_LO) = (getPair s (copsePage k + Reg.COPSE_STEPS_LO) + 1) % 2 ^ 64 := by
    have hpair : getPair w (copsePage k + Reg.COPSE_STEPS_LO) = getPair s (copsePage k + Reg.COPSE_STEPS_LO) :=
      getPair_congr (hw.regGet_copse k (by decide)) (by rw [Nat.add_assoc]; exact hw.regGet_copse k (by decide))
    rw [← hv, getPair_updCopse, getPair_bumpPair, getPair_updCopse, hpair]
  have hpasses : regGet v (copsePage k + Reg.COPSE_PASSES) = regGet s (copsePage k + Reg.COPSE_PASSES) := by
    rw [← hv, regGet_updCopse, regGet_bumpPair_ne (by simp [Reg.COPSE_PASSES, Reg.COPSE_STEPS_LO])
      (by simp [Reg.COPSE_PASSES, Reg.COPSE_STEPS_LO, Nat.add_assoc]), regGet_updCopse]
    exact hw.regGet_copse k (by decide)
  clear e hv
  dsimp only
  by_cases hl : p.done + 1 = p.steps * p.size
  · obtain ⟨hp', hr', hw', hm', hcnt, hregs, hjob⟩ := endPass_ends (k := k) (p := p) ((congrArg (aGet? · p.job) hjobs).trans hj)
    have hother : ∀ n, n = Reg.COPSE_STEPS_LO ∨ n = Reg.COPSE_STEPS_LO + 4 →
        copsePage k + n ∉ [copsePage k + Reg.COPSE_PASSES, Reg.TRC_LOST] := fun n hn => by
      unfold copsePage gladePage standBase Reg.TRC_LOST Reg.COPSE_PASSES
      simp only [Reg.COPSE_STEPS_LO] at hn
      simp only [List.mem_cons, List.not_mem_nil, or_false]
      omega
    rw [if_pos hl]
    refine ⟨?_, hm'.trans hmem, hw'.trans hwin, hr'.trans hrings, fun h => absurd hl h, fun _ => ⟨hp', by rw [hcnt, hpasses], hjob⟩⟩
    rw [← hsteps]
    refine getPair_congr (hregs _ (hother _ (.inl rfl))) ?_
    rw [Nat.add_assoc]
    exact hregs _ (hother _ (.inr rfl))
  · rw [if_neg hl]
    exact ⟨hsteps, hmem, hwin, hrings, fun _ => ⟨by rw [hc]; rfl, hjobs⟩, fun h => absurd h hl⟩

/-! ## DAWN_RELEASE (R97, R99) -/

/-- A copse with both slots live without the context that was replaced. -/
def dropOld (c : Copse) : Copse := if c.activeB then { c with slotA := none } else { c with slotB := none }

theorem releaseSlot_eq {xa xb : Ctx} (ha : (getCopse s k).slotA = some xa) (hb : (getCopse s k).slotB = some xb)
    (hu : slotInUse (getCopse s k) (if (getCopse s k).activeB then xa else xb) = false) : releaseSlot s k =
      bumpPair (updCopse s k dropOld) (copsePage1 k + Reg.COPSE_SAT_TOTAL_LO) (if (getCopse s k).activeB then xa else xb).nans := by
  unfold releaseSlot
  dsimp only
  rw [ha, hb]
  exact if_neg (by simp [hu])

theorem onlyRegs.of_updCopse {f : Copse → Copse} (h : onlyRegs (updCopse s k f) t) :
    t = { s with copses := t.copses, regs := t.regs } := by
  obtain ⟨m, rfl⟩ := (onlyRegs_iff ..).mp h
  rfl

/-- A released slot, whichever pair of registers its count goes to. -/
theorem dropOld_shows (s : State) (k lo m : Nat) : bumpPair (updCopse s k dropOld) lo m = { s with
      copses := (bumpPair (updCopse s k dropOld) lo m).copses, regs := (bumpPair (updCopse s k dropOld) lo m).regs } ∧
    getCopse (bumpPair (updCopse s k dropOld) lo m) k = dropOld (getCopse s k) ∧
    getPair (bumpPair (updCopse s k dropOld) lo m) lo = (getPair s lo + m) % 2 ^ 64 :=
  ⟨(onlyRegs_setPair ..).of_updCopse, (getCopse_congr (copses_bumpPair ..) k).trans (getCopse_updCopse_self s k dropOld),
    by rw [getPair_bumpPair, getPair_updCopse]⟩

end

end Sys2Proof.Machine

namespace Sys2Proof.Machine

section
variable {s t v : State} {u : UnitRef} {j : Job} {a : Alm} {c : Copse} {h : HarvRun} {n k e : Nat}

/-! # Copses: harvests end (R76, R101, R104, R105, R107) -/

theorem pendingHarv_some (hp : pendingHarv s k = some (h, e)) : (getCopse s k).harv = some h ∧
    ∃ j a, getJob s h.job = some j ∧ jobAlm s j = some a := by
  unfold pendingHarv at hp
  split at hp
  · cases hp
  · rename_i h' hh
    split at hp
    · cases hp
    · rename_i j hj
      rw [Option.bind_eq_some_iff] at hp
      obtain ⟨a, ha, hp⟩ := hp
      rw [Option.map_eq_some_iff] at hp
      obtain ⟨cd, -, he⟩ := hp
      cases he
      exact ⟨hh, j, a, hj, ha⟩

/-! ## A comparison that holds -/

/-- The counts of a harvest shown: the snapshot, its number and tag, the total, the check that held. -/
def harvShown (s : State) (k e : Nat) : State :=
  let p1 := copsePage1 k
  let l := harvCounts (getCopse s k) e
  let put := fun (s : State) (a v : Nat) => setReg s (p1 + a) (BitVec.ofNat 32 v)
  let s1 := put (put (put (put (put s Reg.COPSE_SAT_EDGE (l.getD 0 0)) Reg.COPSE_SAT_LUT (l.getD 1 0)) Reg.COPSE_SAT_HARV (l.getD 2 0))
    Reg.COPSE_SAT_RING (l.getD 3 0)) Reg.COPSE_SAT_NAN (l.getD 4 0)
  let s2 := setF (setF s1 (p1 + Reg.COPSE_SAT_SEQ) Fld.COPSE_SAT_SEQ_seq (getF s1 (p1 + Reg.COPSE_SAT_SEQ) Fld.COPSE_SAT_SEQ_seq + 1))
    (p1 + Reg.COPSE_SAT_SEQ) Fld.COPSE_SAT_SEQ_ctx_tag (aGetD (getCopse s k).sets (fld e 123 121) ScaleSet.blank).tag
  bump (bumpPair s2 (p1 + Reg.COPSE_SAT_TOTAL_LO) l.sum) (p1 + Reg.COPSE_CHK_OK) 1

/-- The end of a comparison that held: its counts shown, with an event or without, the copse freed, the entry complete. -/
theorem passHarv_eq (s : State) (k e : Nat) (h : HarvRun) : ∃ v, passHarv s k e h =
    landCal (traceEntry (updCopse v k fun c => { c with harv := none }) ⟨h.job, h.cal⟩ h.entry 1) ⟨h.job, h.cal⟩ h.entry ∧
    (v = harvShown s k e ∨ ∃ part a0 a1, v = post (harvShown s k e) (copsePage1 k) 0x0801 part a0 a1) := by
  refine ⟨_, rfl, ?_⟩
  dsimp only
  split
  · exact .inr ⟨_, _, _, rfl⟩
  · exact .inl rfl

theorem harvShown_regs (s : State) (k e : Nat) :
    regGet (harvShown s k e) (copsePage1 k + Reg.COPSE_SAT_EDGE) = BitVec.ofNat 32 ((harvCounts (getCopse s k) e).getD 0 0) ∧
    regGet (harvShown s k e) (copsePage1 k + Reg.COPSE_SAT_NAN) = BitVec.ofNat 32 ((harvCounts (getCopse s k) e).getD 4 0) ∧
    regGet (harvShown s k e) (copsePage1 k + Reg.COPSE_CHK_UNCHECKED) = regGet s (copsePage1 k + Reg.COPSE_CHK_UNCHECKED) ∧
    (regGet (harvShown s k e) (copsePage1 k + Reg.COPSE_CHK_OK)).toNat = min ((regGet s (copsePage1 k + Reg.COPSE_CHK_OK)).toNat + 1) 0xFFFFFFFF := by
  unfold harvShown
  generalize copsePage1 k = p1
  refine ⟨?_, ?_, ?_, regGet_bump.trans ?_⟩ <;>
  simp [regGet_bump_ne, regGet_bumpPair_ne, regGet_setF_ne, regGet_setReg, Nat.add_assoc, Reg.COPSE_SAT_EDGE, Reg.COPSE_SAT_LUT,
    Reg.COPSE_SAT_HARV, Reg.COPSE_SAT_RING, Reg.COPSE_SAT_NAN, Reg.COPSE_SAT_SEQ, Reg.COPSE_SAT_TOTAL_LO, Reg.COPSE_CHK_OK,
    Reg.COPSE_CHK_UNCHECKED]

theorem onlyRegs_harvShown (s : State) (k e : Nat) : onlyRegs s (harvShown s k e) := by
  have hb : ∀ (v : State) (i m : Nat), onlyRegs v (bump v i m) := fun _ _ _ => rfl
  unfold harvShown
  exact (onlyRegs_setReg ..).trans <| (onlyRegs_setReg ..).trans <| (onlyRegs_setReg ..).trans <| (onlyRegs_setReg ..).trans <|
    (onlyRegs_setReg ..).trans <| (onlyRegs_setF ..).trans <| (onlyRegs_setF ..).trans <| (onlyRegs_setPair ..).trans <| hb ..

/-- The counts shown, with an event or without, leave copses and jobs. -/
theorem onlyPanel_shown (hv : v = harvShown s k e ∨ ∃ part a0 a1, v = post (harvShown s k e) (copsePage1 k) 0x0801 part a0 a1) :
    v.copses = s.copses ∧ v.jobs = s.jobs := by
  have h : onlyPanel s v := by
    rcases hv with rfl | ⟨_, _, _, rfl⟩
    · exact (onlyRegs_harvShown s k e).toPanel
    · exact (onlyRegs_harvShown s k e).toPanel.trans (onlyPanel_postFlags ..)
  rw [h]
  exact ⟨rfl, rfl⟩

/-- An event of a copse changes no register of its checks and counts. -/
theorem regGet_post_copse1 (s : State) (k code part a0 a1 : Nat) {i : Nat} (hi : 0x18 < i) (hi' : i < 0x1000) :
    regGet (post s (copsePage1 k) code part a0 a1) (copsePage1 k + i) = regGet s (copsePage1 k + i) := by
  rw [post, regGet_postFlags _ _ _ _ _ _ _ (by unfold copsePage1 copsePage gladePage standBase Reg.RAS_EVLOG_LOST; omega),
    if_neg (by unfold Reg.EVT_CAUSE; omega)]

/-- A comparison that held: counted, shown, the copse free, the entry complete (R76, R104). -/
theorem passHarv_passes (hj : getJob s h.job = some j) : getCopse (passHarv s k e h) k = { getCopse s k with harv := none } ∧
    (regGet (passHarv s k e h) (copsePage1 k + Reg.COPSE_CHK_OK)).toNat =
      min ((regGet s (copsePage1 k + Reg.COPSE_CHK_OK)).toNat + 1) 0xFFFFFFFF ∧
    regGet (passHarv s k e h) (copsePage1 k + Reg.COPSE_CHK_UNCHECKED) = regGet s (copsePage1 k + Reg.COPSE_CHK_UNCHECKED) ∧
    regGet (passHarv s k e h) (copsePage1 k + Reg.COPSE_SAT_EDGE) = BitVec.ofNat 32 ((harvCounts (getCopse s k) e).getD 0 0) ∧
    regGet (passHarv s k e h) (copsePage1 k + Reg.COPSE_SAT_NAN) = BitVec.ofNat 32 ((harvCounts (getCopse s k) e).getD 4 0) ∧
    ∃ j', getJob (passHarv s k e h) h.job = some j' ∧ ∀ run, j'.cals[h.cal]? = some run → h.entry ∉ run.inFlight := by
  obtain ⟨v, hv, hshow⟩ := passHarv_eq s k e h
  obtain ⟨hedge, hnan, hun, hok⟩ := harvShown_regs s k e
  have hcop := onlyPanel_shown hshow
  have hreg : ∀ i, 0x18 < i → i < 0x1000 → regGet (passHarv s k e h) (copsePage1 k + i) = regGet (harvShown s k e) (copsePage1 k + i) := by
    intro i hi hi'
    have hp : regGet v (copsePage1 k + i) = regGet (harvShown s k e) (copsePage1 k + i) := by
      rcases hshow with rfl | ⟨_, _, _, rfl⟩
      · rfl
      · exact regGet_post_copse1 _ _ _ _ _ _ hi hi'
    rw [hv, ← hp, ← regGet_updCopse v k (fun c => { c with harv := none })]
    refine (onlyTrace_traceEntry ..).regGet ?_
    unfold copsePage1 copsePage gladePage standBase Reg.TRC_LOST
    omega
  have ht := onlyTrace_traceEntry (updCopse v k fun c => { c with harv := none }) ⟨h.job, h.cal⟩ h.entry 1
  obtain ⟨j', hj', hland⟩ := getJob_landCal (u := ⟨h.job, h.cal⟩)
    ((ht.getJob h.job).trans ((congrArg (aGet? · h.job) hcop.2).trans hj)) h.entry
  refine ⟨?_, ?_, ?_, ?_, ?_, j', ?_, fun run hrun => ?_⟩
  · rw [hv]
    refine (getCopse_congr ht.copses k).trans ((getCopse_updCopse_self ..).trans ?_)
    rw [getCopse_congr hcop.1]
  · rw [hreg _ (by decide) (by decide), hok]
  · rw [hreg _ (by decide) (by decide), hun]
  · rw [hreg _ (by decide) (by decide), hedge]
  · rw [hreg _ (by decide) (by decide), hnan]
  · rw [hv]
    exact hj'
  · obtain ⟨run0, -, he⟩ := hland run hrun
    simp [he]

/-! ## A mismatch (R105, R107) -/

/-- An event of a copse is in no register that the bench shows. -/
@[simp] theorem bench_post_copse1 {code part a0 a1 : Nat} : bench (post s (copsePage1 k) code part a0 a1) = bench s := by
  have hf : floorOf (post s (copsePage1 k) code part a0 a1) = floorOf s := floorOf_congr rfl rfl fun b hb => by
    have hl : b ≠ Reg.RAS_EVLOG_LOST := hidden_ne (by decide) hb
    have hc : b ≠ copsePage1 k + Reg.EVT_CAUSE := hidden_ne (by rw [copsePage1_add]; exact hidden_copse k (by decide) (by decide)) hb
    rw [post, regGet_postFlags _ _ _ _ _ _ _ hl, if_neg hc]
  rw [bench, hf]
  rfl

/-- A mismatch is counted, and shows in no other register of the bench. -/
theorem bench_noteMismatch {ring : Nat} : bench (noteMismatch s k ring h) = bench (bump s (copsePage1 k + Reg.COPSE_CHK_FAIL) 1) := by
  have hl : hidden (copsePage1 k + Reg.COPSE_CHK_LAST) = true := by
    rw [copsePage1_add]
    exact hidden_copse k (by decide) (by decide)
  unfold noteMismatch
  dsimp only
  split
  · rfl
  · simp only [bench_post_copse1, bench_setF hl]

theorem hidden_steps (k : Nat) : hidden (copsePage k + Reg.COPSE_STEPS_LO) = true ∧ hidden (copsePage k + Reg.COPSE_STEPS_LO + 4) = true :=
  ⟨hidden_copse k (by decide) (by decide), by rw [Nat.add_assoc]; exact hidden_copse k (by decide) (by decide)⟩

@[simp] theorem floor_putReplay {steps : Nat} : (bench (putReplay s k c steps)).floor = (bench s).floor := by
  rw [putReplay, bench_bumpPair (hidden_steps k).1 (hidden_steps k).2]
  rfl

@[simp] theorem floor_harvest : (bench (harvest s n a k e).1).floor = (bench s).floor := by
  obtain ⟨free, sets, hs, -⟩ := harvest_still s n a k e
  exact (floor_of_still hs).trans floor_updCopse

/-- The replay of a harvest on its copse, for a job that is listed. -/
theorem replayHarvest_eq (hj : getJob s h.job = some j) (ha : jobAlm s j = some a) (attempt : Nat) (rings : List Nat) :
    ∃ c st e cmp, replayHarvest s k h attempt rings = updCopse (harvest (bump (putReplay s k c st)
      (copsePage1 k + Reg.COPSE_CHK_REEXEC) 1) h.job a k e).1 k fun c =>
        { c with harv := some { h with attempt := attempt, cmp := cmp, timedOut := false } } := by
  unfold replayHarvest
  rw [hj]
  dsimp only
  rw [ha]
  exact ⟨_, _, _, _, rfl⟩

end

end Sys2Proof.Machine

namespace Sys2Proof.Machine

section
variable {s t v : State} {j : Job} {a : Alm} {c : Copse} {h : HarvRun} {b : CopseBind} {n k e i : Nat}

/-! ## Spare copses and re-bindings leave the registers of stands (R107, R115, R163) -/

@[simp] theorem floor_noteRebind : (bench (noteRebind s n)).floor = (bench s).floor := by
  unfold noteRebind
  split
  · rfl
  · rename_i j _
    cases j.gang <;> simp

@[simp] theorem floor_moveBinding {l old new : Nat} : (bench (moveBinding s n j a l old new)).floor = (bench s).floor := by
  simp [moveBinding, memCopy]

@[simp] theorem floor_moveToSpare : (bench (moveToSpare s k b).1).floor = (bench s).floor := by
  unfold moveToSpare
  split
  · rfl
  · split
    · rfl
    · split
      · dsimp only
        split <;> simp [bumpF]
      · rfl

theorem floor_of_moveToSpare {x : Option Nat} (hm : moveToSpare s k b = (t, x)) : (bench t).floor = (bench s).floor := by
  rw [← floor_moveToSpare (s := s) (k := k) (b := b), hm]

@[simp] theorem stands_moveOther : (bench (moveOther s k n)).floor.stands = (bench s).floor.stands := by
  refine stands_foldl (fun t b => ?_) _ _
  split
  · rename_i hm
    rw [floor_updCopse, floor_of_moveToSpare hm]
  · rename_i hm
    rw [stands_endUnbindable, floor_of_moveToSpare hm]

@[simp] theorem stands_rebindCopse : (bench (rebindCopse s n k)).floor.stands = (bench s).floor.stands := by
  unfold rebindCopse
  split
  · rfl
  · split
    · rfl
    · split
      · simp
      · exact stands_endUnbindable

/-! ## What a mismatch brings (R107) -/

/-- The repeat on a spare copse leaves the registers of stands but for the mark of the suspect copse. -/
theorem stands_toSpare : (bench (toSpare s k e h)).floor.stands =
    (bench (setF s (copsePage1 k + Reg.COPSE_HEALTH) Fld.COPSE_HEALTH_suspect 1)).floor.stands := by
  have hmark : (bench (moveOther (markSuspect s k (jobPart s h.job)) k h.job)).floor.stands =
      (bench (setF s (copsePage1 k + Reg.COPSE_HEALTH) Fld.COPSE_HEALTH_suspect 1)).floor.stands := by
    rw [stands_moveOther, markSuspect, bench_post_copse1]
  unfold toSpare
  dsimp only
  split
  · rename_i hm
    rw [stands_endUnbindable, floor_of_moveToSpare hm, floor_updCopse, hmark]
  · rename_i hm
    have hspare := floor_of_moveToSpare hm
    rw [floor_updCopse] at hspare
    rw [← hmark, ← hspare]
    split
    · rfl
    · split
      · rfl
      · rw [floor_updCopse, floor_harvest]

/-- The failure of a spare copse leaves the registers of stands but for its count of failures. -/
theorem stands_failSpare : (bench (failSpare s k h)).floor.stands =
    (bench (bumpF s (copsePage1 k + Reg.COPSE_HEALTH) Fld.COPSE_HEALTH_fail_count 1)).floor.stands := by
  unfold failSpare
  dsimp only
  split
  · rfl
  · split
    · rw [floor_endJob, floor_updJob]
    · rw [stands_rebindCopse, floor_updJob]

theorem health_mod (k : Nat) : (copsePage1 k + Reg.COPSE_HEALTH) % 0x2000 = 0x1000 + Reg.COPSE_HEALTH := by
  unfold copsePage1 copsePage gladePage standBase Reg.COPSE_HEALTH
  omega

/-- Whatever a mismatch brings, the counts of stands and of checks keep what its record made of them, but for the replays. -/
theorem regGet_mismatch (hi : standReg i = true) (hh : i % 0x2000 ≠ 0x1000 + Reg.COPSE_HEALTH)
    (hr : i ≠ copsePage1 k + Reg.COPSE_CHK_REEXEC) :
    regGet (mismatch s k e h) i = regGet (bump s (copsePage1 k + Reg.COPSE_CHK_FAIL) 1) i := by
  have hne : i ≠ copsePage1 k + Reg.COPSE_HEALTH := fun he => hh (he ▸ health_mod k)
  have hnote : regGet (noteMismatch s k (fld e 123 121) h) i = regGet (bump s (copsePage1 k + Reg.COPSE_CHK_FAIL) 1) i :=
    regGet_of_stands (by rw [bench_noteMismatch]) hi hh
  rw [← hnote]
  unfold mismatch
  generalize noteMismatch s k (fld e 123 121) h = v
  dsimp only
  split
  · rcases hj : getJob v h.job with _ | j
    · rw [replayHarvest, hj]
    rcases ha : jobAlm v j with _ | a
    · rw [replayHarvest, hj]
      dsimp only
      rw [ha]
    obtain ⟨c, st, e', cmp, he⟩ := replayHarvest_eq hj ha 1 (harvRings e)
    rw [he, regGet_of_stands (s := bump (putReplay v k c st) (copsePage1 k + Reg.COPSE_CHK_REEXEC) 1)
      (by rw [floor_updCopse, floor_harvest]) hi hh, regGet_bump_ne hr]
    exact regGet_of_stands (by rw [floor_putReplay]) hi hh
  · split
    · rw [regGet_of_stands stands_toSpare hi hh, regGet_setF_ne hne]
    · rw [regGet_of_stands stands_failSpare hi hh]
      exact regGet_setF_ne hne

theorem mismatch_counts : (regGet (mismatch s k e h) (copsePage1 k + Reg.COPSE_CHK_FAIL)).toNat =
    min ((regGet s (copsePage1 k + Reg.COPSE_CHK_FAIL)).toNat + 1) 0xFFFFFFFF := by
  rw [regGet_mismatch (standReg_copse1 k (.inl rfl))
    (by unfold copsePage1 copsePage gladePage standBase Reg.COPSE_CHK_FAIL Reg.COPSE_HEALTH; omega)
    (by unfold Reg.COPSE_CHK_FAIL Reg.COPSE_CHK_REEXEC; omega)]
  exact regGet_bump

/-- The first mismatch of a harvest has it replayed on its copse. -/
theorem mismatch_replays (hj : getJob s h.job = some j) (ha : jobAlm s j = some a) (h0 : h.attempt = 0) :
    (regGet (mismatch s k e h) (copsePage1 k + Reg.COPSE_CHK_REEXEC)).toNat =
      min ((regGet s (copsePage1 k + Reg.COPSE_CHK_REEXEC)).toNat + 1) 0xFFFFFFFF ∧
    ∃ h', (getCopse (mismatch s k e h) k).harv = some h' ∧ h'.attempt = 1 ∧ h'.entry = h.entry ∧ h'.job = h.job := by
  have hb := bench_noteMismatch (s := s) (k := k) (h := h) (ring := fld e 123 121)
  have hj' : getJob (noteMismatch s k (fld e 123 121) h) h.job = some j := (getJob_of_bench (congrArg Bench.jobs hb) _).trans hj
  have ha' : jobAlm (noteMismatch s k (fld e 123 121) h) j = some a := (jobAlm_of_floor (by rw [hb]; rfl) j).trans ha
  have hstand := standReg_copse1 k (n := Reg.COPSE_CHK_REEXEC) (.inr (.inl rfl))
  have hmod : (copsePage1 k + Reg.COPSE_CHK_REEXEC) % 0x2000 ≠ 0x1000 + Reg.COPSE_HEALTH := by
    unfold copsePage1 copsePage gladePage standBase Reg.COPSE_CHK_REEXEC Reg.COPSE_HEALTH
    omega
  have hv : regGet (noteMismatch s k (fld e 123 121) h) (copsePage1 k + Reg.COPSE_CHK_REEXEC) =
      regGet s (copsePage1 k + Reg.COPSE_CHK_REEXEC) := by
    have hne : copsePage1 k + Reg.COPSE_CHK_REEXEC ≠ copsePage1 k + Reg.COPSE_CHK_FAIL := by
      unfold Reg.COPSE_CHK_FAIL Reg.COPSE_CHK_REEXEC
      omega
    rw [regGet_of_stands (s := bump s (copsePage1 k + Reg.COPSE_CHK_FAIL) 1) (by rw [hb]) hstand hmod, regGet_bump_ne hne]
  obtain ⟨c, st, e', cmp, he⟩ := replayHarvest_eq (k := k) hj' ha' 1 (harvRings e)
  rw [mismatch, if_pos h0, he]
  refine ⟨?_, _, congrArg Copse.harv (getCopse_updCopse_self ..), rfl, rfl, rfl⟩
  rw [regGet_of_stands (s := bump (putReplay _ k c st) (copsePage1 k + Reg.COPSE_CHK_REEXEC) 1)
    (by rw [floor_updCopse, floor_harvest]) hstand hmod, regGet_bump, ← hv,
    regGet_of_stands (s := noteMismatch s k (fld e 123 121) h) (by rw [floor_putReplay]) hstand hmod]

/-- The mismatch of the replay marks the copse suspect. -/
theorem mismatch_suspects (h1 : h.attempt = 1) : copseSuspect (mismatch s k e h) k = true := by
  rw [mismatch, if_neg (by omega), if_pos h1, copseSuspect,
    getF_health_of_stands stands_toSpare (by decide) (by decide), getF_setF_same _ _ _ _ (by decide)]
  rfl

/-- The mismatch on a spare copse counts a failure of it. -/
theorem mismatch_fails (h2 : 2 ≤ h.attempt) :
    getF (mismatch s k e h) (copsePage1 k + Reg.COPSE_HEALTH) Fld.COPSE_HEALTH_fail_count =
      min (getF s (copsePage1 k + Reg.COPSE_HEALTH) Fld.COPSE_HEALTH_fail_count + 1) 255 := by
  have hv : getF (noteMismatch s k (fld e 123 121) h) (copsePage1 k + Reg.COPSE_HEALTH) Fld.COPSE_HEALTH_fail_count =
      getF s (copsePage1 k + Reg.COPSE_HEALTH) Fld.COPSE_HEALTH_fail_count := by
    rw [getF_health_of_stands (s := bump s (copsePage1 k + Reg.COPSE_CHK_FAIL) 1) (by rw [bench_noteMismatch]) (by decide) (by decide),
      getF, regGet_bump_ne (by unfold Reg.COPSE_CHK_FAIL Reg.COPSE_HEALTH; omega), getF]
  rw [mismatch, if_neg (by omega), if_neg (by omega), getF_health_of_stands stands_failSpare (by decide) (by decide), bumpF,
    getF_setF_same _ _ _ _ (by decide), hv]
  simp only [Fld.COPSE_HEALTH_fail_count]
  omega

/-! ## The end of a comparison and the copse limit -/

theorem finishHarv_eq (hp : pendingHarv s k = some (h, e)) : finishHarv s k =
    if h.cmp.ok then passHarv (bump s (copsePage1 k + Reg.COPSE_CHK_UNCHECKED) h.cmp.unchecked) k e h
    else mismatch (bump s (copsePage1 k + Reg.COPSE_CHK_UNCHECKED) h.cmp.unchecked) k e h := by
  unfold finishHarv
  rw [hp]

/-- The copse limit with a harvest pending is a late arrival and a mismatch (R45). -/
theorem lateHarvest_counts {p : CopsePath} :
    (regGet (mismatch (bump s (standBase p.stand + Reg.STAND_TMO_LATE) 1) k e h) (standBase p.stand + Reg.STAND_TMO_LATE)).toNat =
      min ((regGet s (standBase p.stand + Reg.STAND_TMO_LATE)).toNat + 1) 0xFFFFFFFF ∧
    (regGet (mismatch (bump s (standBase p.stand + Reg.STAND_TMO_LATE) 1) k e h) (copsePage1 k + Reg.COPSE_CHK_FAIL)).toNat =
      min ((regGet s (copsePage1 k + Reg.COPSE_CHK_FAIL)).toNat + 1) 0xFFFFFFFF := by
  have hmod : (standBase p.stand + Reg.STAND_TMO_LATE) % 0x2000 = 0x50 := by
    unfold standBase Reg.STAND_TMO_LATE
    omega
  have ne : ∀ i, 0x60 < i → i < 0x1000 → standBase p.stand + Reg.STAND_TMO_LATE ≠ copsePage1 k + i := fun i _ _ => by
    unfold copsePage1 copsePage gladePage standBase Reg.STAND_TMO_LATE
    omega
  refine ⟨?_, ?_⟩
  · rw [regGet_mismatch (standReg_late _) (by rw [hmod]; decide) (ne _ (by decide) (by decide)),
      regGet_bump_ne (ne _ (by decide) (by decide)), regGet_bump]
  · rw [mismatch_counts, regGet_bump_ne (ne _ (by decide) (by decide)).symm]

theorem jobs_putReplay (v : State) (k : Nat) (c : Copse) (st : Nat) : (putReplay v k c st).jobs = v.jobs :=
  (congrArg State.jobs (onlyRegs_setPair (updCopse v k _) (copsePage k + Reg.COPSE_STEPS_LO) _) :)

/-- A pass that passed the copse limit for the first time is replayed: its group steps again from its first step (R107). -/
theorem passTimeout_replays {p : PassRun} (hj : getJob s p.job = some j) (ha : jobAlm s j = some a)
    (hs : (getCopse s k).spareFor ≠ some p.job) (hr : (getCopse s k).replays = 0) :
    (getCopse (passTimeout s k p) k).pass = some { p with done := 0 } ∧ (getCopse (passTimeout s k p) k).replays = 1 ∧
    (regGet (passTimeout s k p) (copsePage1 k + Reg.COPSE_CHK_FAIL)).toNat =
      min ((regGet s (copsePage1 k + Reg.COPSE_CHK_FAIL)).toNat + 1) 0xFFFFFFFF ∧
    (regGet (passTimeout s k p) (copsePage1 k + Reg.COPSE_CHK_REEXEC)).toNat =
      min ((regGet s (copsePage1 k + Reg.COPSE_CHK_REEXEC)).toNat + 1) 0xFFFFFFFF ∧ (passTimeout s k p).jobs = s.jobs := by
  obtain ⟨c, st, he⟩ : ∃ c st, passTimeout s k p = updCopse (bump (putReplay (bump s (copsePage1 k + Reg.COPSE_CHK_FAIL) 1) k c st)
      (copsePage1 k + Reg.COPSE_CHK_REEXEC) 1) k fun c => { c with pass := some { p with done := 0 }, replays := 1 } := by
    have hj' : getJob (bump s (copsePage1 k + Reg.COPSE_CHK_FAIL) 1) p.job = some j := hj
    have ha' : jobAlm (bump s (copsePage1 k + Reg.COPSE_CHK_FAIL) 1) j = some a := ha
    unfold passTimeout
    dsimp only
    rw [hj']
    dsimp only
    rw [ha']
    dsimp only
    exact ⟨_, _, (if_neg hs).trans (if_pos hr)⟩
  have hput : ∀ n, n = Reg.COPSE_CHK_FAIL ∨ n = Reg.COPSE_CHK_REEXEC → ∀ v : State,
      regGet (putReplay v k c st) (copsePage1 k + n) = regGet v (copsePage1 k + n) := fun n hn v =>
    regGet_of_stands (by rw [floor_putReplay]) (standReg_copse1 k (by tauto)) (by
      unfold copsePage1 copsePage gladePage standBase Reg.COPSE_HEALTH
      unfold Reg.COPSE_CHK_FAIL Reg.COPSE_CHK_REEXEC at hn
      omega)
  have hne : copsePage1 k + Reg.COPSE_CHK_FAIL ≠ copsePage1 k + Reg.COPSE_CHK_REEXEC := by
    unfold Reg.COPSE_CHK_FAIL Reg.COPSE_CHK_REEXEC
    omega
  rw [he, regGet_updCopse, regGet_updCopse, getCopse_updCopse_self]
  refine ⟨rfl, rfl, ?_, ?_, ?_⟩
  · rw [regGet_bump_ne hne, hput _ (.inl rfl), regGet_bump]
  · rw [regGet_bump, hput _ (.inr rfl), regGet_bump_ne hne.symm]
  · exact jobs_putReplay (bump s (copsePage1 k + Reg.COPSE_CHK_FAIL) 1) k c st

end

end Sys2Proof.Machine

namespace Sys2Proof.Machine

section
variable {s : State} {p : CopsePath} {j : Job} {n logical : Nat}

/-! ## Lending (R112, R113) -/

theorem lendCopse_lends (hp : p.ok = true) (he : engineOn s = true) (hj : getJob s n = some j) (hb : j.isBound = true)
    (hc : j.copses[logical]? = some p.index) (hbor : isBorrower (getCopse s p.index) n = true) (hl : (getCopse s p.index).lent = false)
    (hh : (getCopse s p.index).harv = none) (ho : ownerHalted s p.index = true) (hr : ownerRunnable s p.index = false) :
    Gives (.lendCopse p n logical) s (updCopse s p.index fun c => { c with lent := true, yielding := false }) := by
  refine congrArg Host.Outcome.next ?_
  dsimp only
  rw [hj]
  exact if_pos (by simp [hp, he, hb, hc, hbor, hl, hh, ho, hr])

theorem borrowerYield_yields (hp : p.ok = true) (he : engineOn s = true) (hl : (getCopse s p.index).lent = true)
    (hb : (getCopse s p.index).borrower ≠ none) (hr : ownerRunnable s p.index = true) :
    Gives (.borrowerYield p) s (updCopse s p.index fun c =>
      if c.pass.isSome then { c with yielding := true } else { c with lent := false, yielding := false }) := by
  refine congrArg Host.Outcome.next ?_
  dsimp only
  rw [if_pos ⟨hp, he, hl, Option.isSome_iff_ne_none.mpr hb, hr⟩]
  have hupd : ∀ f g : Copse → Copse, f (getCopse s p.index) = g (getCopse s p.index) → updCopse s p.index f = updCopse s p.index g :=
    fun f g h => by rw [updCopse, updCopse, h]
  split
  · rename_i hpass
    exact hupd _ _ (if_pos hpass).symm
  · rename_i hpass
    exact hupd _ _ (if_neg hpass).symm

/-- A copse changed, and nothing else. -/
theorem updCopse_only (s : State) (k : Nat) (f : Copse → Copse) : updCopse s k f = { s with copses := (updCopse s k f).copses } ∧
    getCopse (updCopse s k f) k = f (getCopse s k) ∧ otherCopses k s (updCopse s k f) :=
  ⟨rfl, getCopse_updCopse_self s k f, otherCopses_updCopse s k f⟩

/-! ## The commands of a copse -/

theorem copseStep_effect (hp : p.ok = true) (he : engineOn s = true) : Gives (.copseStep p) s (stepCopse s p.index) :=
  congrArg Host.Outcome.next (if_pos ⟨hp, he⟩)

theorem dawnRelease_effect (hp : p.ok = true) (he : engineOn s = true) : Gives (.dawnRelease p) s (releaseSlot s p.index) :=
  congrArg Host.Outcome.next (if_pos ⟨hp, he⟩)

theorem harvComplete_effect (hp : p.ok = true) (he : engineOn s = true) : Gives (.harvComplete p) s (finishHarv s p.index) :=
  congrArg Host.Outcome.next (if_pos ⟨hp, he⟩)

theorem copsePassTimeout_effect (hp : p.ok = true) (he : engineOn s = true) : Gives (.copsePassTimeout p) s
    (match pendingHarv s p.index with
      | some (h, e) => mismatch (bump s (standBase p.stand + Reg.STAND_TMO_LATE) 1) p.index e { h with timedOut := true }
      | none => match (getCopse s p.index).pass with
        | some r => passTimeout s p.index r
        | none => s) :=
  congrArg Host.Outcome.next (if_neg (by simp [hp, he]))

/-- The copse limit of a pass, where no harvest is pending. -/
theorem copsePassTimeout_pass {r : PassRun} (hp : p.ok = true) (he : engineOn s = true) (hn : pendingHarv s p.index = none)
    (hr : (getCopse s p.index).pass = some r) : Gives (.copsePassTimeout p) s (passTimeout s p.index r) := by
  have h := copsePassTimeout_effect hp he
  rw [hn] at h
  dsimp only at h
  rwa [hr] at h

theorem copsePassTimeout_idle (hp : p.ok = true) (he : engineOn s = true) (hn : pendingHarv s p.index = none)
    (hr : (getCopse s p.index).pass = none) : Gives (.copsePassTimeout p) s s := by
  have h := copsePassTimeout_effect hp he
  rw [hn] at h
  dsimp only at h
  rwa [hr] at h

theorem copsePassTimeout_harvest {h : HarvRun} {e : Nat} (hp : p.ok = true) (he : engineOn s = true)
    (hs : pendingHarv s p.index = some (h, e)) : Gives (.copsePassTimeout p) s
      (mismatch (bump s (standBase p.stand + Reg.STAND_TMO_LATE) 1) p.index e { h with timedOut := true }) := by
  have hg := copsePassTimeout_effect hp he
  rwa [hs] at hg

/-- The comparison of a pending harvest held. -/
theorem finishHarv_passes {h : HarvRun} {e k : Nat} (hs : pendingHarv s k = some (h, e)) (hok : h.cmp.ok = true) :
    getCopse (finishHarv s k) k = { getCopse s k with harv := none } ∧
    (regGet (finishHarv s k) (copsePage1 k + Reg.COPSE_CHK_OK)).toNat =
      min ((regGet s (copsePage1 k + Reg.COPSE_CHK_OK)).toNat + 1) 0xFFFFFFFF ∧
    (regGet (finishHarv s k) (copsePage1 k + Reg.COPSE_CHK_UNCHECKED)).toNat =
      min ((regGet s (copsePage1 k + Reg.COPSE_CHK_UNCHECKED)).toNat + h.cmp.unchecked) 0xFFFFFFFF ∧
    regGet (finishHarv s k) (copsePage1 k + Reg.COPSE_SAT_EDGE) = BitVec.ofNat 32 ((harvCounts (getCopse s k) e).getD 0 0) ∧
    regGet (finishHarv s k) (copsePage1 k + Reg.COPSE_SAT_NAN) = BitVec.ofNat 32 ((harvCounts (getCopse s k) e).getD 4 0) ∧
    ∃ j', getJob (finishHarv s k) h.job = some j' ∧ ∀ run, j'.cals[h.cal]? = some run → h.entry ∉ run.inFlight := by
  obtain ⟨-, j, -, hj, -⟩ := pendingHarv_some hs
  obtain ⟨hc, hokc, hun, hedge, hnan, hjob⟩ := passHarv_passes (k := k) (e := e)
    (s := bump s (copsePage1 k + Reg.COPSE_CHK_UNCHECKED) h.cmp.unchecked) (h := h) hj
  rw [finishHarv_eq hs, if_pos hok]
  refine ⟨hc, ?_, ?_, hedge, hnan, hjob⟩
  · rw [hokc, regGet_bump_ne (by unfold Reg.COPSE_CHK_OK Reg.COPSE_CHK_UNCHECKED; omega)]
  · rw [hun, regGet_bump]

/-- A comparison of a pending harvest that did not hold is a mismatch; the rows it could not check show in their own count. -/
theorem finishHarv_fails {h : HarvRun} {e k : Nat} (hs : pendingHarv s k = some (h, e)) (hok : h.cmp.ok = false) :
    ∃ v, finishHarv s k = mismatch v k e h ∧ getJob v h.job = getJob s h.job ∧ (∀ j, jobAlm v j = jobAlm s j) ∧
      ∀ i, i ≠ Reg.COPSE_CHK_UNCHECKED → regGet v (copsePage1 k + i) = regGet s (copsePage1 k + i) :=
  ⟨_, (finishHarv_eq hs).trans (if_neg (by simp [hok])), rfl, fun _ => rfl,
    fun _ hi => regGet_bump_ne fun h => hi (Nat.add_left_cancel h)⟩

theorem finishHarv_counts {h : HarvRun} {e k : Nat} (hs : pendingHarv s k = some (h, e)) (hok : h.cmp.ok = false) :
    (regGet (finishHarv s k) (copsePage1 k + Reg.COPSE_CHK_FAIL)).toNat =
      min ((regGet s (copsePage1 k + Reg.COPSE_CHK_FAIL)).toNat + 1) 0xFFFFFFFF := by
  obtain ⟨v, hv, -, -, hregs⟩ := finishHarv_fails hs hok
  rw [hv, mismatch_counts, hregs _ (by decide)]

theorem finishHarv_replays {h : HarvRun} {e k : Nat} (hs : pendingHarv s k = some (h, e)) (hok : h.cmp.ok = false) (h0 : h.attempt = 0) :
    (regGet (finishHarv s k) (copsePage1 k + Reg.COPSE_CHK_REEXEC)).toNat =
      min ((regGet s (copsePage1 k + Reg.COPSE_CHK_REEXEC)).toNat + 1) 0xFFFFFFFF ∧
    ∃ h', (getCopse (finishHarv s k) k).harv = some h' ∧ h'.attempt = 1 ∧ h'.entry = h.entry ∧ h'.job = h.job := by
  obtain ⟨-, j, a, hj, ha⟩ := pendingHarv_some hs
  obtain ⟨v, hv, hjv, hav, hregs⟩ := finishHarv_fails hs hok
  rw [hv, ← hregs _ (by decide)]
  exact mismatch_replays (hjv.trans hj) ((hav j).trans ha) h0

theorem finishHarv_suspects {h : HarvRun} {e k : Nat} (hs : pendingHarv s k = some (h, e)) (hok : h.cmp.ok = false) (h1 : h.attempt = 1) :
    copseSuspect (finishHarv s k) k = true := by
  obtain ⟨v, hv, -⟩ := finishHarv_fails hs hok
  rw [hv]
  exact mismatch_suspects h1

theorem finishHarv_spareFails {h : HarvRun} {e k : Nat} (hs : pendingHarv s k = some (h, e)) (hok : h.cmp.ok = false)
    (h2 : 2 ≤ h.attempt) : getF (finishHarv s k) (copsePage1 k + Reg.COPSE_HEALTH) Fld.COPSE_HEALTH_fail_count =
      min (getF s (copsePage1 k + Reg.COPSE_HEALTH) Fld.COPSE_HEALTH_fail_count + 1) 255 := by
  obtain ⟨v, hv, -, -, hregs⟩ := finishHarv_fails hs hok
  rw [hv, mismatch_fails h2, getF, hregs _ (by decide), getF]

end

/-- Settles O57: the commands of a calendar through the trace and its own run, the outcomes of checks over the bench, whose
registers of stands the replays, moves and ends of jobs keep. -/
theorem copsePasses : Obligations.CopsePasses := by
  unfold Obligations.CopsePasses
  refine ⟨fun s u x => ⟨fun img h hm hi hz => ⟨fun hb ha => ?_, fun hb ha hbb => ?_, fun hb hfree => ?_, fun ha hbb => ?_⟩,
      fun first h hm hh hf => ⟨fun hb hv hp hc => ?_, fun hb hv => ?_, fun hb h0 => ?_⟩,
      fun h hm => ⟨fun hw => ?_, fun b hp hv hr hc hb hs => ?_⟩⟩,
    fun s p hp he => ⟨fun hc => ?_, fun r j a m m0 hr hj ha hm h0 hb hi => ?_, fun xa xb ha hb hu => ?_,
      fun h e hs => ⟨fun hok => ?_, fun hok h0 => ?_, fun hok h1 => ?_, fun hok h2 => ?_, ?_⟩, fun hs hc => ?_,
      fun r j hs hr hj ha hsp hre => ?_, fun n j logical hj hb hc hbor hl hh ho hr => ?_, fun hl hb hr => ?_⟩⟩
  · refine Gives.runs rfl (ctx_puts h rfl hm hi ?_)
    rw [placeCtx_first hz, if_neg (by simp [hb]), if_pos (by simp [ha])]
  · refine Gives.runs rfl (ctx_puts h rfl hm hi ?_)
    rw [placeCtx_first hz, if_neg (by simp [hb]), if_neg (by simpa using ha), if_pos (by simp [hbb])]
  · refine Gives.runs rfl (ctx_puts h rfl hm hi ?_)
    rw [placeCtx_first hz, if_pos hb, if_neg (by rcases hfree with hfree | hfree <;> simp [hfree])]
  · exact congrArg Host.Outcome.next (ctx_waits h rfl hm hi (placeCtx_full hz ha hbb))
  · obtain ⟨hj, -, hr, -⟩ := issueOf_some h
    obtain ⟨hck, hothers, htraced, hjob⟩ := pass_shows hj hr (pass_enters h rfl hm hh hf hb hv hp rfl hc)
    refine Gives.runs rfl ⟨?_, ?_, ?_, hothers, htraced, hjob⟩
    · exact congrArg Copse.pass hck
    · exact (congrArg (aGet? ·.ringOwner _) hck).trans ((aGet?_aPut ..).trans (if_pos rfl))
    · exact (congrArg Copse.rings hck).trans (clearNans_rings ..)
  · exact congrArg Host.Outcome.next (pass_waits h rfl hm hh hf hb hv)
  · exact Gives.runs rfl (pass_faults h rfl hm hh hb h0)
  · exact congrArg Host.Outcome.next (harv_waits h rfl hw)
  · exact Gives.runs rfl (harv_leaves h rfl hm hp hv hr hc hb hs)
  · have h := copseStep_effect hp he
    rwa [stepCopse_idle hc] at h
  · exact (copseStep_effect hp he).runs (stepCopse_steps hr hj ha hm h0 hb hi)
  · refine (dawnRelease_effect hp he).runs ?_
    rw [releaseSlot_eq ha hb hu]
    exact dropOld_shows ..
  · exact (harvComplete_effect hp he).runs (finishHarv_passes hs hok)
  · exact (harvComplete_effect hp he).runs ⟨finishHarv_counts hs hok, finishHarv_replays hs hok h0⟩
  · exact (harvComplete_effect hp he).runs ⟨finishHarv_counts hs hok, finishHarv_suspects hs hok h1⟩
  · exact (harvComplete_effect hp he).runs ⟨finishHarv_counts hs hok, finishHarv_spareFails hs hok h2⟩
  · exact (copsePassTimeout_harvest hp he hs).runs lateHarvest_counts
  · exact copsePassTimeout_idle hp he hs hc
  · obtain ⟨a, ha⟩ := Option.isSome_iff_exists.mp ha
    exact (copsePassTimeout_pass hp he hs hr).runs (passTimeout_replays hj ha hsp hre)
  · exact (lendCopse_lends hp he hj hb hc hbor hl hh ho hr).runs (updCopse_only ..)
  · exact (borrowerYield_yields hp he hl hb hr).runs (updCopse_only ..)

end Sys2Proof.Machine

namespace Sys2Proof.Machine

/-! # Sparse contents and lists of bytes, place by place -/

section
variable {α : Type} {m : Bytes} {l l' : List Byte} {a n k x i off : Nat}

@[simp] theorem length_sub : (sub l off n).length = n := by simp [sub]

theorem getD_sub (h : i < n) : (sub l off n).getD i 0 = l.getD (off + i) 0 := by simp [sub, h]

/-- Lists of bytes of one length that agree at every place. -/
theorem bytes_ext (h : l.length = l'.length) (hi : ∀ i < l.length, l.getD i 0 = l'.getD i 0) : l = l' :=
  List.ext_getElem h fun i h₁ h₂ => by simpa [h₁, h₂] using hi i h₁

theorem sub_all : sub l 0 l.length = l := bytes_ext length_sub fun i hi => by
  rw [getD_sub (by simpa using hi), Nat.zero_add]

/-- A part of a part. -/
theorem sub_sub (h : k + x ≤ n) : sub (sub l off n) k x = sub l (off + k) x :=
  bytes_ext (by simp) fun i hi => by
    rw [length_sub] at hi
    rw [getD_sub hi, getD_sub hi, getD_sub (by omega), Nat.add_assoc]

theorem sub_append_left (h : off + n ≤ l.length) : sub (l ++ l') off n = sub l off n :=
  bytes_ext (by simp) fun i hi => by
    rw [length_sub] at hi
    rw [getD_sub hi, getD_sub hi, List.getD_append _ _ _ _ (by omega)]

theorem sub_append_right : sub (l ++ l') (l.length + off) n = sub l' off n :=
  bytes_ext (by simp) fun i hi => by
    rw [length_sub] at hi
    rw [getD_sub hi, getD_sub hi, List.getD_append_right _ _ _ _ (by omega)]
    congr 1
    omega

theorem length_flatMap_const {f : α → List Byte} {r : List α} (h : ∀ e ∈ r, (f e).length = k) :
    (r.flatMap f).length = r.length * k := by
  rw [List.length_flatMap, List.map_congr_left h, List.map_const', List.sum_replicate, smul_eq_mul]

/-- Equal pieces put together: each is found at its place. -/
theorem sub_flatMap {f : α → List Byte} {r : List α} (h : ∀ e ∈ r, (f e).length = k) {e : α} (he : r[i]? = some e) :
    sub (r.flatMap f) (i * k) k = f e := by
  induction r generalizing i with
  | nil => simp at he
  | cons d r ih =>
    have hd : (f d).length = k := h d (by simp)
    rw [List.flatMap_cons]
    cases i with
    | zero =>
      cases he
      rw [Nat.zero_mul, sub_append_left (by omega), ← hd, sub_all]
    | succ i =>
      rw [Nat.succ_mul, Nat.add_comm, ← hd, sub_append_right, hd]
      exact ih (fun e he => h e (by simp [he])) he

@[simp] theorem length_toLe (k v : Nat) : (toLe k v).length = k := by
  induction k generalizing v with
  | zero => rfl
  | succ k ih => simp [toLe, ih]

theorem toLe_zero (k : Nat) : toLe k 0 = zeros k := by
  induction k with
  | zero => rfl
  | succ k ih => simp [toLe, ih, zeros, List.replicate_succ]

/-- The bytes of the number that bytes spell. -/
theorem toLe_leNat (l : List Byte) : toLe l.length (leNat l) = l := by
  induction l with
  | nil => rfl
  | cons b r ih =>
    have hb : b.toNat < 256 := b.isLt
    have hm : BitVec.ofNat 8 (b.toNat + 256 * leNat r) = b := BitVec.eq_of_toNat_eq (by rw [BitVec.toNat_ofNat]; omega)
    have hd : (b.toNat + 256 * leNat r) / 256 = leNat r := by omega
    rw [List.length_cons, leNat, toLe, hm, hd, ih]

theorem aGet?_append (r r' : AMap α) : aGet? (r ++ r') x = (aGet? r x).or (aGet? r' x) := by
  induction r with
  | nil => rfl
  | cons e r ih =>
    simp only [List.cons_append, aGet?, ih]
    split <;> simp

theorem aGet?_shift (r : AMap α) : aGet? (r.map fun e => (e.1 + k, e.2)) x = if k ≤ x then aGet? r (x - k) else none := by
  induction r with
  | nil => simp [aGet?]
  | cons e r ih =>
    simp only [List.map_cons, aGet?, ih]
    grind

theorem aGet?_bSlice (m : Bytes) : aGet? (bSlice m a n) x = if x < n then aGet? m (a + x) else none := by
  induction m with
  | nil => simp [bSlice, aGet?]
  | cons e m ih =>
    have hc : bSlice (e :: m) a n = if a ≤ e.1 ∧ e.1 < a + n then (e.1 - a, e.2) :: bSlice m a n else bSlice m a n := by
      simp only [bSlice, List.filter_cons, Bool.and_eq_true, decide_eq_true_eq]
      split <;> rfl
    rw [hc]
    simp only [aGet?]
    split
    · simp only [aGet?, ih]
      grind
    · rw [ih]
      grind

theorem aSorted_bSlice (h : aSorted m = true) : aSorted (bSlice m a n) = true := by
  rw [aSorted_iff] at *
  refine List.pairwise_map.mpr ((h.filter _).imp_of_mem fun hd he hlt => ?_)
  simp only [List.mem_filter, Bool.and_eq_true, decide_eq_true_eq] at hd he
  omega

theorem aSorted_shift (h : aSorted m = true) : aSorted (m.map fun e => (e.1 + k, e.2)) = true := by
  rw [aSorted_iff] at *
  exact List.pairwise_map.mpr (h.imp fun hlt => by simpa using hlt)

theorem aSorted_bOfList (l : List Byte) : aSorted (bOfList l) = true := by
  have h := bytesWf_bWrite [] 0 l (by decide)
  simp only [bytesWf, Bool.and_eq_true] at h
  exact h.1

theorem bGet_bOfList (l : List Byte) : bGet (bOfList l) x = l.getD x 0 := by
  rw [bOfList, bGet_bWrite]
  split
  · rfl
  · rw [List.getD_eq_default _ _ (by omega)]
    rfl

theorem bGet_bSlice (m : Bytes) : bGet (bSlice m a n) x = if x < n then bGet m (a + x) else 0 := by
  simp only [bGet, aGetD, aGet?_bSlice]
  split <;> rfl

/-- A content put at an address: its bytes are read there; every other byte reads as before. -/
theorem bGet_bPaste {c : Bytes} (hc : aSorted c = true) :
    bGet (bPaste m a n c) x = if a ≤ x ∧ x < a + n then bGet c (x - a) else bGet m x := by
  have key : ∀ (c m : Bytes), aSorted c = true →
      bGet (c.foldl (fun acc e => if e.1 < n then bPut acc (a + e.1) e.2 else acc) m) x =
        if a ≤ x ∧ x < a + n then (aGet? c (x - a)).getD (bGet m x) else bGet m x := by
    intro c
    induction c with
    | nil => intro m _; simp [aGet?]
    | cons e c ih =>
      intro m h
      rw [aSorted_iff, List.pairwise_cons] at h
      have hno : aGet? c e.1 = none := aGet?_none _ _ fun d hd => by have := h.1 d hd; omega
      rw [List.foldl_cons, ih _ ((aSorted_iff c).mpr h.2)]
      simp only [aGet?]
      by_cases hx : x = a + e.1
      · subst hx
        simp only [Nat.add_sub_cancel_left, hno, if_true, Option.getD_none, Option.getD_some]
        split
        · rw [if_pos (by omega), bGet_bPut, if_pos rfl]
        · rw [if_neg (by omega)]
      · have hm : bGet (if e.1 < n then bPut m (a + e.1) e.2 else m) x = bGet m x := by
          split
          · rw [bGet_bPut, if_neg hx]
          · rfl
        rw [hm]
        split
        · rw [if_neg (by omega)]
        · rfl
  rw [bPaste, key c _ hc]
  split
  · rename_i h
    rw [bGet_bZero, if_pos h]
    rfl
  · rename_i h
    rw [bGet_bZero, if_neg h]

end

end Sys2Proof.Machine

namespace Sys2Proof.Machine

section
variable {s t : State} {j j' : Job} {b : BufDef} {n bn a o len x i k fuel : Nat} {m : Bytes}

/-! # Buffers: what is read (R124, R145, R166 to R168) -/

/-- The key of byte i of a buffer of tier 0 to 3; none where no page holds it. -/
def bufCell (s : State) (n : Nat) (j : Job) (b : BufDef) (i : Nat) : Option Nat :=
  if b.tier = 3 then (bufPage s j b ((b.offset + i) / 65536)).map fun p => locPage p + (b.offset + i) % 65536
  else some (bufBase s n j b + i)

/-- The content of one page of a range cut at pages, each byte keyed by its distance from a place. -/
def piece (m : Bytes) (f : Nat → Option Nat) (start : Nat) (c : Nat × Nat) : Bytes :=
  (f (c.1 / 65536)).elim [] fun p => (bSlice m (locPage p + c.1 % 65536) c.2).map fun e => (e.1 + (c.1 - start), e.2)

theorem aGet?_piece (f : Nat → Option Nat) {start : Nat} (hs : start ≤ o) (hk : o % 65536 + k ≤ 65536) :
    aGet? (piece m f start (o, k)) x = if o ≤ start + x ∧ start + x < o + k then
      (f ((start + x) / 65536)).bind fun p => aGet? m (locPage p + (start + x) % 65536) else none := by
  unfold piece
  dsimp only
  split
  · rename_i hx
    have hpg : (start + x) / 65536 = o / 65536 := by omega
    have hpl : (start + x) % 65536 = o % 65536 + (x - (o - start)) := by omega
    rw [hpg, hpl]
    cases f (o / 65536) with
    | none => rfl
    | some p =>
      dsimp only [Option.elim_some, Option.bind_some]
      rw [aGet?_shift, aGet?_bSlice, if_pos (by omega), if_pos (by omega), Nat.add_assoc]
  · cases f (o / 65536) with
    | none => rfl
    | some p =>
      dsimp only [Option.elim_some]
      rw [aGet?_shift, aGet?_bSlice]
      split
      · rw [if_neg (by omega)]
      · rfl

theorem piece_bounds (f : Nat → Option Nat) {start : Nat} (hs : start ≤ o) {e : Nat × Byte} (he : e ∈ piece m f start (o, k)) :
    o ≤ start + e.1 ∧ start + e.1 < o + k := by
  unfold piece at he
  dsimp only at he
  cases hp : f (o / 65536) with
  | none => simp [hp] at he
  | some p =>
    simp only [hp, Option.elim_some, List.mem_map, bSlice, List.mem_filter, Bool.and_eq_true, decide_eq_true_eq] at he
    obtain ⟨c, ⟨d, ⟨-, hd⟩, rfl⟩, rfl⟩ := he
    dsimp only
    omega

theorem aSorted_piece (f : Nat → Option Nat) (start : Nat) (c : Nat × Nat) (h : aSorted m = true) :
    aSorted (piece m f start c) = true := by
  unfold piece
  cases f (c.1 / 65536) with
  | none => rfl
  | some p => exact aSorted_shift (aSorted_bSlice h)

/-- What the pieces of a range hold. -/
theorem aGet?_pieces (f : Nat → Option Nat) {start : Nat} (hf : len = 0 ∨ o % 65536 + len ≤ fuel * 65536) (hs : start ≤ o) :
    aGet? ((cutPages fuel o len).flatMap (piece m f start)) x = if o ≤ start + x ∧ start + x < o + len then
      (f ((start + x) / 65536)).bind fun p => aGet? m (locPage p + (start + x) % 65536) else none := by
  induction fuel generalizing o len with
  | zero =>
    rw [if_neg (by omega)]
    rfl
  | succ fuel ih =>
    unfold cutPages
    split
    · rw [if_neg (by omega)]
      rfl
    · dsimp only
      generalize hk : min len (65536 - o % 65536) = k
      rw [List.flatMap_cons, aGet?_append, aGet?_piece f hs (by omega), ih (by omega) (by omega)]
      by_cases hx : o ≤ start + x ∧ start + x < o + k
      · rw [if_pos hx, if_neg (by omega), if_pos (by omega), Option.or_none]
      · rw [if_neg hx, Option.none_or]
        congr 1
        simp only [eq_iff_iff]
        omega

/-- The pieces of a range rise. -/
theorem aSorted_pieces (f : Nat → Option Nat) {start : Nat} (hs : start ≤ o) (hm : aSorted m = true) :
    aSorted ((cutPages fuel o len).flatMap (piece m f start)) = true ∧
      ∀ e ∈ (cutPages fuel o len).flatMap (piece m f start), o ≤ start + e.1 := by
  induction fuel generalizing o len with
  | zero => exact ⟨rfl, fun e he => by simp [cutPages] at he⟩
  | succ fuel ih =>
    unfold cutPages
    split
    · exact ⟨rfl, fun e he => by simp at he⟩
    · dsimp only
      generalize min len (65536 - o % 65536) = k
      obtain ⟨hsort, hle⟩ := ih (o := o + k) (len := len - k) (by omega)
      rw [List.flatMap_cons, aSorted_iff, List.pairwise_append]
      refine ⟨⟨(aSorted_iff _).mp (aSorted_piece f start _ hm), (aSorted_iff _).mp hsort, fun c hc d hd => ?_⟩, fun e he => ?_⟩
      · have := piece_bounds f hs hc
        have := hle d hd
        omega
      · rcases List.mem_append.mp he with he | he
        · exact (piece_bounds f hs he).1
        · have := hle e he
          omega

/-- A buffer of tier 3 is its pages' pieces; one of a tier below is one run of memory. -/
theorem bufSlice_pages (ht : b.tier = 3) : bufSlice s n j bn b o len =
    (pagesOfRange (b.offset + o) len).flatMap (piece s.mem.bytes (bufPage s j b) (b.offset + o)) := by
  unfold bufSlice bufRuns
  simp only [ht, if_true, Nat.sub_sub, Nat.reduceEqDiff, if_false]
  induction pagesOfRange (b.offset + o) len with
  | nil => rfl
  | cons c l ih =>
    rw [List.flatMap_cons, List.filterMap_cons, ← ih]
    unfold piece
    cases bufPage s j b (c.1 / 65536) <;> rfl

theorem bufSlice_run (ht : b.tier ≤ 2) : bufSlice s n j bn b o len =
    (bSlice s.mem.bytes (bufBase s n j b + o) len).map fun e => (e.1 + 0, e.2) := by
  unfold bufSlice bufRuns
  rw [if_neg (by omega), if_neg (by omega), if_neg (by omega), List.flatMap_singleton]

theorem aGet?_bufSlice (ht : b.tier ≤ 3) : aGet? (bufSlice s n j bn b o len) x =
    if x < len then (bufCell s n j b (o + x)).bind (aGet? s.mem.bytes) else none := by
  unfold bufCell
  by_cases h3 : b.tier = 3
  · rw [bufSlice_pages h3, pagesOfRange, aGet?_pieces _ (by omega) (le_refl _)]
    simp only [h3, if_true, Nat.add_assoc]
    by_cases hx : x < len
    · rw [if_pos (by omega), if_pos hx]
      cases bufPage s j b ((b.offset + (o + x)) / 65536) <;> rfl
    · rw [if_neg (by omega), if_neg hx]
  · rw [bufSlice_run (by omega), aGet?_shift, if_pos (Nat.zero_le x), aGet?_bSlice, if_neg h3, Nat.sub_zero]
    simp only [Option.bind_some, Nat.add_assoc]

theorem aSorted_bufSlice (ht : b.tier ≤ 3) (hm : aSorted s.mem.bytes = true) : aSorted (bufSlice s n j bn b o len) = true := by
  by_cases h3 : b.tier = 3
  · rw [bufSlice_pages h3, pagesOfRange]
    exact (aSorted_pieces _ (le_refl _) hm).1
  · rw [bufSlice_run (by omega)]
    exact aSorted_shift (aSorted_bSlice hm)

/-- Byte i of a buffer of tier 0 to 3. -/
def bufByte (s : State) (n : Nat) (j : Job) (b : BufDef) (i : Nat) : Byte :=
  ((bufCell s n j b i).bind (aGet? s.mem.bytes)).getD 0

@[simp] theorem length_bufRead : (bufRead s n j bn b o len).length = len := by simp [bufRead, bRead]

theorem getD_bufRead (ht : b.tier ≤ 3) (hi : i < len) : (bufRead s n j bn b o len).getD i 0 = bufByte s n j b (o + i) := by
  simp only [bufRead, bRead, Nat.zero_add, bGet, aGetD, aGet?_bufSlice ht, bufByte]
  simp [hi]

/-- A part of a range read is the read of the part. -/
theorem sub_bufRead (ht : b.tier ≤ 3) (h : k + x ≤ len) :
    sub (bufRead s n j bn b o len) k x = bufRead s n j bn b (o + k) x :=
  bytes_ext (by simp) fun i hi => by
    rw [length_sub] at hi
    rw [getD_sub hi, getD_bufRead ht (by omega), getD_bufRead ht hi, Nat.add_assoc]

/-- A byte of a buffer below tier 3 lies at its distance from the buffer's base. -/
theorem bufByte_run (ht : b.tier ≤ 2) : bufByte s n j b i = bGet s.mem.bytes (bufBase s n j b + i) := by
  unfold bufByte bufCell
  rw [if_neg (by omega)]
  rfl

/-- Where a job's buffers lie: the copses, glades and channels it is bound to, its regions and pages. -/
def Job.places (j : Job) : List Nat × List Nat × List Nat × List Nat × List Nat × List Nat × AMap Nat :=
  (j.copses, j.glades, j.bases, j.rangers, j.rbases, j.pages, j.work)

theorem bufBase_congr (hc : t.copses = s.copses) (hp : j'.places = j.places) : bufBase t n j' b = bufBase s n j b := by
  simp only [Job.places, Prod.mk.injEq] at hp
  obtain ⟨h1, h2, h3, h4, h5, -, -⟩ := hp
  have hk : getCopse t = getCopse s := funext (getCopse_congr hc)
  have hb : borrowsAt t n = borrowsAt s n := funext fun k => by rw [borrowsAt, borrowsAt, hk]
  unfold bufBase Job.copseOf Job.gladeOf Job.chanOf
  rw [hb, hk, h1, h2, h3, h4, h5]

theorem bufSlice_congr (ht : b.tier ≤ 3) (hm : t.mem = s.mem) (hc : t.copses = s.copses) (hr : t.commons = s.commons)
    (hp : j'.places = j.places) : bufSlice t n j' bn b o len = bufSlice s n j bn b o len := by
  by_cases h3 : b.tier = 3
  · simp only [Job.places, Prod.mk.injEq] at hp
    obtain ⟨-, -, -, -, -, h6, h7⟩ := hp
    have hpg : bufPage t j' b = bufPage s j b := funext fun pg => by simp only [bufPage, hr, h6, h7]
    rw [bufSlice_pages h3, bufSlice_pages h3, hpg, hm]
  · rw [bufSlice_run (by omega), bufSlice_run (by omega), bufBase_congr hc hp, hm]

theorem bufPoison_clean (ht : b.tier ≤ 3) (h : s.mem.poison = []) : bufPoison s n j b o len = [] := by
  unfold bufPoison
  rw [if_neg (by omega), if_pos (by simp [h])]

end

end Sys2Proof.Machine

namespace Sys2Proof.Machine

/-! # What entries of the movers, the sorters and the vector units leave alone -/

/-- A register that traces, events, wakes of banks and counts of stack accesses do not touch, nor the end of a job. -/
def calm (a : Nat) : Bool :=
  decide (a ≠ Reg.TRC_LOST ∧ a ≠ Reg.RAS_EVLOG_LOST ∧ a ≠ Reg.TBL_EPOCH_REFUSED ∧ a % 0x1000 ≠ Reg.EVT_CAUSE ∧
    a % 0x10000 ≠ Reg.GLADE_RET_WAKES ∧ a % 0x200000 < 0x180000)

/-- The words of the calm registers. -/
def calmRegs (s : State) : Nat → Word := fun a => if calm a then regGet s a else 0

section
variable {s t v : State} {u : UnitRef} {j j' : Job} {r : CalRun} {b : BufDef} {a k n o len A x : Nat} {l : List Byte}

theorem regGet_of_calm (h : calmRegs t = calmRegs s) (ha : calm a = true) : regGet t a = regGet s a := by
  have e := congrFun h a
  simpa [calmRegs, ha] using e

theorem calmRegs_congr (h : ∀ a, calm a = true → regGet t a = regGet s a) : calmRegs t = calmRegs s := funext fun a => by
  by_cases ha : calm a = true <;> simp [calmRegs, ha, h a]

theorem calmRegs_regs (h : t.regs = s.regs) : calmRegs t = calmRegs s :=
  calmRegs_congr fun a _ => by rw [regGet, regGet, h]

theorem calmRegs_setReg (h : calm a = false) (w : Word) : calmRegs (setReg s a w) = calmRegs s :=
  calmRegs_congr fun b hb => regGet_setReg_ne w fun e => by rw [e, h] at hb; cases hb

theorem not_calm_stack (i : Nat) {n : Nat} (h : n < 0x1000) : calm (stackPage i + n) = false :=
  decide_eq_false (by unfold stackPage standBase; omega)

theorem not_calm_cause {page : Nat} (h : page % 0x1000 = 0) : calm (page + Reg.EVT_CAUSE) = false :=
  decide_eq_false fun hc => hc.2.2.2.1 (by rw [Nat.add_mod, h]; rfl)

theorem calmRegs_of_trace (h : onlyTrace s t) : calmRegs t = calmRegs s :=
  calmRegs_congr fun a ha => h.regGet fun e => by subst e; revert ha; decide

theorem calmRegs_of_wakes (h : onlyWakes s t) : calmRegs t = calmRegs s :=
  calmRegs_congr fun a ha => h.2 a (of_decide_eq_true ha).2.2.2.2.1

@[simp] theorem calmRegs_updJob (f : Job → Job) : calmRegs (updJob s n f) = calmRegs s := rfl

@[simp] theorem calmRegs_countWrite : calmRegs (countWrite s a n) = calmRegs s := by
  unfold countWrite
  split
  · refine (calmRegs_regs (s := bumpPair s _ _) rfl).trans ?_
    exact (calmRegs_setReg (not_calm_stack _ (n := Reg.STACK_WR_LO + 4) (by decide)) _).trans
      (calmRegs_setReg (not_calm_stack _ (by decide)) _)
  · rfl

theorem calmRegs_post {page code part a0 a1 : Nat} (h : page % 0x1000 = 0) :
    calmRegs (post s page code part a0 a1) = calmRegs s :=
  calmRegs_congr fun a ha => by
    have hc : a ≠ page + Reg.EVT_CAUSE := fun e => by
      subst e
      rw [not_calm_cause h] at ha
      cases ha
    exact (regGet_postFlags _ _ _ _ _ _ _ (of_decide_eq_true ha).2.1).trans (if_neg hc)

theorem calPage_mod (j : Job) (c : CalDef) : calPage j c % 0x1000 = 0 := by
  unfold calPage copsePage gladePage rangerPage chanPage standBase pgDispatcher
  split
  · omega
  · split
    · omega
    · split
      · omega
      · rfl

/-- A unit's entry worked for job n: of the state at most the memory, the job, the trace, the registers, the glades, the
event logs and the host interface differ. -/
def works (n : Nat) (s t : State) : Prop :=
  t = { s with mem := t.mem, jobs := t.jobs, trace := t.trace, regs := t.regs, glades := t.glades, ras := t.ras
               host := t.host } ∧ otherJobs n s t

theorem works.refl (n : Nat) (s : State) : works n s s := ⟨rfl, fun _ _ => rfl⟩

theorem works.trans (h : works n s t) (h' : works n t v) : works n s v := by
  refine ⟨?_, h.2.trans h'.2⟩
  rw [h'.1, h.1]

/-- A step that leaves the jobs. -/
theorem works_of_jobs (h : t = { s with mem := t.mem, trace := t.trace, regs := t.regs, glades := t.glades, ras := t.ras
                                        host := t.host }) (n : Nat) : works n s t := by
  have hj : t.jobs = s.jobs := by rw [h]
  exact ⟨by rw [h], fun k _ => congrArg (aGet? · k) hj⟩

theorem works_of_trace (h : onlyTrace s t) (n : Nat) : works n s t := works_of_jobs (by rw [h.1]) n

theorem works_of_wakes (h : onlyWakes s t) (n : Nat) : works n s t := works_of_jobs (by rw [h.1]) n

theorem works_updJob (s : State) (n : Nat) (f : Job → Job) : works n s (updJob s n f) := ⟨rfl, otherJobs_updJob f⟩

theorem works_bump (s : State) (n a k : Nat) : works n s (bump s a k) := works_of_jobs rfl n

theorem works_post (s : State) (n page code part a0 a1 : Nat) : works n s (post s page code part a0 a1) := works_of_jobs rfl n

theorem works_updGlade (s : State) (n g : Nat) (f : Glade → Glade) : works n s (updGlade s g f) := works_of_jobs rfl n

theorem works.copses (h : works n s t) : t.copses = s.copses := by rw [h.1]
theorem works.commons (h : works n s t) : t.commons = s.commons := by rw [h.1]
theorem works.parts (h : works n s t) : t.parts = s.parts := by rw [h.1]
theorem works.tables (h : works n s t) : t.tables = s.tables := by rw [h.1]
theorem works.alms (h : works n s t) : t.alms = s.alms := by rw [h.1]

/-- A unit's entry worked and its job is now j. -/
def worksTo (n : Nat) (s t : State) (j : Job) : Prop := works n s t ∧ getJob t n = some j

theorem worksTo.trans (h : worksTo n s t j) (h' : worksTo n t v j') : worksTo n s v j' := ⟨h.1.trans h'.1, h'.2⟩

theorem worksTo_of_trace (h : onlyTrace s t) (hj : getJob s n = some j) : worksTo n s t j :=
  ⟨works_of_trace h n, (h.getJob n).trans hj⟩

theorem worksTo_of_wakes (h : onlyWakes s t) (hj : getJob s n = some j) : worksTo n s t j :=
  ⟨works_of_wakes h n, (h.getJob n).trans hj⟩

theorem worksTo_updJob (hj : getJob s n = some j) (f : Job → Job) : worksTo n s (updJob s n f) (f j) :=
  ⟨works_updJob s n f, getJob_updJob_self hj⟩

theorem worksTo_updCal (hj : getJob s u.job = some j) (hr : j.cals[u.cal]? = some r) (f : CalRun → CalRun) :
    worksTo u.job s (updCal s u f) (withRun j u (f r)) := ⟨works_updJob .., getJob_updCal hj hr f⟩

/-- The end of an entry: it is traced and its calendar goes on. -/
theorem worksTo_stepCal (hj : getJob s u.job = some j) (hr : j.cals[u.cal]? = some r) (i : Nat) :
    worksTo u.job s (stepCal (traceEntry s u i 1) u) (withRun j u (pastEntry r)) :=
  have h := worksTo_of_trace (onlyTrace_traceEntry s u i 1) hj
  h.trans (worksTo_updCal h.2 hr _)

theorem mem_stepCal (s : State) (u : UnitRef) (i : Nat) : (stepCal (traceEntry s u i 1) u).mem = s.mem :=
  (onlyTrace_traceEntry s u i 1).mem

theorem calmRegs_stepCal (s : State) (u : UnitRef) (i : Nat) : calmRegs (stepCal (traceEntry s u i 1) u) = calmRegs s :=
  (calmRegs_updJob _).trans (calmRegs_of_trace (onlyTrace_traceEntry s u i 1))

/-! # Buffers on the chip: what a write leaves (R124, R145, R166 to R168) -/

/-- Job n is j, and its buffer b lies on the chip from key A on. -/
def LiesAt (s : State) (n : Nat) (j : Job) (b : BufDef) (A : Nat) : Prop :=
  getJob s n = some j ∧ onChip s j b ∧ bufBase s n j b = A

/-- Memory spells the bytes from key a on. -/
def Spelt (s : State) (a : Nat) (l : List Byte) : Prop := ∀ i, i < l.length → bGet s.mem.bytes (a + i) = l.getD i 0

theorem Spelt.sub {off m : Nat} (h : Spelt s a l) (hl : off + m ≤ l.length) : Spelt s (a + off) (sub l off m) := fun i hi => by
  rw [length_sub] at hi
  rw [getD_sub hi, Nat.add_assoc]
  exact h _ (by omega)

theorem Spelt.congr (h : Spelt s a l) (hm : t.mem.bytes = s.mem.bytes) : Spelt t a l := fun i hi => by
  rw [hm]
  exact h i hi

/-- Bytes in a buffer on the chip are what memory spells there. -/
theorem LiesAt.holds {bn : Nat} (h : LiesAt s n j b A) (hs : Spelt s (A + o) l) : Holds s n bn b o l := by
  obtain ⟨hj, ⟨ht, -, -, -⟩, hA⟩ := h
  refine ⟨j, hj, bytes_ext length_bufRead fun i hi => ?_⟩
  rw [length_bufRead] at hi
  rw [getD_bufRead (by omega) hi, bufByte_run ht, hA, ← Nat.add_assoc]
  exact hs i hi

theorem LiesAt.bufRead_spelt {bn : Nat} (h : LiesAt s n j b A) : Spelt s (A + o) (bufRead s n j bn b o len) := fun i hi => by
  obtain ⟨-, ⟨ht, -, -, -⟩, hA⟩ := h
  rw [length_bufRead] at hi
  rw [getD_bufRead (by omega) hi, bufByte_run ht, hA, Nat.add_assoc]

/-- The buffer stays where it is while the job's places, the copses and the poison stay. -/
theorem LiesAt.keep (h : LiesAt s n j b A) (hw : worksTo n s t j') (hm : t.mem.poison = s.mem.poison)
    (hp : j'.places = j.places) (hq : j'.partition = j.partition) : LiesAt t n j' b A := by
  obtain ⟨-, ⟨ht, hk, ho, hc⟩, hA⟩ := h
  exact ⟨hw.2, ⟨ht, hk, by rw [ho, hq], by rw [hm, hc]⟩, by rw [bufBase_congr hw.1.copses hp, hA]⟩

/-- A write into a buffer on the chip. -/
theorem bufWrite_chip {bn : Nat} {c : Bytes} (h : LiesAt s n j b A) (hc : aSorted c = true)
    (ht : bufWrite s n bn b o len c [] = t) :
    works n s t ∧ calmRegs t = calmRegs s ∧ LiesAt t n j b A ∧
      ∀ x, bGet t.mem.bytes x = if A + o ≤ x ∧ x < A + o + len then bGet c (x - (A + o)) else bGet s.mem.bytes x := by
  have hl := h
  obtain ⟨hj, ⟨htier, hk, ho, hp⟩, hA⟩ := h
  have hstop : writeStop s j b o len = none := by
    unfold writeStop
    rw [if_neg (by simp [ho]), if_neg hk, if_neg (by omega)]
  have e : bufWrite s n bn b o len c [] = memPaste s (A + o) len (bSlice c 0 len) [] := by
    unfold bufWrite
    rw [hj]
    dsimp only
    rw [hstop]
    rw [if_neg (by simp), if_neg (by omega), if_neg (by omega), if_neg (by omega), hj]
    dsimp only
    unfold bufRuns
    rw [if_neg (by omega), hA]
    rfl
  rw [e] at ht
  have hw : works n s t := ht ▸ works_of_jobs rfl n
  have hbytes : t.mem.bytes = bPaste s.mem.bytes (A + o) len (bSlice c 0 len) ∧ t.mem.poison = [] := by
    rw [← ht]
    simp [memPaste, clearWhole, countWrite, hp]
  have hregs : calmRegs t = calmRegs s := by
    rw [← ht]
    exact calmRegs_countWrite.trans rfl
  have hj' : getJob t n = some j := by rw [← ht]; exact hj
  refine ⟨hw, hregs, hl.keep ⟨hw, hj'⟩ (hbytes.2.trans hp.symm) rfl rfl, fun x => ?_⟩
  rw [hbytes.1, bGet_bPaste (aSorted_bSlice hc)]
  split
  · rw [bGet_bSlice, if_pos (by omega), Nat.zero_add]
  · rfl

theorem bufPut_chip {bn : Nat} (h : LiesAt s n j b A) (ht : bufPut s n bn b o l = t) :
    works n s t ∧ calmRegs t = calmRegs s ∧ LiesAt t n j b A ∧ Spelt t (A + o) l ∧ bytesBut (A + o) l.length s t := by
  obtain ⟨hw, hr, hl, hb⟩ := bufWrite_chip h (aSorted_bOfList l) ht
  refine ⟨hw, hr, hl, fun i hi => ?_, fun x hx => ?_⟩
  · rw [hb, if_pos (by omega), bGet_bOfList, Nat.add_sub_cancel_left]
  · rw [hb, if_neg hx]

/-- What is written into a buffer of the job's own on a glade or a copse is not stopped at once. -/
theorem hardStop_chip (h : onChip s j b) (o len : Nat) : hardStop s j b o len = none := by
  obtain ⟨ht, hk, ho, -⟩ := h
  unfold hardStop writeStop
  rw [if_neg (by simp [ho]), if_neg hk, if_neg (by omega)]

/-! ## Many writes at places apart -/

/-- Ranges that do not meet. -/
def Apart (p q : Nat × Nat) : Prop := p.1 + p.2 ≤ q.1 ∨ q.1 + q.2 ≤ p.1

/-- Writes at places apart, each of which may read the place it writes: all are there in the end, and every other byte is
as it was. -/
theorem putAll_chip {α : Type} {bn : Nat} {pos : α → Nat} {val : State → α → List Byte} {size : α → Nat} {ws : List α}
    (h : LiesAt s n j b A) (hlen : ∀ w ∈ ws, ∀ t, (val t w).length = size w)
    (hval : ∀ w ∈ ws, ∀ v t, LiesAt v n j b A → LiesAt t n j b A →
      (∀ x, A + pos w ≤ x → x < A + pos w + size w → bGet t.mem.bytes x = bGet v.mem.bytes x) → val t w = val v w)
    (hap : ws.Pairwise fun v w => Apart (pos v, size v) (pos w, size w))
    (ht : ws.foldl (fun t w => bufPut t n bn b (pos w) (val t w)) s = t) :
    works n s t ∧ calmRegs t = calmRegs s ∧ LiesAt t n j b A ∧ (∀ w ∈ ws, Spelt t (A + pos w) (val s w)) ∧
      ∀ x, (∀ w ∈ ws, ¬(A + pos w ≤ x ∧ x < A + pos w + size w)) → bGet t.mem.bytes x = bGet s.mem.bytes x := by
  induction ws generalizing s with
  | nil =>
    subst ht
    exact ⟨.refl .., rfl, h, fun w hw => by simp at hw, fun x _ => rfl⟩
  | cons w ws ih =>
    rw [List.pairwise_cons] at hap
    rw [List.foldl_cons] at ht
    generalize h1 : bufPut s n bn b (pos w) (val s w) = s1 at ht
    obtain ⟨hw1, hr1, hl1, hs1, hb1⟩ := bufPut_chip h h1
    obtain ⟨hw2, hr2, hl2, hs2, hb2⟩ := ih hl1 (fun v hv => hlen v (by simp [hv])) (fun v hv => hval v (by simp [hv])) hap.2 ht
    rw [hlen w (by simp)] at hb1
    refine ⟨hw1.trans hw2, hr2.trans hr1, hl2, fun v hv => ?_, fun x hx => ?_⟩
    · rcases List.mem_cons.mp hv with rfl | hv
      · intro i hi
        have hi' := hi
        rw [hlen v (by simp)] at hi'
        rw [hb2 _ fun w hw => ?_]
        · exact hs1 i hi
        · have := hap.1 w hw
          unfold Apart at this
          omega
      · rw [← hval v (by simp [hv]) s s1 h hl1 fun x h₁ h₂ => hb1 x ?_]
        · exact hs2 v hv
        · have := hap.1 v hv
          unfold Apart at this
          omega
    · rw [hb2 x fun v hv => hx v (by simp [hv])]
      exact hb1 x (hx w (by simp))

end

end Sys2Proof.Machine

namespace Sys2Proof.Machine

/-! # MOVE, its completion, slot prefetches (R129, R130, R149, R189, R355, R356) -/

section
variable {s t : State} {u : UnitRef} {x : Issue} {j : Job} {m : MoveEntry} {sb db : BufDef} {n i : Nat}

/-- A job whose staging buffer begins to fill where a MOVE into it carries a layer tag (R149). -/
def fillBegun (m : MoveEntry) (db : BufDef) (j : Job) : Job :=
  if m.ltag ≠ 0 ∧ db.kind = 4 then { j with staging := aPut j.staging m.dbuf { stagingOf j m.dbuf with fill := .filling } }
  else j

/-- A fill that begins changes the job's staging alone. -/
theorem fillBegun_fields (m : MoveEntry) (db : BufDef) (j : Job) : (fillBegun m db j).places = j.places ∧
    (fillBegun m db j).partition = j.partition ∧ (fillBegun m db j).cals = j.cals ∧ (fillBegun m db j).held = j.held := by
  unfold fillBegun
  split <;> exact ⟨rfl, rfl, rfl, rfl⟩

theorem fillBegun_filling (ht : m.ltag ≠ 0) (hk : db.kind = 4) : (stagingOf (fillBegun m db j) m.dbuf).fill = .filling := by
  rw [fillBegun, if_pos ⟨ht, hk⟩, stagingOf]
  dsimp only
  rw [aGetD_aPut, if_pos rfl]

/-- The state in which a MOVE copies: it is traced, its destination begins to fill, the banks it reaches are awake. -/
def moveReady (s : State) (u : UnitRef) (x : Issue) (m : MoveEntry) (db : BufDef) : State :=
  touchBuf (touchBuf (beginFill (traceEntry s u x.run.pc 0) u.job m db) u.job m.sbuf m.soff m.len x.alm)
    u.job m.dbuf m.doff m.len x.alm

theorem moveReady_worksTo (hj : getJob s u.job = some x.job) :
    worksTo u.job s (moveReady s u x m db) (fillBegun m db x.job) ∧ (moveReady s u x m db).mem = s.mem := by
  have h1 := onlyTrace_traceEntry s u x.run.pc 0
  have hw1 := worksTo_of_trace h1 hj
  have h2 : worksTo u.job s (beginFill (traceEntry s u x.run.pc 0) u.job m db) (fillBegun m db x.job) ∧
      (beginFill (traceEntry s u x.run.pc 0) u.job m db).mem = s.mem := by
    unfold beginFill fillBegun
    split
    · exact ⟨hw1.trans (worksTo_updJob hw1.2 _), h1.mem⟩
    · exact ⟨hw1, h1.mem⟩
  unfold moveReady
  generalize beginFill _ _ _ _ = w at h2
  have h3 := onlyWakes_touchBuf w u.job m.sbuf m.soff m.len x.alm
  have h4 := onlyWakes_touchBuf (touchBuf w u.job m.sbuf m.soff m.len x.alm) u.job m.dbuf m.doff m.len x.alm
  have h5 := worksTo_of_wakes (h3.trans h4) h2.1.2
  exact ⟨h2.1.trans h5, ((h3.trans h4).mem).trans h2.2⟩

theorem issueMove_waits (h : issueOf s u 4 = some x) (hs : bufOf x.alm (moveFields x.entry).sbuf = some sb)
    (hd : bufOf x.alm (moveFields x.entry).dbuf = some db) (hf : flashInFlight x = true) : issueMove s u = s := by
  unfold issueMove
  rw [h]
  dsimp only
  rw [hs, hd]
  exact if_pos hf

/-- A MOVE from a buffer of the job's own on the chip or in a stack, all of whose checks pass. -/
theorem issueMove_starts (h : issueOf s u 4 = some x) (hm : moveFields x.entry = m) (hs : bufOf x.alm m.sbuf = some sb)
    (hd : bufOf x.alm m.dbuf = some db) (hf : flashInFlight x = false) (hr : mayRead x.job sb = true)
    (ho : sourceOk s sb m.soff m.len = true) (hw : writeStop s x.job db m.doff m.len = none) (ht : sb.tier ≤ 3)
    (hp : sb.owner = x.job.partition) :
    issueMove s u = launchCal (copyMove (moveReady s u x m db) u.job m sb db) u := by
  have hstop : hardStop s x.job db m.doff m.len = none := by
    unfold hardStop
    rw [hw]
  have hprom : ∀ v, promoteRead v x m sb = v := fun v => by
    unfold promoteRead
    exact if_neg fun hc => hc.2.2.2.2 (hp.symm.trans hc.2.2.1)
  unfold issueMove
  rw [h]
  dsimp only
  rw [hm, hs, hd]
  dsimp only
  rw [if_neg (by simp [hf]), if_neg (by simp [hr]), if_neg (by simp [ho]), hstop]
  dsimp only
  rw [if_neg (by omega), if_neg (by omega)]
  unfold startMove
  dsimp only
  rw [if_neg (by omega), if_neg (by omega), hprom]
  rfl

/-- What a plain MOVE writes: the bytes of its source as they were when it was issued. -/
theorem copyMove_ready (hj : getJob s u.job = some x.job) (hx : m.xform = 0) (ht : sb.tier ≤ 3) (hp : s.mem.poison = []) :
    copyMove (moveReady s u x m db) u.job m sb db = bufWrite (moveReady s u x m db) u.job m.dbuf db m.doff m.len
      (bufSlice s u.job x.job m.sbuf sb m.soff m.len) [] := by
  obtain ⟨⟨hw, hj2⟩, hm⟩ := moveReady_worksTo (m := m) (db := db) hj
  unfold copyMove
  rw [hj2]
  dsimp only
  rw [if_neg (by omega), if_neg (by omega), if_neg (by omega), bufPoison_clean ht (by rw [hm, hp]),
    bufSlice_congr ht hm hw.copses hw.commons (fillBegun_fields ..).1]

/-- A MOVE onto the chip (R129, R149). -/
theorem move_copies {A : Nat} (h : issueOf s u 4 = some x) (hm : moveFields x.entry = m) (hs : bufOf x.alm m.sbuf = some sb)
    (hd : bufOf x.alm m.dbuf = some db) (hf : flashInFlight x = false) (hr : mayRead x.job sb = true)
    (ho : sourceOk s sb m.soff m.len = true) (hc : onChip s x.job db) (hx : m.xform = 0) (ht : sb.tier ≤ 3)
    (hp : sb.owner = x.job.partition) (hwf : Memory.wf s.mem = true) (hA : bufBase s u.job x.job db = A)
    (hv : issueMove s u = t) : LiesAt t u.job (withRun (fillBegun m db x.job) u (launched x.run)) db A ∧ works u.job s t ∧
      Spelt t (A + m.doff) (bufRead s u.job x.job m.sbuf sb m.soff m.len) ∧ bytesBut (A + m.doff) m.len s t := by
  obtain ⟨hj, -, hrun, -⟩ := issueOf_some h
  obtain ⟨htier, hk, hown, hpoi⟩ := hc
  have hstop : writeStop s x.job db m.doff m.len = none := by
    unfold writeStop
    rw [if_neg (by simp [hown]), if_neg hk, if_neg (by omega)]
  obtain ⟨hwj, hmem⟩ := moveReady_worksTo (m := m) (db := db) hj
  obtain ⟨hplaces, hpart, hcals, -⟩ := fillBegun_fields m db x.job
  have hlies : LiesAt (moveReady s u x m db) u.job (fillBegun m db x.job) db A :=
    LiesAt.keep ⟨hj, ⟨htier, hk, hown, hpoi⟩, hA⟩ hwj (by rw [hmem]) hplaces hpart
  have hsort : aSorted (bufSlice s u.job x.job m.sbuf sb m.soff m.len) = true := by
    have hb : bytesWf s.mem.bytes = true := hwf
    rw [bytesWf, Bool.and_eq_true] at hb
    exact aSorted_bufSlice ht hb.1
  rw [issueMove_starts h hm hs hd hf hr ho hstop ht hp, copyMove_ready hj hx ht hpoi] at hv
  generalize hw : bufWrite _ _ _ _ _ _ _ _ = w at hv
  obtain ⟨hw2, -, hl2, hb2⟩ := bufWrite_chip hlies hsort hw
  subst hv
  have hrun' : (fillBegun m db x.job).cals[u.cal]? = some x.run := hcals ▸ hrun
  have hwl := worksTo_updCal hl2.1 hrun' launched
  refine ⟨hl2.keep hwl rfl rfl rfl, (hwj.1.trans hw2).trans hwl.1, fun i hi => ?_, fun y hy => ?_⟩
  · rw [length_bufRead] at hi
    refine (hb2 _).trans ?_
    rw [if_pos (by omega), Nat.add_sub_cancel_left, bufRead, bRead]
    simp [hi]
  · refine (hb2 y).trans ?_
    rw [if_neg hy, hmem]

theorem bufWrite_held {bn o len : Nat} {b : BufDef} {c : Bytes} {bad : List Nat} {e : Extent} (hj : getJob s n = some j)
    (hw : writeStop s j b o len = none) (ht : b.tier = 4) (he : extentOf s b = some e) :
    bufWrite s n bn b o len c bad = updJob s n fun j => { j with
      held := j.held ++ [⟨b.owner, e.offset + b.offset + o, bRead c 0 len, !bad.isEmpty⟩] } := by
  unfold bufWrite
  rw [hj]
  dsimp only
  rw [hw]
  dsimp only [Option.isSome]
  rw [if_neg (by simp), if_pos ht, he]

/-- A MOVE into an extent is held (R139, R145). -/
theorem move_holds {e : Extent} (h : issueOf s u 4 = some x) (hm : moveFields x.entry = m) (hs : bufOf x.alm m.sbuf = some sb)
    (hd : bufOf x.alm m.dbuf = some db) (hf : flashInFlight x = false) (hr : mayRead x.job sb = true)
    (ho : sourceOk s sb m.soff m.len = true) (h4 : db.tier = 4) (he : extentOf s db = some e) (hk : db.kind ≠ 1)
    (hown : db.owner = x.job.partition) (hlen : db.offset + m.doff + m.len ≤ e.length) (hx : m.xform = 0) (ht : sb.tier ≤ 3)
    (hp : sb.owner = x.job.partition) (hpoi : s.mem.poison = []) (hv : issueMove s u = t) :
    t.mem = s.mem ∧ ∃ j', getJob t u.job = some j' ∧ j'.cals = x.job.cals.set u.cal (launched x.run) ∧
      j'.held = x.job.held ++
        [⟨db.owner, e.offset + db.offset + m.doff, bufRead s u.job x.job m.sbuf sb m.soff m.len, false⟩] := by
  obtain ⟨hj, -, hrun, -⟩ := issueOf_some h
  have hstop : ∀ v j', v.parts = s.parts → j'.partition = x.job.partition → extentOf v db = some e ∧
      writeStop v j' db m.doff m.len = none := fun v j' hv hq => by
    have he' : extentOf v db = some e := by rw [← he, extentOf, extentOf, getPart, getPart, hv]
    refine ⟨he', ?_⟩
    unfold writeStop
    rw [if_neg (by simp [hown, hq]), if_neg hk, if_pos h4, he']
    exact if_pos hlen
  obtain ⟨⟨hw, hj2⟩, hmem⟩ := moveReady_worksTo (m := m) (db := db) hj
  obtain ⟨-, hpart, hcals, hheld⟩ := fillBegun_fields m db x.job
  obtain ⟨he2, hstop2⟩ := hstop _ (fillBegun m db x.job) hw.parts hpart
  rw [issueMove_starts h hm hs hd hf hr ho (hstop s x.job rfl rfl).2 ht hp, copyMove_ready hj hx ht hpoi,
    bufWrite_held hj2 hstop2 h4 he2] at hv
  have hrun' : (fillBegun m db x.job).cals[u.cal]? = some x.run := hcals ▸ hrun
  rw [← hv]
  refine ⟨hmem, _, getJob_updCal (getJob_updJob_self hj2) hrun' _, congrArg (·.set u.cal (launched x.run)) hcals, congrArg (· ++ _) hheld⟩

/-- A job whose tagged staging buffer became full by a MOVE (R130). -/
def fillEnded (m : MoveEntry) (db : BufDef) (j : Job) : Job :=
  { j with staging := if m.ltag ≠ 0 ∧ db.kind = 4 then aPut j.staging m.dbuf ⟨.full, m.ltag⟩ else j.staging }

/-- The oldest MOVE in flight ends, whose source is no extent (R130). -/
theorem finishMove_ends {a : Alm} {c : CalDef} {r : CalRun} (h : calOf s u = some (j, a, c, r))
    (hi : r.inFlight.find? (fun i => entryClass (c.entries.getD i 0) == 4) = some i)
    (hm : moveFields (c.entries.getD i 0) = m) (hs : bufOf a m.sbuf = some sb) (hd : bufOf a m.dbuf = some db)
    (hacc : accessesOf s 1 (moveWaiter u i) = []) (ht : sb.tier ≠ 4) :
    goesTo u.job s (finishMove s u)
      (withRun (fillEnded m db j) u { r with inFlight := r.inFlight.filter (· != i) }) := by
  have hjr : getJob s u.job = some j ∧ j.cals[u.cal]? = some r := by
    unfold calOf at h
    split at h
    · cases h
    · rename_i j' hj
      split at h
      · cases h
      · split at h
        · rename_i hr
          cases h
          exact ⟨hj, hr⟩
        · cases h
  have e : finishMove s u = landCal (traceEntry (if m.ltag ≠ 0 ∧ db.kind = 4 then
      updJob s u.job fun j => { j with staging := aPut j.staging m.dbuf ⟨.full, m.ltag⟩ } else s) u i 1) u i := by
    unfold finishMove
    rw [h]
    dsimp only
    rw [hi]
    dsimp only
    rw [hm, hs, hd]
    dsimp only
    rw [if_neg (by simp [hacc]), if_neg ht]
  have hfill : goesTo u.job s (if m.ltag ≠ 0 ∧ db.kind = 4 then
      updJob s u.job fun j => { j with staging := aPut j.staging m.dbuf ⟨.full, m.ltag⟩ } else s) (fillEnded m db j) := by
    unfold fillEnded
    split
    · exact goesTo_updJob hjr.1 _
    · exact ⟨.refl .., hjr.1⟩
  rw [e]
  exact (hfill.trace (onlyTrace_traceEntry ..)).updCal (r := r) hjr.2 fun r => { r with inFlight := r.inFlight.filter (· != i) }

/-- A slot written in the day arrives in the hub mover's window (R355, R356). -/
theorem prefetchSlot_arrives {bn slot seq : Nat} {tagOk : Bool} {plain : List Byte} {h : HostSlot} (hj : getJob s n = some j)
    (hh : aGet? j.slots (slotKey bn slot) = some h) (hb : j.isBound = true) (hf : j.finished = false) (hd : h.thisDay = true)
    (hn : (fetchedSlot j bn slot).isNone = true)
    (hp : j.prefetched.length < getF s Reg.ADPT_OFFLOAD_CFG Fld.ADPT_OFFLOAD_CFG_pf_depth) :
    prefetchSlot s n bn slot tagOk plain seq = updJob s n fun j => { j with
      prefetched := j.prefetched ++ [⟨bn, slot, tagOk && seq == h.seq, bOfList plain⟩] } := by
  unfold prefetchSlot
  rw [hj]
  dsimp only
  rw [hh]
  refine if_neg ?_
  rw [Option.isNone_iff_eq_none] at hn
  simp [hb, hf, hd, hn]
  omega

end

end Sys2Proof.Machine

namespace Sys2Proof.Machine

/-! # GATHER and SCATTER (R131, R314 to R316, R325) -/

section
variable {s t : State} {u : UnitRef} {x : Issue} {j : Job} {db : BufDef} {pin : TablePin} {tab : Table} {n i k r : Nat}
  {l : List Nat}

theorem mem_insertNat : k ∈ insertNat n l ↔ k = n ∨ k ∈ l := by
  induction l with
  | nil => simp [insertNat]
  | cons y l ih =>
    unfold insertNat
    split
    · simp
    · split
      · rename_i h
        subst h
        simp
      · simp only [List.mem_cons, ih]
        tauto

theorem mem_distinct : k ∈ distinct l ↔ k ∈ l := by
  induction l with
  | nil => simp [distinct]
  | cons y l ih =>
    rw [distinct, List.foldr_cons, mem_insertNat, List.mem_cons]
    exact or_congr_right ih

theorem sorted_insertNat (h : l.Pairwise (· < ·)) : (insertNat n l).Pairwise (· < ·) := by
  induction l with
  | nil => exact List.pairwise_singleton ..
  | cons y l ih =>
    have hyl := h
    rw [List.pairwise_cons] at h
    unfold insertNat
    split
    · refine List.pairwise_cons.mpr ⟨fun z hz => ?_, hyl⟩
      rcases List.mem_cons.mp hz with rfl | hz
      · assumption
      · have := h.1 z hz
        omega
    · split
      · exact hyl
      · refine List.pairwise_cons.mpr ⟨fun z hz => ?_, ih h.2⟩
        rcases mem_insertNat.mp hz with rfl | hz
        · omega
        · exact h.1 z hz

theorem nodup_distinct (l : List Nat) : (distinct l).Nodup := by
  have h : (distinct l).Pairwise (· < ·) := by
    induction l with
    | nil => exact .nil
    | cons y l ih => exact sorted_insertNat ih
  exact h.imp fun hlt => Nat.ne_of_lt hlt

theorem aGet?_graph {α : Type} (f : Nat → α) (l : List Nat) (k : Nat) :
    aGet? (l.map fun r => (r, f r)) k = if k ∈ l then some (f k) else none := by
  induction l with
  | nil => rfl
  | cons y l ih =>
    simp only [List.map_cons, aGet?, ih, List.mem_cons]
    grind

/-! ## The parts of a GATHER -/

/-- The bytes that a GATHER gives for an index: its row in the format asked for, zeros for an index out of range. -/
def gatherOut (s : State) (j : Job) (pin : TablePin) (tab : Table) (opt r : Nat) : List Byte :=
  if r < tab.rows then rowOut tab.dim tab.fmt opt (liveRow s j pin tab r)
  else zeros (if opt = 3 then tab.stride else tab.dim * (if opt = 2 then 4 else 2))

theorem length_rowOut (dim fmt : Nat) {opt : Nat} (row : List Byte) :
    (rowOut dim fmt opt row).length = if opt = 3 then row.length else dim * if opt = 2 then 4 else 2 := by
  unfold rowOut
  split
  · rfl
  · rw [length_flatMap_const (k := if opt = 2 then 4 else 2) fun i _ => length_toLe .., List.length_range]

theorem length_homeRow : (homeRow s j pin tab r).length = tab.stride := by simp [homeRow]

theorem length_liveRow (h : ∀ z, aGet? pin.hot r = some z → z.copy.length = tab.stride) :
    (liveRow s j pin tab r).length = tab.stride := by
  unfold liveRow
  split
  · rename_i z hz
    split
    · exact h z hz
    · exact length_homeRow
  · exact length_homeRow

/-- What a GATHER gives for an index has its place within the spacing. -/
theorem length_gatherOut_le {opt : Nat} (h : opt = 3 → ∀ r z, aGet? pin.hot r = some z → z.copy.length = tab.stride) :
    (gatherOut s j pin tab opt r).length ≤ rowSpacing tab.dim tab.fmt opt := by
  have hs : (gatherOut s j pin tab opt r).length = if opt = 3 then tab.stride else tab.dim * if opt = 2 then 4 else 2 := by
    unfold gatherOut
    split
    · rw [length_rowOut]
      split
      · rename_i h3
        rw [length_liveRow (h h3 r)]
      · rfl
    · simp [zeros]
  rw [hs, rowSpacing]
  split
  · exact le_refl _
  · rw [Nat.mul_comm]
    omega

/-- The indices out of range are counted; nothing but an event, the host's notice of it and the count shows. -/
theorem outOfRange_counts (s : State) (n page table rows : Nat) (hp : page % 0x1000 = 0) (l : List Nat) :
    works n s (outOfRange s j page table rows l) ∧ (outOfRange s j page table rows l).mem = s.mem ∧
      (outOfRange s j page table rows l).jobs = s.jobs ∧
      (regGet (outOfRange s j page table rows l) Reg.TBL_OOR).toNat =
        min ((regGet s Reg.TBL_OOR).toNat + (l.filter fun r => decide (rows ≤ r)).length) 0xFFFFFFFF := by
  unfold outOfRange
  split
  · rename_i h
    have hno : l.filter (fun r => decide (rows ≤ r)) = [] :=
      List.filter_eq_nil_iff.mpr fun r hr => List.find?_eq_none.mp h r hr
    have := (regGet s Reg.TBL_OOR).isLt
    refine ⟨.refl .., rfl, rfl, ?_⟩
    rw [hno, List.length_nil]
    omega
  · rename_i r _
    refine ⟨(works_post ..).trans (works_bump ..), rfl, rfl, ?_⟩
    rw [regGet_bump, regGet_of_calm (calmRegs_post hp) (by decide)]

theorem pairwise_zipIdx {α : Type} (l : List α) : l.zipIdx.Pairwise fun v w => v.2 < w.2 := by
  have h : (l.zipIdx.map Prod.snd).Pairwise (· < ·) := by
    rw [List.zipIdx_map_snd]
    exact List.pairwise_lt_range'
  exact List.pairwise_map.mp h

theorem apart_spaced {sp o p q a b : Nat} (h : p < q) (ha : a ≤ sp) : Apart (o + p * sp, a) (o + q * sp, b) := by
  have : (p + 1) * sp ≤ q * sp := Nat.mul_le_mul_right sp h
  rw [Nat.succ_mul] at this
  unfold Apart
  dsimp only
  omega

end

end Sys2Proof.Machine

namespace Sys2Proof.Machine

section
variable {s t : State} {u : UnitRef} {x : Issue} {j : Job} {e : RowEntry} {sb db : BufDef} {pin : TablePin} {tab : Table}
  {n i k r A : Nat} {raw src : List Byte}

/-- The state in which a GATHER writes: it is traced, its indices out of range, its NaNs and its hot rows are counted, the
banks it reaches are awake. -/
def gatherReady (s : State) (u : UnitRef) (x : Issue) (e : RowEntry) (tab : Table) (l : List Nat) (nans hits : Nat) : State :=
  touchBuf (bump (bump (outOfRange (traceEntry s u x.run.pc 0) x.job (calPage x.job x.cal) e.table tab.rows l)
    Reg.TBL_NAN nans) Reg.TBL_HOT_HIT hits) u.job e.dbuf e.doff (rowSpacing tab.dim tab.fmt e.opt * e.count) x.alm

theorem gatherReady_counts (s : State) (u : UnitRef) (x : Issue) (e : RowEntry) (tab : Table) (l : List Nat) (nans hits : Nat)
    (hj : getJob s u.job = some x.job) : worksTo u.job s (gatherReady s u x e tab l nans hits) x.job ∧
      (gatherReady s u x e tab l nans hits).mem = s.mem ∧ (regGet (gatherReady s u x e tab l nans hits) Reg.TBL_OOR).toNat =
        min ((regGet s Reg.TBL_OOR).toNat + (l.filter fun r => decide (tab.rows ≤ r)).length) 0xFFFFFFFF := by
  have h0 := onlyTrace_traceEntry s u x.run.pc 0
  obtain ⟨hw, hm, hjobs, hcount⟩ := outOfRange_counts (j := x.job) (traceEntry s u x.run.pc 0) u.job (calPage x.job x.cal) e.table
    tab.rows (calPage_mod ..) l
  unfold gatherReady
  generalize outOfRange _ _ _ _ _ _ = v at hw hm hjobs hcount
  have hv : getJob v u.job = some x.job := (congrArg (aGet? · u.job) hjobs).trans ((h0.getJob u.job).trans hj)
  have h1 := onlyWakes_touchBuf (bump (bump v Reg.TBL_NAN nans) Reg.TBL_HOT_HIT hits) u.job e.dbuf e.doff
    (rowSpacing tab.dim tab.fmt e.opt * e.count) x.alm
  refine ⟨⟨?_, ?_⟩, ?_, ?_⟩
  · exact (works_of_trace h0 _).trans (hw.trans ((works_bump ..).trans ((works_bump ..).trans (works_of_wakes h1 _))))
  · exact (h1.getJob _).trans hv
  · exact h1.mem.trans (hm.trans h0.mem)
  · rw [regGet_of_calm (calmRegs_of_wakes h1) (by decide), regGet_bump_ne (by decide), regGet_bump_ne (by decide), hcount,
      h0.regGet (by decide)]

/-- What a GATHER writes and where, by the places of its index list. -/
def gatherPut (s : State) (u : UnitRef) (x : Issue) (e : RowEntry) (db : BufDef) (pin : TablePin) (tab : Table) (v : State)
    (w : Nat × Nat) : State :=
  bufPut v u.job e.dbuf db (e.doff + w.2 * rowSpacing tab.dim tab.fmt e.opt) (gatherOut s x.job pin tab e.opt w.1)

/-- A GATHER whose rows wait for no token and whose list is whole. -/
theorem issueGather_eq (h : issueOf s u 5 = some x) (he : rowFields x.entry = e) (h1 : 1 ≤ e.table) (h2 : e.table ≤ 255)
    (hp : pinOf x.job e.table x.cal.glade = some (pin, i)) (hd : bufOf x.alm e.dbuf = some db)
    (ht : aGet? s.tables (tabKey x.job.partition e.table) = some tab)
    (hr : consume s u.job x.job x.alm e.ibuf e.ioff (4 * e.count) = (raw, false))
    (hw : tokenWait pin (distinct ((indexList raw e.count).filter fun r => decide (r < tab.rows))) = false)
    (hc : onChip s x.job db) : ∃ nans hits, issueGather s u = stepCal (traceEntry ((indexList raw e.count).zipIdx.foldl
      (gatherPut s u x e db pin tab) (gatherReady s u x e tab (indexList raw e.count) nans hits)) u x.run.pc 1) u := by
  obtain ⟨-, -, -, hpoi⟩ := id hc
  have hclean : ∀ r, rowPoison s x.job pin tab r = false := fun r => if_pos (by simp [hpoi])
  unfold issueGather
  rw [h]
  dsimp only
  rw [he, if_neg (by omega), hp, ht, hd]
  dsimp only
  rw [hr]
  dsimp only
  rw [if_neg (by simp [hw]), if_neg (by simp [hclean]), hardStop_chip hc]
  refine ⟨_, _, congrArg (fun v => stepCal (traceEntry v u x.run.pc 1) u) (List.foldl_ext _ _ _ fun v w hw' => ?_)⟩
  have hmem : w.1 ∈ indexList raw e.count := List.fst_mem_of_mem_zipIdx hw'
  rw [gatherPut, gatherOut, List.map_map]
  congr 1
  rw [show ((fun r : Nat × List Byte => (r.1, rowOut tab.dim tab.fmt e.opt r.2)) ∘ fun r => (r, liveRow s x.job pin tab r)) =
    fun r => (r, rowOut tab.dim tab.fmt e.opt (liveRow s x.job pin tab r)) from rfl, aGet?_graph]
  simp only [mem_distinct, List.mem_filter, hmem, true_and, decide_eq_true_eq]
  by_cases hlt : w.1 < tab.rows <;> simp only [hlt, if_true, if_false]

/-- A GATHER writes each listed row at its position (R314, R316). -/
theorem gather_writes (h : issueOf s u 5 = some x) (he : rowFields x.entry = e) (h1 : 1 ≤ e.table) (h2 : e.table ≤ 255)
    (hp : pinOf x.job e.table x.cal.glade = some (pin, i)) (hd : bufOf x.alm e.dbuf = some db)
    (ht : aGet? s.tables (tabKey x.job.partition e.table) = some tab)
    (hr : consume s u.job x.job x.alm e.ibuf e.ioff (4 * e.count) = (raw, false))
    (hw : tokenWait pin (distinct ((indexList raw e.count).filter fun r => decide (r < tab.rows))) = false)
    (hc : onChip s x.job db)
    (hcopy : e.opt = 3 → ∀ r z, aGet? pin.hot r = some z → z.copy.length = tab.stride)
    (hA : bufBase s u.job x.job db = A) (hv : issueGather s u = t) :
    LiesAt t u.job (withRun x.job u (pastEntry x.run)) db A ∧ works u.job s t ∧
      bytesBut (A + e.doff) (rowSpacing tab.dim tab.fmt e.opt * e.count) s t ∧
      (regGet t Reg.TBL_OOR).toNat = min ((regGet s Reg.TBL_OOR).toNat +
        ((indexList raw e.count).filter fun r => decide (tab.rows ≤ r)).length) 0xFFFFFFFF ∧
      ∀ p, p < e.count → Spelt t (A + (e.doff + p * rowSpacing tab.dim tab.fmt e.opt))
        (gatherOut s x.job pin tab e.opt ((indexList raw e.count).getD p 0)) := by
  obtain ⟨hj, -, hrun, -⟩ := issueOf_some h
  obtain ⟨nans, hits, heq⟩ := issueGather_eq h he h1 h2 hp hd ht hr hw hc
  generalize hl : indexList raw e.count = l at heq ⊢
  have hlen : l.length = e.count := by rw [← hl, indexList, List.length_map, List.length_range]
  obtain ⟨hw1, hm1, hcount⟩ := gatherReady_counts s u x e tab l nans hits hj
  have hl1 : LiesAt (gatherReady s u x e tab l nans hits) u.job x.job db A :=
    LiesAt.keep ⟨hj, hc, hA⟩ hw1 (by rw [hm1]) rfl rfl
  generalize gatherReady s u x e tab l nans hits = v at heq hw1 hm1 hcount hl1
  generalize hz : l.zipIdx.foldl (gatherPut s u x e db pin tab) v = z at heq
  have hle : ∀ r, (gatherOut s x.job pin tab e.opt r).length ≤ rowSpacing tab.dim tab.fmt e.opt := fun r =>
    length_gatherOut_le hcopy
  obtain ⟨hw2, hr2, hl2, hs2, hb2⟩ := putAll_chip (pos := fun w : Nat × Nat => e.doff + w.2 * rowSpacing tab.dim tab.fmt e.opt)
    (val := fun _ w => gatherOut s x.job pin tab e.opt w.1) (size := fun w => (gatherOut s x.job pin tab e.opt w.1).length)
    hl1 (fun _ _ _ => rfl) (fun _ _ _ _ _ _ _ => rfl)
    ((pairwise_zipIdx l).imp fun hlt => apart_spaced hlt (hle _)) hz
  rw [heq] at hv
  subst hv
  have hw3 := worksTo_stepCal hl2.1 hrun x.run.pc
  refine ⟨hl2.keep hw3 (by rw [mem_stepCal]) rfl rfl, (hw1.1.trans hw2).trans hw3.1, fun y hy => ?_, ?_, fun p hpc => ?_⟩
  · rw [mem_stepCal, hb2 y fun w hwz => ?_, hm1]
    have hlt : w.2 < e.count := by rw [← hlen]; exact List.snd_lt_of_mem_zipIdx hwz
    have : (w.2 + 1) * rowSpacing tab.dim tab.fmt e.opt ≤ e.count * rowSpacing tab.dim tab.fmt e.opt :=
      Nat.mul_le_mul_right _ hlt
    have := hle w.1
    rw [Nat.succ_mul] at *
    rw [Nat.mul_comm _ e.count] at hy
    omega
  · rw [regGet_of_calm (calmRegs_stepCal ..) (by decide), regGet_of_calm hr2 (by decide), hcount]
  · have hmem : (l.getD p 0, p) ∈ l.zipIdx := by
      rw [List.mem_zipIdx_iff_getElem?]
      simp [hlen, hpc]
    exact (hs2 _ hmem).congr (by rw [mem_stepCal])

end

end Sys2Proof.Machine

namespace Sys2Proof.Machine

section
variable {s t v : State} {u : UnitRef} {x : Issue} {j : Job} {e : RowEntry} {pin pin' : TablePin} {tab : Table}
  {n i k r w off : Nat} {raw src row l : List Byte} {h : HotRow} {idx : List Nat}

/-! ## SCATTER (R315, R325) -/

theorem pinOf_some {glade table : Nat} (hp : pinOf j table glade = some (pin, i)) : j.tables[i]? = some pin ∧ pin.table = table := by
  have hm := List.mem_of_find?_eq_some hp
  have hq := List.find?_some hp
  simp only [Bool.and_eq_true, beq_iff_eq] at hq
  exact ⟨List.mem_zipIdx_iff_getElem?.mp hm, hq.1⟩

theorem homeRow_congr (hm : t.mem = s.mem) (ht : t.tables = s.tables) : homeRow t j pin tab r = homeRow s j pin tab r := by
  have hp : tablePageOf t j pin = tablePageOf s j pin := funext fun pg => by simp only [tablePageOf, ht]
  unfold homeRow
  rw [hp, hm]

/-- The requantised value that a SCATTER gives a row with the bytes given. -/
def scatterValue (tab : Table) (e : RowEntry) (idx : List Nat) (src : List Byte) (row : List Byte) (r : Nat) : Requant :=
  requantise tab.dim tab.fmt (combineRow e.opt tab.dim ((List.range tab.dim).map (rowElem fmtFP32 tab.fmt row))
    ((idx.zipIdx.filter fun p => p.1 == r).map fun p =>
      (List.range tab.dim).map fun k => leAt src (p.2 * rowSpacing tab.dim tab.fmt 2 + 4 * k) 4))

theorem scatterValue_ne_nil : (scatterValue tab e idx src row r).row ≠ [] := by
  intro hn
  have hl := congrArg List.length hn
  simp [scatterValue, requantise] at hl

/-- One row of a SCATTER: decoded, combined, quantised again and written, its NaNs and clamps counted. -/
def scatterRow (u : UnitRef) (i : Nat) (pin : TablePin) (tab : Table) (e : RowEntry) (idx : List Nat) (src : List Byte) (r : Nat)
    (v : State) : Option State :=
  let row := match getJob v u.job with | some j => liveRow v j pin tab r | none => []
  let q := scatterValue tab e idx src row r
  (writeRow v u.job i tab r q.row).map fun v1 =>
    bump (bump v1 Reg.TBL_NAN (q.nans + (if e.opt = 0 && rowNan row then 1 else 0))) Reg.TBL_REQ_CLAMP q.clamps

/-- The rows of a SCATTER, one after the other. -/
def scatterRows (u : UnitRef) (i : Nat) (pin : TablePin) (tab : Table) (e : RowEntry) (idx : List Nat) (src : List Byte)
    (rows : List Nat) (v : State) : Option State :=
  rows.foldl (fun acc r => acc.bind (scatterRow u i pin tab e idx src r)) (some v)

/-- The state in which a SCATTER writes: it is traced, its indices out of range are counted. -/
def scatterReady (s : State) (u : UnitRef) (x : Issue) (e : RowEntry) (tab : Table) (idx : List Nat) : State :=
  outOfRange (traceEntry s u x.run.pc 0) x.job (calPage x.job x.cal) e.table tab.rows idx

theorem scatterReady_worksTo (hj : getJob s u.job = some x.job) :
    worksTo u.job s (scatterReady s u x e tab idx) x.job ∧ (scatterReady s u x e tab idx).mem = s.mem := by
  have h0 := onlyTrace_traceEntry s u x.run.pc 0
  obtain ⟨hw, hm, hjobs, -⟩ := outOfRange_counts (j := x.job) (traceEntry s u x.run.pc 0) u.job (calPage x.job x.cal) e.table
    tab.rows (calPage_mod ..) idx
  exact ⟨⟨(works_of_trace h0 _).trans hw, (congrArg (aGet? · u.job) hjobs).trans ((h0.getJob u.job).trans hj)⟩, hm.trans h0.mem⟩

/-- A SCATTER whose rows wait for no token and whose operands are whole. -/
theorem issueScatter_eq (hi : issueOf s u 6 = some x) (he : rowFields x.entry = e) (h1 : 1 ≤ e.table) (h2 : e.table ≤ 255)
    (hp : pinOf x.job e.table x.cal.glade = some (pin, i))
    (ht : aGet? s.tables (tabKey x.job.partition e.table) = some tab)
    (hr : consume s u.job x.job x.alm e.ibuf e.ioff (4 * e.count) = (raw, false))
    (hs : consume s u.job x.job x.alm e.dbuf e.doff (rowSpacing tab.dim tab.fmt 2 * e.count) = (src, false))
    (hw : tokenWait pin (distinct ((indexList raw e.count).filter fun r => decide (r < tab.rows))) = false)
    (hpoi : s.mem.poison = [])
    (hv : scatterRows u i pin tab e (indexList raw e.count) src
      (distinct ((indexList raw e.count).filter fun r => decide (r < tab.rows)))
      (scatterReady s u x e tab (indexList raw e.count)) = some v) :
    issueScatter s u = stepCal (traceEntry v u x.run.pc 1) u := by
  have hclean : ∀ r, rowPoison s x.job pin tab r = false := fun r => if_pos (by simp [hpoi])
  unfold issueScatter
  rw [hi]
  dsimp only
  rw [he, if_neg (by omega), hp, ht]
  dsimp only
  rw [hr]
  dsimp only
  rw [hs]
  dsimp only
  rw [if_neg (by simp [hw]), if_neg (by simp [hclean])]
  rw [scatterRows, scatterReady] at hv
  rw [List.foldl_ext _ (fun acc r => acc.bind (scatterRow u i pin tab e (indexList raw e.count) src r)) _ fun acc r _ => ?_, hv]
  cases acc <;> rfl

theorem liveRow_hot (hh : aGet? pin.hot r = some h) (h2 : h.state = 2) : liveRow s j pin tab r = h.copy := by
  unfold liveRow
  rw [hh]
  exact if_pos h2

theorem getJob_updPin (hj : getJob v n = some j) (hi : j.tables[i]? = some pin) (f : TablePin → TablePin) :
    getJob (updPin v n i f) n = some { j with tables := j.tables.set i (f pin) } := by
  refine (getJob_updJob_self hj).trans ?_
  rw [hi]

/-- A hot row goes to its hot copy (R325). -/
theorem scatterRow_hot (hj : getJob v u.job = some j) (hi : j.tables[i]? = some pin') (hh : aGet? pin.hot r = some h)
    (hh' : aGet? pin'.hot r = some h) (h2 : h.state = 2) : ∃ t, scatterRow u i pin tab e idx src r v = some t ∧
      t.mem = v.mem ∧ worksTo u.job v t { j with tables := j.tables.set i { pin' with
        hot := aPut pin'.hot r { h with copy := (scatterValue tab e idx src h.copy r).row, dirty := true } } } := by
  unfold scatterRow
  rw [hj]
  dsimp only
  rw [liveRow_hot hh h2]
  generalize scatterValue tab e idx src h.copy r = q
  have hwr : writeRow v u.job i tab r q.row = some (updPin v u.job i fun p =>
      { p with hot := aPut p.hot r { h with copy := q.row, dirty := true } }) := by
    unfold writeRow
    rw [hj, Option.bind_some, hi]
    dsimp only
    rw [hh']
    exact if_pos h2
  rw [hwr]
  exact ⟨_, rfl, rfl, (works_updJob ..).trans ((works_bump ..).trans (works_bump ..)), getJob_updPin hj hi _⟩

/-- What a row of a hot list shows after a SCATTER. -/
def hotShown (z : HotRow) : Nat × Bool × List Byte := (z.state, z.dirty, z.copy)

/-- Rows that are all hot. -/
theorem scatterRows_hot {rows : List Nat} (hj : getJob v u.job = some j) (hi : j.tables[i]? = some pin') (hd : rows.Nodup)
    (hall : ∀ r ∈ rows, aGet? pin'.hot r = aGet? pin.hot r ∧ ∃ h, aGet? pin.hot r = some h ∧ h.state = 2) :
    ∃ t q, scatterRows u i pin tab e idx src rows v = some t ∧ t.mem = v.mem ∧
      worksTo u.job v t { j with tables := j.tables.set i q } ∧
      ∀ r, (r ∈ rows → (aGet? q.hot r).map hotShown =
          some (2, true, (scatterValue tab e idx src (liveRow s x.job pin tab r) r).row)) ∧
        (r ∉ rows → aGet? q.hot r = aGet? pin'.hot r) := by
  induction rows generalizing v j pin' with
  | nil =>
    refine ⟨v, pin', rfl, rfl, ⟨.refl .., ?_⟩, fun r => ⟨fun hr => by simp at hr, fun _ => rfl⟩⟩
    obtain ⟨hlt, hget⟩ := List.getElem?_eq_some_iff.mp hi
    rw [hj, ← hget, List.set_getElem_self]
  | cons y rows ih =>
    rw [List.nodup_cons] at hd
    obtain ⟨hsame, z, hz, h2⟩ := hall y (by simp)
    obtain ⟨v1, hv1, hm1, hw1⟩ := scatterRow_hot (tab := tab) (e := e) (idx := idx) (src := src) hj hi hz (hsame.trans hz) h2
    have hlt : i < j.tables.length := (List.getElem?_eq_some_iff.mp hi).1
    have hne : ∀ r ∈ rows, r ≠ y := fun r hr heq => hd.1 (heq ▸ hr)
    obtain ⟨t, q, ht, hm2, hw2, hq⟩ := ih (j := { j with tables := _ }) hw1.2 (List.getElem?_set_self hlt) hd.2 fun r hr => by
      obtain ⟨hs', hex⟩ := hall r (by simp [hr])
      exact ⟨(aGet?_aPut ..).trans ((if_neg (hne r hr)).trans hs'), hex⟩
    refine ⟨t, q, ?_, hm2.trans hm1, ⟨hw1.1.trans hw2.1, ?_⟩, fun r => ⟨fun hr => ?_, fun hr => ?_⟩⟩
    · rw [scatterRows, List.foldl_cons, Option.bind_some, hv1]
      exact ht
    · rw [hw2.2, List.set_set]
    · rcases List.mem_cons.mp hr with rfl | hr
      · rw [(hq r).2 hd.1]
        dsimp only
        rw [aGet?_aPut, if_pos rfl, liveRow_hot hz h2, ← h2]
        rfl
      · exact (hq r).1 hr
    · rw [List.mem_cons, not_or] at hr
      rw [(hq r).2 hr.2]
      dsimp only
      rw [aGet?_aPut, if_neg hr.1]

/-- Bytes into a table's working page that is there. -/
theorem tabWrite_page (hj : getJob v n = some j) (hw : aGet? j.work ((pin.table + 1) * 2 ^ 32 + off / 65536) = some w)
    (hl : l ≠ []) (hfit : off % 65536 + l.length ≤ 65536) :
    tabWrite n pin 3 v off l = some (memWrite v (locPage w + off % 65536) l) := by
  have hpage : tabWorkPage v n pin (off / 65536) = some v := by
    unfold tabWorkPage
    rw [hj]
    exact if_pos (by rw [aHas, hw]; rfl)
  have htake : l.take (65536 - off % 65536) = l := List.take_of_length_le (by omega)
  have hdrop : l.drop (65536 - off % 65536) = [] := List.drop_eq_nil_of_le (by omega)
  unfold tabWrite
  rw [if_neg (by simpa using hl), hpage]
  dsimp only
  rw [hj]
  dsimp only
  rw [aGetD, hw, htake, hdrop]
  rfl

/-- A write of bytes where no line is poisoned. -/
theorem memWrite_clean (a : Nat) (l : List Byte) (hp : v.mem.poison = []) (n : Nat) :
    works n v (memWrite v a l) ∧ (memWrite v a l).jobs = v.jobs ∧ Spelt (memWrite v a l) a l ∧
      bytesBut a l.length v (memWrite v a l) := by
  have hb : (memWrite v a l).mem.bytes = bWrite v.mem.bytes a l := by simp [memWrite, clearWhole, countWrite, hp]
  refine ⟨works_of_jobs rfl n, rfl, fun i hi => ?_, fun y hy => ?_⟩
  · rw [hb, bGet_bWrite, if_pos (by omega), Nat.add_sub_cancel_left]
  · rw [hb, bGet_bWrite, if_neg hy]

/-- A row without a hot copy goes to the day's working page of its table (R325). -/
theorem scatterRow_home (hj : getJob v u.job = some j) (hi : j.tables[i]? = some pin) (hn : aGet? pin.hot r = none)
    (hq : scatterValue tab e idx src (homeRow v j pin tab r) r = q)
    (hw : aGet? j.work ((pin.table + 1) * 2 ^ 32 + r * tab.stride / 65536) = some w)
    (hfit : r * tab.stride % 65536 + q.row.length ≤ 65536) : ∃ a b, scatterRow u i pin tab e idx src r v =
      some (bump (bump (memWrite v (locPage w + r * tab.stride % 65536) q.row) Reg.TBL_NAN a) Reg.TBL_REQ_CLAMP b) := by
  have hlive : liveRow v j pin tab r = homeRow v j pin tab r := by
    unfold liveRow
    rw [hn]
  have hwr : writeRow v u.job i tab r q.row = some (memWrite v (locPage w + r * tab.stride % 65536) q.row) := by
    unfold writeRow
    rw [hj, Option.bind_some, hi]
    dsimp only
    rw [hn]
    exact tabWrite_page hj hw (by rw [← hq]; exact scatterValue_ne_nil) hfit
  unfold scatterRow
  rw [hj]
  dsimp only
  rw [hlive, hq, hwr]
  exact ⟨_, _, rfl⟩

end

end Sys2Proof.Machine

namespace Sys2Proof.Machine

section
variable {s t : State} {u : UnitRef} {x : Issue} {j : Job} {e : RowEntry} {pin : TablePin} {tab : Table}
  {i r w : Nat} {raw src : List Byte}

theorem worksTo_bumps (hj : getJob s u.job = some j) (a k b m : Nat) :
    worksTo u.job s (bump (bump s a k) b m) j ∧ (bump (bump s a k) b m).mem = s.mem :=
  ⟨⟨(works_bump ..).trans (works_bump ..), hj⟩, rfl⟩

/-- A SCATTER into rows that are all hot (R325). -/
theorem scatter_hot (hi : issueOf s u 6 = some x) (he : rowFields x.entry = e) (h1 : 1 ≤ e.table) (h2 : e.table ≤ 255)
    (hp : pinOf x.job e.table x.cal.glade = some (pin, i))
    (ht : aGet? s.tables (tabKey x.job.partition e.table) = some tab)
    (hr : consume s u.job x.job x.alm e.ibuf e.ioff (4 * e.count) = (raw, false))
    (hs : consume s u.job x.job x.alm e.dbuf e.doff (rowSpacing tab.dim tab.fmt 2 * e.count) = (src, false))
    (hpoi : s.mem.poison = [])
    (hall : ∀ r ∈ distinct ((indexList raw e.count).filter fun r => decide (r < tab.rows)),
      ∃ h, aGet? pin.hot r = some h ∧ h.state = 2) (hv : issueScatter s u = t) :
    t.mem = s.mem ∧ otherJobs u.job s t ∧ ∃ j' pin', getJob t u.job = some j' ∧
      j'.cals = x.job.cals.set u.cal (pastEntry x.run) ∧ j'.tables = x.job.tables.set i pin' ∧
      ∀ r, (r ∈ distinct ((indexList raw e.count).filter fun r => decide (r < tab.rows)) → (aGet? pin'.hot r).map hotShown =
          some (2, true, (scatterValue tab e (indexList raw e.count) src (liveRow s x.job pin tab r) r).row)) ∧
        (r ∉ distinct ((indexList raw e.count).filter fun r => decide (r < tab.rows)) → aGet? pin'.hot r = aGet? pin.hot r) := by
  obtain ⟨hj, -, hrun, -⟩ := issueOf_some hi
  obtain ⟨hpin, -⟩ := pinOf_some hp
  obtain ⟨hw0, hm0⟩ := scatterReady_worksTo (e := e) (tab := tab) (idx := indexList raw e.count) hj
  have hwait : tokenWait pin (distinct ((indexList raw e.count).filter fun r => decide (r < tab.rows))) = false := by
    refine List.any_eq_false.mpr fun r hrm => ?_
    obtain ⟨h, hh, h2⟩ := hall r hrm
    rw [hh]
    simp [h2]
  obtain ⟨v, q, hrows, hm1, hw1, hq⟩ := scatterRows_hot (s := s) (x := x) (tab := tab) (e := e) (idx := indexList raw e.count)
    (src := src) hw0.2 hpin (nodup_distinct _) fun r hrm => ⟨rfl, hall r hrm⟩
  rw [issueScatter_eq hi he h1 h2 hp ht hr hs hwait hpoi hrows] at hv
  subst hv
  have hw2 := worksTo_stepCal hw1.2 hrun x.run.pc
  exact ⟨by rw [mem_stepCal, hm1, hm0], (hw0.1.trans (hw1.1.trans hw2.1)).2, _, q, hw2.2, rfl, rfl, hq⟩

/-- A SCATTER into one row that has no hot copy (R325). -/
theorem scatter_home {value : List Byte} (hi : issueOf s u 6 = some x) (he : rowFields x.entry = e) (h1 : 1 ≤ e.table)
    (h2 : e.table ≤ 255) (hp : pinOf x.job e.table x.cal.glade = some (pin, i))
    (ht : aGet? s.tables (tabKey x.job.partition e.table) = some tab)
    (hr : consume s u.job x.job x.alm e.ibuf e.ioff (4 * e.count) = (raw, false))
    (hs : consume s u.job x.job x.alm e.dbuf e.doff (rowSpacing tab.dim tab.fmt 2 * e.count) = (src, false))
    (hpoi : s.mem.poison = [])
    (hone : distinct ((indexList raw e.count).filter fun r => decide (r < tab.rows)) = [r]) (hn : aGet? pin.hot r = none)
    (hval : (scatterValue tab e (indexList raw e.count) src (liveRow s x.job pin tab r) r).row = value)
    (hfit : r * tab.stride % 65536 + value.length ≤ 65536)
    (hw : aGet? x.job.work ((e.table + 1) * 2 ^ 32 + r * tab.stride / 65536) = some w) (hv : issueScatter s u = t) :
    (∃ j', getJob t u.job = some j' ∧ j'.cals = x.job.cals.set u.cal (pastEntry x.run) ∧ j'.tables = x.job.tables ∧
        j'.work = x.job.work) ∧
      Spelt t (locPage w + r * tab.stride % 65536) value ∧ bytesBut (locPage w + r * tab.stride % 65536) value.length s t := by
  obtain ⟨hj, -, hrun, -⟩ := issueOf_some hi
  obtain ⟨hpin, htab⟩ := pinOf_some hp
  obtain ⟨hw0, hm0⟩ := scatterReady_worksTo (e := e) (tab := tab) (idx := indexList raw e.count) hj
  have hwait : tokenWait pin (distinct ((indexList raw e.count).filter fun r => decide (r < tab.rows))) = false := by
    rw [hone]
    simp [tokenWait, hn]
  have hlive : liveRow s x.job pin tab r = homeRow (scatterReady s u x e tab (indexList raw e.count)) x.job pin tab r := by
    rw [homeRow_congr hm0 hw0.1.tables]
    unfold liveRow
    rw [hn]
  rw [hlive] at hval
  obtain ⟨a, b, hrow⟩ := scatterRow_home hw0.2 hpin hn rfl (by rw [htab]; exact hw) (by rw [hval]; exact hfit)
  have hrows := issueScatter_eq hi he h1 h2 hp ht hr hs hwait hpoi (by
    rw [hone, scatterRows, List.foldl_cons, List.foldl_nil, Option.bind_some]
    exact hrow)
  rw [hrows, hval] at hv
  generalize scatterReady s u x e tab (indexList raw e.count) = v at hw0 hm0 hv
  obtain ⟨hw1, hjobs, hspelt, hbut⟩ := memWrite_clean (v := v) (locPage w + r * tab.stride % 65536) value (by rw [hm0, hpoi])
    u.job
  generalize memWrite v _ value = z at hv hw1 hjobs hspelt hbut
  have hj1 : getJob z u.job = some x.job := (congrArg (aGet? · u.job) hjobs).trans hw0.2
  obtain ⟨hw2, hm2⟩ := worksTo_bumps hj1 Reg.TBL_NAN a Reg.TBL_REQ_CLAMP b
  generalize bump (bump z _ a) _ b = y at hv hw2 hm2
  subst hv
  refine ⟨⟨_, (worksTo_stepCal hw2.2 hrun x.run.pc).2, rfl, rfl, rfl⟩, hspelt.congr ?_, fun k hk => ?_⟩
  · rw [mem_stepCal, hm2]
  · rw [mem_stepCal, hm2, ← hm0]
    exact hbut k hk

theorem Spelt.bRead_eq {a : Nat} {l : List Byte} (h : Spelt t a l) : bRead t.mem.bytes a l.length = l :=
  bytes_ext (by simp [bRead]) fun k hk => by
    have hk' : k < l.length := by simpa [bRead] using hk
    rw [← h k hk']
    simp [bRead, hk']

end

/-- Settles O59: MOVE, GATHER and SCATTER through what their writes leave on the chip, a SCATTER row after row. -/
theorem movesAndRows : Obligations.MovesAndRows := by
  unfold Obligations.MovesAndRows
  refine ⟨fun s u x sb db h => ?_, fun s u j a c r i sb db he hc hi => ?_, fun s n bn slot tagOk plain seq j h he hj hh hb hf hd hn hp => ?_,
    fun s u x pin i tab db h => ?_, fun s u x pin i tab h => ?_⟩
  · intro m hs hd
    refine ⟨fun hf => congrArg Host.Outcome.next (issueMove_waits h hs hd hf), fun hf hr ho =>
      ⟨fun hc hx ht hp hwf => Gives.runs rfl ?_, fun e h4 he hk hown hlen hx ht hp hpoi => Gives.runs rfl ?_⟩⟩
    · obtain ⟨hl, hw, hsp, hbut⟩ := move_copies h rfl hs hd hf hr ho hc hx ht hp hwf rfl rfl
      obtain ⟨-, -, hcals, -⟩ := fillBegun_fields m db x.job
      exact ⟨hl.holds hsp, hbut, hw.2, _, hl.1, congrArg (·.set u.cal (launched x.run)) hcals, fun ht hk => fillBegun_filling ht hk⟩
    · exact move_holds h rfl hs hd hf hr ho h4 he hk hown hlen hx ht hp hpoi rfl
  · intro m hs hd hacc ht
    refine Gives.runs (congrArg Host.Outcome.next (if_pos he)) ?_
    exact finishMove_ends hc hi rfl hs hd hacc ht
  · refine Gives.runs (congrArg Host.Outcome.next ((if_pos he).trans (prefetchSlot_arrives hj hh hb hf hd hn hp))) ?_
    exact ⟨rfl, otherJobs_updJob _, getJob_updJob_self hj⟩
  · intro e l sp h1 h2 hp hd ht hw hr hc hcopy
    obtain ⟨hl, hwk, hbut, hoor, hsp⟩ := gather_writes h rfl h1 h2 hp hd ht (Prod.ext rfl hr) hw hc (fun h3 => (hcopy h3).2) rfl rfl
    exact Gives.runs rfl ⟨hbut, hwk.2, hoor, ⟨_, hl.1, rfl⟩, fun p hpc => hl.holds (hsp p hpc)⟩
  · intro e raw l ok sp src value h1 h2 hp hr hs hpoi ht
    refine ⟨fun hall => Gives.runs rfl ?_, fun r w hone hn hfit hw => Gives.runs rfl ?_⟩
    · exact scatter_hot h rfl h1 h2 hp ht (Prod.ext rfl hr) (Prod.ext rfl hs) hpoi hall rfl
    · obtain ⟨hjob, hsp, hbut⟩ := scatter_home h rfl h1 h2 hp ht (Prod.ext rfl hr) (Prod.ext rfl hs) hpoi hone hn rfl hfit hw rfl
      exact ⟨hjob, hsp.bRead_eq, hbut⟩

end Sys2Proof.Machine

namespace Sys2Proof.Machine

/-! # The end of a job touches no calm register -/

section
variable {s t : State} {n k p q st : Nat} {j : Job} {al : Alm}

/-- Whatever else of the state is replaced, the calm registers stay. -/
@[simp] theorem calmRegs_replace (s : State) (pending : List Instr) (shadow : List (Nat × Nat × Word)) (tb fresh seedEpoch : Nat)
    (mem : Mem) (life : AMap PState) (parts : AMap Part) (creations : AMap Nat) (host : HostIf) (ras : Ras) (sec : Security)
    (mgmt : Mgmt) (alms : AMap Alm) (loadNo : Nat) (jobs : AMap Job) (nextJob : Nat) (copses : AMap Copse)
    (glades : AMap Glade) (chans : AMap Channel) (ftl : Ftl) (index : AMap Index) (searches : AMap Search)
    (nextSearch : Nat) (commons : Commons) (tables : AMap Table) (adapters : AMap Adapter) (evictions : AMap Nat)
    (rowsets : AMap RowSet) (gangs : AMap Gang) (forest : Forest) (power : Power) (trace : Trace) :
    calmRegs { s with pending, shadow, tb, fresh, seedEpoch, mem, life, parts, creations, host, ras, sec, mgmt, alms, loadNo,
                      jobs, nextJob, copses, glades, chans, ftl, index, searches, nextSearch, commons, tables, adapters,
                      evictions, rowsets, gangs, forest, power, trace } = calmRegs s := rfl

@[simp] theorem calmRegs_ite (c : Prop) [Decidable c] (s t : State) :
    calmRegs (if c then s else t) = if c then calmRegs s else calmRegs t := apply_ite ..

@[simp] theorem calmRegs_foldl {β : Type} {g : State → β → State} (hg : ∀ s x, calmRegs (g s x) = calmRegs s) (l : List β)
    (s : State) : calmRegs (l.foldl g s) = calmRegs s :=
  foldl_keeps (fun t => calmRegs t = calmRegs s) g (fun _ x h => (hg _ x).trans h) l s rfl

@[simp] theorem calmRegs_foldl_fst {α β : Type} {g : State × α → β → State × α} (hg : ∀ a x, calmRegs (g a x).1 = calmRegs a.1)
    (l : List β) (a : State × α) : calmRegs (l.foldl g a).1 = calmRegs a.1 :=
  foldl_keeps (fun b => calmRegs b.1 = calmRegs a.1) g (fun _ x h => (hg _ x).trans h) l a rfl

@[simp] theorem calmRegs_credit {tier : Nat} : calmRegs (credit s p tier n) = calmRegs s := by rfl

@[simp] theorem calmRegs_creditAll {l : List (Nat × Nat)} : calmRegs (creditAll s p l) = calmRegs s := by simp [creditAll]

@[simp] theorem calmRegs_freePages {l : List Nat} : calmRegs (freePages s l) = calmRegs s := by rfl

@[simp] theorem calmRegs_dropCopy : calmRegs (dropCopy s k) = calmRegs s := by unfold dropCopy; split <;> simp

@[simp] theorem calmRegs_unpinCopy : calmRegs (unpinCopy s k) = calmRegs s := by unfold unpinCopy; split <;> simp

@[simp] theorem calmRegs_dropPrefetch : calmRegs (dropPrefetch s n) = calmRegs s := by simp [dropPrefetch]

@[simp] theorem calmRegs_memZero : calmRegs (memZero s k n) = calmRegs s := by simp [memZero]

@[simp] theorem calmRegs_freeRegion : calmRegs (freeRegion s k n) = calmRegs s := by rfl

@[simp] theorem calmRegs_freeJobPages {tagged : Bool} {l : List Nat} : calmRegs (freeJobPages s tagged l) = calmRegs s := by
  simp [freeJobPages]

@[simp] theorem calmRegs_freeJobRegions {tagged : Bool} {l : List (Nat × Nat)} :
    calmRegs (freeJobRegions s tagged l) = calmRegs s := by simp [freeJobRegions]

@[simp] theorem calmRegs_dropAccess {sel : Access → Bool} : calmRegs (dropAccess s sel) = calmRegs s := by rfl

@[simp] theorem calmRegs_dropAccesses : calmRegs (dropAccesses s n) = calmRegs s := by simp [dropAccesses]

@[simp] theorem calmRegs_dropWork : calmRegs (dropWork s n) = calmRegs s := by unfold dropWork; split <;> simp

@[simp] theorem calmRegs_shrinkTable {t t' : Table} : calmRegs (shrinkTable s k t t') = calmRegs s := by rfl

@[simp] theorem calmRegs_updTable {f : Table → Table} : calmRegs (updTable s k f) = calmRegs s := by rfl

@[simp] theorem calmRegs_discardTable : calmRegs (discardTable s k) = calmRegs s := by unfold discardTable; split <;> simp

@[simp] theorem calmRegs_sweepTable : calmRegs (sweepTable s k) = calmRegs s := by unfold sweepTable; split <;> simp

@[simp] theorem calmRegs_unpinTable {epoch : Nat} : calmRegs (unpinTable s k epoch n) = calmRegs s := by simp [unpinTable]

theorem calmRegs_installTable {t : State × Nat} (h : installTable s k = some t) : calmRegs t.1 = calmRegs s := by
  unfold installTable at h
  split at h
  · cases h
  · split at h
    · cases h
    · dsimp only at h
      split at h <;> cases h
      exact calmRegs_shrinkTable

theorem calmRegs_refuseEpoch : calmRegs (bump s Reg.TBL_EPOCH_REFUSED k) = calmRegs s := calmRegs_setReg (by decide) _

@[simp] theorem calmRegs_leaveTable {pin : TablePin} {last : Bool} : calmRegs (leaveTable s n j pin last).1 = calmRegs s := by
  have unpin : ∀ t : State × Bool, calmRegs t.1 = calmRegs s → ∀ k e,
      calmRegs (if last then unpinTable t.1 k e n else t.1) = calmRegs s := fun t h k e => by simp [h]
  unfold leaveTable
  dsimp only
  refine unpin _ ?_ _ _
  split
  · rfl
  · split
    · rfl
    · split
      · rfl
      · split
        · simp
        · split
          · rename_i h
            exact calmRegs_installTable h
          · exact calmRegs_refuseEpoch.trans calmRegs_updTable

@[simp] theorem calmRegs_keepCommons : calmRegs (keepCommons s j al).1 = calmRegs s := by unfold keepCommons; split <;> simp

@[simp] theorem calmRegs_leaveCopse : calmRegs (leaveCopse s n k) = calmRegs s := by rfl

@[simp] theorem calmRegs_releaseJob : calmRegs (releaseJob s n).1 = calmRegs s := by
  unfold releaseJob
  split
  · rfl
  · split
    · rfl
    · dsimp only
      generalize ht : List.foldl _ (_, false) _ = t
      have h : calmRegs t.1 = calmRegs s := by
        rw [← ht]
        exact (calmRegs_foldl_fst (fun acc x => by simp) _ _).trans (by simp)
      simp [apply_ite Prod.fst, h]

@[simp] theorem calmRegs_completeAt {r : Reply} : calmRegs (completeAt s p q r) = calmRegs s := by rfl

@[simp] theorem calmRegs_updIndex {f : Index → Index} : calmRegs (updIndex s p f) = calmRegs s := by rfl

@[simp] theorem calmRegs_dropBatch : calmRegs (dropBatch s n) = calmRegs s := by unfold dropBatch; split <;> simp

@[simp] theorem calmRegs_endSearch {r : Reply} : calmRegs (endSearch s k r) = calmRegs s := by unfold endSearch; split <;> simp [releasePages]

theorem calmRegs_endJob (hj : getJob s n = some j) (hk : j.kind ≠ 1) (x : Status) (dw : Nat) :
    calmRegs (endJob s n x dw) = calmRegs s := by
  unfold endJob
  rw [hj]
  dsimp only
  rw [if_neg hk]
  generalize hr : releaseJob s n = r
  have h : calmRegs r.1 = calmRegs s := by rw [← hr, calmRegs_releaseJob]
  simp [h]

/-- A map that differs ends the job, and is counted (R270). -/
theorem columnMapFault_ends (hj : getJob s n = some j) (hk : j.kind ≠ 1) {page : Nat} (hp : page % 0x1000 = 0) (r1 r2 : Nat) :
    getJob (columnMapFault s n page r1 r2) n = none ∧ (regGet (columnMapFault s n page r1 r2) Reg.COMMONS_CMAP_FAULT).toNat =
      min ((regGet s Reg.COMMONS_CMAP_FAULT).toNat + 1) 0xFFFFFFFF := by
  unfold columnMapFault
  rw [hj]
  dsimp only
  generalize hv : post s page 0x0505 j.partition (pathCode page) (argPair r1 r2) = v
  have hj' : getJob (bump v Reg.COMMONS_CMAP_FAULT 1) n = some j := by rw [← hv]; exact hj
  have hc : calmRegs v = calmRegs s := by rw [← hv]; exact calmRegs_post hp
  refine ⟨getJob_endJob hj' hk _ _, ?_⟩
  rw [regGet_of_calm (calmRegs_endJob hj' hk _ _) (by decide), regGet_bump, regGet_of_calm hc (by decide)]

end

end Sys2Proof.Machine

namespace Sys2Proof.Machine

/-! # The largest scores of a column (R275) -/

section
variable {x y z : Num} {l : List (Nat × Nat)} {b : Option (Nat × Nat)} {c d e : Nat × Nat} {k : Nat}

/-- The place of a decoded value that is no NaN in the order of values. -/
def numRank : Num → WithBot (WithTop ℚ)
  | .nan => ⊥
  | .inf neg => if neg then ⊥ else ((⊤ : WithTop ℚ) : WithBot (WithTop ℚ))
  | .fin neg m t => (((signed neg m : ℚ) * (2 : ℚ) ^ t : ℚ) : WithTop ℚ)

theorem signed_mul (neg : Bool) (m p : Nat) : signed neg (m * p) = signed neg m * p := by
  unfold signed
  split <;> push_cast <;> ring

/-- A finite value in steps of a smaller power of two. -/
theorem signed_steps (neg : Bool) (m : Nat) {t q : Int} (h : q ≤ t) :
    ((signed neg (m * pow2 (t - q)) : Int) : ℚ) * (2 : ℚ) ^ q = (signed neg m : ℚ) * (2 : ℚ) ^ t := by
  have hp : ((pow2 (t - q) : Nat) : ℚ) = (2 : ℚ) ^ (t - q) := by
    unfold pow2
    push_cast
    rw [← zpow_natCast, Int.toNat_of_nonneg (by omega)]
  rw [signed_mul]
  push_cast
  rw [hp, mul_assoc, ← zpow_add₀ (by norm_num), Int.sub_add_cancel]

theorem numLt_iff (hx : x ≠ .nan) (hy : y ≠ .nan) : numLt x y = true ↔ numRank x < numRank y := by
  cases x with
  | nan => exact absurd rfl hx
  | inf n =>
    cases y with
    | nan => exact absurd rfl hy
    | inf n' => cases n <;> cases n' <;> simp [numLt, numRank]
    | fin n' m' t' =>
      cases n with
      | false => simp [numLt, numRank]
      | true => exact ⟨fun _ => WithBot.bot_lt_coe _, fun _ => rfl⟩
  | fin n m t =>
    cases y with
    | nan => exact absurd rfl hy
    | inf n' =>
      cases n' with
      | false => exact ⟨fun _ => WithBot.coe_lt_coe.mpr (WithTop.coe_lt_top _), fun _ => rfl⟩
      | true => simp [numLt, numRank]
    | fin n' m' t' =>
      have hpos : (0 : ℚ) < (2 : ℚ) ^ (min t t') := by positivity
      simp only [numLt, numRank, decide_eq_true_eq, WithBot.coe_lt_coe, WithTop.coe_lt_coe]
      rw [← signed_steps n m (min_le_left t t'), ← signed_steps n' m' (min_le_right t t'), mul_lt_mul_iff_left₀ hpos]
      exact Int.cast_lt.symm

/-- The place of a choice by its score. -/
def scoreRank (c : Nat × Nat) : WithBot (WithTop ℚ) := numRank (fmtFP32.decode c.2)

theorem isNaN32_false (h : isNaN32 k = false) : fmtFP32.decode k ≠ .nan := by simpa [isNaN32] using h

theorem scoreLt_iff (hc : isNaN32 c.2 = false) (hd : isNaN32 d.2 = false) :
    numLt (fmtFP32.decode c.2) (fmtFP32.decode d.2) = true ↔ scoreRank c < scoreRank d :=
  numLt_iff (isNaN32_false hc) (isNaN32_false hd)

/-- One choice against the best so far. -/
def better (b : Option (Nat × Nat)) (x : Nat × Nat) : Option (Nat × Nat) :=
  if isNaN32 x.2 then b
  else match b with
    | none => some x
    | some y => if numLt (fmtFP32.decode y.2) (fmtFP32.decode x.2) then some x else b

theorem topK_succ (k : Nat) (l : List (Nat × Nat)) : topK (k + 1) l =
    match l.foldl better none with
    | none => []
    | some x => x :: topK k (l.filter fun y => y.1 != x.1) := rfl

/-- The better of a choice and the best so far. -/
theorem better_some (hb : ∀ d, b = some d → isNaN32 d.2 = false) (h : better b c = some e) :
    (c = e ∨ b = some e) ∧ isNaN32 e.2 = false ∧ (isNaN32 c.2 = false → scoreRank c ≤ scoreRank e) ∧
      ∀ d, b = some d → scoreRank d ≤ scoreRank e := by
  unfold better at h
  split at h
  · rename_i hn
    refine ⟨.inr h, hb e h, fun hc => absurd (hn.symm.trans hc) (by decide), fun d hd => ?_⟩
    cases h.symm.trans hd
    exact le_refl _
  · rename_i hn
    rw [Bool.not_eq_true] at hn
    split at h
    · cases h
      exact ⟨.inl rfl, hn, fun _ => le_refl _, fun d hd => by cases hd⟩
    · rename_i y
      have hy := hb y rfl
      split at h
      · rename_i hlt
        cases h
        refine ⟨.inl rfl, hn, fun _ => le_refl _, fun d hd => ?_⟩
        cases hd
        exact ((scoreLt_iff hy hn).mp hlt).le
      · rename_i hlt
        cases h
        refine ⟨.inr rfl, hy, fun _ => ?_, fun d hd => ?_⟩
        · exact not_lt.mp fun hc => hlt ((scoreLt_iff hy hn).mpr hc)
        · cases hd
          exact le_refl _

theorem better_none (h : better b c = none) : b = none ∧ isNaN32 c.2 = true := by
  unfold better at h
  split at h
  · exact ⟨h, ‹_›⟩
  · split at h
    · cases h
    · split at h <;> cases h

/-- The best of a list is one of its scores, no NaN, and none is higher. -/
theorem best_some (hb : ∀ d, b = some d → isNaN32 d.2 = false) (h : l.foldl better b = some e) :
    (e ∈ l ∨ b = some e) ∧ isNaN32 e.2 = false ∧ (∀ c ∈ l, isNaN32 c.2 = false → scoreRank c ≤ scoreRank e) ∧
      ∀ d, b = some d → scoreRank d ≤ scoreRank e := by
  induction l generalizing b with
  | nil =>
    refine ⟨.inr h, hb e h, fun c hc => by simp at hc, fun d hd => ?_⟩
    cases hd.symm.trans h
    exact le_refl _
  | cons a l ih =>
    rw [List.foldl_cons] at h
    have hstep : ∀ d, better b a = some d → isNaN32 d.2 = false := fun d hd => (better_some hb hd).2.1
    obtain ⟨hmem, hnan, hle, hlast⟩ := ih hstep h
    have hup : ∀ d, (isNaN32 a.2 = false ∧ d = a) ∨ b = some d → scoreRank d ≤ scoreRank e := fun d hd => by
      rcases hbe : better b a with _ | f
      · obtain ⟨hno, hna⟩ := better_none hbe
        rcases hd with ⟨ha, -⟩ | hd
        · rw [hna] at ha
          cases ha
        · rw [hno] at hd
          cases hd
      · obtain ⟨-, -, h1, h2⟩ := better_some hb hbe
        refine le_trans ?_ (hlast f hbe)
        rcases hd with ⟨ha, rfl⟩ | hd
        · exact h1 ha
        · exact h2 d hd
    refine ⟨?_, hnan, fun c hc hn => ?_, fun d hd => hup d (.inr hd)⟩
    · rcases hmem with hmem | hbe
      · exact .inl (by simp [hmem])
      · rcases (better_some hb hbe).1 with rfl | hbe
        · exact .inl (by simp)
        · exact .inr hbe
    · rcases List.mem_cons.mp hc with rfl | hc
      · exact hup _ (.inl ⟨hn, rfl⟩)
      · exact hle c hc hn

theorem best_none (h : l.foldl better b = none) : ∀ c ∈ l, isNaN32 c.2 = true := by
  have key : b = none ∧ ∀ c ∈ l, isNaN32 c.2 = true := by
    induction l generalizing b with
    | nil => exact ⟨h, fun c hc => by simp at hc⟩
    | cons a l ih =>
      obtain ⟨ha, hl⟩ := ih h
      obtain ⟨hb, hn⟩ := better_none ha
      exact ⟨hb, fun c hc => (List.mem_cons.mp hc).elim (fun e => e ▸ hn) (hl c)⟩
  exact key.2

/-- Where indices do not repeat, to leave out an index is to leave out its score. -/
theorem filter_index (hn : (l.map (·.1)).Nodup) (he : e ∈ l) : l.filter (fun y => y.1 != e.1) = l.erase e := by
  rw [(List.Nodup.of_map _ hn).erase_eq_filter]
  refine List.filter_congr fun c hc => ?_
  have hinj : c.1 = e.1 ↔ c = e := ⟨fun h => List.inj_on_of_nodup_map hn hc he h, fun h => h ▸ rfl⟩
  rw [Bool.eq_iff_iff, bne_iff_ne, bne_iff_ne, Ne, hinj]

/-- The scores chosen: as many as there are, none a NaN, none lower than one not chosen. -/
theorem topK_largest (hn : (l.map (·.1)).Nodup) : (topK k l).length = min k (l.filter fun x => !isNaN32 x.2).length ∧
    ∀ y ∈ topK k l, y ∈ l ∧ isNaN32 y.2 = false ∧ ∀ z ∈ l, z ∉ topK k l → isNaN32 z.2 = false →
      numLt (fmtFP32.decode y.2) (fmtFP32.decode z.2) = false := by
  induction k generalizing l with
  | zero => exact ⟨by simp [topK], fun y hy => by simp [topK] at hy⟩
  | succ k ih =>
    rw [topK_succ]
    rcases hb : l.foldl better none with _ | e
    · have hnan := best_none hb
      refine ⟨?_, fun y hy => by simp at hy⟩
      rw [List.filter_eq_nil_iff.mpr fun c hc => by simp [hnan c hc]]
      simp
    · obtain ⟨hmem, hen, hle, -⟩ := best_some (fun d hd => by cases hd) hb
      have hel : e ∈ l := hmem.resolve_right (by simp)
      dsimp only
      rw [filter_index hn hel]
      obtain ⟨hlen, hall⟩ := ih (l := l.erase e) (hn.sublist (List.erase_sublist.map _))
      have hnd : l.Nodup := .of_map _ hn
      refine ⟨?_, fun y hy => ?_⟩
      · have hpos : 0 < (l.filter fun x => !isNaN32 x.2).length :=
          List.length_pos_of_mem (List.mem_filter.mpr ⟨hel, by simp [hen]⟩)
        rw [List.length_cons, hlen, ← List.countP_eq_length_filter, List.countP_erase, List.countP_eq_length_filter,
          if_pos ⟨hel, by simp [hen]⟩]
        omega
      · rcases List.mem_cons.mp hy with rfl | hy
        · exact ⟨hel, hen, fun z hz _ hzn => by
            rw [Bool.eq_false_iff, Ne, scoreLt_iff hen hzn, not_lt]
            exact hle z hz hzn⟩
        · obtain ⟨hyl, hyn, hlow⟩ := hall y hy
          refine ⟨List.mem_of_mem_erase hyl, hyn, fun z hz hzt hzn => ?_⟩
          rw [List.mem_cons, not_or] at hzt
          exact hlow z ((List.mem_erase_of_ne hzt.1).mpr hz) hzt.2 hzn

end

end Sys2Proof.Machine

namespace Sys2Proof.Machine

/-! # Groups of tagged buffers (R264, R266, R273 to R276) -/

section
variable {s t v : State} {u : UnitRef} {x : Issue} {j : Job} {e : RowEntry} {p : PermLine} {es : List Nat} {sb db b : BufDef}
  {it si di : RowItem} {n bn A G G' l l' c c' k ki kd cls handle : Nat} {bad : Bool}

/-- Where a tagged buffer holds the element of line l and column c of group G. -/
def RowItem.cell (it : RowItem) (G l c : Nat) : Nat := G * it.group + 512 + l * it.line + c * it.esz

theorem RowItem.col_step (h : c < c') : c * it.esz + it.esz ≤ c' * it.esz := by
  rw [← Nat.succ_mul]
  exact Nat.mul_le_mul_right _ h

theorem RowItem.line_step (h : l < l') : l * it.line + it.line ≤ l' * it.line := by
  rw [← Nat.succ_mul]
  exact Nat.mul_le_mul_right _ h

/-- An element of a line lies in it. -/
theorem RowItem.col_fits (hc : c < 128) : c * it.esz + it.esz ≤ it.line := RowItem.col_step hc

/-- An element of a group lies in it. -/
theorem RowItem.cell_fits (hl : l < it.lines) (hc : c < 128) : 512 + l * it.line + c * it.esz + it.esz ≤ it.group := by
  have hcol := RowItem.col_fits (it := it) hc
  have hline := RowItem.line_step (it := it) hl
  unfold RowItem.group
  omega

/-- Elements follow one another by group, line and column. -/
theorem RowItem.cell_step (hl : l < it.lines) (hc : c < 128)
    (h : G < G' ∨ G = G' ∧ (l < l' ∨ l = l' ∧ c < c')) : it.cell G l c + it.esz ≤ it.cell G' l' c' := by
  have hin := RowItem.col_fits (it := it) hc
  have hfit := RowItem.cell_fits (it := it) hl hc
  unfold RowItem.cell
  rcases h with h | ⟨rfl, h | ⟨rfl, h⟩⟩
  · have : G * it.group + it.group ≤ G' * it.group := by
      rw [← Nat.succ_mul]
      exact Nat.mul_le_mul_right _ h
    omega
  · have := RowItem.line_step (it := it) h
    omega
  · have := RowItem.col_step (it := it) h
    omega

/-- Elements of different columns, by group and column, lie apart, on whatever lines. -/
theorem RowItem.cell_apart (hl : l < it.lines) (hl' : l' < it.lines) (hc : c < 128) (hc' : c' < 128)
    (h : G ≠ G' ∨ l ≠ l' ∨ c ≠ c') : Apart (it.cell G l c, it.esz) (it.cell G' l' c', it.esz) := by
  have hor : (G < G' ∨ G = G' ∧ (l < l' ∨ l = l' ∧ c < c')) ∨ (G' < G ∨ G' = G ∧ (l' < l ∨ l' = l ∧ c' < c)) := by omega
  exact hor.imp (RowItem.cell_step hl hc) (RowItem.cell_step hl' hc')

theorem RowItem.layout_congr (hl : si.lines = di.lines) (hs : si.esize = di.esize) :
    si.esz = di.esz ∧ si.line = di.line ∧ si.group = di.group := by
  unfold RowItem.group RowItem.line RowItem.esz
  rw [hl, hs]
  exact ⟨rfl, rfl, rfl⟩

/-- A map entry of a group is read where it lies. -/
theorem sub_groupBytes_map (ht : b.tier ≤ 3) (hc : c < 128) :
    sub (groupBytes s n j bn b it G) (4 * c) 4 = bufRead s n j bn b (G * it.group + 4 * c) 4 :=
  sub_bufRead ht (by unfold RowItem.group; omega)

/-- An element of a group is read where it lies. -/
theorem groupElem_groupBytes (ht : b.tier ≤ 3) (hl : l < it.lines) (hc : c < 128) :
    groupElem it (groupBytes s n j bn b it G) l c = bufRead s n j bn b (it.cell G l c) it.esz := by
  unfold groupElem groupBytes
  rw [sub_bufRead ht (RowItem.cell_fits hl hc), RowItem.cell]
  congr 1
  omega

/-- What a permutation entry that is whole tells. -/
theorem permIssue_some (h : permIssue s u cls handle = some (x, e, p, es, bad)) :
    issueOf s u cls = some x ∧ rowFields x.entry = e ∧ es.length = e.count := by
  unfold permIssue at h
  split at h
  · cases h
  · rename_i y hy
    dsimp only at h
    split at h
    · cases h
    · simp only [Option.some.injEq, Prod.mk.injEq] at h
      obtain ⟨rfl, rfl, -, rfl, -⟩ := h
      exact ⟨hy, rfl, by simp [indexList]⟩

/-! ## PERMUTE (R274) -/

/-- The map entry that a permutation gives a column, by the entry that names its source. -/
def permMap (s : State) (n : Nat) (j : Job) (p : PermLine) (sb : BufDef) (it : RowItem) (w : Nat) : List Byte :=
  if mapValid w then bufRead s n j p.src sb ((p.srcGroup + mapRow w / 128) * it.group + 4 * (mapRow w % 128)) 4 else zeros 4

/-- The element of line l that a permutation gives a column. -/
def permCell (s : State) (n : Nat) (j : Job) (p : PermLine) (sb : BufDef) (it : RowItem) (l w : Nat) : List Byte :=
  if mapValid w then bufRead s n j p.src sb (it.cell (p.srcGroup + mapRow w / 128) l (mapRow w % 128)) it.esz else zeros it.esz

theorem length_permMap (w : Nat) : (permMap s n j p sb it w).length = 4 := by unfold permMap; split <;> simp [zeros]

theorem length_permCell (w : Nat) : (permCell s n j p sb it l w).length = it.esz := by unfold permCell; split <;> simp [zeros]

/-- A group of a permutation's destination: its map, then its lines, column by column. -/
theorem permGroup_eq (ht : sb.tier ≤ 3) (hr : ∀ w ∈ es, mapValid w = true → mapRow w < 128 * p.srcGroups) :
    permGroup s n j p sb it es = es.flatMap (permMap s n j p sb it) ++
      (List.range it.lines).flatMap fun l => es.flatMap (permCell s n j p sb it l) := by
  have hgroup : ∀ w ∈ es, mapValid w = true → ((List.range p.srcGroups).map fun g =>
      groupBytes s n j p.src sb it (p.srcGroup + g)).getD (mapRow w / 128) [] =
        groupBytes s n j p.src sb it (p.srcGroup + mapRow w / 128) := fun w hw hv => by
    have hlt : mapRow w / 128 < p.srcGroups := by have := hr w hw hv; omega
    simp [hlt]
  have hmod : ∀ w, mapRow w % 128 < 128 := fun w => Nat.mod_lt _ (by decide)
  unfold permGroup
  refine congrArg₂ (· ++ ·) ?_ (List.flatMap_congr fun l hl => List.flatMap_congr fun w hw => ?_)
  · unfold mapBytes
    rw [List.flatMap_map]
    refine List.flatMap_congr fun w hw => ?_
    unfold permMap
    split
    · rename_i hv
      rw [hgroup w hw hv, leAt, sub_groupBytes_map ht (hmod w)]
      exact (congrArg (toLe · _) length_bufRead.symm).trans (toLe_leNat _)
    · exact toLe_zero 4
  · unfold permCell
    split
    · rename_i hv
      rw [hgroup w hw hv, groupElem_groupBytes ht (List.mem_range.mp hl) (hmod w)]
    · rfl

theorem permLines_length : ∀ l ∈ List.range it.lines, (es.flatMap (permCell s n j p sb it l)).length = es.length * it.esz :=
  fun _ _ => length_flatMap_const fun w _ => length_permCell w

theorem length_permGroup (ht : sb.tier ≤ 3) (hr : ∀ w ∈ es, mapValid w = true → mapRow w < 128 * p.srcGroups)
    (hn : es.length = 128) : (permGroup s n j p sb it es).length = it.group := by
  rw [permGroup_eq ht hr, List.length_append, length_flatMap_const fun w _ => length_permMap w,
    length_flatMap_const permLines_length, List.length_range, hn]
  rfl

theorem sub_permGroup_map (ht : sb.tier ≤ 3) (hr : ∀ w ∈ es, mapValid w = true → mapRow w < 128 * p.srcGroups)
    {w : Nat} (hw : es[c]? = some w) : sub (permGroup s n j p sb it es) (4 * c) 4 = permMap s n j p sb it w := by
  have hc : c < es.length := (List.getElem?_eq_some_iff.mp hw).1
  have hlen : (es.flatMap (permMap s n j p sb it)).length = es.length * 4 := length_flatMap_const fun w _ => length_permMap w
  rw [permGroup_eq ht hr, sub_append_left (by omega), Nat.mul_comm]
  exact sub_flatMap (fun w _ => length_permMap w) hw

theorem sub_permGroup_cell (ht : sb.tier ≤ 3) (hr : ∀ w ∈ es, mapValid w = true → mapRow w < 128 * p.srcGroups)
    (hn : es.length = 128) {w : Nat} (hw : es[c]? = some w) (hl : l < it.lines) :
    sub (permGroup s n j p sb it es) (512 + l * it.line + c * it.esz) it.esz = permCell s n j p sb it l w := by
  have hc : c < 128 := hn ▸ (List.getElem?_eq_some_iff.mp hw).1
  have hcol := RowItem.col_fits (it := it) hc
  have hmaps : (es.flatMap (permMap s n j p sb it)).length = 512 := by
    rw [length_flatMap_const fun w _ => length_permMap w, hn]
  have hline := sub_flatMap (k := it.line) (fun l hl => (permLines_length (s := s) (n := n) (j := j) (p := p) (sb := sb) l hl).trans
    (by rw [hn]; rfl)) (List.getElem?_range hl)
  rw [permGroup_eq ht hr, Nat.add_assoc, ← hmaps, sub_append_right, ← sub_sub hcol, hline]
  exact sub_flatMap (fun w _ => length_permCell w) hw

end

end Sys2Proof.Machine

namespace Sys2Proof.Machine

section
variable {s t v : State} {u : UnitRef} {x : Issue} {j : Job} {e : RowEntry} {p : PermLine} {es : List Nat} {sb db b : BufDef}
  {it si di : RowItem} {n bn A o l k ki kd len : Nat}

/-- The groups that a PERMUTE writes. -/
def permOuts (s : State) (u : UnitRef) (x : Issue) (e : RowEntry) (p : PermLine) (es : List Nat) (sb : BufDef) (si : RowItem) :
    List (List Byte) :=
  (List.range (e.count / 128)).map fun g => permGroup s u.job x.job p sb si ((es.drop (128 * g)).take 128)

theorem issuePermute_eq (h : permIssue s u 5 0xFFFF = some (x, e, p, es, false)) (hsb : bufOf x.alm p.src = some sb)
    (hdb : bufOf x.alm e.dbuf = some db) (hsi : planItem x.alm p.src = some (ki, si))
    (hdi : planItem x.alm e.dbuf = some (kd, di)) (hr : permInRange p es = true) (hl : si.lines = di.lines)
    (hs : si.esize = di.esize) : issuePermute s u = stepCal (traceEntry ((permOuts s u x e p es sb si).zipIdx.foldl
      (fun v o => bufPut v u.job e.dbuf db ((p.dstGroup + o.2) * di.group) o.1) (traceEntry s u x.run.pc 0)) u x.run.pc 1) u := by
  unfold issuePermute
  rw [h]
  dsimp only
  rw [if_neg (by simp), hsb, hdb, hsi, hdi]
  dsimp only
  rw [if_neg (by simp [hr]), if_neg (by simp [hl, hs])]
  rfl

theorem apart_groups {g G G' : Nat} (h : G < G') : Apart (G * g, g) (G' * g, g) := by
  refine .inl ?_
  dsimp only
  rw [← Nat.succ_mul]
  exact Nat.mul_le_mul_right _ h

/-- A PERMUTE writes each of its groups (R274). -/
theorem permute_writes (h : permIssue s u 5 0xFFFF = some (x, e, p, es, false)) (hsb : bufOf x.alm p.src = some sb)
    (hdb : bufOf x.alm e.dbuf = some db) (hsi : planItem x.alm p.src = some (ki, si))
    (hdi : planItem x.alm e.dbuf = some (kd, di)) (hr : permInRange p es = true) (hl : si.lines = di.lines)
    (hs : si.esize = di.esize) (hc : onChip s x.job db) (ht : sb.tier ≤ 3) (hA : bufBase s u.job x.job db = A)
    (hv : issuePermute s u = t) : LiesAt t u.job (withRun x.job u (pastEntry x.run)) db A ∧ works u.job s t ∧
      ∀ n, n / 128 < e.count / 128 →
        Spelt t (A + ((p.dstGroup + n / 128) * di.group + 4 * (n % 128))) (permMap s u.job x.job p sb si (es.getD n 0)) ∧
        ∀ l, l < si.lines → Spelt t (A + di.cell (p.dstGroup + n / 128) l (n % 128))
          (permCell s u.job x.job p sb si l (es.getD n 0)) := by
  obtain ⟨hi, -, hcount⟩ := permIssue_some h
  obtain ⟨hj, -, hrun, -⟩ := issueOf_some hi
  obtain ⟨hesz, hline, hgroup⟩ := RowItem.layout_congr hl hs
  have hin : ∀ g, ∀ w ∈ (es.drop (128 * g)).take 128, mapValid w = true → mapRow w < 128 * p.srcGroups := fun g w hw hv => by
    have hall := List.all_eq_true.mp hr w (List.mem_of_mem_drop (List.mem_of_mem_take hw))
    simpa [hv] using hall
  have hfull : ∀ g, g < e.count / 128 → ((es.drop (128 * g)).take 128).length = 128 := fun g hg => by
    rw [List.length_take, List.length_drop, hcount]
    omega
  have h0 := onlyTrace_traceEntry s u x.run.pc 0
  have hw0 := worksTo_of_trace h0 hj
  have hl0 := LiesAt.keep ⟨hj, hc, hA⟩ hw0 (by rw [h0.mem]) rfl rfl
  rw [issuePermute_eq h hsb hdb hsi hdi hr hl hs] at hv
  generalize hz : List.foldl _ (traceEntry s u x.run.pc 0) _ = z at hv
  have hlen : ∀ q ∈ (permOuts s u x e p es sb si).zipIdx, ∀ _ : State, q.1.length = di.group := fun q hq _ => by
    obtain ⟨g, hg, hq'⟩ := List.mem_map.mp (List.fst_mem_of_mem_zipIdx hq)
    rw [← hq', length_permGroup ht (hin g) (hfull g (List.mem_range.mp hg)), hgroup]
  obtain ⟨hw1, -, hl1, hs1, -⟩ := putAll_chip (pos := fun q : List Byte × Nat => (p.dstGroup + q.2) * di.group)
    (val := fun _ q => q.1) (size := fun _ => di.group) hl0 hlen (fun _ _ _ _ _ _ _ => rfl)
    ((pairwise_zipIdx _).imp fun hlt => apart_groups (by omega)) hz
  subst hv
  have hw2 := worksTo_stepCal hl1.1 hrun x.run.pc
  refine ⟨hl1.keep hw2 (by rw [mem_stepCal]) rfl rfl, (hw0.1.trans hw1).trans hw2.1, fun n hn => ?_⟩
  have hget : ((es.drop (128 * (n / 128))).take 128)[n % 128]? = some (es.getD n 0) := by
    have hlt : n < es.length := by omega
    rw [List.getElem?_take, if_pos (by omega), List.getElem?_drop, Nat.div_add_mod, List.getElem?_eq_getElem hlt]
    simp [hlt]
  have hspelt : Spelt (stepCal (traceEntry z u x.run.pc 1) u) (A + (p.dstGroup + n / 128) * di.group)
      (permGroup s u.job x.job p sb si ((es.drop (128 * (n / 128))).take 128)) := by
    refine (hs1 (_, n / 128) (List.mem_zipIdx_iff_getElem?.mpr ?_)).congr (by rw [mem_stepCal])
    rw [permOuts, List.getElem?_map, List.getElem?_range hn]
    rfl
  have hglen := length_permGroup (s := s) (n := u.job) (j := x.job) (it := si) ht (hin (n / 128)) (hfull _ hn)
  refine ⟨?_, fun l hll => ?_⟩
  · rw [← sub_permGroup_map ht (hin _) hget, ← Nat.add_assoc]
    exact hspelt.sub (by rw [hglen]; unfold RowItem.group; omega)
  · have hfit := RowItem.cell_fits (it := si) hll (Nat.mod_lt n (by decide : 0 < 128))
    have hat : A + di.cell (p.dstGroup + n / 128) l (n % 128) =
        A + (p.dstGroup + n / 128) * di.group + (512 + l * si.line + n % 128 * si.esz) := by
      rw [RowItem.cell, hline, hesz]
      omega
    rw [hat, ← sub_permGroup_cell ht (hin _) (hfull _ hn) hget hll]
    exact hspelt.sub (by rw [hglen]; exact hfit)

end

end Sys2Proof.Machine

namespace Sys2Proof.Machine

/-! ## RETURN (R274) -/

section
variable {s t v : State} {u : UnitRef} {x : Issue} {j : Job} {e : RowEntry} {p : PermLine} {es : List Nat} {sb db : BufDef}
  {si di it : RowItem} {n A o l ki kd opt G c : Nat} {elem : List Byte} {cols : List (Nat × Nat)} {w : Nat × Nat}

/-- Where a RETURN writes its entry's element of line l. -/
def returnAt (p : PermLine) (it : RowItem) (w : Nat × Nat) (l : Nat) : Nat :=
  it.cell (p.srcGroup + mapRow w.1 / 128) l (mapRow w.1 % 128)

/-- What a RETURN writes into an element of its source column: the element, or its sum with what is there. -/
def returnValue (s : State) (n : Nat) (j : Job) (opt : Nat) (p : PermLine) (sb : BufDef) (o : Nat) (elem : List Byte) :
    List Byte :=
  if opt = 0 then toLe 4 (fpAdd .rne 0 (leNat (bufRead s n j p.src sb o 4)) (leNat elem)) else elem

/-- The writes of a RETURN: each of its entries with each line. -/
def returnCells (it : RowItem) (cols : List (Nat × Nat)) : List ((Nat × Nat) × Nat) :=
  cols.flatMap fun w => (List.range it.lines).map (Prod.mk w)

theorem mem_returnCells {q : (Nat × Nat) × Nat} : q ∈ returnCells it cols ↔ q.1 ∈ cols ∧ q.2 < it.lines := by
  obtain ⟨w, l⟩ := q
  simp [returnCells]

theorem returnCells_apart (hn : (cols.map fun w => mapRow w.1).Nodup) : (returnCells it cols).Pairwise fun q r =>
    Apart (returnAt p it q.1 q.2, it.esz) (returnAt p it r.1 r.2, it.esz) := by
  have hmod : ∀ w, mapRow w % 128 < 128 := fun w => Nat.mod_lt _ (by decide)
  refine List.pairwise_flatMap.mpr ⟨fun w _ => List.pairwise_map.mpr ?_, ?_⟩
  · refine List.pairwise_lt_range.imp_of_mem fun hl hl' hlt => ?_
    rw [List.mem_range] at hl hl'
    exact RowItem.cell_apart hl hl' (hmod _) (hmod _) (.inr (.inl (Nat.ne_of_lt hlt)))
  · refine (List.pairwise_map.mp hn).imp fun {w w'} hne q hq r hr => ?_
    obtain ⟨l, hl, rfl⟩ := List.mem_map.mp hq
    obtain ⟨l', hl', rfl⟩ := List.mem_map.mp hr
    rw [List.mem_range] at hl hl'
    refine RowItem.cell_apart hl hl' (hmod _) (hmod _) ?_
    dsimp only
    omega

theorem length_returnValue (he : elem.length = it.esz) (h0 : opt = 0 → it.esize = 2) :
    (returnValue s n j opt p sb o elem).length = it.esz := by
  unfold returnValue
  split
  · rw [length_toLe, RowItem.esz, h0 ‹_›]
    rfl
  · exact he

/-- A sum reads what its element's bytes are. -/
theorem returnValue_congr (h : LiesAt s n j sb A) (h' : LiesAt t n j sb A) (h0 : opt = 0 → it.esize = 2)
    (hb : ∀ x, A + o ≤ x → x < A + o + it.esz → bGet t.mem.bytes x = bGet s.mem.bytes x) :
    returnValue t n j opt p sb o elem = returnValue s n j opt p sb o elem := by
  unfold returnValue
  split
  · have h4 : it.esz = 4 := by rw [RowItem.esz, h0 ‹_›]; rfl
    have hread : bufRead t n j p.src sb o 4 = bufRead s n j p.src sb o 4 := by
      refine bytes_ext (by rw [length_bufRead, length_bufRead]) fun i hi => ?_
      rw [length_bufRead] at hi
      rw [← h.bufRead_spelt i (by rwa [length_bufRead]), ← h'.bufRead_spelt i (by rwa [length_bufRead])]
      exact hb _ (by omega) (by omega)
    rw [hread]
  · rfl

/-- A RETURN whose entry names another column than its source has ends the job (R270). -/
theorem return_differs (h : permIssue s u 6 0xFFFF = some (x, e, p, es, false)) (hsb : bufOf x.alm p.src = some sb)
    (hdb : bufOf x.alm e.dbuf = some db) (hsi : planItem x.alm p.src = some (ki, si))
    (hdi : planItem x.alm e.dbuf = some (kd, di)) (hr : permInRange p es = true) (hl : si.lines = di.lines)
    (hs : si.esize = di.esize) (hk : x.job.kind ≠ 1)
    (hd : ∃ w ∈ es.zipIdx.filter fun w => mapValid w.1,
      (groupMap s u.job x.job e.dbuf db di (p.dstGroup + w.2 / 128)).getD (w.2 % 128) 0 ≠
        (groupMap s u.job x.job p.src sb si (p.srcGroup + mapRow w.1 / 128)).getD (mapRow w.1 % 128) 0) :
    getJob (issueReturn s u) u.job = none ∧ (regGet (issueReturn s u) Reg.COMMONS_CMAP_FAULT).toNat =
      min ((regGet s Reg.COMMONS_CMAP_FAULT).toNat + 1) 0xFFFFFFFF := by
  obtain ⟨hi, -, -⟩ := permIssue_some h
  obtain ⟨hj, -⟩ := issueOf_some hi
  obtain ⟨w, hw, hne⟩ := hd
  unfold issueReturn
  rw [h]
  dsimp only
  rw [if_neg (by simp), hsb, hdb, hsi, hdi]
  dsimp only
  rw [if_neg (by simp [hr]), if_neg (by simp [hl, hs])]
  split
  · exact columnMapFault_ends hj hk (calPage_mod _ _) _ _
  · rename_i hnone
    have hall := List.find?_eq_none.mp hnone w hw
    simp only [bne_iff_ne, ne_eq, not_not] at hall
    exact absurd hall hne

theorem issueReturn_eq (h : permIssue s u 6 0xFFFF = some (x, e, p, es, false)) (hsb : bufOf x.alm p.src = some sb)
    (hdb : bufOf x.alm e.dbuf = some db) (hsi : planItem x.alm p.src = some (ki, si))
    (hdi : planItem x.alm e.dbuf = some (kd, di)) (hr : permInRange p es = true) (hl : si.lines = di.lines)
    (hs : si.esize = di.esize)
    (hd : ∀ w ∈ es.zipIdx.filter fun w => mapValid w.1,
      (groupMap s u.job x.job e.dbuf db di (p.dstGroup + w.2 / 128)).getD (w.2 % 128) 0 =
        (groupMap s u.job x.job p.src sb si (p.srcGroup + mapRow w.1 / 128)).getD (mapRow w.1 % 128) 0) :
    issueReturn s u = stepCal (traceEntry ((returnCells si (es.zipIdx.filter fun w => mapValid w.1)).foldl
      (fun v q => bufPut v u.job p.src sb (returnAt p si q.1 q.2) (returnValue v u.job x.job e.opt p sb (returnAt p si q.1 q.2)
        (groupElem si (groupBytes s u.job x.job e.dbuf db di (p.dstGroup + q.1.2 / 128)) q.2 (q.1.2 % 128))))
      (traceEntry s u x.run.pc 0)) u x.run.pc 1) u := by
  unfold issueReturn
  rw [h]
  dsimp only
  rw [if_neg (by simp), hsb, hdb, hsi, hdi]
  dsimp only
  rw [if_neg (by simp [hr]), if_neg (by simp [hl, hs]), List.find?_eq_none.mpr fun w hw => by simp only [hd w hw]; simp]
  dsimp only
  rw [returnCells, List.foldl_flatMap]
  simp only [List.foldl_map]
  rfl

/-- A RETURN whose entries all name their columns writes each element of each (R274). -/
theorem return_writes (h : permIssue s u 6 0xFFFF = some (x, e, p, es, false)) (hsb : bufOf x.alm p.src = some sb)
    (hdb : bufOf x.alm e.dbuf = some db) (hsi : planItem x.alm p.src = some (ki, si))
    (hdi : planItem x.alm e.dbuf = some (kd, di)) (hr : permInRange p es = true) (hl : si.lines = di.lines)
    (hs : si.esize = di.esize)
    (hd : ∀ w ∈ es.zipIdx.filter fun w => mapValid w.1,
      (groupMap s u.job x.job e.dbuf db di (p.dstGroup + w.2 / 128)).getD (w.2 % 128) 0 =
        (groupMap s u.job x.job p.src sb si (p.srcGroup + mapRow w.1 / 128)).getD (mapRow w.1 % 128) 0)
    (hc : onChip s x.job sb) (ht : db.tier ≤ 3) (h0 : e.opt = 0 → si.esize = 2)
    (hn : ((es.zipIdx.filter fun w => mapValid w.1).map fun w => mapRow w.1).Nodup) (hA : bufBase s u.job x.job sb = A)
    (hv : issueReturn s u = t) : LiesAt t u.job (withRun x.job u (pastEntry x.run)) sb A ∧ works u.job s t ∧
      ∀ w ∈ es.zipIdx.filter (fun w => mapValid w.1), ∀ l, l < si.lines → Spelt t (A + returnAt p si w l)
        (returnValue s u.job x.job e.opt p sb (returnAt p si w l)
          (bufRead s u.job x.job e.dbuf db (di.cell (p.dstGroup + w.2 / 128) l (w.2 % 128)) si.esz)) := by
  obtain ⟨hi, -, -⟩ := permIssue_some h
  obtain ⟨hj, -, hrun, -⟩ := issueOf_some hi
  obtain ⟨hesz, hline, -⟩ := RowItem.layout_congr hl hs
  have helem : ∀ G c l, l < si.lines → groupElem si (groupBytes s u.job x.job e.dbuf db di G) l (c % 128) =
      bufRead s u.job x.job e.dbuf db (di.cell G l (c % 128)) si.esz := fun G c l hll => by
    rw [hesz, ← groupElem_groupBytes ht (hl ▸ hll) (Nat.mod_lt c (by decide)), groupElem, groupElem, hline, hesz]
  have hw0 := onlyTrace_traceEntry s u x.run.pc 0
  have hl0 := LiesAt.keep ⟨hj, hc, hA⟩ (worksTo_of_trace hw0 hj) (by rw [hw0.mem]) rfl rfl
  rw [issueReturn_eq h hsb hdb hsi hdi hr hl hs hd] at hv
  generalize hz : List.foldl _ (traceEntry s u x.run.pc 0) _ = z at hv
  obtain ⟨hw1, -, hl1, hs1, -⟩ := putAll_chip (pos := fun q : (Nat × Nat) × Nat => returnAt p si q.1 q.2)
    (val := fun v q => returnValue v u.job x.job e.opt p sb (returnAt p si q.1 q.2)
      (groupElem si (groupBytes s u.job x.job e.dbuf db di (p.dstGroup + q.1.2 / 128)) q.2 (q.1.2 % 128)))
    (size := fun _ => si.esz) hl0
    (fun q hq _ => length_returnValue (by rw [helem _ _ _ (mem_returnCells.mp hq).2, length_bufRead]) h0)
    (fun q _ v t hlv hlt hb => returnValue_congr hlv hlt h0 hb) (returnCells_apart hn) hz
  subst hv
  have hw2 := worksTo_stepCal hl1.1 hrun x.run.pc
  refine ⟨hl1.keep hw2 (by rw [mem_stepCal]) rfl rfl, ((works_of_trace hw0 _).trans hw1).trans hw2.1, fun w hw l hll => ?_⟩
  have hsp := hs1 (w, l) (mem_returnCells.mpr ⟨hw, hll⟩)
  dsimp only at hsp
  rw [returnValue_congr ⟨hj, hc, hA⟩ hl0 h0 fun a _ _ => by rw [hw0.mem], helem _ _ _ hll] at hsp
  exact hsp.congr (by rw [mem_stepCal])

end

end Sys2Proof.Machine

namespace Sys2Proof.Machine

/-! ## ROUTE_SELECT and REGROUP (R275, R276) -/

section
variable {s t v : State} {u : UnitRef} {x : Issue} {j : Job} {e : RowEntry} {p : PermLine} {es : List Nat} {sb db : BufDef}
  {si : RowItem} {n A ki page drops : Nat} {out : List Byte}

/-- What the drops of a route come to: they are counted, and at most an event is posted and noted in the job. -/
theorem routeDrops_counts (hj : getJob s n = some j) (hp : page % 0x1000 = 0) (ht : routeDrops s n page drops = t) :
    (∃ b, worksTo n s t { j with dropPosted := b }) ∧ t.mem = s.mem ∧
      (regGet t Reg.COMMONS_ROUTE_DROP).toNat = min ((regGet s Reg.COMMONS_ROUTE_DROP).toNat + drops) 0xFFFFFFFF := by
  have hw := works_bump s n Reg.COMMONS_ROUTE_DROP drops
  have hcount := regGet_bump (s := s) (a := Reg.COMMONS_ROUTE_DROP) (n := drops)
  unfold routeDrops at ht
  rw [hj] at ht
  split at ht
  · rename_i h0
    subst ht h0
    have := (regGet s Reg.COMMONS_ROUTE_DROP).isLt
    exact ⟨⟨_, .refl .., hj⟩, rfl, by omega⟩
  · dsimp only at ht
    split at ht
    · subst ht
      exact ⟨⟨_, hw, hj⟩, rfl, hcount⟩
    · generalize hb : bump s Reg.COMMONS_ROUTE_DROP drops = b at ht hw hcount
      have hjb : getJob b n = some j := by rw [← hb]; exact hj
      subst ht
      refine ⟨⟨true, (hw.trans (works_post ..)).trans (works_updJob ..), getJob_updJob_self hjb⟩, by rw [← hb]; rfl, ?_⟩
      rw [← hcount]
      exact congrArg BitVec.toNat (regGet_of_calm ((calmRegs_updJob _).trans (calmRegs_post hp)) (by decide))

/-- An entry that writes tables and counts drops. -/
theorem route_writes (hi : issueOf s u 5 = some x) (hc : onChip s x.job db) (hA : bufBase s u.job x.job db = A)
    (hv : stepCal (traceEntry (routeDrops (bufPut (traceEntry s u x.run.pc 0) u.job e.dbuf db e.doff out) u.job
      (calPage x.job x.cal) drops) u x.run.pc 1) u = t) :
    works u.job s t ∧ (∃ j', j'.cals = x.job.cals.set u.cal (pastEntry x.run) ∧ LiesAt t u.job j' db A) ∧
      Spelt t (A + e.doff) out ∧
      (regGet t Reg.COMMONS_ROUTE_DROP).toNat = min ((regGet s Reg.COMMONS_ROUTE_DROP).toNat + drops) 0xFFFFFFFF := by
  obtain ⟨hj, -, hrun, -⟩ := issueOf_some hi
  have h0 := onlyTrace_traceEntry s u x.run.pc 0
  have hw0 := worksTo_of_trace h0 hj
  have hl0 := LiesAt.keep ⟨hj, hc, hA⟩ hw0 (by rw [h0.mem]) rfl rfl
  generalize hy : bufPut (traceEntry s u x.run.pc 0) u.job e.dbuf db e.doff out = y at hv
  obtain ⟨hw1, hr1, hl1, hs1, -⟩ := bufPut_chip hl0 hy
  generalize hz : routeDrops y u.job (calPage x.job x.cal) drops = z at hv
  obtain ⟨⟨b, hw2⟩, hm2, hcount⟩ := routeDrops_counts hl1.1 (calPage_mod _ _) hz
  subst hv
  have hw3 := worksTo_stepCal hw2.2 hrun x.run.pc
  have hm3 := mem_stepCal z u x.run.pc
  refine ⟨((hw0.1.trans hw1).trans hw2.1).trans hw3.1, ⟨_, rfl, hl1.keep (hw2.trans hw3) (by rw [hm3, hm2]) rfl rfl⟩,
    hs1.congr (by rw [hm3, hm2]), ?_⟩
  rw [regGet_of_calm (calmRegs_stepCal z u _) (by decide), hcount,
    regGet_of_calm (hr1.trans (calmRegs_of_trace h0)) (by decide)]

theorem issueRouteSelect_eq (h : permIssue s u 5 0xFFFE = some (x, e, p, es, false)) (hsb : bufOf x.alm p.src = some sb)
    (hdb : bufOf x.alm e.dbuf = some db) (hsi : planItem x.alm p.src = some (ki, si)) : issueRouteSelect s u =
      stepCal (traceEntry (routeDrops (bufPut (traceEntry s u x.run.pc 0) u.job e.dbuf db e.doff
        (routeTables s u.job x.job p sb si).1) u.job (calPage x.job x.cal) (routeTables s u.job x.job p sb si).2)
          u x.run.pc 1) u := by
  unfold issueRouteSelect
  rw [h]
  dsimp only
  rw [if_neg (by simp), hsb, hdb, hsi]

theorem issueRegroup_eq (h : permIssue s u 5 0xFFFD = some (x, e, p, es, false)) (hsb : bufOf x.alm p.src = some sb)
    (hdb : bufOf x.alm e.dbuf = some db) (hsi : planItem x.alm p.src = some (ki, si)) : issueRegroup s u =
      stepCal (traceEntry (routeDrops (bufPut (traceEntry s u x.run.pc 0) u.job e.dbuf db e.doff
        (regroupTables s u.job x.job p sb si).1) u.job (calPage x.job x.cal) (regroupTables s u.job x.job p sb si).2)
          u x.run.pc 1) u := by
  unfold issueRegroup
  rw [h]
  dsimp only
  rw [if_neg (by simp), hsb, hdb, hsi]

end

end Sys2Proof.Machine

namespace Sys2Proof.Machine

/-! ## SLOT_TRANSPOSE (R347) -/

section
variable {s t : State} {u : UnitRef} {x : Issue} {e : RowEntry} {p : PermLine} {es : List Nat} {sb db : BufDef}
  {si di : RowItem} {plan : RowPlan} {n A ki kd esize word : Nat} {E : Int} {vs : List (Nat × Bool)} {j : Job}
  {st : Nat × List (Nat × Bool)}

/-- Bytes of an element in a section. -/
def sectionBytes (esize : Nat) : Nat := if esize = 0 then 1 else 2

theorem length_sectionElem (v : Nat) : (sectionElem esize word v E).1.length = sectionBytes esize := by
  unfold sectionElem sectionBytes
  split
  · rfl
  · split
    · exact length_toLe ..
    · simp [zeros]

/-- A step that fits its section is 256 bytes. -/
theorem length_transposeRow (h : vs.length * sectionBytes esize ≤ 256) : (transposeRow esize word E vs).1.length = 256 := by
  have hbody : ((vs.map fun v => sectionElem esize word v.1 E).flatMap (·.1)).length = vs.length * sectionBytes esize := by
    rw [List.flatMap_map]
    exact length_flatMap_const fun v _ => length_sectionElem v.1
  unfold transposeRow
  simp only [List.length_append, hbody, zeros, List.length_replicate]
  omega

/-- What the parameters of a transpose that fits say of its elements. -/
theorem transposeFits_experts (h : transposeFits s n j plan e p db si di = true) :
    p.experts * sectionBytes di.esize ≤ 256 := by
  simp only [transposeFits, Bool.and_eq_true, decide_eq_true_eq] at h
  obtain ⟨⟨⟨⟨⟨⟨⟨-, -⟩, -, hlim, -⟩, -⟩, -⟩, -⟩, -⟩, -⟩ := h
  unfold sectionBytes
  split_ifs at hlim ⊢ <;> omega

theorem transpose_place (plan : RowPlan) (p : PermLine) : transposeSlot plan p * rowsPerSlot plan / 128 ≤ p.srcGroup := by
  have h : transposeSlot plan p * rowsPerSlot plan ≤ 128 * p.srcGroup := by
    unfold transposeSlot
    split
    · omega
    · exact Nat.div_mul_le_self ..
  omega

/-- A step has an element for each line, or none where its column is not valid. -/
theorem transposeSteps_length (h : st ∈ transposeSteps s n j plan p sb si) : st.2.length = p.experts ∨ st.2 = [] := by
  unfold transposeSteps at h
  obtain ⟨g, -, h⟩ := List.mem_flatMap.mp h
  obtain ⟨c, -, rfl⟩ := List.mem_map.mp h
  dsimp only
  split
  · exact .inl (by simp)
  · exact .inr rfl

/-- The steps write one place after another. -/
theorem transposeSteps_ascend : (transposeSteps s n j plan p sb si).Pairwise fun a b => a.1 < b.1 := by
  have hp := transpose_place plan p
  refine List.pairwise_flatMap.mpr ⟨fun g _ => List.pairwise_map.mpr (List.pairwise_lt_range.imp fun hc => ?_), ?_⟩
  · exact Nat.add_lt_add_left hc _
  · refine List.pairwise_lt_range.imp fun hg a ha b hb => ?_
    obtain ⟨c, hc, rfl⟩ := List.mem_map.mp ha
    obtain ⟨c', -, rfl⟩ := List.mem_map.mp hb
    rw [List.mem_range] at hc
    dsimp only
    omega

/-- What a transpose writes of a step. -/
def transposeOut (s : State) (x : Issue) (plan : RowPlan) (p : PermLine) (di : RowItem) (kd : Nat)
    (st : Nat × List (Nat × Bool)) : List Byte :=
  (transposeRow di.esize (sectionWord s x.job x.alm kd) (aGetD x.job.exps (expKey kd (transposeSlot plan p)) 0) st.2).1

theorem issueTranspose_eq (h : permIssue s u 5 0xFFFC = some (x, e, p, es, false)) (hp : x.alm.plan = some plan)
    (hsb : bufOf x.alm p.src = some sb) (hdb : bufOf x.alm e.dbuf = some db) (hsi : planItem x.alm p.src = some (ki, si))
    (hdi : planItem x.alm e.dbuf = some (kd, di)) (hf : transposeFits s u.job x.job plan e p db si di = true) :
    ∃ key top a b, issueTranspose s u = stepCal (traceEntry (bump (bump (updJob
      ((transposeSteps s u.job x.job plan p sb si).foldl (fun v st => bufPut v u.job e.dbuf db (e.doff + 256 * st.1)
        (transposeOut s x plan p di kd st)) (traceEntry s u x.run.pc 0))
      u.job fun j => { j with maxima := aPut j.maxima key top }) Reg.ADPT_NAN_IN a) Reg.ADPT_CLAMP b) u x.run.pc 1) u := by
  unfold issueTranspose
  rw [h]
  dsimp only
  rw [if_neg (by simp), hp, hsb, hdb, hsi, hdi]
  dsimp only
  rw [if_neg (by simp [hf])]
  rw [List.foldl_map]
  exact ⟨_, _, _, _, rfl⟩

/-- A SLOT_TRANSPOSE writes each of its steps (R347). -/
theorem transpose_writes (h : permIssue s u 5 0xFFFC = some (x, e, p, es, false)) (hp : x.alm.plan = some plan)
    (hsb : bufOf x.alm p.src = some sb) (hdb : bufOf x.alm e.dbuf = some db) (hsi : planItem x.alm p.src = some (ki, si))
    (hdi : planItem x.alm e.dbuf = some (kd, di)) (hf : transposeFits s u.job x.job plan e p db si di = true)
    (hc : onChip s x.job db) (hA : bufBase s u.job x.job db = A) (hv : issueTranspose s u = t) :
    works u.job s t ∧ (∃ j', j'.cals = x.job.cals.set u.cal (pastEntry x.run) ∧ LiesAt t u.job j' db A) ∧
      ∀ st ∈ transposeSteps s u.job x.job plan p sb si, Spelt t (A + (e.doff + 256 * st.1)) (transposeOut s x plan p di kd st) := by
  obtain ⟨hi, -, -⟩ := permIssue_some h
  obtain ⟨hj, -, hrun, -⟩ := issueOf_some hi
  have h0 := onlyTrace_traceEntry s u x.run.pc 0
  have hw0 := worksTo_of_trace h0 hj
  have hl0 := LiesAt.keep ⟨hj, hc, hA⟩ hw0 (by rw [h0.mem]) rfl rfl
  obtain ⟨key, top, a, b, heq⟩ := issueTranspose_eq h hp hsb hdb hsi hdi hf
  rw [heq] at hv
  generalize hz : List.foldl _ (traceEntry s u x.run.pc 0) _ = z at hv
  have hlen : ∀ st ∈ transposeSteps s u.job x.job plan p sb si, ∀ _ : State, (transposeOut s x plan p di kd st).length = 256 :=
    fun st hst _ => length_transposeRow <| by
      rcases transposeSteps_length hst with hn | hn
      · rw [hn]
        exact transposeFits_experts hf
      · simp [hn]
  obtain ⟨hw1, -, hl1, hs1, -⟩ := putAll_chip (pos := fun st : Nat × List (Nat × Bool) => e.doff + 256 * st.1)
    (val := fun _ st => transposeOut s x plan p di kd st) (size := fun _ => 256) hl0 hlen
    (fun _ _ _ _ _ _ _ => rfl) (transposeSteps_ascend.imp fun hlt => .inl (by dsimp only; omega)) hz
  have hw2 := worksTo_updJob hl1.1 fun j => { j with maxima := aPut j.maxima key top }
  have hm2 : (updJob z u.job fun j => { j with maxima := aPut j.maxima key top }).mem = z.mem := rfl
  generalize updJob z u.job _ = y at hv hw2 hm2
  obtain ⟨hw3, hm3⟩ := worksTo_bumps hw2.2 Reg.ADPT_NAN_IN a Reg.ADPT_CLAMP b
  generalize bump (bump y _ a) _ b = q at hv hw3 hm3
  subst hv
  have hw4 := worksTo_stepCal hw3.2 hrun x.run.pc
  have hmem := (mem_stepCal q u x.run.pc).trans (hm3.trans hm2)
  have hw := hw2.trans (hw3.trans hw4)
  exact ⟨(hw0.1.trans hw1).trans hw.1, ⟨_, rfl, hl1.keep hw (by rw [hmem]) rfl rfl⟩,
    fun st hst => (hs1 st hst).congr (by rw [hmem])⟩

end

end Sys2Proof.Machine

namespace Sys2Proof.Machine

/-! # The vector unit (R132 to R135, R268) -/

section
variable {s t : State} {u : UnitRef} {x : Issue} {v : VecEntry} {db b : BufDef} {j : Job} {al : Alm}
  {n A bn o k i len g op src : Nat} {l ra rb rd : List Byte}

theorem length_consume : (consume s n j al bn o len).1.length = len := by
  unfold consume
  split
  · exact length_bufRead
  · simp [zeros]

theorem vecDraw_none (s : State) (g src : Nat) (d : Draw) (st : AMap DWord) : vecDraw s g src d 0 st = ([], st) := by
  unfold vecDraw
  split <;> rfl

theorem vecDraw_counted (s : State) (g : Nat) (d : Draw) (n : Nat) (st : AMap DWord) :
    vecDraw s g 0 d n st = ((List.range n).map fun i => rngField d.seed d.stream d.base i, st) := rfl

theorem vecSrcBytes_pos (op : Nat) : 0 < vecSrcBytes op := by
  unfold vecSrcBytes
  split_ifs <;> decide

/-! ## The elements of a VEC -/

theorem leNat_zeros (k : Nat) : leNat (zeros k) = 0 := by
  induction k with
  | zero => rfl
  | succ k ih =>
    change 0 + 256 * leNat (zeros k) = 0
    rw [ih]

theorem leAt_nil (o k : Nat) : leAt [] o k = 0 := by
  rw [leAt, show sub [] o k = zeros k by simp [sub, zeros, List.map_const'], leNat_zeros]

/-- A number of an operand that is there, or of one that is not read. -/
theorem elemsOf_getD (h : i < l.length / k ∨ l = []) : (elemsOf k l).getD i 0 = leAt l (k * i) k := by
  rcases h with h | rfl
  · simp [elemsOf, h]
  · simp [elemsOf, leAt_nil]

/-- The result of a VEC for an element, from the bytes of its operands. -/
def vecAt (v : VecEntry) (ra rb rd : List Byte) (i : Nat) : Converted :=
  vecElem v.op v.rnd 0 (leAt ra (i * vecSrcBytes v.op) (vecSrcBytes v.op))
    (if v.op = 0x12 ∨ v.op = 0x13 then leAt rb 0 4 else if v.op = 0x18 then leAt rb i 1 else leAt rb (4 * i) 4)
    (if v.op = 0x04 then leAt rd (4 * i) 4 else 0)

/-- Operand b holds an element's number where the operation looks for it. -/
theorem vecOperand_b (hb : rb.length = vecBBytes v.op v.n) (hi : i < v.n) :
    (if v.op = 0x12 ∨ v.op = 0x13 then (elemsOf (if v.op = 0x18 then 1 else 4) rb).getD 0 0
      else (elemsOf (if v.op = 0x18 then 1 else 4) rb).getD i 0) =
      if v.op = 0x12 ∨ v.op = 0x13 then leAt rb 0 4 else if v.op = 0x18 then leAt rb i 1 else leAt rb (4 * i) 4 := by
  unfold vecBBytes at hb
  split
  · rename_i h
    rw [if_pos h] at hb
    rw [if_neg (by omega), elemsOf_getD (.inl (by omega))]
  · rename_i h
    rw [if_neg h] at hb
    split
    · rename_i h18
      rw [if_pos h18] at hb
      rw [elemsOf_getD (.inl (by omega)), Nat.one_mul]
    · rename_i h18
      rw [if_neg h18] at hb
      refine elemsOf_getD ?_
      split at hb
      · exact .inl (by omega)
      · exact .inr (List.eq_nil_of_length_eq_zero hb)

/-- A sum or a maximum is one result. -/
theorem vecResult_one (h : v.op = 0x10 ∨ v.op = 0x11) (ra b d : List Nat) : (vecResult v [] ra b d).1 =
    toLe 4 (fpOut (if v.op = 0x10 then vecSum v.rnd v.order [] ra else vecMax ra)).code := by
  unfold vecResult
  rw [if_pos h]

/-- What a VEC writes for its elements, and what it counts. -/
theorem vecResult_elements (h0 : v.op ≠ 0x10) (h1 : v.op ≠ 0x11) (ha : ra.length = v.n * vecSrcBytes v.op)
    (hb : rb.length = vecBBytes v.op v.n) (hd : v.op = 0x04 → rd.length = 4 * v.n) :
    vecResult v [] (elemsOf (vecSrcBytes v.op) ra) (elemsOf (if v.op = 0x18 then 1 else 4) rb)
        (elemsOf 4 (if v.op = 0x04 then rd else [])) =
      ((List.range v.n).flatMap fun i => toLe (vecDstBytes v.op) (vecAt v ra rb rd i).code,
        ((List.range v.n).filter fun i => (vecAt v ra rb rd i).sat).length,
        ((List.range v.n).filter fun i => (vecAt v ra rb rd i).nan).length) := by
  have hlen : ra.length / vecSrcBytes v.op = v.n := by rw [ha, Nat.mul_div_cancel _ (vecSrcBytes_pos _)]
  have hout : ((elemsOf (vecSrcBytes v.op) ra).zipIdx.map fun x => vecElem v.op v.rnd (([] : List Nat).getD x.2 0) x.1
      (if v.op = 0x12 ∨ v.op = 0x13 then (elemsOf (if v.op = 0x18 then 1 else 4) rb).getD 0 0
        else (elemsOf (if v.op = 0x18 then 1 else 4) rb).getD x.2 0)
      ((elemsOf 4 (if v.op = 0x04 then rd else [])).getD x.2 0)) = (List.range v.n).map (vecAt v ra rb rd) := by
    refine List.ext_getElem (by simp [elemsOf, hlen]) fun i hi _ => ?_
    have hin : i < v.n := by simpa [elemsOf, hlen] using hi
    rw [List.getElem_map, List.getElem_zipIdx, List.getElem_map, List.getElem_range, vecAt, Nat.zero_add]
    dsimp only
    rw [vecOperand_b hb hin]
    congr 1
    · simp [elemsOf, Nat.mul_comm]
    · split
      · exact elemsOf_getD (.inl (by have := hd ‹_›; omega))
      · exact (elemsOf_getD (.inr rfl)).trans (leAt_nil _ _)
  unfold vecResult
  rw [if_neg (by omega)]
  dsimp only
  rw [hout]
  simp [List.flatMap_map, List.filter_map, Function.comp_def]

end

end Sys2Proof.Machine

namespace Sys2Proof.Machine

section
variable {s t : State} {u : UnitRef} {x : Issue} {v : VecEntry} {db : BufDef} {n A g d ld sat nan : Nat}
  {ra rb rd out : List Byte}

/-- The bytes of one of many parts of a length. -/
theorem Spelt.flatMap_part {α : Type} {f : α → List Byte} {r : List α} {a i k : Nat} {y : α} (h : Spelt t a (r.flatMap f))
    (hk : ∀ y ∈ r, (f y).length = k) (hy : r[i]? = some y) : Spelt t (a + i * k) (f y) := by
  rw [← sub_flatMap hk hy]
  refine h.sub ?_
  rw [length_flatMap_const hk, ← Nat.succ_mul]
  exact Nat.mul_le_mul_right _ (List.getElem?_eq_some_iff.mp hy).1

/-- A count of a glade is calm, unless it is one of events' causes or of wakes. -/
theorem calm_glade (g : Nat) {k : Nat} (hk : k < 0x1000) (hc : k ≠ Reg.EVT_CAUSE) (hw : k ≠ Reg.GLADE_RET_WAKES) :
    calm (gladePage g + k) = true := decide_eq_true <| by
  unfold Reg.EVT_CAUSE at hc
  unfold Reg.GLADE_RET_WAKES at hw
  unfold gladePage standBase Reg.TRC_LOST Reg.RAS_EVLOG_LOST Reg.TBL_EPOCH_REFUSED Reg.EVT_CAUSE Reg.GLADE_RET_WAKES
  omega

/-- The state in which a VEC writes: it is traced, the banks it reaches are awake. -/
def vecReady (s : State) (u : UnitRef) (x : Issue) (v : VecEntry) (ld : Nat) : State :=
  touchBuf (touchBuf (updGlade (traceEntry s u x.run.pc 0) (x.job.gladeOf x.cal.glade) fun z =>
    { z with free := (getGlade s (x.job.gladeOf x.cal.glade)).free }) u.job v.abuf v.aoff (v.n * vecSrcBytes v.op) x.alm)
    u.job v.dbuf v.doff ld x.alm

theorem vecReady_worksTo (hj : getJob s u.job = some x.job) (ld : Nat) :
    worksTo u.job s (vecReady s u x v ld) x.job ∧ (vecReady s u x v ld).mem = s.mem ∧
      calmRegs (vecReady s u x v ld) = calmRegs s := by
  have h0 := onlyTrace_traceEntry s u x.run.pc 0
  have hw0 := worksTo_of_trace h0 hj
  unfold vecReady
  generalize hy : updGlade (traceEntry s u x.run.pc 0) _ _ = y
  have hw1 : worksTo u.job (traceEntry s u x.run.pc 0) y x.job := ⟨hy ▸ works_updGlade .., by rw [← hy]; exact hw0.2⟩
  have h2 := (onlyWakes_touchBuf y u.job v.abuf v.aoff (v.n * vecSrcBytes v.op) x.alm).trans
    (onlyWakes_touchBuf _ u.job v.dbuf v.doff ld x.alm)
  refine ⟨(hw0.trans hw1).trans (worksTo_of_wakes h2 hw1.2), ?_, ?_⟩
  · rw [h2.mem, ← hy]
    exact h0.mem
  · rw [calmRegs_of_wakes h2, ← hy]
    exact (calmRegs_regs (s := traceEntry s u x.run.pc 0) rfl).trans (calmRegs_of_trace h0)

/-- A VEC whose operands are not poisoned and whose result goes to a buffer with no map. -/
theorem issueVec_eq (h : issueOf s u 7 = some x) (hv : vecFields x.entry = v) (hdb : bufOf x.alm v.dbuf = some db)
    (hm : (vecMaps s u.job x.job x.alm v).2 = none) (hp : planItem x.alm v.dbuf = none) (hc : onChip s x.job db)
    (ha : consume s u.job x.job x.alm v.abuf v.aoff (v.n * vecSrcBytes v.op) = (ra, false))
    (hb : ∃ bad, consume s u.job x.job x.alm v.bbuf v.boff (vecBBytes v.op v.n) = (rb, bad) ∧
      (vecBBytes v.op v.n ≠ 0 → bad = false))
    (hd : v.op = 0x04 → consume s u.job x.job x.alm v.dbuf v.doff (4 * v.n) = (rd, false)) (hr : v.rnd ≠ .sr)
    (hout : vecResult v [] (elemsOf (vecSrcBytes v.op) ra) (elemsOf (if v.op = 0x18 then 1 else 4) rb)
      (elemsOf 4 (if v.op = 0x04 then rd else [])) = (out, sat, nan)) :
    ∃ ld, issueVec s u = stepCal (traceEntry (bump (bump (bufPut (vecReady s u x v ld) u.job v.dbuf db v.doff out)
      (gladePage (x.job.gladeOf x.cal.glade) + Reg.GLADE_VU_SAT) sat)
      (gladePage (x.job.gladeOf x.cal.glade) + Reg.GLADE_VU_NAN) nan) u x.run.pc 1) u := by
  obtain ⟨bad, hb, hbad⟩ := hb
  have hc3 : (if v.op = 0x04 then consume s u.job x.job x.alm v.dbuf v.doff (4 * v.n) else ([], false)) =
      (if v.op = 0x04 then rd else [], false) := by
    split
    · exact hd ‹_›
    · rfl
  unfold issueVec
  rw [h]
  dsimp only
  rw [hv, hdb]
  rcases hmaps : vecMaps s u.job x.job x.alm v with ⟨ma, mb⟩
  rw [hmaps] at hm
  subst hm
  dsimp only
  rw [ha, hb, hc3]
  dsimp only
  rw [if_neg (by simpa using hbad), hardStop_chip hc, if_neg hr, vecDraw_none, hp]
  dsimp only
  rw [hout, if_neg fun hsr => hr hsr.1]
  exact ⟨_, rfl⟩

/-- A VEC writes its result and counts. -/
theorem vec_writes (h : issueOf s u 7 = some x) (hv : vecFields x.entry = v) (hdb : bufOf x.alm v.dbuf = some db)
    (hm : (vecMaps s u.job x.job x.alm v).2 = none) (hp : planItem x.alm v.dbuf = none) (hc : onChip s x.job db)
    (ha : consume s u.job x.job x.alm v.abuf v.aoff (v.n * vecSrcBytes v.op) = (ra, false))
    (hb : ∃ bad, consume s u.job x.job x.alm v.bbuf v.boff (vecBBytes v.op v.n) = (rb, bad) ∧
      (vecBBytes v.op v.n ≠ 0 → bad = false))
    (hd : v.op = 0x04 → consume s u.job x.job x.alm v.dbuf v.doff (4 * v.n) = (rd, false)) (hr : v.rnd ≠ .sr)
    (hout : vecResult v [] (elemsOf (vecSrcBytes v.op) ra) (elemsOf (if v.op = 0x18 then 1 else 4) rb)
      (elemsOf 4 (if v.op = 0x04 then rd else [])) = (out, sat, nan))
    (hA : bufBase s u.job x.job db = A) (hg : x.job.gladeOf x.cal.glade = g) (ht : issueVec s u = t) :
    works u.job s t ∧ LiesAt t u.job (withRun x.job u (pastEntry x.run)) db A ∧ Spelt t (A + v.doff) out ∧
      (regGet t (gladePage g + Reg.GLADE_VU_SAT)).toNat =
        min ((regGet s (gladePage g + Reg.GLADE_VU_SAT)).toNat + sat) 0xFFFFFFFF ∧
      (regGet t (gladePage g + Reg.GLADE_VU_NAN)).toNat =
        min ((regGet s (gladePage g + Reg.GLADE_VU_NAN)).toNat + nan) 0xFFFFFFFF := by
  obtain ⟨hj, -, hrun, -⟩ := issueOf_some h
  have hcs := calm_glade g (k := Reg.GLADE_VU_SAT) (by decide) (by decide) (by decide)
  have hcn := calm_glade g (k := Reg.GLADE_VU_NAN) (by decide) (by decide) (by decide)
  have hne : gladePage g + Reg.GLADE_VU_SAT ≠ gladePage g + Reg.GLADE_VU_NAN := by
    unfold Reg.GLADE_VU_SAT Reg.GLADE_VU_NAN
    omega
  obtain ⟨ld, heq⟩ := issueVec_eq h hv hdb hm hp hc ha hb hd hr hout
  rw [heq, hg] at ht
  obtain ⟨hw0, hm0, hr0⟩ := vecReady_worksTo (s := s) (v := v) hj ld
  have hl0 := LiesAt.keep ⟨hj, hc, hA⟩ hw0 (by rw [hm0]) rfl rfl
  generalize hy : bufPut (vecReady s u x v ld) u.job v.dbuf db v.doff out = y at ht
  obtain ⟨hw1, hr1, hl1, hs1, -⟩ := bufPut_chip hl0 hy
  have hregs : calmRegs y = calmRegs s := hr1.trans hr0
  obtain ⟨hw2, hm2⟩ := worksTo_bumps hl1.1 (gladePage g + Reg.GLADE_VU_SAT) sat (gladePage g + Reg.GLADE_VU_NAN) nan
  have hsat : (regGet (bump (bump y (gladePage g + Reg.GLADE_VU_SAT) sat) (gladePage g + Reg.GLADE_VU_NAN) nan)
      (gladePage g + Reg.GLADE_VU_SAT)).toNat = min ((regGet s (gladePage g + Reg.GLADE_VU_SAT)).toNat + sat) 0xFFFFFFFF := by
    rw [regGet_bump_ne hne, regGet_bump, regGet_of_calm hregs hcs]
  have hnan : (regGet (bump (bump y (gladePage g + Reg.GLADE_VU_SAT) sat) (gladePage g + Reg.GLADE_VU_NAN) nan)
      (gladePage g + Reg.GLADE_VU_NAN)).toNat = min ((regGet s (gladePage g + Reg.GLADE_VU_NAN)).toNat + nan) 0xFFFFFFFF := by
    rw [regGet_bump, regGet_bump_ne hne.symm, regGet_of_calm hregs hcn]
  generalize bump (bump y _ sat) _ nan = z at ht hw2 hm2 hsat hnan
  subst ht
  have hw3 := worksTo_stepCal hw2.2 hrun x.run.pc
  have hmem := (mem_stepCal z u x.run.pc).trans hm2
  have hr3 := calmRegs_stepCal z u x.run.pc
  refine ⟨(hw0.1.trans hw1).trans (hw2.trans hw3).1, hl1.keep (hw2.trans hw3) (by rw [hmem]) rfl rfl, hs1.congr (by rw [hmem]), ?_, ?_⟩
  · rw [regGet_of_calm hr3 hcs, hsat]
  · rw [regGet_of_calm hr3 hcn, hnan]

/-! ## RNG (R134, R135) -/

/-- A calendar's run put in its place is there. -/
theorem withRun_cal {j : Job} {r q : CalRun} (h : j.cals[u.cal]? = some r) : (withRun j u q).cals[u.cal]? = some q := by
  unfold withRun
  rw [List.getElem?_set_self (List.getElem?_eq_some_iff.mp h).1]

theorem withRun_withRun (j : Job) (u : UnitRef) (q r : CalRun) : withRun (withRun j u q) u r = withRun j u r := by
  unfold withRun
  rw [List.set_set]

/-- The draw context that an RNG entry's record gives. -/
def rngDraw (s : State) (u : UnitRef) (x : Issue) : Draw :=
  let rp := (consume s u.job x.job x.alm (fld x.entry 104 93) (64 * fld x.entry 92 73) 32).1
  ⟨leAt rp 0 8, leAt rp 8 4, leAt rp 16 8⟩

/-- What an RNG entry writes of a draw: a tile or a mask. -/
def rngOut (x : Issue) (d : Draw) : List Byte :=
  let fields := (List.range (fld x.entry 40 17 + 1)).map fun i => rngField d.seed d.stream d.base i
  if fld x.entry 123 122 = 0 then fields.flatMap (toLe 2)
  else fields.map fun f => if f < fld x.entry 120 105 then 1 else 0

/-- An RNG entry that takes the draw context alone. -/
theorem rng_context (h : issueOf s u 8 = some x)
    (hp : (consume s u.job x.job x.alm (fld x.entry 104 93) (64 * fld x.entry 92 73) 32).2 = false)
    (ho : fld x.entry 123 122 = 2) :
    goesTo u.job s (issueRng s u) (withRun x.job u { pastEntry x.run with draw := some (rngDraw s u x) }) := by
  obtain ⟨hj, -, hrun, -⟩ := issueOf_some h
  have heq : issueRng s u = stepCal (traceEntry (updCal (traceEntry s u x.run.pc 0) u fun r =>
      { r with draw := some (rngDraw s u x) }) u x.run.pc 1) u := by
    unfold issueRng
    rw [h]
    dsimp only
    rw [if_neg (by simp [hp]), if_pos ho]
    rfl
  have h0 : goesTo u.job s s x.job := ⟨.refl .., hj⟩
  have h1 := (h0.trace (onlyTrace_traceEntry s u x.run.pc 0)).updCal hrun fun r => { r with draw := some (rngDraw s u x) }
  have h2 := (h1.trace (onlyTrace_traceEntry _ u x.run.pc 1)).updCal (withRun_cal hrun) pastEntry
  rw [heq, ← withRun_withRun]
  exact h2

theorem issueRng_eq (h : issueOf s u 8 = some x)
    (hp : (consume s u.job x.job x.alm (fld x.entry 104 93) (64 * fld x.entry 92 73) 32).2 = false)
    (ho : fld x.entry 123 122 ≠ 2) (hsrc : fld x.entry 121 121 = 0) (hdb : bufOf x.alm (fld x.entry 72 61) = some db)
    (hc : onChip s x.job db) :
    issueRng s u = stepCal (traceEntry (updCal (bufPut (updGlade (traceEntry s u x.run.pc 0) (x.job.gladeOf x.cal.glade)
      fun z => { z with free := (getGlade s (x.job.gladeOf x.cal.glade)).free }) u.job (fld x.entry 72 61) db
        (64 * fld x.entry 60 41) (rngOut x (rngDraw s u x))) u fun r => { r with draw := some { rngDraw s u x with
          base := ((rngDraw s u x).base + (fld x.entry 40 17 + 1 + 7) / 8) % 2 ^ 64 } }) u x.run.pc 1) u := by
  unfold issueRng
  rw [h]
  dsimp only
  rw [if_neg (by simp [hp]), if_neg ho, if_neg ho, hdb]
  dsimp only
  rw [hardStop_chip hc, hsrc, vecDraw_counted]
  rfl

/-- An RNG entry writes its tile or mask, and its draw context moves on. -/
theorem rng_writes (h : issueOf s u 8 = some x)
    (hp : (consume s u.job x.job x.alm (fld x.entry 104 93) (64 * fld x.entry 92 73) 32).2 = false)
    (ho : fld x.entry 123 122 ≠ 2) (hsrc : fld x.entry 121 121 = 0) (hdb : bufOf x.alm (fld x.entry 72 61) = some db)
    (hc : onChip s x.job db) (hA : bufBase s u.job x.job db = A) (hv : issueRng s u = t) :
    works u.job s t ∧ (∃ j', j'.cals = x.job.cals.set u.cal { pastEntry x.run with draw := some { rngDraw s u x with
      base := ((rngDraw s u x).base + (fld x.entry 40 17 + 1 + 7) / 8) % 2 ^ 64 } } ∧ LiesAt t u.job j' db A) ∧
      Spelt t (A + 64 * fld x.entry 60 41) (rngOut x (rngDraw s u x)) := by
  obtain ⟨hj, -, hrun, -⟩ := issueOf_some h
  rw [issueRng_eq h hp ho hsrc hdb hc] at hv
  have h0 := onlyTrace_traceEntry s u x.run.pc 0
  have hw0 := worksTo_of_trace h0 hj
  generalize hy : updGlade (traceEntry s u x.run.pc 0) _ _ = y at hv
  have hw1 : worksTo u.job (traceEntry s u x.run.pc 0) y x.job := ⟨hy ▸ works_updGlade .., by rw [← hy]; exact hw0.2⟩
  have hm1 : y.mem = s.mem := by rw [← hy]; exact h0.mem
  have hl1 := LiesAt.keep ⟨hj, hc, hA⟩ (hw0.trans hw1) (by rw [hm1]) rfl rfl
  generalize hz : bufPut y u.job _ db _ _ = z at hv
  obtain ⟨hw2, -, hl2, hs2, -⟩ := bufPut_chip hl1 hz
  have hw3 := worksTo_updCal hl2.1 hrun fun r => { r with draw := some { rngDraw s u x with
    base := ((rngDraw s u x).base + (fld x.entry 40 17 + 1 + 7) / 8) % 2 ^ 64 } }
  have hw4 := hw3.trans (worksTo_stepCal hw3.2 (withRun_cal hrun) x.run.pc)
  rw [withRun_withRun] at hw4
  have hmem : t.mem = z.mem := by
    rw [← hv, mem_stepCal]
    rfl
  rw [hv] at hw4
  exact ⟨((hw0.trans hw1).1.trans hw2).trans hw4.1, ⟨_, rfl, hl2.keep hw4 (by rw [hmem]) rfl rfl⟩, hs2.congr (by rw [hmem])⟩

end

end Sys2Proof.Machine

namespace Sys2Proof.Machine

/-- Settles O60: each sorter and vector entry through what its writes leave on the chip, the choice of the largest scores
through the order of decoded values. -/
theorem sorterAndVectors : Obligations.SorterAndVectors := by
  unfold Obligations.SorterAndVectors
  refine ⟨fun s u cls handle x e p es sb db si ki h hsb hdb hsi => ?_, fun k l hn => topK_largest hn,
    fun s u x db h => ?_, fun s u x h => ?_⟩
  · intro on drops
    refine ⟨fun di kd hdi => ⟨?_, ?_, ?_⟩, fun hc => ⟨?_, ?_⟩⟩
    · rintro ⟨hr, hl, hs⟩ rfl rfl hc ht
      obtain ⟨hlies, hw, hsp⟩ := permute_writes h hsb hdb hsi hdi hr hl hs hc ht rfl rfl
      refine Gives.runs rfl ⟨⟨hw.2, _, hlies.1, rfl⟩, fun n hn => ?_⟩
      obtain ⟨hmap, hcell⟩ := hsp n hn
      exact ⟨hlies.holds hmap, fun l hll => hlies.holds (hcell l hll)⟩
    · rintro ⟨hr, hl, hs⟩ rfl rfl
      refine ⟨fun hd hk => Gives.runs rfl (return_differs h hsb hdb hsi hdi hr hl hs hk hd),
        fun hd hc ht h0 hn => Gives.runs rfl ?_⟩
      obtain ⟨hlies, hw, hsp⟩ := return_writes h hsb hdb hsi hdi hr hl hs hd hc ht h0 hn rfl rfl
      exact ⟨⟨hw.2, _, hlies.1, rfl⟩, fun w hw l hll => hlies.holds (hsp w hw l hll)⟩
    · rintro plan rfl rfl hp hf hc
      obtain ⟨hw, ⟨j', hcals, hlies⟩, hsp⟩ := transpose_writes h hp hsb hdb hsi hdi hf hc rfl rfl
      exact Gives.runs rfl ⟨⟨hw.2, j', hlies.1, hcals⟩, fun st hst => ⟨hlies.holds (hsp st hst), transposeSteps_length hst⟩⟩
    · rintro rfl rfl
      obtain ⟨hw, ⟨j', hcals, hlies⟩, hsp, hcount⟩ := route_writes (permIssue_some h).1 hc rfl (issueRouteSelect_eq h hsb hdb hsi).symm
      exact Gives.runs rfl ⟨⟨hw.2, j', hlies.1, hcals⟩, hcount, hlies.holds hsp⟩
    · rintro rfl rfl
      obtain ⟨hw, ⟨j', hcals, hlies⟩, hsp, hcount⟩ := route_writes (permIssue_some h).1 hc rfl (issueRegroup_eq h hsb hdb hsi).symm
      exact Gives.runs rfl ⟨⟨hw.2, j', hlies.1, hcals⟩, hcount, hlies.holds hsp⟩
  · intro v a b d page elem hdb hm hp hc ha hb hd hr
    rcases hres : vecResult v [] (elemsOf (vecSrcBytes v.op) a.1) (elemsOf (if v.op = 0x18 then 1 else 4) b.1)
      (elemsOf 4 (if v.op = 0x04 then d.1 else [])) with ⟨out, sat, nan⟩
    obtain ⟨hw, hlies, hsp, hsat, hnan⟩ := vec_writes h rfl hdb hm hp hc (Prod.ext rfl ha) ⟨_, rfl, hb⟩
      (fun h4 => Prod.ext rfl (hd h4)) hr hres rfl rfl rfl
    refine Gives.runs rfl ⟨hw.2, ⟨_, hlies.1, rfl⟩, fun hop => ?_, fun h0 h1 => ?_⟩
    · have hk : vecSrcBytes v.op = 4 := by rcases hop with hop | hop <;> rw [hop] <;> rfl
      have hone := (congrArg (·.1) hres).symm.trans (vecResult_one hop ..)
      rw [hk] at hone
      subst hone
      exact hlies.holds hsp
    · have hall := (vecResult_elements h0 h1 length_consume length_consume fun _ => length_consume).symm.trans hres
      simp only [Prod.mk.injEq] at hall
      obtain ⟨rfl, rfl, rfl⟩ := hall
      refine ⟨fun i hi => hlies.holds ?_, hsat, hnan⟩
      rw [← Nat.add_assoc]
      exact hsp.flatMap_part (fun _ _ => length_toLe ..) (List.getElem?_range hi)
  · intro op param d n fields hp
    refine ⟨fun ho => Gives.runs rfl (rng_context h hp ho), fun db ho hsrc hdb hc => ?_⟩
    obtain ⟨hw, ⟨j', hcals, hlies⟩, hsp⟩ := rng_writes h hp ho hsrc hdb hc rfl rfl
    exact Gives.runs rfl ⟨hw.2, ⟨j', hlies.1, hcals⟩, hlies.holds hsp⟩

end Sys2Proof.Machine

namespace Sys2Proof.Machine

/-! # Flash operations: programs, erases, suspension, scans, raw commands (R204 to R216, R229, R239, R247 to R250)

## What follow-up work leaves on the dies and blocks

An operation that ends lets units become durable, commands complete, reclaim and erases go on. The silicon is the part of
the state that this work leaves alone until the next erase starts: the channels with their dies' operations, the blocks,
the registers that show erases. -/

/-- A channel's registers that show the erases of its dies (R216). -/
def eraseFlag (a : Nat) : Bool := decide (0x01000000 ≤ a ∧ 0x80 ≤ a % 0x1000 ∧ a % 0x1000 < 0xA0)

structure Silicon where
  chan : Nat → Channel
  block : Nat → Block
  flags : Nat → Word

def silicon (s : State) : Silicon where
  chan := getChan s
  block := getBlock s
  flags a := if eraseFlag a then regGet s a else 0

section
variable {s t : State} {a n k p q ch die B : Nat}

theorem getChan_of_silicon (h : silicon t = silicon s) (i : Nat) : getChan t i = getChan s i := congrFun (congrArg Silicon.chan h) i

theorem getBlock_of_silicon (h : silicon t = silicon s) (j : Nat) : getBlock t j = getBlock s j := congrFun (congrArg Silicon.block h) j

/-- States with the same channels, the same blocks and the same flags. -/
theorem silicon_congr (hc : t.chans = s.chans) (hb : t.ftl.blocks = s.ftl.blocks)
    (hr : ∀ b, eraseFlag b = true → regGet t b = regGet s b) : silicon t = silicon s := by
  have hf : (silicon t).flags = (silicon s).flags := funext fun b => by
    by_cases h : eraseFlag b = true <;> simp [silicon, h, hr b]
  have hc' : getChan t = getChan s := funext fun i => by rw [getChan, getChan, hc]
  have hk : getBlock t = getBlock s := funext fun j => by rw [getBlock, getBlock, hb]
  exact (congrArg₂ (Silicon.mk · (getBlock t)) hc' hf).trans (by rw [hk]; rfl)

/-! ### Records and registers -/

/-- Whatever is replaced beside the channels, the translation layer and the registers. -/
@[simp] theorem silicon_replace (s : State) (parts : AMap Part) (host : HostIf) (forest : Forest) :
    silicon { s with parts, host, forest } = silicon s := rfl

/-- The parts of the translation layer beside the blocks. -/
@[simp] theorem silicon_ftl (s : State) (map : AMap MapEntry) (buf : List BufUnit) (nextOrder seq : Nat) (journal : List JournalRec)
    (sinceCkpt : Nat) (sbs : AMap SuperBlock) (opened sbErases members : AMap Nat) (credit : Nat) (flushes : List FlushWait)
    (cleanRecord : Bool) (pages : AMap NandPage) :
    silicon { s with ftl := { s.ftl with map, buf, nextOrder, seq, journal, sinceCkpt, sbs, opened, sbErases, members, credit,
                                         flushes, cleanRecord, pages } } = silicon s := rfl

@[simp] theorem silicon_ite (c : Prop) [Decidable c] (s t : State) : silicon (if c then s else t) = if c then silicon s else silicon t :=
  apply_ite ..

@[simp] theorem silicon_foldl {β : Type} {g : State → β → State} (hg : ∀ s x, silicon (g s x) = silicon s) (l : List β) (s : State) :
    silicon (l.foldl g s) = silicon s :=
  foldl_keeps (fun t => silicon t = silicon s) g (fun _ x h => (hg _ x).trans h) l s rfl

theorem eraseFlag_ne {b : Nat} (ha : eraseFlag a = false) (hb : eraseFlag b = true) : b ≠ a := by
  rintro rfl
  exact absurd (hb.symm.trans ha) (by decide)

/-- A register of a page below the flags of its erases. -/
theorem eraseFlag_low (h : a % 0x1000 < 0x80) : eraseFlag a = false := decide_eq_false (by omega)

@[simp] theorem eraseFlag_hubs : eraseFlag Reg.FTL_SB = false ∧ eraseFlag Reg.FTL_STAT = false ∧ eraseFlag Reg.FTL_REBUILD = false ∧
    eraseFlag Reg.FOREST_EC_STALE = false ∧ eraseFlag Reg.FTL_MEDIA_UNITS_LO = false ∧ eraseFlag (Reg.FTL_MEDIA_UNITS_LO + 4) = false ∧
    eraseFlag (pgFtl + Reg.EVT_CAUSE) = false ∧ eraseFlag Reg.RAS_EVLOG_LOST = false := by decide

@[simp] theorem eraseFlag_chowen (h : n < 0x80) : eraseFlag (chowenPage p + n) = false :=
  eraseFlag_low (by unfold chowenPage; omega)

@[simp] theorem silicon_setReg (h : eraseFlag a = false) (w : Word) : silicon (setReg s a w) = silicon s :=
  silicon_congr rfl rfl fun _ hb => regGet_setReg_ne w (eraseFlag_ne h hb)

@[simp] theorem silicon_bump (h : eraseFlag a = false) : silicon (bump s a n) = silicon s := silicon_setReg h _

@[simp] theorem silicon_setF (h : eraseFlag a = false) (f : BitField) (v : Nat) : silicon (setF s a f v) = silicon s :=
  silicon_setReg h _

@[simp] theorem silicon_bumpF (h : eraseFlag a = false) (f : BitField) (v : Nat) : silicon (bumpF s a f v) = silicon s :=
  silicon_setReg h _

@[simp] theorem silicon_bumpPair (h : eraseFlag a = false) (h' : eraseFlag (a + 4) = false) : silicon (bumpPair s a n) = silicon s :=
  (silicon_setReg h' _).trans (silicon_setReg h _)

@[simp] theorem silicon_post {page : Nat} (h : eraseFlag (page + Reg.EVT_CAUSE) = false) (code part a0 a1 : Nat) :
    silicon (post s page code part a0 a1) = silicon s :=
  silicon_congr rfl rfl fun _ hb =>
    (regGet_postFlags _ _ _ _ _ _ _ (eraseFlag_ne (by decide) hb)).trans (if_neg (eraseFlag_ne h hb))

/-! ### Super-blocks and the write buffer -/

@[simp] theorem silicon_updSb {f : SuperBlock → SuperBlock} : silicon (updSb s B f) = silicon s := by rfl

@[simp] theorem silicon_takeSlot {stream : Nat} : silicon (takeSlot s stream).1 = silicon s := by
  obtain ⟨e, hr⟩ := onlySlots_takeSlot (s := s) stream
  refine silicon_congr (by rw [e]) (by rw [e]) fun b hb => hr b ?_
  simpa using eraseFlag_ne (by decide) hb

@[simp] theorem silicon_assignSlots : silicon (assignSlots s) = silicon s := by
  refine silicon_foldl (fun t b => ?_) _ _
  have h := silicon_takeSlot (s := t) (stream := 0)
  rcases hs : takeSlot t 0 with ⟨u, _ | k⟩
  · rfl
  · rw [hs] at h
    simpa using h

@[simp] theorem silicon_reslot {sel : BufUnit → Bool} : silicon (reslot s sel) = silicon s := by simp [reslot]

@[simp] theorem silicon_closeSb : silicon (closeSb s B) = silicon s := by simp [closeSb]

@[simp] theorem silicon_freeErased {sb : SuperBlock} : silicon (freeErased s B sb) = silicon s := by
  unfold freeErased
  dsimp only
  generalize hf : List.foldl _ (s, true) _ = r
  have h : silicon r.1 = silicon s := by
    rw [← hf]
    refine foldl_keeps (fun b : State × Bool => silicon b.1 = silicon s) _ (fun acc x hacc => ?_) _ _ rfl
    split <;> simpa using hacc
  simp [h]

@[simp] theorem silicon_sweepErased : silicon (sweepErased s) = silicon s := by simp [sweepErased]

@[simp] theorem silicon_countRebuild : silicon (countRebuild s) = silicon s := by unfold countRebuild; split <;> simp

@[simp] theorem silicon_mapSet {e : Option MapEntry} : silicon (mapSet s k e) = silicon s := by rfl

@[simp] theorem silicon_landUnit {b : BufUnit} : silicon (landUnit s b) = silicon s := by unfold landUnit; split <;> simp

/-! ### Messages, completions, programmed units -/

@[simp] theorem silicon_updAssoc {f : Assoc → Assoc} : silicon (updAssoc s p q f) = silicon s := by rfl

@[simp] theorem silicon_queueMsgs : silicon (queueMsgs s) = silicon s := by
  refine silicon_foldl (fun t m => ?_) _ _
  split
  · rfl
  · split <;> simp

@[simp] theorem silicon_sendNumbered {f : SentFrame} : silicon (sendNumbered s p q f) = silicon s := by
  have h : Reg.CHW_TX_LO < 0x80 ∧ Reg.CHW_TX_LO + 4 < 0x80 := by decide
  simp [sendNumbered, chwReg, Nat.add_assoc, h]

@[simp] theorem silicon_nextEpoch : silicon (nextEpoch s p q) = silicon s := by unfold nextEpoch; split <;> simp

@[simp] theorem silicon_transmit : silicon (transmit p q n s) = silicon s := by
  induction n generalizing s with
  | zero => rfl
  | succ n ih =>
    unfold transmit
    dsimp only
    split
    · simp
    · split <;> simp [ih]

@[simp] theorem silicon_sendMsg {bytes : List Byte} {delta : Option Nat} : silicon (sendMsg s p ch bytes delta) = silicon s := by
  simp [sendMsg, pump]

@[simp] theorem silicon_completeAt {r : Reply} : silicon (completeAt s p q r) = silicon s := by rfl

@[simp] theorem silicon_settle : silicon (settle s) = silicon s := by simp [settle, ackDeltas]

@[simp] theorem silicon_noteContent {u idx ident : Nat} {v : UnitVal} : silicon (noteContent s p u idx ident v) = silicon s := by
  unfold noteContent
  split
  · unfold noteChange
    split
    · rfl
    · split
      · rfl
      · simp [markStale, sendDelta]
  · unfold noteStale
    split
    · rfl
    · split <;> simp [markStale]

@[simp] theorem silicon_programUnit {b : BufUnit} : silicon (programUnit s b a) = silicon s := by simp [programUnit]

@[simp] theorem silicon_wordlineDone : silicon (wordlineDone s B ch) = silicon s := by unfold wordlineDone; split <;> simp

@[simp] theorem silicon_slcDone {upto : Nat} : silicon (slcDone s ch upto) = silicon s := by simp [slcDone]

end

end Sys2Proof.Machine

namespace Sys2Proof.Machine

section
variable {s t : State} {a n k p q ch die B i j : Nat} {o : DieOp}

/-! ## Dies, blocks and their addresses -/

theorem getChan_updChan (f : Channel → Channel) (i : Nat) :
    getChan (updChan s ch f) i = if i = ch then f (getChan s ch) else getChan s i := aGetD_aPut ..

theorem dieOp_setDieOp (x : Option DieOp) (i d : Nat) :
    dieOp (setDieOp s ch die x) i d = if i = ch ∧ d = die then x else dieOp s i d := by
  rw [dieOp, setDieOp, getChan_updChan]
  by_cases hi : i = ch
  · subst hi
    cases x with
    | none => simp only [if_true, true_and, aGet?_aDel]; rfl
    | some x => simp only [if_true, true_and, aGet?_aPut]; rfl
  · rw [if_neg hi, if_neg fun h => hi h.1]
    rfl

theorem dieOp_setDieOp_same (x : Option DieOp) : dieOp (setDieOp s ch die x) ch die = x :=
  (dieOp_setDieOp ..).trans (if_pos ⟨rfl, rfl⟩)

theorem dieOp_of_silicon (h : silicon t = silicon s) (i d : Nat) : dieOp t i d = dieOp s i d := by
  rw [dieOp, dieOp, getChan_of_silicon h]

/-- A channel without what its dies do. -/
def restOf (c : Channel) : Channel := { c with ops := [] }

theorem rest_setDieOp (x : Option DieOp) : restOf (getChan (setDieOp s ch die x) i) = restOf (getChan s i) := by
  rw [setDieOp, getChan_updChan]
  split
  · subst_vars; rfl
  · rfl

theorem isGrown_of_rest (h : ∀ i, restOf (getChan t i) = restOf (getChan s i)) : isGrown t k = isGrown s k := by
  have hg : (getChan t (addrChan (k * 4096))).grown = (getChan s (addrChan (k * 4096))).grown := (congrArg Channel.grown (h _) :)
  rw [isGrown, isGrown, hg]

theorem isGrown_of_silicon (h : silicon t = silicon s) : isGrown t k = isGrown s k :=
  isGrown_of_rest fun i => by rw [getChan_of_silicon h]

/-- The block's number gives back its channel, its die and its number on the die. -/
theorem blockAt_place {st c b : Nat} (hs : st < 8) (hc : c < 16) (hd : die < 8) (hb : b < 2 ^ 14) :
    addrChan (blockAt (16 * st + c) die b * 4096) = 16 * st + c ∧ addrDie (blockAt (16 * st + c) die b * 4096) = die ∧
      blockAt (16 * st + c) die b % 2 ^ 14 = b := by
  have h : blockAt (16 * st + c) die b = st * 2 ^ 21 + c * 2 ^ 17 + die * 2 ^ 14 + b := by
    unfold blockAt physAddr; omega
  rw [h]
  refine ⟨?_, ?_, ?_⟩
  · unfold addrChan addrStand bitsOf
    simp only [Nat.shiftRight_eq_div_pow]
    omega
  · unfold addrDie bitsOf
    simp only [Nat.shiftRight_eq_div_pow]
    omega
  · omega

/-! ## Operations resume (R209, R214) -/

/-- A key-respecting map of a finite map. -/
theorem aGet?_mapKey {α β : Type} (m : AMap α) (f : Nat → α → β) (k : Nat) :
    aGet? (m.map fun e => (e.1, f e.1 e.2)) k = (aGet? m k).map (f k) := by
  induction m with
  | nil => rfl
  | cons e r ih =>
    simp only [List.map_cons, aGet?, ih]
    split
    · subst_vars; rfl
    · rfl

/-- An operation once the reads of its die have completed. -/
def resumed (s : State) (ch die : Nat) (o : DieOp) : DieOp :=
  if o.suspended ∧ !dieReads s ch die then { o with suspended := false } else o

/-- A channel once the reads of its dies have completed: in brown-out nothing resumes. -/
def resumedChan (s : State) (i : Nat) (c : Channel) : Channel :=
  if c.brownOut then c else { c with ops := c.ops.map fun e => (e.1, resumed s i e.1 e.2) }

theorem getChan_resumeDies : getChan (resumeDies s) i = resumedChan s i (getChan s i) := by
  have hf : (resumeDies s).chans = s.chans.map fun e => (e.1, resumedChan s e.1 e.2) := by
    refine List.map_congr_left fun e _ => ?_
    simp only [resumedChan, resumed]
    split
    · rfl
    · congr 3
      funext x
      split <;> rfl
  rw [getChan, aGetD, hf, aGet?_mapKey, getChan, aGetD]
  cases aGet? s.chans i <;> rfl

theorem rest_resumeDies : restOf (getChan (resumeDies s) i) = restOf (getChan s i) := by
  rw [getChan_resumeDies, resumedChan]
  split <;> rfl

theorem dieOp_resumeDies : dieOp (resumeDies s) ch die =
    if (getChan s ch).brownOut then dieOp s ch die else (dieOp s ch die).map (resumed s ch die) := by
  rw [dieOp, getChan_resumeDies, resumedChan]
  split
  · rfl
  · exact aGet?_mapKey ..

/-- An operation that runs is not touched. -/
theorem dieOp_resumeDies_running (ho : dieOp s ch die = some o) (hs : o.suspended = false) :
    dieOp (resumeDies s) ch die = some o := by
  have hr : resumed s ch die o = o := if_neg fun h => by simp [hs] at h
  rw [dieOp_resumeDies, ho, Option.map_some, hr, ite_self]

theorem dieOp_resumeDies_none (ho : dieOp s ch die = none) : dieOp (resumeDies s) ch die = none := by
  rw [dieOp_resumeDies, ho, Option.map_none, ite_self]

/-! ## Erases start (R216) -/

/-- What the start of a block's erase does: its die programs the log page with the set record. -/
def startErase (s : State) (k : Nat) : State :=
  let ch := addrChan (k * 4096)
  let die := addrDie (k * 4096)
  let s1 := setReg s (chanPage ch + Reg.CH_ERASE_ACTIVE + 4 * die) (BitVec.ofNat 32 (2 ^ 31 + k % 2 ^ 14))
  setDieOp (updBlock s1 k fun b => { b with pendingFlag := true, clear := false, verified := false }) ch die
    (some (newOp s1 4 (k % 2 ^ 14) 0))

theorem kick_eq : kick s = ((s.ftl.blocks.filter fun e => e.2.needErase).map (·.1)).foldl
    (fun s k => if !mayErase s k then s else startErase s k) s := rfl

/-- What each start of an erase keeps holds after all of them. -/
theorem kick_keeps_of {P : State → Prop} (h : ∀ t k, mayErase t k = true → P t → P (startErase t k)) (hs : P s) : P (kick s) := by
  rw [kick_eq]
  refine foldl_keeps P _ (fun t k ht => ?_) _ _ hs
  split
  · exact ht
  · rename_i hm
    exact h t k (by simpa using hm) ht

/-- An erase starts on an idle die, of a block that waits for it. -/
theorem of_mayErase (h : mayErase s k = true) :
    (getBlock s k).needErase = true ∧ dieOp s (addrChan (k * 4096)) (addrDie (k * 4096)) = none := by
  simp only [mayErase, Bool.and_eq_true, Option.isNone_iff_eq_none] at h
  obtain ⟨⟨⟨⟨⟨⟨⟨hn, -⟩, -⟩, -⟩, -⟩, hd⟩, -⟩, -⟩ := h
  exact ⟨hn, hd⟩

theorem dieOp_startErase : dieOp (startErase s k) ch die =
    if ch = addrChan (k * 4096) ∧ die = addrDie (k * 4096) then some (newOp s 4 (k % 2 ^ 14) 0) else dieOp s ch die :=
  dieOp_setDieOp ..

theorem getBlock_startErase : getBlock (startErase s k) j =
    if j = k then { getBlock s k with pendingFlag := true, clear := false, verified := false } else getBlock s j :=
  Eq.trans (b := getBlock (updBlock s k fun b => { b with pendingFlag := true, clear := false, verified := false }) j) rfl
    (getBlock_updBlock ..)

theorem rest_kick : restOf (getChan (kick s) i) = restOf (getChan s i) :=
  kick_keeps_of (P := fun t => restOf (getChan t i) = restOf (getChan s i)) (fun _ _ _ h => (rest_setDieOp _).trans h) rfl

/-- A die that is idle does nothing but start an erase. -/
theorem dieOp_kick_idle (h : dieOp s ch die = none) (x : DieOp) : dieOp (kick s) ch die = some x → x.kind = 4 := by
  refine kick_keeps_of (P := fun t => dieOp t ch die = some x → x.kind = 4) (fun t k _ ht hx => ?_) (fun hx => ?_)
  · rw [dieOp_startErase] at hx
    split at hx
    · cases hx
      rfl
    · exact ht hx
  · rw [h] at hx
    cases hx

/-- A die at work goes on. -/
theorem dieOp_kick_busy (h : dieOp s ch die = some o) : dieOp (kick s) ch die = some o := by
  refine kick_keeps_of (P := fun t => dieOp t ch die = some o) (fun t k hm ht => ?_) h
  obtain ⟨-, hn⟩ := of_mayErase hm
  rw [dieOp_startErase, if_neg, ht]
  rintro ⟨rfl, rfl⟩
  rw [ht] at hn
  cases hn

/-- No block of a die at work is touched. -/
theorem getBlock_kick_busy (h : dieOp s (addrChan (j * 4096)) (addrDie (j * 4096)) = some o) :
    getBlock (kick s) j = getBlock s j := by
  refine (kick_keeps_of (P := fun t => dieOp t (addrChan (j * 4096)) (addrDie (j * 4096)) = some o ∧ getBlock t j = getBlock s j)
    (fun t k hm ht => ?_) ⟨h, rfl⟩).2
  obtain ⟨ho, hb⟩ := ht
  obtain ⟨-, hn⟩ := of_mayErase hm
  have hk : j ≠ k := fun e => by
    rw [e, hn] at ho
    cases ho
  refine ⟨?_, by rw [getBlock_startErase, if_neg hk, hb]⟩
  rw [dieOp_startErase, if_neg, ho]
  rintro ⟨e, e'⟩
  rw [← e, ← e', ho] at hn
  cases hn

/-- A block that waits for no erase is not touched. -/
theorem getBlock_kick_unneeded (h : (getBlock s j).needErase = false) : getBlock (kick s) j = getBlock s j := by
  refine kick_keeps_of (P := fun t => getBlock t j = getBlock s j) (fun t k hm ht => ?_) rfl
  have hk : j ≠ k := fun e => by
    obtain ⟨hn, -⟩ := of_mayErase hm
    rw [← e, ht, h] at hn
    cases hn
  rw [getBlock_startErase, if_neg hk, ht]

/-- An erase that starts leaves the write pointer, and verifies no block. -/
theorem getBlock_kick (j : Nat) : (getBlock (kick s) j).wp = (getBlock s j).wp ∧
    ((getBlock s j).verified = false → (getBlock (kick s) j).verified = false) := by
  refine kick_keeps_of (P := fun t => (getBlock t j).wp = (getBlock s j).wp ∧
    ((getBlock s j).verified = false → (getBlock t j).verified = false)) (fun t k _ ht => ?_) ⟨rfl, id⟩
  rw [getBlock_startErase]
  split
  · subst_vars
    exact ⟨ht.1, fun _ => rfl⟩
  · exact ht

/-- The register that shows a die's erase (R216). -/
def eraseReg (ch die : Nat) : Nat := chanPage ch + Reg.CH_ERASE_ACTIVE + 4 * die

theorem eraseReg_ne {ch' die' : Nat} (hd : die < 8) (hd' : die' < 8) (h : ¬(ch' = ch ∧ die' = die)) :
    eraseReg ch die ≠ eraseReg ch' die' := by
  unfold eraseReg chanPage standBase Reg.CH_ERASE_ACTIVE
  omega

theorem eraseFlag_eraseReg (hd : die < 8) : eraseFlag (eraseReg ch die) = true :=
  decide_eq_true (by unfold eraseReg chanPage standBase Reg.CH_ERASE_ACTIVE; omega)

/-- The register of a die at work is not touched. -/
theorem regGet_kick_busy (hd : die < 8) (h : dieOp s ch die = some o) :
    regGet (kick s) (eraseReg ch die) = regGet s (eraseReg ch die) := by
  refine (kick_keeps_of (P := fun t => dieOp t ch die = some o ∧ regGet t (eraseReg ch die) = regGet s (eraseReg ch die))
    (fun t k hm ht => ?_) ⟨h, rfl⟩).2
  obtain ⟨ho, hr⟩ := ht
  obtain ⟨-, hn⟩ := of_mayErase hm
  have hk : ¬(ch = addrChan (k * 4096) ∧ die = addrDie (k * 4096)) := by
    rintro ⟨rfl, rfl⟩
    rw [ho] at hn
    cases hn
  refine ⟨by rw [dieOp_startErase, if_neg hk, ho], ?_⟩
  have hne := eraseReg_ne (ch := ch) hd (addrDie_lt (k * 4096)) (fun e => hk ⟨e.1.symm, e.2.symm⟩)
  exact (regGet_setReg_ne _ hne).trans hr

/-! ## Reclaimed super-blocks go to their erase (R247) -/

/-- The silicon without the marks of blocks that wait for their erase. -/
def Silicon.unmarked (v : Silicon) : Silicon := { v with block := fun k => { v.block k with needErase := false } }

theorem unmarked_markErase : (silicon (updBlock s k fun b => { b with needErase := true })).unmarked = (silicon s).unmarked := by
  have h : (fun j => { getBlock (updBlock s k fun b => { b with needErase := true }) j with needErase := false }) =
      fun j => { getBlock s j with needErase := false } := funext fun j => by
    rw [getBlock_updBlock]
    split
    · subst_vars; rfl
    · rfl
  exact congrArg (Silicon.mk _ · _) h

theorem unmarked_sweepReclaimed : (silicon (sweepReclaimed s)).unmarked = (silicon s).unmarked := by
  unfold sweepReclaimed
  refine foldl_keeps (fun t => (silicon t).unmarked = (silicon s).unmarked) _ (fun t e ht => ?_) _ _ rfl
  split
  · rw [silicon_sweepErased]
    refine foldl_keeps (fun u => (silicon u).unmarked = (silicon s).unmarked) _ (fun u k hu => ?_) _ _ ht
    split
    · exact hu
    · exact unmarked_markErase.trans hu
  · exact ht

/-! ## What every change of flash sets going -/

/-- The state as erases are about to start. -/
def swept (s : State) : State := sweepReclaimed (countRebuild (resumeDies s))

theorem flashSettle_eq : flashSettle s = kick (swept s) := rfl

theorem unmarked_swept : (silicon (swept s)).unmarked = (silicon (resumeDies s)).unmarked := by
  rw [swept, unmarked_sweepReclaimed, silicon_countRebuild]

theorem getChan_swept : getChan (swept s) i = getChan (resumeDies s) i := congrFun (congrArg Silicon.chan unmarked_swept) i

theorem dieOp_swept : dieOp (swept s) ch die = dieOp (resumeDies s) ch die := by rw [dieOp, dieOp, getChan_swept]

theorem regGet_swept (h : eraseFlag a = true) : regGet (swept s) a = regGet s a := by
  have e : (if eraseFlag a then regGet (swept s) a else 0) = if eraseFlag a then regGet s a else 0 :=
    congrFun (congrArg Silicon.flags unmarked_swept) a
  simpa [h] using e

theorem getBlock_swept (j : Nat) : { getBlock (swept s) j with needErase := false } = { getBlock s j with needErase := false } :=
  congrFun (congrArg Silicon.block unmarked_swept) j

@[simp] theorem rest_flashSettle : restOf (getChan (flashSettle s) i) = restOf (getChan s i) := by
  rw [flashSettle_eq, rest_kick, getChan_swept, rest_resumeDies]

@[simp] theorem isGrown_flashSettle : isGrown (flashSettle s) k = isGrown s k := isGrown_of_rest fun _ => rest_flashSettle

theorem dieOp_flashSettle_idle (h : dieOp s ch die = none) (x : DieOp) (hx : dieOp (flashSettle s) ch die = some x) : x.kind = 4 :=
  dieOp_kick_idle (dieOp_swept.trans (dieOp_resumeDies_none h)) x hx

theorem getBlock_flashSettle (j : Nat) : (getBlock (flashSettle s) j).wp = (getBlock s j).wp ∧
    ((getBlock s j).verified = false → (getBlock (flashSettle s) j).verified = false) := by
  have h := getBlock_swept (s := s) j
  obtain ⟨hw, hv⟩ := getBlock_kick (s := swept s) j
  exact ⟨hw.trans (congrArg Block.wp h :), fun e => hv ((congrArg Block.verified h :).trans e)⟩

section
variable (ho : dieOp s ch die = some o) (hs : o.suspended = false)
include ho hs

theorem dieOp_flashSettle_running : dieOp (flashSettle s) ch die = some o :=
  dieOp_kick_busy (dieOp_swept.trans (dieOp_resumeDies_running ho hs))

/-- Of a block whose die is at work at most the mark that it waits for an erase changes. -/
theorem getBlock_flashSettle_running (hc : addrChan (j * 4096) = ch) (hd : addrDie (j * 4096) = die) :
    { getBlock (flashSettle s) j with needErase := false } = { getBlock s j with needErase := false } := by
  subst hc hd
  rw [flashSettle_eq, getBlock_kick_busy (dieOp_swept.trans (dieOp_resumeDies_running ho hs)), getBlock_swept]

theorem regGet_flashSettle_running (hd : die < 8) : regGet (flashSettle s) (eraseReg ch die) = regGet s (eraseReg ch die) := by
  rw [flashSettle_eq, regGet_kick_busy hd (dieOp_swept.trans (dieOp_resumeDies_running ho hs)), regGet_swept (eraseFlag_eraseReg hd)]

end

/-! ### Where no super-block is being reclaimed -/

/-- No super-block is being reclaimed, and a sanitize waits for the erases of these blocks. -/
def Unreclaimed (l : List Nat) (s : State) : Prop := s.host.sanitizeBlocks = l ∧ ∀ e ∈ s.ftl.sbs, e.2.state ≠ 4

variable {l : List Nat}

theorem Unreclaimed.updSb (h : Unreclaimed l s) {f : SuperBlock → SuperBlock} (hf : ∀ x, x.state ≠ 4 → (f x).state ≠ 4) :
    Unreclaimed l (updSb s B f) := by
  refine ⟨h.1, fun e he => ?_⟩
  obtain ⟨e', he', rfl⟩ := List.mem_map.mp he
  split
  · exact hf _ (h.2 _ he')
  · exact h.2 _ he'

theorem Unreclaimed.openSb (h : Unreclaimed l s) {stream b : Nat} (ho : openSb s stream = some (t, b)) : Unreclaimed l t := by
  unfold Machine.openSb at ho
  split at ho
  · cases ho
  · cases ho
    refine ⟨h.1, fun e he => ?_⟩
    rcases mem_aPut _ _ _ _ he with rfl | he
    · exact (by decide : 1 ≠ 4)
    · exact h.2 e he

theorem Unreclaimed.takeSlot (h : Unreclaimed l s) (stream : Nat) : Unreclaimed l (takeSlot s stream).1 := by
  have take : ∀ (u : State) (b m : Nat) (c : SuperBlock → Prop) [DecidablePred c], Unreclaimed l u →
      Unreclaimed l (Machine.updSb u b fun x => { x with nextSlot := m, state := if c x then 2 else x.state }) :=
    fun u b m c _ hu => hu.updSb fun x hx => by
      show (if c x then 2 else x.state) ≠ 4
      split
      · decide
      · exact hx
  have fresh : ∀ f : State → Nat → SuperBlock → State × Option Nat, (∀ t b x, Unreclaimed l t → Unreclaimed l (f t b x).1) →
      Unreclaimed l (match Machine.openSb s stream with
        | none => (s, none)
        | some (t, b) => match getSb t b with | some x => f t b x | none => (t, none)).1 := fun f hf => by
    split
    · exact h
    · rename_i t b ho
      split
      · exact hf _ _ _ (h.openSb ho)
      · exact h.openSb ho
  unfold Machine.takeSlot
  dsimp only
  split
  · exact fresh _ fun _ _ _ hu => take _ _ _ _ hu
  · split
    · split
      · exact take _ _ _ _ h
      · exact fresh _ fun _ _ _ hu => take _ _ _ _ hu
    · exact fresh _ fun _ _ _ hu => take _ _ _ _ hu

theorem Unreclaimed.assignSlots (h : Unreclaimed l s) : Unreclaimed l (assignSlots s) := by
  refine foldl_keeps (Unreclaimed l) _ (fun t b ht => ?_) _ _ h
  have hu := ht.takeSlot 0
  rcases hs : Machine.takeSlot t 0 with ⟨u, _ | k⟩
  · exact ht
  · rw [hs] at hu
    exact hu

theorem postTo_sanitizeBlocks (h : HostIf) (c : Completion) : (postTo h c).sanitizeBlocks = h.sanitizeBlocks := by
  simp only [postTo, raiseVector]
  split
  · rfl
  · simp only [apply_ite HostIf.sanitizeBlocks, ite_self]

theorem aenTo_sanitizeBlocks (h : HostIf) (ty info : Nat) : (aenTo h ty info).sanitizeBlocks = h.sanitizeBlocks := by
  unfold aenTo
  split
  · exact postTo_sanitizeBlocks ..
  · split <;> rfl

theorem post_sanitizeBlocks (page code part a0 a1 : Nat) :
    (post s page code part a0 a1).host.sanitizeBlocks = s.host.sanitizeBlocks := by
  simp only [post, postFlags, onPanel, eventTo, logTo, apply_ite Panel.host, apply_ite HostIf.sanitizeBlocks,
    aenTo_sanitizeBlocks, ite_self]

theorem Unreclaimed.freeErased (h : Unreclaimed l s) (sb : SuperBlock) : Unreclaimed l (freeErased s B sb) := by
  unfold Machine.freeErased
  dsimp only
  generalize hf : List.foldl _ (s, true) _ = r
  have hr : Unreclaimed l r.1 := by
    rw [← hf]
    refine foldl_keeps (fun b : State × Bool => Unreclaimed l b.1) _ (fun acc x hacc => ?_) _ _ h
    split <;> exact hacc
  split
  · exact Unreclaimed.assignSlots ⟨hr.1, fun e he => hr.2 e (List.mem_filter.mp he).1⟩
  · have hu : Unreclaimed l (Machine.updSb r.1 B fun x => { x with state := 3 }) := hr.updSb fun _ _ => (by decide : 3 ≠ 4)
    split
    · exact ⟨(post_sanitizeBlocks ..).trans hu.1, hu.2⟩
    · exact hu

theorem Unreclaimed.sweepErased (h : Unreclaimed l s) : Unreclaimed l (sweepErased s) := by
  refine foldl_keeps (Unreclaimed l) _ (fun t e ht => ?_) _ _ h
  split
  · exact ht
  · exact ht.freeErased _

theorem swept_of_unreclaimed (h : Unreclaimed l s) : swept s = countRebuild (resumeDies s) := by
  have hs : (countRebuild (resumeDies s)).ftl.sbs = s.ftl.sbs := by unfold countRebuild; split <;> rfl
  have hn : (countRebuild (resumeDies s)).ftl.sbs.filter (·.2.state == 4) = [] := by
    rw [hs, List.filter_eq_nil_iff]
    exact fun e he => by simpa using h.2 e he
  rw [swept, sweepReclaimed, hn, List.foldl_nil]

/-- Where nothing is being reclaimed, a block that waits for no erase is left as it is. -/
theorem getBlock_flashSettle_unneeded (h : Unreclaimed l s) (hn : (getBlock s j).needErase = false) :
    getBlock (flashSettle s) j = getBlock s j := by
  have hb : getBlock (swept s) j = getBlock s j := by
    rw [swept_of_unreclaimed h, getBlock_of_silicon silicon_countRebuild]
    rfl
  rw [flashSettle_eq, getBlock_kick_unneeded (by rw [hb]; exact hn), hb]

theorem sanitizing_flashSettle (h : Unreclaimed l s) : (flashSettle s).host.sanitizing = s.host.sanitizing := by
  have hk : ∀ u, (kick u).host = u.host := fun u => kick_keeps_of (P := fun t => t.host = u.host) (fun _ _ _ ht => ht) rfl
  rw [flashSettle_eq, hk, swept_of_unreclaimed h]
  unfold countRebuild
  split <;> rfl

end

end Sys2Proof.Machine

namespace Sys2Proof.Machine

section
variable {s t : State} {a n k p q ch die B i j group w : Nat} {o : DieOp}

/-! ## Programs (R206 to R208, R239) -/

theorem wordlineProgram_effect {c : ChanPath} (h : dieFree s c.index die = true) :
    Gives (.wordlineProgram c die group) s (startProgram s c.index die group) := by
  show execWordlineProgram c die group s = _
  rw [execWordlineProgram, if_pos h]

theorem newOp_running (kind block w : Nat) : (newOp s kind block w).kind = kind ∧ (newOp s kind block w).block = block ∧
    (newOp s kind block w).wordline = w ∧ (newOp s kind block w).suspended = false := ⟨rfl, rfl, rfl, rfl⟩

/-- An open super-block of host data has its wordline programmed, which closes the super-wordline to further units. -/
theorem startProgram_qlc {sb : SuperBlock} (hg : 64 ≤ group) (hb : getSb s (sbOfGroup die group) = some sb) (h1 : sb.state = 1)
    (h0 : sb.stream = 0) (hd : ch ∉ sb.done) (hc : ch ∈ sbChannels s sb.afterLoss) (hn : sb.wordline * slotsPerWordline < sb.nextSlot)
    (ho : groupOpen s ch die group sb.wordline = true) : startProgram s ch die group =
      setDieOp (updSb s (sbOfGroup die group) fun x => { x with nextSlot := max x.nextSlot ((sb.wordline + 1) * slotsPerWordline) })
        ch die (some (newOp s 1 group sb.wordline)) := by
  simp [startProgram, hg, hb, h1, h0, hd, hc, hn, ho]

/-- An SLC group has its wordline programmed where the stand still owes a copy of a unit or of a journal record. -/
theorem startProgram_slc (h2 : 2 ≤ group) (h63 : group < 63) (hw : w = (getBlock s (blockAt ch die (4 * group))).wp) (h : w < 576)
    (ho : groupOpen s ch die group w = true)
    (hu : stagingUnits s (ch / 16) s.ftl.nextOrder ≠ [] ∨ journalUnits s (ch / 16) s.ftl.nextOrder ≠ []) :
    startProgram s ch die group = setDieOp s ch die (some (newOp s 3 group w)) := by
  subst hw
  have hg : ¬ group ≥ 64 ∧ ¬ (group < 2 ∨ group = 63) := by omega
  have hwork : (!(stagingUnits s (ch / 16) s.ftl.nextOrder).isEmpty || !(journalUnits s (ch / 16) s.ftl.nextOrder).isEmpty) = true := by
    simpa using hu
  rw [startProgram, if_neg hg.1, if_neg hg.2]
  exact if_pos ⟨h, ho, hwork⟩

/-- Blocks changed one after another in the same way: each of them meets what the change brings about. -/
theorem foldl_updBlock_of_mem {P : Block → Prop} {f : Block → Block} (hf : ∀ b, P (f b)) {l : List Nat} (hj : j ∈ l) (s : State) :
    P (getBlock (l.foldl (fun s k => updBlock s k f) s) j) := by
  induction l generalizing s with
  | nil => cases hj
  | cons k l ih =>
    rw [List.foldl_cons]
    rcases List.mem_cons.mp hj with rfl | hj
    · refine foldl_keeps (fun t => P (getBlock t j)) _ (fun t x ht => ?_) l _ ?_
      · rw [getBlock_updBlock]
        split
        · exact hf _
        · exact ht
      · rw [getBlock_updBlock, if_pos rfl]
        exact hf _
    · exact ih hj _

theorem chans_foldl_updBlock (f : Block → Block) (l : List Nat) : (l.foldl (fun s k => updBlock s k f) s).chans = s.chans :=
  foldl_keeps (fun t : State => t.chans = s.chans) (fun s k => updBlock s k f) (fun _ _ h => h) l s rfl

theorem dieOp_of_chans (h : t.chans = s.chans) (i d : Nat) : dieOp t i d = dieOp s i d := by rw [dieOp, dieOp, getChan, getChan, h]

/-- The units and records that a program brings to flash leave the dies and blocks as they are. -/
theorem silicon_programPass :
    silicon (programPass s ch die o) = silicon (advance (setDieOp s ch die none) ch die o.block o.wordline) := by
  have hu : ∀ (u : State) (b : BufUnit), silicon (match bufAddr u b with | some a => programUnit u b a | none => u) = silicon u :=
    fun u b => by split <;> simp
  unfold programPass
  dsimp only
  split
  · rw [silicon_wordlineDone]
    exact silicon_foldl hu _ _
  · rw [silicon_slcDone]

/-- A program that passed ends, and the write pointer of its group's blocks moves on. -/
theorem programPass_moves : dieOp (programPass s ch die o) ch die = none ∧ ∀ b ∈ groupBlocks s ch die o.block,
    (getBlock (programPass s ch die o) b).wp = o.wordline + 1 ∧ (getBlock (programPass s ch die o) b).verified = false := by
  have h := silicon_programPass (s := s) (ch := ch) (die := die) (o := o)
  refine ⟨?_, fun b hb => ?_⟩
  · rw [dieOp_of_silicon h, advance, dieOp_of_chans (chans_foldl_updBlock ..), dieOp_setDieOp_same]
  · rw [getBlock_of_silicon h]
    exact foldl_updBlock_of_mem (P := fun b => b.wp = o.wordline + 1 ∧ b.verified = false) (fun _ => ⟨rfl, rfl⟩) hb _

/-! ### Blocks that go bad (R208, R220) -/

/-- The grown-bad blocks of a die. -/
def grownBlocks (s : State) (ch die : Nat) : List Nat := aGetD (getChan s ch).grown die []

theorem isGrown_iff : isGrown s k = true ↔ k % 2 ^ 14 ∈ grownBlocks s (addrChan (k * 4096)) (addrDie (k * 4096)) := by
  simp [isGrown, grownBlocks]

theorem grownBlocks_of_rest (h : restOf (getChan t i) = restOf (getChan s i)) (d : Nat) : grownBlocks t i d = grownBlocks s i d := by
  have hg : (getChan t i).grown = (getChan s i).grown := (congrArg Channel.grown h :)
  rw [grownBlocks, grownBlocks, hg]

section
variable (hc : addrChan (k * 4096) = ch) (hd : addrDie (k * 4096) = die) (hroom : (grownBlocks s ch die).length < 512)
include hc hd hroom

/-- A block enters the table of its die while that has room; the channels change in nothing else. -/
theorem getChan_growBlock (i : Nat) : getChan (growBlock s k) i = if i = ch ∧ isGrown s k = false then
    { getChan s ch with grown := aPut (getChan s ch).grown die (grownBlocks s ch die ++ [k % 2 ^ 14]) } else getChan s i := by
  subst hc hd
  have hroom : ¬ (aGetD (getChan s (addrChan (k * 4096))).grown (addrDie (k * 4096)) []).length ≥ 512 := Nat.not_le.mpr hroom
  unfold growBlock
  dsimp only
  by_cases hg : isGrown s k = true
  · rw [if_pos hg, if_neg fun h => by simp [hg] at h]
  · rw [if_neg hg, if_neg hroom]
    simp only [Bool.not_eq_true] at hg
    simp only [hg, and_true]
    exact getChan_updChan (s := s) (ch := addrChan (k * 4096)) (fun c => { c with
      grown := aPut c.grown (addrDie (k * 4096)) (aGetD c.grown (addrDie (k * 4096)) [] ++ [k % 2 ^ 14]) }) i

theorem grownBlocks_growBlock (i d : Nat) : grownBlocks (growBlock s k) i d =
    grownBlocks s i d ++ if i = ch ∧ d = die ∧ isGrown s k = false then [k % 2 ^ 14] else [] := by
  rw [grownBlocks, getChan_growBlock hc hd hroom]
  by_cases h : i = ch ∧ isGrown s k = false
  · obtain ⟨rfl, hg⟩ := h
    simp only [hg, and_self, if_true, and_true, true_and, aGetD_aPut]
    split
    · subst_vars; rfl
    · rw [List.append_nil]; rfl
  · rw [if_neg h, if_neg fun h' => h ⟨h'.1, h'.2.2⟩, List.append_nil]
    rfl

theorem dieOp_growBlock (i d : Nat) : dieOp (growBlock s k) i d = dieOp s i d := by
  rw [dieOp, getChan_growBlock hc hd hroom]
  split
  · rename_i h
    rw [h.1]; rfl
  · rfl

theorem isGrown_growBlock : isGrown (growBlock s k) k = true := by
  rw [isGrown_iff, hc, hd, grownBlocks_growBlock hc hd hroom]
  by_cases hg : isGrown s k = true
  · rw [isGrown_iff, hc, hd] at hg
    exact List.mem_append_left _ hg
  · rw [if_pos ⟨rfl, rfl, by simpa using hg⟩]
    exact List.mem_append_right _ (List.mem_singleton.mpr rfl)

theorem isGrown_growBlock_mono (h : isGrown s j = true) : isGrown (growBlock s k) j = true := by
  rw [isGrown_iff, grownBlocks_growBlock hc hd hroom]
  exact List.mem_append_left _ (isGrown_iff.mp h)

theorem length_grownBlocks_growBlock : (grownBlocks (growBlock s k) ch die).length ≤ (grownBlocks s ch die).length + 1 := by
  rw [grownBlocks_growBlock hc hd hroom, List.length_append]
  split <;> simp

end

/-- Blocks of a die whose table has room for them all: all of them are bad then, and the dies' operations stay. -/
theorem foldl_growBlock {l : List Nat} (hl : ∀ k ∈ l, addrChan (k * 4096) = ch ∧ addrDie (k * 4096) = die)
    (hroom : (grownBlocks s ch die).length + l.length ≤ 512) :
    (∀ j, j ∈ l ∨ isGrown s j = true → isGrown (l.foldl growBlock s) j = true) ∧
      ∀ i d, dieOp (l.foldl growBlock s) i d = dieOp s i d := by
  induction l generalizing s with
  | nil => exact ⟨fun j h => h.resolve_left List.not_mem_nil, fun _ _ => rfl⟩
  | cons k l ih =>
    obtain ⟨hc, hd⟩ := hl k List.mem_cons_self
    rw [List.length_cons] at hroom
    have hk : (grownBlocks s ch die).length < 512 := by omega
    have hlen := length_grownBlocks_growBlock hc hd hk
    obtain ⟨hg, hops⟩ := ih (s := growBlock s k) (fun x hx => hl x (List.mem_cons_of_mem _ hx)) (by omega)
    refine ⟨fun j hj => hg j ?_, fun i d => (hops i d).trans (dieOp_growBlock hc hd hk i d)⟩
    rcases hj with hj | hj
    · rcases List.mem_cons.mp hj with rfl | hj
      · exact .inr (isGrown_growBlock hc hd hk)
      · exact .inl hj
    · exact .inr (isGrown_growBlock_mono hc hd hk hj)

variable {d : DiePath}

theorem nandProgramComplete_effect (ho : dieOp s (16 * d.stand + d.chan) d.die = some o) (hk : o.kind = 1 ∨ o.kind = 3)
    (hs : o.suspended = false) (fail other : Bool) : Gives (.nandProgramComplete d fail other) s
      (flashSettle (if fail then programFail s (16 * d.stand + d.chan) d.die o other
        else programPass s (16 * d.stand + d.chan) d.die o)) := by
  show execNandProgramComplete d fail other s = _
  simp [execNandProgramComplete, ho, hk, hs]

/-- A program on an SLC group that failed ends, and the group's blocks are retired. -/
theorem programFail_retires {st c : Nat} (hst : st < 8) (hc : c < 16) (hd : die < 8) (hk : o.kind = 3) (hb : o.block < 64)
    (hroom : (grownBlocks s (16 * st + c) die).length + 4 ≤ 512) (other : Bool) :
    dieOp (programFail s (16 * st + c) die o other) (16 * st + c) die = none ∧
      ∀ b ∈ groupBlocks s (16 * st + c) die o.block, isGrown (programFail s (16 * st + c) die o other) b = true := by
  have hfail : programFail s (16 * st + c) die o other =
      (groupBlocks s (16 * st + c) die o.block).foldl growBlock (setDieOp s (16 * st + c) die none) := by
    simp only [programFail, hk]
    rfl
  have hl : ∀ k ∈ groupBlocks s (16 * st + c) die o.block, addrChan (k * 4096) = 16 * st + c ∧ addrDie (k * 4096) = die := by
    intro k hk
    obtain ⟨p, hp, rfl⟩ := List.mem_map.mp hk
    have hp := List.mem_range.mp hp
    rw [if_pos hb]
    obtain ⟨h1, h2, -⟩ := blockAt_place (b := 4 * o.block + p) hst hc hd (by omega)
    exact ⟨h1, h2⟩
  have hroom' : (grownBlocks (setDieOp s (16 * st + c) die none) (16 * st + c) die).length +
      (groupBlocks s (16 * st + c) die o.block).length ≤ 512 := by
    rw [grownBlocks_of_rest (rest_setDieOp _), groupBlocks, List.length_map, List.length_range]
    exact hroom
  obtain ⟨hg, hops⟩ := foldl_growBlock hl hroom'
  rw [hfail]
  exact ⟨by rw [hops, dieOp_setDieOp_same], fun b hb => hg b (.inl hb)⟩

/-! ## Erases (R208, R211, R216) -/

theorem flagLogProgramComplete_effect (ho : dieOp s (16 * d.stand + d.chan) d.die = some o) (hk : o.kind = 4)
    (hs : o.suspended = false) : Gives (.flagLogProgramComplete d) s
      (setDieOp s (16 * d.stand + d.chan) d.die (some (newOp s 2 o.block 0))) := by
  show execFlagLogProgramComplete d s = _
  simp [execFlagLogProgramComplete, ho, hk, hs]

theorem nandEraseComplete_effect (ho : dieOp s (16 * d.stand + d.chan) d.die = some o) (hk : o.kind = 2)
    (hs : o.suspended = false) (fail : Bool) : Gives (.nandEraseComplete d fail) s (flashSettle
      (if fail then eraseFail s (16 * d.stand + d.chan) d.die o.block else erasePass s (16 * d.stand + d.chan) d.die o.block)) := by
  show execNandEraseComplete d fail s = _
  simp [execNandEraseComplete, ho, hk, hs]

theorem clearRecordDurable_effect (ho : dieOp s (16 * d.stand + d.chan) d.die = some o) (hk : o.kind = 5)
    (hs : o.suspended = false) : Gives (.clearRecordDurable d) s
      (flashSettle (clearDurable s (16 * d.stand + d.chan) d.die o.block)) := by
  show execClearRecordDurable d s = _
  simp [execClearRecordDurable, ho, hk, hs]

variable {block : Nat}

theorem dieOp_eraseInactive (i d : Nat) : dieOp (eraseInactive s ch die) i d = dieOp s i d := rfl

theorem dieOp_erasePass : ∃ x, dieOp (erasePass s ch die block) ch die = some x ∧
    x.kind = 5 ∧ x.block = block ∧ x.suspended = false := by
  unfold erasePass
  dsimp only
  rw [dieOp_eraseInactive, dieOp_setDieOp_same]
  exact ⟨_, rfl, rfl, rfl, rfl⟩

/-- A block after an erase that was verified. -/
def erasedBlock (b : Block) : Block :=
  { b with verified := true, wp := 0, reads := 0, erases := b.erases + 1, warned := false, closed := false }

theorem getBlock_erasePass : getBlock (erasePass s ch die block) (blockAt ch die block) =
    erasedBlock (getBlock s (blockAt ch die block)) :=
  (getBlock_updBlock (s := s) erasedBlock (blockAt ch die block)).trans (if_pos rfl)

theorem erased_pages (m : AMap NandPage) {k a : Nat} (h : blockKey a = k) :
    aGet? (m.filter fun e => blockKey e.1 != k) a = none := by
  rw [aGet?_filter_key m fun x => blockKey x != k]
  simp [h]

/-- The flags of a die's erase lie in one register. -/
theorem getF_eraseInactive : getF (eraseInactive s ch die) (eraseReg ch die) Fld.CH_ERASE_ACTIVE_valid = 0 :=
  getF_setF_same _ _ _ _ (by decide)

/-- An erase that passed: the die programs the clear record, the block is empty, verified and counted, the flag is off. -/
theorem eraseComplete_passes {st c : Nat} (hst : st < 8) (hc : c < 16) (hd : die < 8) (hb : block < 2 ^ 14)
    (hch : ch = 16 * st + c) (ht : t = flashSettle (erasePass s ch die block)) :
    (∃ x, dieOp t ch die = some x ∧ x.kind = 5 ∧ x.block = block) ∧
      (∀ a, blockKey a = blockAt ch die block → aGet? t.ftl.pages a = none) ∧
      (getBlock t (blockAt ch die block)).wp = 0 ∧ (getBlock t (blockAt ch die block)).verified = true ∧
      (getBlock t (blockAt ch die block)).erases = (getBlock s (blockAt ch die block)).erases + 1 ∧
      getF t (eraseReg ch die) Fld.CH_ERASE_ACTIVE_valid = 0 := by
  subst hch ht
  obtain ⟨x, hx, h5, hblk, hrun⟩ := dieOp_erasePass (s := s) (ch := 16 * st + c) (die := die) (block := block)
  obtain ⟨hpc, hpd, -⟩ := blockAt_place hst hc hd hb
  have hk := getBlock_flashSettle_running hx hrun hpc hpd
  rw [getBlock_erasePass] at hk
  have hreg := regGet_flashSettle_running hx hrun hd
  have hpages : (flashSettle (erasePass s (16 * st + c) die block)).ftl.pages = _ := congrArg Media.pages media_flashSettle
  refine ⟨⟨x, dieOp_flashSettle_running hx hrun, h5, hblk⟩, fun a ha => ?_, (congrArg Block.wp hk :),
    (congrArg Block.verified hk :), (congrArg Block.erases hk :), ?_⟩
  · rw [hpages]
    exact erased_pages _ ha
  · rw [getF, hreg]
    exact getF_eraseInactive

theorem isGrown_sanitizeStep : isGrown (sanitizeStep s k) j = isGrown s j := by
  unfold sanitizeStep; dsimp only; split <;> rfl

/-- A block whose erase failed is retired. -/
theorem eraseFail_retires {st c : Nat} (hst : st < 8) (hc : c < 16) (hd : die < 8) (hb : block < 2 ^ 14)
    (hch : ch = 16 * st + c) (hroom : (grownBlocks s ch die).length < 512) :
    isGrown (eraseFail s ch die block) (blockAt ch die block) = true := by
  subst hch
  obtain ⟨hpc, hpd, -⟩ := blockAt_place hst hc hd hb
  unfold eraseFail
  dsimp only
  rw [isGrown_sanitizeStep, isGrown_of_silicon silicon_sweepErased]
  refine isGrown_growBlock hpc hpd (lt_of_eq_of_lt (congrArg List.length ?_) hroom)
  exact grownBlocks_of_rest (t := setDieOp s (16 * st + c) die none) (rest_setDieOp none) die

theorem sanitizeStep_last (h : s.host.sanitizeBlocks = [k]) : (sanitizeStep s k).host.sanitizing = false := by
  unfold sanitizeStep
  simp only [h]
  cases s.host.sanitizing <;> simp

theorem sanitizeStep_blocks (j : Nat) : getBlock (sanitizeStep s k) j = getBlock s j := by
  unfold sanitizeStep; dsimp only; split <;> rfl

theorem Unreclaimed.sanitizeStep {l : List Nat} (h : Unreclaimed l s) (k : Nat) :
    Unreclaimed (l.filter (· != k)) (sanitizeStep s k) := by
  obtain ⟨rfl, hs⟩ := h
  unfold Machine.sanitizeStep
  dsimp only
  split <;> exact ⟨rfl, hs⟩

/-- A block once its clear record is durable. -/
def clearedBlock (b : Block) : Block := { b with clear := true, pendingFlag := false, needErase := false }

theorem clearDurable_eq : clearDurable s ch die block = sanitizeStep
    (sweepErased (updBlock (setDieOp s ch die none) (blockAt ch die block) clearedBlock)) (blockAt ch die block) := rfl

theorem getBlock_clearDurable : getBlock (clearDurable s ch die block) (blockAt ch die block) =
    clearedBlock (getBlock s (blockAt ch die block)) := by
  rw [clearDurable_eq, sanitizeStep_blocks, getBlock_of_silicon silicon_sweepErased, getBlock_updBlock, if_pos rfl]
  rfl

/-- Once its clear record is durable the block may be used again, and no sanitize waits for it any more. -/
theorem clearDurable_frees (h4 : ∀ e ∈ s.ftl.sbs, e.2.state ≠ 4) (hk : k = blockAt ch die block)
    (ht : t = flashSettle (clearDurable s ch die block)) :
    (getBlock t k).clear = true ∧ (getBlock t k).needErase = false ∧ (getBlock t k).pendingFlag = false ∧
      (s.host.sanitizing = true → s.host.sanitizeBlocks = [k] → t.host.sanitizing = false) := by
  subst hk ht
  have hu : Unreclaimed s.host.sanitizeBlocks
      (sweepErased (updBlock (setDieOp s ch die none) (blockAt ch die block) clearedBlock)) := Unreclaimed.sweepErased ⟨rfl, h4⟩
  have hc := hu.sanitizeStep (blockAt ch die block)
  rw [← clearDurable_eq] at hc
  have hn : (getBlock (clearDurable s ch die block) (blockAt ch die block)).needErase = false := by
    rw [getBlock_clearDurable]; rfl
  have hb : getBlock (flashSettle (clearDurable s ch die block)) (blockAt ch die block) =
      clearedBlock (getBlock s (blockAt ch die block)) := (getBlock_flashSettle_unneeded hc hn).trans getBlock_clearDurable
  refine ⟨(congrArg Block.clear hb :), (congrArg Block.needErase hb :), (congrArg Block.pendingFlag hb :), fun _ hl => ?_⟩
  rw [sanitizing_flashSettle hc, clearDurable_eq]
  exact sanitizeStep_last (hu.1.trans hl)

/-! ## Suspension and brown-out (R209, R214, R215) -/

theorem suspendHoldExpiry_effect (ho : dieOp s (16 * d.stand + d.chan) d.die = some o) (hs : o.suspended = true)
    (hb : (getChan s (16 * d.stand + d.chan)).brownOut = false) : Gives (.suspendHoldExpiry d) s
      (setDieOp s (16 * d.stand + d.chan) d.die (some { o with suspended := false })) := by
  show execSuspendHoldExpiry d s = _
  simp [execSuspendHoldExpiry, ho, hs, hb]

variable {c : ChanPath}

theorem brownOut_effect (hu : chanUp s c.index = true) (hb : (getChan s c.index).brownOut = false) :
    Gives (.brownOut c) s (brownOut s c.index) := by
  show execBrownOut c s = _
  simp [execBrownOut, hu, hb]

theorem getChan_brownOut : getChan (brownOut s ch) ch = { getChan s ch with
    brownOut := true, ops := (getChan s ch).ops.map fun o => (o.1, { o.2 with suspended := true, interrupted := true }) } :=
  (getChan_updChan (s := s) (ch := ch) (fun c => { c with
    brownOut := true, ops := c.ops.map fun o => (o.1, { o.2 with suspended := true, interrupted := true }) }) ch).trans (if_pos rfl)

theorem brownOutExit_effect (hb : (getChan s c.index).brownOut = true) :
    Gives (.brownOutExit c) s (flashSettle (brownOutExit s c.index)) := by
  show execBrownOutExit c s = _
  rw [execBrownOutExit, if_pos hb]

/-- A program that brown-out interrupted leaves its channel but for its die's operation. -/
theorem rest_interruptedProgram : restOf (getChan (interruptedProgram s ch die o) i) = restOf (getChan s i) := by
  have hc : ∀ f : Block → Block, getChan ((groupBlocks s ch die o.block).foldl (fun s k => updBlock s k f) (setDieOp s ch die none)) =
      getChan (setDieOp s ch die none) := fun f => funext fun i => by rw [getChan, chans_foldl_updBlock]; rfl
  unfold interruptedProgram
  dsimp only
  split
  · rw [getChan_of_silicon silicon_wordlineDone, getChan_of_silicon silicon_reslot, hc, rest_setDieOp]
  · rw [hc, rest_setDieOp]

theorem brownOut_brownOutExit : (getChan (brownOutExit s ch) ch).brownOut = false := by
  refine foldl_keeps (fun t => (getChan t ch).brownOut = false) _ (fun t e ht => ?_) _ _ ?_
  · split
    · exact (congrArg Channel.brownOut rest_interruptedProgram :).trans ht
    · exact (congrArg Channel.brownOut (rest_setDieOp _) :).trans ht
  · rw [getChan_updChan, if_pos rfl]

theorem core_brownOutExit : core (brownOutExit s ch) = core s := by simp [brownOutExit]

end

end Sys2Proof.Machine

namespace Sys2Proof.Machine

section
variable {s t : State} {n k i j v : Nat} {high : Bool} {b : BlockPath}

/-! ## Scans and refreshes (R250) -/

theorem backgroundScan_effect (ho : operational s = true) (hd : dieUp s (16 * b.stand + b.chan) b.die = true)
    (hk : k = blockAt (16 * b.stand + b.chan) b.die b.block) (hg : isGrown s k = false)
    (hf : b.block ∉ aGetD (getChan s (16 * b.stand + b.chan)).factory b.die []) :
    Gives (.backgroundScan b high) s (scanBlock s k high) := by
  subst hk
  show execBackgroundScan b high s = _
  simp [execBackgroundScan, ho, hd, hg, hf]

/-- 512 bits are above every threshold that the field of CH_ECC_WARN can hold. -/
theorem mem_noteBits_512 : k ∈ (noteBits s k 512).ftl.refreshQueue := by
  have h : ¬ 512 ≤ getF s (chanPage (addrChan (k * 4096)) + Reg.CH_ECC_WARN) ⟨8, 0⟩ := Nat.not_le.mpr (bitsOf_lt ..)
  unfold noteBits
  dsimp only
  rw [if_neg h]
  split
  · exact mem_insertNat.mpr (.inl rfl)
  · exact mem_insertNat.mpr (.inl rfl)

/-- A scan counts a read of each page that holds data; above the threshold it names the block for refresh. -/
theorem scanBlock_counts : (getBlock (scanBlock s k high) k).reads = (getBlock s k).reads + pagesIn s k ∧
    (scanBlock s k high).ftl.map = s.ftl.map ∧ (high = true → k ∈ (scanBlock s k high).ftl.refreshQueue) := by
  have hr : (getBlock (updBlock s k fun b => { b with reads := b.reads + pagesIn s k }) k).reads =
      (getBlock s k).reads + pagesIn s k := by
    rw [getBlock_updBlock, if_pos rfl]
  cases high with
  | false => exact ⟨hr, rfl, nofun⟩
  | true => exact ⟨(noteBits_reads k).trans hr, congrArg Media.map media_noteBits, fun _ => mem_noteBits_512⟩

theorem refresh_effect (ho : operational s = true) (hk : k = blockAt (16 * b.stand + b.chan) b.die b.block)
    (hq : k ∈ s.ftl.refreshQueue) : Gives (.refresh b) s (refreshBlock s k) := by
  subst hk
  show execRefresh b s = _
  simp [execRefresh, refreshDue, ho, hq]

/-- Every unit of a list whose page is there has a relocation queued. -/
theorem queueRelocs_queues_all {l : List (Nat × MapEntry)} {e : Nat × MapEntry} (he : e ∈ l)
    (hp : (aGet? s.ftl.pages e.2.addr).isSome = true) : ∃ r ∈ (queueRelocs s l).ftl.relocs, r.idx = e.1 := by
  obtain ⟨pg, hpg⟩ := Option.isSome_iff_exists.mp hp
  by_cases h : e.1 ∈ s.ftl.relocs.map (·.idx)
  · obtain ⟨r, hr, hi⟩ := List.mem_map.mp h
    exact ⟨r, List.mem_append_left _ hr, hi⟩
  · refine ⟨{ idx := e.1, partition := pg.partition, kind := pg.kind, old := e.2.addr, val := pg.val },
      List.mem_append_right _ (List.mem_filterMap.mpr ⟨e, List.mem_filter.mpr ⟨he, by simpa using h⟩, ?_⟩), rfl⟩
    simp [hpg]

/-! ## Raw commands (R212, R213, R219, R229) -/

variable {r : Requester} {c : ChanPath} {w : Word}

/-- The state in which a raw command runs: its fields are stored, go is not. -/
def rawStarted (s : State) (c : ChanPath) (w : Word) : State := setReg s (chanPage c.index + Reg.CH_RAW_CMD) (w &&& 0xDFFFFFFF#32)

section
variable {op : Nat} {run : State → State} (hr : Reaches s r (chanPage c.index + Reg.CH_RAW_CMD)) (hgo : bitOf w.toNat 29 = true)
  (hidle : getF s (chanPage c.index + Reg.CH_RAW_CMD) Fld.CH_RAW_CMD_go = 0)
include hr hgo hidle

theorem rawCommand_runs (hop : bitsOf w.toNat 31 30 = op) : rawCommand s r c w op run = run (rawStarted s c w) := by
  obtain ⟨p, -, e⟩ := reach_of_reaches hr w _
  refine e.trans ?_
  rw [if_neg (not_not.mpr hop), if_neg (by rw [hidle]; decide), if_pos hgo]
  rfl

theorem rawRead_effect (hop : bitsOf w.toNat 31 30 = 0) (bits : Nat) :
    Gives (.rawRead r c w bits) s (runRawRead (rawStarted s c w) c.index w.toNat bits) :=
  congrArg Host.Outcome.next (rawCommand_runs hr hgo hidle hop)

theorem rawProgram_effect (hop : bitsOf w.toNat 31 30 = 1) (l : List Byte) (fail : Bool) :
    Gives (.rawProgram r c w l fail) s (runRawProgram (rawStarted s c w) c.index w.toNat l fail) :=
  congrArg Host.Outcome.next (rawCommand_runs hr hgo hidle hop)

theorem rawErase_effect (hop : bitsOf w.toNat 31 30 = 2) (fail : Bool) :
    Gives (.rawErase r c w fail) s (runRawErase (rawStarted s c w) c.index w.toNat fail) :=
  congrArg Host.Outcome.next (rawCommand_runs hr hgo hidle hop)

end

/-- The result that CH_RAW_STAT shows. -/
def shownResult (s : State) (ch : Nat) : Nat := getF s (chanPage ch + Reg.CH_RAW_STAT) Fld.CH_RAW_STAT_result

variable {ch x m : Nat}

theorem shownResult_rawResult (hx : x < 8) (m : Nat) : shownResult (rawResult s ch x m) ch = x := by
  rw [shownResult, getF, rawResult, regGet_setReg, if_pos rfl, bitsOf_word _ _ _ (by decide)]
  show (x * 2 ^ 29 + min m 0x1FF) >>> 29 % 2 ^ 3 = x
  rw [Nat.shiftRight_eq_div_pow]
  omega

theorem ftl_rawResult : (rawResult s ch x m).ftl = s.ftl := rfl

theorem host_rawResult : (rawResult s ch x m).host = s.host := rfl

/-- A rejected command shows why and changes nothing on flash. -/
theorem rawReject_rejects (hx : x < 8) : shownResult (rawReject s ch v x) ch = x ∧ (rawReject s ch v x).ftl = s.ftl := by
  have hl : chanPage ch + Reg.CH_RAW_STAT ≠ Reg.RAS_EVLOG_LOST := by
    unfold chanPage standBase Reg.CH_RAW_STAT Reg.RAS_EVLOG_LOST; omega
  have he : chanPage ch + Reg.CH_RAW_STAT ≠ chanPage ch + Reg.EVT_CAUSE := by
    unfold Reg.CH_RAW_STAT Reg.EVT_CAUSE; omega
  have hj : chanPage ch + Reg.CH_RAW_STAT ≠ chanPage ch + Reg.CH_REJECT := by
    unfold Reg.CH_RAW_STAT Reg.CH_REJECT; omega
  have hreg : regGet (rawReject s ch v x) (chanPage ch + Reg.CH_RAW_STAT) =
      regGet (rawResult s ch x 0) (chanPage ch + Reg.CH_RAW_STAT) :=
    ((regGet_postFlags _ _ _ _ _ _ _ hl).trans (if_neg he)).trans (regGet_bump_ne hj)
  exact ⟨(congrArg (fun w : Word => bitsOf w.toNat _ _) hreg).trans (shownResult_rawResult hx 0), rfl⟩

theorem runRawRead_never (h : neverAddressed s ch v = true) : runRawRead s ch v m = rawReject s ch v 5 := if_pos (.inl h)

theorem runRawProgram_never {l : List Byte} {f : Bool} (h : neverAddressed s ch v = true) :
    runRawProgram s ch v l f = rawReject s ch v 5 := if_pos h

theorem runRawErase_never {f : Bool} (h : neverAddressed s ch v = true) : runRawErase s ch v f = rawReject s ch v 5 := if_pos (.inl h)

/-- A read that is counted changes no register, no page, no map entry and nothing of the host interface. -/
theorem countBlockRead_leaves : (countBlockRead s k).regs = s.regs ∧ (countBlockRead s k).host = s.host ∧
    (countBlockRead s k).ftl.pages = s.ftl.pages ∧ (countBlockRead s k).ftl.map = s.ftl.map :=
  ⟨(apply_ite State.regs ..).trans (ite_self _), (apply_ite State.host ..).trans (ite_self _),
    (apply_ite (fun t : State => t.ftl.pages) ..).trans (ite_self _), (apply_ite (fun t : State => t.ftl.map) ..).trans (ite_self _)⟩

/-- A page sent to the place in host memory that the address registers name. -/
def rawSent (s : State) (ch v : Nat) : State := { s with host := { s.host with
  dma := s.host.dma ++ [(getPair s (chanPage ch + Reg.CH_RAW_ADDR_LO), storedPage s (rawAddr ch v (rawPage v)))] } }

theorem ftl_rawSent : (rawSent s ch v).ftl = s.ftl := rfl

theorem dma_rawSent {u : State} (hr : u.regs = s.regs) (hh : u.host = s.host) (hp : u.ftl.pages = s.ftl.pages) :
    (rawSent u ch v).host.dma = s.host.dma ++
      [(getPair s (chanPage ch + Reg.CH_RAW_ADDR_LO), storedPage s (rawAddr ch v (rawPage v)))] := by
  have hpair : ∀ a, getPair u a = getPair s a := fun a => by simp only [getPair, regGet, hr]
  have hstored : ∀ a, storedPage u a = storedPage s a := fun a => by simp only [storedPage, hp]
  rw [rawSent, hpair, hstored, hh]

theorem runRawRead_eq (h : neverAddressed s ch v = false) (hp : rawPage v < 2304) : runRawRead s ch v m =
    rawResult (rawSent (countBlockRead s (blockAt ch (rawDie v) (rawBlock v))) ch v) ch 2 m := by
  have hn : ¬(neverAddressed s ch v = true ∨ rawPage v ≥ 2304) := by simp [h, hp]
  rw [runRawRead, if_neg hn]
  rfl

/-- A raw read sends the page as stored to host memory. -/
theorem runRawRead_sends (h : neverAddressed s ch v = false) (hp : rawPage v < 2304) : shownResult (runRawRead s ch v m) ch = 2 ∧
    (runRawRead s ch v m).host.dma = s.host.dma ++
      [(getPair s (chanPage ch + Reg.CH_RAW_ADDR_LO), storedPage s (rawAddr ch v (rawPage v)))] ∧
    (runRawRead s ch v m).ftl.pages = s.ftl.pages ∧ (runRawRead s ch v m).ftl.map = s.ftl.map := by
  obtain ⟨hregs, hhost, hpages, hmap⟩ := countBlockRead_leaves (s := s) (k := blockAt ch (rawDie v) (rawBlock v))
  rw [runRawRead_eq h hp, ftl_rawResult, host_rawResult, ftl_rawSent]
  exact ⟨shownResult_rawResult (by decide) m, dma_rawSent hregs hhost hpages, hpages, hmap⟩

/-- A page that a raw program leaves (R202). -/
def rawLeft (data : List Byte) (i : Nat) : NandPage :=
  { idx := 0, partition := 0, kind := 3, seq := 0, val := UnitVal.zero, rawData := some (sub data (18432 * i) 18432) }

/-- The pages once a raw program has left its first n. -/
def rawPages (m : AMap NandPage) (ch v : Nat) (data : List Byte) (n : Nat) : AMap NandPage :=
  (List.range n).foldl (fun m i => aPut m (rawAddr ch v (rawPage v + i)) (rawLeft data i)) m

theorem rawPages_succ (m : AMap NandPage) (data : List Byte) :
    rawPages m ch v data (n + 1) = aPut (rawPages m ch v data n) (rawAddr ch v (rawPage v + n)) (rawLeft data n) := by
  rw [rawPages, List.range_succ, List.foldl_append]
  rfl

theorem aGet?_rawPages (m : AMap NandPage) (data : List Byte) (hi : i < n) :
    aGet? (rawPages m ch v data n) (rawAddr ch v (rawPage v + i)) = some (rawLeft data i) := by
  induction n with
  | zero => omega
  | succ n ih =>
    rw [rawPages_succ, aGet?_aPut]
    by_cases h : i = n
    · rw [h, if_pos rfl]
    · rw [if_neg (by unfold rawAddr; omega)]
      exact ih (by omega)

theorem foldl_rawPages (data : List Byte) (n : Nat) : (List.range n).foldl (fun s i => { s with ftl := { s.ftl with
    pages := aPut s.ftl.pages (rawAddr ch v (rawPage v + i)) (rawLeft data i) } }) s =
      { s with ftl := { s.ftl with pages := rawPages s.ftl.pages ch v data n } } := by
  induction n with
  | zero => rfl
  | succ n ih =>
    rw [List.range_succ, List.foldl_append, ih, rawPages_succ]
    rfl

/-- A block after a program of its next wordline. -/
def programmedBlock (b : Block) : Block := { b with wp := b.wp + 1, verified := false }

theorem runRawProgram_eq {l : List Byte} {f : Bool} (h : neverAddressed s ch v = false)
    (hk : k = blockAt ch (rawDie v) (rawBlock v)) (hv : (getBlock s k).verified = true) (hp : rawPage v = 4 * (getBlock s k).wp)
    (hw : (getBlock s k).wp < 576) (hg : isGrown s k = true) : runRawProgram s ch v l f =
      rawResult ((List.range 4).foldl (fun s i => { s with ftl := { s.ftl with
        pages := aPut s.ftl.pages (rawAddr ch v (rawPage v + i)) (rawLeft l i) } }) (updBlock s k programmedBlock)) ch
        (if f then 6 else 2) 0 := by
  subst hk
  have hn : ¬(rawPage v ≠ 4 * (getBlock s (blockAt ch (rawDie v) (rawBlock v))).wp ∨
      (getBlock s (blockAt ch (rawDie v) (rawBlock v))).wp ≥ 576) := by omega
  rw [runRawProgram, if_neg (by rw [h]; decide), if_neg (by rw [hv]; decide), if_neg hn, if_neg (by rw [hg]; decide)]
  rfl

/-- A raw program of a verified block at its pointer moves the pointer on and leaves the four pages. -/
theorem runRawProgram_programs {l : List Byte} {f : Bool} (h : neverAddressed s ch v = false)
    (hk : k = blockAt ch (rawDie v) (rawBlock v)) (hv : (getBlock s k).verified = true) (hp : rawPage v = 4 * (getBlock s k).wp)
    (hw : (getBlock s k).wp < 576) (hg : isGrown s k = true) (ht : t = runRawProgram s ch v l f) :
    shownResult t ch = (if f = true then 6 else 2) ∧ (getBlock t k).wp = (getBlock s k).wp + 1 ∧ (getBlock t k).verified = false ∧
      t.ftl.map = s.ftl.map ∧ ∀ i, i < 4 → (aGet? t.ftl.pages (rawAddr ch v (rawPage v + i))).bind (·.rawData) =
        some (sub l (18432 * i) 18432) := by
  rw [runRawProgram_eq h hk hv hp hw hg, foldl_rawPages] at ht
  have hb : getBlock t k = programmedBlock (getBlock s k) := by
    rw [ht]
    exact (getBlock_updBlock (s := s) programmedBlock k).trans (if_pos rfl)
  have hpages : t.ftl.pages = rawPages s.ftl.pages ch v l 4 := by rw [ht]; rfl
  refine ⟨?_, (congrArg Block.wp hb :), (congrArg Block.verified hb :), by rw [ht]; rfl, fun i hi => ?_⟩
  · rw [ht]
    exact shownResult_rawResult (by split <;> decide) 0
  · rw [hpages, aGet?_rawPages _ _ hi]
    rfl

theorem runRawProgram_unverified {l : List Byte} {f : Bool} (h : neverAddressed s ch v = false)
    (hv : (getBlock s (blockAt ch (rawDie v) (rawBlock v))).verified = false) : runRawProgram s ch v l f = rawReject s ch v 3 := by
  simp [runRawProgram, h, hv]

/-- A raw erase that passed empties its block and verifies it. -/
theorem runRawErase_passes (h : neverAddressed s ch v = false) (hk : k = blockAt ch (rawDie v) (rawBlock v))
    (hg : isGrown s k = true) (ht : t = runRawErase s ch v false) : shownResult t ch = 2 ∧ (getBlock t k).wp = 0 ∧
      (getBlock t k).verified = true ∧ ∀ a, blockKey a = k → aGet? t.ftl.pages a = none := by
  subst hk
  have hn : ¬(neverAddressed s ch v = true ∨ (!isGrown s (blockAt ch (rawDie v) (rawBlock v))) = true) := by simp [h, hg]
  rw [runRawErase, if_neg hn, if_neg (by decide)] at ht
  obtain ⟨b, hb, hw, hv⟩ : ∃ b, getBlock t (blockAt ch (rawDie v) (rawBlock v)) = b ∧ b.wp = 0 ∧ b.verified = true := by
    refine ⟨_, (congrArg (getBlock · _) ht).trans ((aGetD_aPut ..).trans (if_pos rfl)), rfl, rfl⟩
  rw [hb]
  refine ⟨ht ▸ shownResult_rawResult (by decide) 0, hw, hv, fun a ha => ?_⟩
  rw [ht]
  exact erased_pages _ ha

/-- A raw erase that failed leaves the pages. -/
theorem runRawErase_fails (h : neverAddressed s ch v = false) (hg : isGrown s (blockAt ch (rawDie v) (rawBlock v)) = true)
    (ht : t = runRawErase s ch v true) : shownResult t ch = 6 ∧ t.ftl.pages = s.ftl.pages := by
  have hn : ¬(neverAddressed s ch v = true ∨ (!isGrown s (blockAt ch (rawDie v) (rawBlock v))) = true) := by simp [h, hg]
  rw [runRawErase, if_neg hn, if_pos rfl] at ht
  exact ht ▸ ⟨shownResult_rawResult (by decide) 0, rfl⟩

/-- The address registers are not the one that starts the command. -/
theorem getPair_rawStarted : getPair (rawStarted s c w) (chanPage c.index + Reg.CH_RAW_ADDR_LO) =
    getPair s (chanPage c.index + Reg.CH_RAW_ADDR_LO) :=
  getPair_congr (regGet_setReg_ne _ (by unfold Reg.CH_RAW_ADDR_LO Reg.CH_RAW_CMD; omega))
    (regGet_setReg_ne _ (by unfold Reg.CH_RAW_ADDR_LO Reg.CH_RAW_CMD; omega))

end

/-- Settles O52: each operation's effect by its own lemma; what follow-up work leaves on the dies and blocks is said once
(`silicon`, `unmarked_swept` and the lemmas on `kick`). -/
theorem flashOperations : Obligations.FlashOperations := by
  unfold Obligations.FlashOperations
  refine fun s => ⟨fun ch die group hf => ⟨fun sb hg hb h1 h0 hd hc hn ho => ?_, fun h2 h63 hw ho hu => ?_⟩,
    fun d hst hc hd o ho => ⟨fun hs => ⟨fun hk other => ?_, fun hk hb hroom other => ?_, fun hk => ?_, fun hk hb => ?_,
      fun hk hb hroom => ?_, fun hk h4 => ?_⟩, fun hs hb => ?_⟩,
    fun ch => ⟨rfl, fun hu hb => ?_, fun hb => ?_⟩,
    fun b high => ⟨fun ho hd hg hf => ?_, fun ho hq => ?_⟩,
    fun r ch v hr hgo hidle => ⟨fun hn op i hop => ?_, fun hn => ⟨fun hop hp bits => ?_,
      fun hop l f => ⟨fun hv hp hw hg => ?_, fun hv => ?_⟩, fun hop hg => ⟨?_, ?_⟩⟩⟩⟩
  · refine (wordlineProgram_effect hf).runs ?_
    rw [startProgram_qlc hg hb h1 h0 hd hc hn ho]
    exact ⟨rfl, _, dieOp_setDieOp_same _, newOp_running ..⟩
  · refine (wordlineProgram_effect hf).runs ?_
    rw [startProgram_slc h2 h63 rfl hw ho hu]
    exact ⟨rfl, _, dieOp_setDieOp_same _, newOp_running ..⟩
  · obtain ⟨hidle, hmoves⟩ := programPass_moves (s := s) (ch := 16 * d.stand + d.chan) (die := d.die) (o := o)
    refine (nandProgramComplete_effect ho hk hs false other).runs ⟨dieOp_flashSettle_idle hidle, fun b hb => ?_⟩
    obtain ⟨hwp, hv⟩ := getBlock_flashSettle (s := programPass s (16 * d.stand + d.chan) d.die o) b
    exact ⟨hwp.trans (hmoves b hb).1, hv (hmoves b hb).2⟩
  · obtain ⟨hidle, hgrown⟩ := programFail_retires hst hc hd hk hb hroom other
    exact (nandProgramComplete_effect ho (.inr hk) hs true other).runs
      ⟨dieOp_flashSettle_idle hidle, fun b hb => isGrown_flashSettle.trans (hgrown b hb)⟩
  · exact (flagLogProgramComplete_effect ho hk hs).runs ⟨rfl, _, dieOp_setDieOp_same _, rfl, rfl⟩
  · exact (nandEraseComplete_effect ho hk hs false).runs (eraseComplete_passes hst hc hd hb rfl rfl)
  · exact (nandEraseComplete_effect ho hk hs true).runs (isGrown_flashSettle.trans (eraseFail_retires hst hc hd hb rfl hroom))
  · exact (clearRecordDurable_effect ho hk hs).runs (clearDurable_frees h4 rfl rfl)
  · exact (suspendHoldExpiry_effect ho hs hb).runs ⟨rfl, dieOp_setDieOp_same _⟩
  · refine (brownOut_effect hu hb).runs ⟨(congrArg Channel.brownOut getChan_brownOut :), fun e he => ?_, rfl⟩
    rw [getChan_brownOut] at he
    obtain ⟨e', -, rfl⟩ := List.mem_map.mp he
    rfl
  · exact (brownOutExit_effect hb).runs ⟨(congrArg Channel.brownOut rest_flashSettle :).trans brownOut_brownOutExit,
      congrArg Core.life (core_flashSettle.trans core_brownOutExit)⟩
  · exact (backgroundScan_effect ho hd rfl hg hf).runs scanBlock_counts
  · exact (refresh_effect ho rfl hq).runs ⟨by simp [refreshBlock, bump, queueRelocs], rfl,
      fun e he hp => queueRelocs_queues_all he hp, regGet_bump⟩
  · rcases hop with ⟨rfl, hop⟩ | ⟨l, f, rfl, hop⟩ | ⟨f, rfl, hop⟩
    · refine (rawRead_effect hr hgo hidle hop i).runs ?_
      rw [runRawRead_never (s := rawStarted s ch v) hn]
      exact rawReject_rejects (by decide)
    · refine (rawProgram_effect hr hgo hidle hop l f).runs ?_
      rw [runRawProgram_never (s := rawStarted s ch v) hn]
      exact rawReject_rejects (by decide)
    · refine (rawErase_effect hr hgo hidle hop f).runs ?_
      rw [runRawErase_never (s := rawStarted s ch v) hn]
      exact rawReject_rejects (by decide)
  · obtain ⟨hres, hdma, hpages, hmap⟩ := runRawRead_sends (s := rawStarted s ch v) (m := bits) hn hp
    rw [getPair_rawStarted] at hdma
    exact (rawRead_effect hr hgo hidle hop bits).runs ⟨hres, hdma, hpages, hmap⟩
  · exact (rawProgram_effect hr hgo hidle hop l f).runs
      (runRawProgram_programs (s := rawStarted s ch v) hn rfl hv hp hw hg rfl)
  · refine (rawProgram_effect hr hgo hidle hop l f).runs ?_
    rw [runRawProgram_unverified (s := rawStarted s ch v) hn hv]
    exact rawReject_rejects (by decide)
  · exact (rawErase_effect hr hgo hidle hop false).runs (runRawErase_passes (s := rawStarted s ch v) hn rfl hg rfl)
  · exact (rawErase_effect hr hgo hidle hop true).runs (runRawErase_fails (s := rawStarted s ch v) hn hg rfl)

end Sys2Proof.Machine

namespace Sys2Proof.Machine

/-! # The translation layer: flushes and zeroing, reclaim, relocation, checkpoints (R232, R240, R244, R247 to R249, R375)

## What reads of units rest on

Zeroing unmaps unit after unit, and each step completes commands and tells the erasure code of the new content. None of
that work changes where a unit lies: the map ranges of the partitions, the map, the buffered versions. -/

/-- The map ranges of each partition's namespace. -/
def rangesOf (m : AMap Part) : AMap (List (Nat × Nat)) := m.map fun e => (e.1, e.2.ranges)

structure UnitPlaces where
  ranges : AMap (List (Nat × Nat))
  map : AMap MapEntry
  buf : List BufUnit

def places (s : State) : UnitPlaces := ⟨rangesOf s.parts, s.ftl.map, s.ftl.buf⟩

/-- No version of the unit is buffered and no map entry names it. -/
def UnitPlaces.Nowhere (v : UnitPlaces) (i : Nat) : Prop := (∀ b ∈ v.buf, b.idx ≠ i) ∧ aGet? v.map i = none

section
variable {s t : State} {a n p q i j k ch : Nat}

theorem unitIdx_of_places (h : (places t).ranges = (places s).ranges) (p u : Nat) : unitIdx t p u = unitIdx s p u := by
  have hr : ∀ v : State, (getPart v p).ranges = (aGet? (places v).ranges p).getD [] := fun v => by
    rw [places, rangesOf, aGet?_mapVal, getPart, aGetD]
    cases aGet? v.parts p <;> rfl
  rw [unitIdx, unitIdx, hr, hr, h]

theorem readUnit_unmapped (h : (places s).Nowhere i) : readUnit s i = .unmapped := by
  obtain ⟨hb, hm⟩ := h
  have hn : s.ftl.buf.filter (·.idx == i) = [] := List.filter_eq_nil_iff.mpr fun b hx => by simpa using hb b hx
  have hn : newestBuf s i = none := by rw [newestBuf, hn]; rfl
  have hm : mapGet s i = none := hm
  simp [readUnit, hn, hm]

theorem rangesOf_aUpd (m : AMap Part) {f : Part → Part} (hf : ∀ x, (f x).ranges = x.ranges) :
    rangesOf (aUpd m p f) = rangesOf m := by
  simp only [rangesOf, aUpd, List.map_map]
  refine List.map_congr_left fun e _ => ?_
  simp only [Function.comp]
  split
  · rw [hf]
  · rfl

/-- Whatever of registers, memory, host interface and forest is replaced. -/
@[simp] theorem places_replace (s : State) (regs : AMap Word) (mem : Mem) (host : HostIf) (forest : Forest) :
    places { s with regs, mem, host, forest } = places s := rfl

@[simp] theorem places_foldl {β : Type} {g : State → β → State} (hg : ∀ s x, places (g s x) = places s) (l : List β) (s : State) :
    places (l.foldl g s) = places s :=
  foldl_keeps (fun t => places t = places s) g (fun _ x h => (hg _ x).trans h) l s rfl

/-! ### Messages to other modules -/

@[simp] theorem places_updAssoc {f : Assoc → Assoc} : places (updAssoc s p q f) = places s := by rfl

@[simp] theorem places_queueMsgs : places (queueMsgs s) = places s := by
  refine places_foldl (fun t m => ?_) _ _
  split
  · rfl
  · split <;> rfl

@[simp] theorem places_sendNumbered {f : SentFrame} : places (sendNumbered s p q f) = places s := by rfl

@[simp] theorem places_nextEpoch : places (nextEpoch s p q) = places s := by unfold nextEpoch; split <;> simp [apply_ite places]

@[simp] theorem places_transmit : places (transmit p q n s) = places s := by
  induction n generalizing s with
  | zero => rfl
  | succ n ih =>
    unfold transmit
    dsimp only
    split
    · simp
    · split <;> simp [apply_ite places, ih]

@[simp] theorem places_sendMsg {bytes : List Byte} {delta : Option Nat} : places (sendMsg s p ch bytes delta) = places s := by
  rw [sendMsg, pump, places_foldl fun _ _ => places_transmit, places_queueMsgs]
  rfl

/-! ### The erasure code, completions, resident copies -/

theorem places_sendDelta {d : Delta} : places (sendDelta s d) = places s := places_sendMsg

theorem places_markStale : places (markStale s k) = places s := rfl

@[simp] theorem places_noteContent {u idx ident : Nat} {v : UnitVal} : places (noteContent s p u idx ident v) = places s := by
  unfold noteContent
  split
  · unfold noteChange
    split
    · rfl
    · split
      · rfl
      · simp [apply_ite places, places_markStale, places_sendDelta]
  · unfold noteStale
    split
    · rfl
    · split
      · rfl
      · exact (apply_ite places ..).trans (ite_self _)

theorem ranges_keepIn (x : Part) (o : Outstanding) (r : Reply) (fin : ProgRec) : (keepIn x o r fin).ranges = x.ranges := by
  simp only [keepIn, apply_ite Part.ranges, ite_self]

theorem ranges_complete (o : Outstanding) (r : Reply) : rangesOf (complete s o r).parts = rangesOf s.parts := by
  have hk : rangesOf (keepRecord s o (finalReply o r)).parts = rangesOf s.parts := by
    unfold keepRecord
    dsimp only
    split
    · rfl
    · exact rangesOf_aUpd _ fun _ => ranges_keepIn ..
  refine Eq.trans ?_ hk
  simp only [complete, countDone]
  split
  · exact rangesOf_aUpd _ fun _ => by split <;> rfl
  · rfl

@[simp] theorem places_completeAt {r : Reply} : places (completeAt s p q r) = places s := by
  have h : rangesOf (completeAt s p q r).parts = rangesOf s.parts := by
    unfold completeAt
    dsimp only
    split
    · exact ranges_complete ..
    · rfl
  exact congrArg (UnitPlaces.mk · s.ftl.map s.ftl.buf) h

theorem places_updProg {f : ProgRec → ProgRec} : places (updProg s p q f) = places s := rfl

@[simp] theorem places_settle : places (settle s) = places s := by
  unfold settle ackDeltas
  dsimp only
  rw [places_foldl fun _ _ => places_sendMsg]
  exact (places_foldl (fun _ _ => places_completeAt) _ _).trans rfl

theorem places_updPart {f : Part → Part} (hf : ∀ x, (f x).ranges = x.ranges) : places (updPart s p f) = places s :=
  congrArg (UnitPlaces.mk · s.ftl.map s.ftl.buf) (rangesOf_aUpd s.parts hf)

theorem places_credit {tier : Nat} : places (credit s p tier n) = places s := by
  unfold credit
  exact places_updPart fun _ => rfl

@[simp] theorem places_dropCopy : places (dropCopy s k) = places s := by
  unfold dropCopy
  split
  · rfl
  · exact places_credit.trans rfl

@[simp] theorem places_staleCopy : places (staleCopy s p k) = places s := by
  unfold staleCopy
  dsimp only
  split
  · rfl
  · split
    · exact places_dropCopy
    · rfl

/-! ## Units unmapped (R232, R375) -/

/-- Where units lie once one of them was dropped. -/
def UnitPlaces.without (v : UnitPlaces) (i : Nat) : UnitPlaces :=
  { v with map := if (aGet? v.map i).isSome then aDel v.map i else v.map, buf := v.buf.filter fun b => b.idx != i }

/-- The erasure code hears of the zeros that replace a unit (R457). -/
def toldZeros (s : State) (p u i : Nat) : State :=
  match repl s with
  | none => s
  | some _ => noteContent { s with ftl := { s.ftl with seq := s.ftl.seq + 1 } } p u i (s.ftl.seq + 1) UnitVal.zero

/-- The buffered versions of a unit go, and its map entry. -/
def dropUnit (s : State) (i : Nat) : State :=
  let s1 := { s with ftl := { s.ftl with buf := s.ftl.buf.filter fun b => b.idx != i } }
  if (mapGet s1 i).isSome then mapSet s1 i none else s1

theorem unmapUnit_of_idx {u : Nat} (h : unitIdx s p u = some i) :
    unmapUnit s p u = settle (staleCopy (dropUnit (toldZeros s p u i) i) p (u / 4)) := by
  rw [unmapUnit, h]
  rfl

theorem unmapUnit_of_none {u : Nat} (h : unitIdx s p u = none) : unmapUnit s p u = s := by rw [unmapUnit, h]

theorem places_toldZeros {u : Nat} : places (toldZeros s p u i) = places s := by
  unfold toldZeros
  split
  · rfl
  · exact places_noteContent

theorem places_dropUnit : places (dropUnit s i) = (places s).without i := by
  have hm : mapGet { s with ftl := { s.ftl with buf := s.ftl.buf.filter fun b => b.idx != i } } i = aGet? s.ftl.map i := rfl
  unfold dropUnit UnitPlaces.without
  simp only [hm, apply_ite places]
  split
  · exact congrArg (UnitPlaces.mk _ · _) (if_pos ‹_›).symm
  · exact congrArg (UnitPlaces.mk _ · _) (if_neg ‹_›).symm

theorem places_unmapUnit {u : Nat} (h : unitIdx s p u = some i) : places (unmapUnit s p u) = (places s).without i := by
  rw [unmapUnit_of_idx h, places_settle, places_staleCopy, places_dropUnit, places_toldZeros]

theorem ranges_unmapUnit {u : Nat} : (places (unmapUnit s p u)).ranges = (places s).ranges := by
  cases h : unitIdx s p u with
  | none => rw [unmapUnit_of_none h]
  | some i => rw [places_unmapUnit h]; rfl

/-- A dropped unit lies nowhere, and units that lay nowhere still do. -/
theorem UnitPlaces.Nowhere.without {v : UnitPlaces} (h : i = j ∨ v.Nowhere i) : (v.without j).Nowhere i := by
  refine ⟨fun b hb e => ?_, ?_⟩
  · obtain ⟨hb, hj⟩ := List.mem_filter.mp hb
    rcases h with rfl | h
    · simp [e] at hj
    · exact h.1 b hb e
  · simp only [UnitPlaces.without]
    split
    · rw [aGet?_aDel]
      split
      · rfl
      · exact (h.resolve_left ‹_›).2
    · rename_i hm
      rcases h with rfl | h
      · exact Option.not_isSome_iff_eq_none.mp hm
      · exact h.2

theorem nowhere_unmapUnit {u : Nat} (h : unitIdx s p u = some i ∨ (places s).Nowhere i) : (places (unmapUnit s p u)).Nowhere i := by
  cases hu : unitIdx s p u with
  | none => rw [unmapUnit_of_none hu]; exact h.resolve_left (by simp [hu])
  | some j =>
    rw [places_unmapUnit hu]
    exact .without (h.imp_left fun e => Option.some.inj (e.symm.trans hu))

/-- The state after units were unmapped one after another. -/
def unmapUnits (s : State) (p : Nat) (l : List Nat) : State := l.foldl (fun s u => unmapUnit s p u) s

/-- Each of them lies nowhere at the end. -/
theorem nowhere_unmapUnits {l : List Nat} {u : Nat} (hu : u ∈ l) (hi : unitIdx s p u = some i) :
    (places (unmapUnits s p l)).Nowhere i := by
  induction l generalizing s with
  | nil => cases hu
  | cons x l ih =>
    rw [unmapUnits, List.foldl_cons]
    rcases List.mem_cons.mp hu with rfl | hu
    · exact foldl_keeps (fun t => (places t).Nowhere i) _ (fun _ _ h => nowhere_unmapUnit (.inr h)) _ _ (nowhere_unmapUnit (.inl hi))
    · exact ih hu ((unitIdx_of_places ranges_unmapUnit p u).trans hi)

/-! ## Ranges of whole units -/

theorem deallocate_whole {off len : Nat} (h : (zeroParts off len).2 = []) :
    deallocate s p off len = (unmapUnits s p (zeroParts off len).1, [], false) := by
  unfold deallocate
  rcases hz : zeroParts off len with ⟨whole, part⟩
  obtain rfl : part = [] := by rw [← h, hz]
  rfl

/-- Ranges of whole units are unmapped unit by unit, and no piece is left to be written. -/
theorem foldl_deallocate_whole {lba : Nat} {rs : List (Nat × Nat)} (h : ∀ r ∈ rs, (zeroParts (r.1 * lba) (r.2 * lba)).2 = []) :
    rs.foldl (fun (acc : State × List (Nat × Nat × List Byte)) r =>
        let (s', ps, _) := deallocate acc.1 p (r.1 * lba) (r.2 * lba)
        (s', acc.2 ++ ps)) (s, []) =
      (unmapUnits s p (rs.flatMap fun r => (zeroParts (r.1 * lba) (r.2 * lba)).1), []) := by
  rw [unmapUnits, List.foldl_flatMap]
  induction rs generalizing s with
  | nil => rfl
  | cons r rs ih =>
    rw [List.foldl_cons, List.foldl_cons, deallocate_whole (h r (by simp))]
    exact ih fun x hx => h x (by simp [hx])

/-- A write of no piece completes at once: every unit stays where it is. -/
theorem places_beginWrite_nil {c : Cmd} {durable : Bool} : places (beginWrite s c p [] durable) = places s := by
  have hd : ∀ v r, whenDurable v c [] r = (v, some r) := fun _ _ => rfl
  unfold beginWrite pushWrite acceptPieces
  dsimp only
  rw [if_neg Bool.false_ne_true, if_pos List.isEmpty_nil]
  split
  · rfl
  · split
    · exact places_completeAt
    · exact places_completeAt

/-! ## The commands -/

section
variable {c : Cmd} {opcode : Nat} {u v : State} {body : State → State × Option Reply}

theorem runCmd_answers {r : Reply} (h : Begins s c opcode u) (hb : body u = (v, some r)) :
    runCmd c opcode body s = .next (completeAt v c.sqid c.cid r) := (runCmd_begins h body).trans (by rw [hb])

theorem runCmd_waits (h : Begins s c opcode u) (hb : body u = (v, none)) : runCmd c opcode body s = .next v :=
  (runCmd_begins h body).trans (by rw [hb])

end

theorem whenDurable_durable {c : Cmd} {l : List Nat} {r : Reply} (h : ordersDurable s l = true) :
    whenDurable s c l r = (s, some r) := if_pos h

/-- A command whose versions are not durable waits, and their staging copies are asked for. -/
def awaitDurable (s : State) (w : FlushWait) : State := { s with ftl := { s.ftl with
  flushes := s.ftl.flushes ++ [w]
  buf := s.ftl.buf.map fun b => if w.orders.contains b.order ∧ !stagedDurable b then { b with staging := true } else b } }

theorem whenDurable_waits {c : Cmd} {l : List Nat} {r : Reply} (h : ordersDurable s l = false) :
    whenDurable s c l r = (awaitDurable s ⟨l, toCompletion c.sqid c.cid r⟩, none) := if_neg (by simp [h])

/-- The versions that a FLUSH covers: those of its namespace, or of all. -/
def flushCovers (s : State) (c : Cmd) : List Nat :=
  (s.ftl.buf.filter fun b => b.kind == 0 && (c.nsid == 0xFFFFFFFF || b.partition == c.nsid - 1)).map (·.order)

theorem flushCmd_covers {c : Cmd} (h : c.nsid = 0xFFFFFFFF ∨ nsExists s c.nsid = true) :
    flushCmd c s = whenDurable s c (flushCovers s c) replyOk := by
  refine guards_pass (fun x hx => ?_) _
  obtain rfl := List.mem_singleton.mp hx
  rcases h with h | h <;> simp [h]

/-- WRITE ZEROES of whole units leaves them unmapped; the write of no piece that ends it changes nothing more. -/
theorem zeroesCmd_whole {c : Cmd} {off len : Nat} (hn : nsExists s c.nsid = true)
    (hoff : off = slbaOf c * lbaSize (getPart s (c.nsid - 1))) (hlen : len = nlbOf c * lbaSize (getPart s (c.nsid - 1)))
    (hr : slbaOf c + nlbOf c ≤ nsLbas (getPart s (c.nsid - 1))) (hp : rangeProtected s (c.nsid - 1) off len = false)
    (hw : zeroWaits s (c.nsid - 1) off len = false) (hz : (zeroParts off len).2 = []) :
    ∃ v, zeroesCmd c s = (v, none) ∧ places v = places (unmapUnits s (c.nsid - 1) (zeroParts off len).1) := by
  subst hoff hlen
  unfold zeroesCmd
  dsimp only
  rw [guards_pass, if_neg (by simp [hw]), deallocate_whole hz]
  · exact ⟨_, if_neg Bool.false_ne_true, places_beginWrite_nil.trans places_updProg⟩
  · simpa [hn, hp] using hr

/-- DATASET MANAGEMENT that deallocates ranges of whole units: likewise. -/
theorem dsmCmd_whole {c : Cmd} {lba : Nat} (hn : nsExists s c.nsid = true) (hd : bitOf c.cdw11.toNat 2 = true)
    (hlba : lba = lbaSize (getPart s (c.nsid - 1)))
    (h : ∀ r ∈ dsmRanges c, r.1 + r.2 ≤ nsLbas (getPart s (c.nsid - 1)) ∧
      rangeProtected s (c.nsid - 1) (r.1 * lba) (r.2 * lba) = false ∧
      zeroWaits s (c.nsid - 1) (r.1 * lba) (r.2 * lba) = false ∧ (zeroParts (r.1 * lba) (r.2 * lba)).2 = []) :
    ∃ v, dsmCmd c s = (v, none) ∧ places v =
      places (unmapUnits s (c.nsid - 1) ((dsmRanges c).flatMap fun r => (zeroParts (r.1 * lba) (r.2 * lba)).1)) := by
  subst hlba
  have hwait : ¬ ((dsmRanges c).any fun r => zeroWaits s (c.nsid - 1) (r.1 * lbaSize (getPart s (c.nsid - 1)))
      (r.2 * lbaSize (getPart s (c.nsid - 1)))) = true := by
    simpa using fun a b hr => (h (a, b) hr).2.2.1
  unfold dsmCmd
  dsimp only
  rw [guards_pass, if_neg (by simp [hd]), guards_pass, if_neg hwait, foldl_deallocate_whole fun r hr => (h r hr).2.2.2]
  · exact ⟨_, rfl, places_beginWrite_nil.trans places_updProg⟩
  · simpa using ⟨fun a b hr => (h (a, b) hr).1, fun a b hr => (h (a, b) hr).2.1⟩
  · simpa using hn

end

/-- Settles O20: what each command does to where units lie is said once (`places_unmapUnit`, `nowhere_unmapUnits`), and a unit
that lies nowhere reads as unmapped. -/
theorem flushZeroesDeallocate : Obligations.FlushZeroesDeallocate := by
  unfold Obligations.FlushZeroesDeallocate
  refine fun s u c => ⟨fun hb hn => ⟨fun hd => ?_, fun hd => ?_⟩, fun hb hn hr hp hw hz => ?_,
    fun hb hn => ⟨fun h0 => ?_, fun h1 hall => ?_⟩⟩
  · exact runCmd_answers hb ((flushCmd_covers hn).trans (whenDurable_durable hd))
  · exact ⟨_, runCmd_waits hb ((flushCmd_covers hn).trans (whenDurable_waits hd)), rfl, rfl, rfl, rfl⟩
  · obtain ⟨v, hv, hplaces⟩ := zeroesCmd_whole hn rfl rfl hr hp hw hz
    refine ⟨v, runCmd_waits hb hv, fun x hx i hi => readUnit_unmapped ?_⟩
    rw [hplaces]
    exact nowhere_unmapUnits hx hi
  · refine runCmd_answers hb ((guards_pass (by simpa using hn) _).trans (if_pos ?_))
    rw [h0]
    rfl
  · obtain ⟨v, hv, hplaces⟩ := dsmCmd_whole hn h1 rfl hall
    refine ⟨v, runCmd_waits hb hv, fun r hr x hx i hi => readUnit_unmapped ?_⟩
    rw [hplaces]
    exact nowhere_unmapUnits (List.mem_flatMap.mpr ⟨r, hr, hx⟩) hi

end Sys2Proof.Machine

namespace Sys2Proof.Machine

section
variable {s t u : State} {a n i j k B ch die : Nat}

/-! ## What follow-up work leaves alone

Every change of flash sets follow-up work going: dies resume, reclaimed super-blocks go to their erase, erases start. -/

/-- A register that the follow-up work may write: the super-blocks' counts, the rebuild, the layer's state and events, and the
pages beyond the hub's. -/
def followReg (a : Nat) : Bool :=
  decide (0x20000 ≤ a) || [Reg.FTL_SB, Reg.FTL_STAT, Reg.FTL_REBUILD, pgFtl + Reg.EVT_CAUSE, Reg.RAS_EVLOG_LOST].contains a

/-- t differs from s at most in those registers, the events, the dies, the blocks and super-blocks, and the slots of buffered
units. -/
def onlyFollows (s t : State) : Prop :=
  t = { s with regs := t.regs, ras := t.ras, host := t.host, chans := t.chans, ftl := { s.ftl with
    buf := t.ftl.buf, sbs := t.ftl.sbs, opened := t.ftl.opened, sbErases := t.ftl.sbErases, members := t.ftl.members,
    credit := t.ftl.credit, blocks := t.ftl.blocks } } ∧ ∀ a, followReg a = false → regGet t a = regGet s a

theorem onlyFollows.refl (s : State) : onlyFollows s s := ⟨rfl, fun _ _ => rfl⟩

theorem onlyFollows.trans (h₁ : onlyFollows s t) (h₂ : onlyFollows t u) : onlyFollows s u := by
  obtain ⟨e₁, hr₁⟩ := h₁
  obtain ⟨e₂, hr₂⟩ := h₂
  exact ⟨e₂.trans (by rw [e₁]), fun a ha => (hr₂ a ha).trans (hr₁ a ha)⟩

theorem onlyFollows_foldl {β : Type} {g : State → β → State} (hg : ∀ s x, onlyFollows s (g s x)) (l : List β) (s : State) :
    onlyFollows s (l.foldl g s) :=
  foldl_keeps (onlyFollows s) g (fun _ x h => h.trans (hg _ x)) l s (.refl s)

theorem onlyFollows_ite {c : Prop} [Decidable c] (ht : onlyFollows s t) (hu : onlyFollows s u) :
    onlyFollows s (if c then t else u) := by split <;> assumption

theorem onlyFollows_setReg (h : followReg a = true) (w : Word) : onlyFollows s (setReg s a w) :=
  ⟨rfl, fun b hb => regGet_setReg_ne w fun e => by rw [e, h] at hb; cases hb⟩

theorem onlyFollows_ftl (s : State) (buf : List BufUnit) (sbs : AMap SuperBlock) (opened sbErases members : AMap Nat)
    (credit : Nat) (blocks : AMap Block) :
    onlyFollows s { s with ftl := { s.ftl with buf, sbs, opened, sbErases, members, credit, blocks } } := ⟨rfl, fun _ _ => rfl⟩

theorem onlyFollows_updBlock (f : Block → Block) : onlyFollows s (updBlock s k f) := onlyFollows_ftl ..

theorem onlyFollows_updSb (f : SuperBlock → SuperBlock) : onlyFollows s (updSb s B f) := onlyFollows_ftl ..

theorem onlyFollows_post (code part a0 a1 : Nat) : onlyFollows s (post s pgFtl code part a0 a1) := by
  refine ⟨rfl, fun b hb => ?_⟩
  have hl : b ≠ Reg.RAS_EVLOG_LOST := by rintro rfl; revert hb; decide
  have hc : b ≠ pgFtl + Reg.EVT_CAUSE := by rintro rfl; revert hb; decide
  exact (regGet_postFlags _ _ _ _ _ _ _ hl).trans (if_neg hc)

theorem onlySlots.follows (h : onlySlots s t) : onlyFollows s t := by
  obtain ⟨e, hr⟩ := h
  refine ⟨e.trans (by rw [e]), fun a ha => hr a ?_⟩
  intro hm
  rw [List.mem_singleton.mp hm] at ha
  revert ha
  decide

theorem onlyFollows_assignSlots : onlyFollows s (assignSlots s) := by
  refine onlyFollows_foldl (fun t b => ?_) _ _
  have h := (onlySlots_takeSlot (s := t) 0).follows
  rcases hs : takeSlot t 0 with ⟨u, _ | k⟩
  · exact .refl t
  · rw [hs] at h
    exact h.trans (onlyFollows_ftl ..)

theorem onlyFollows_freeErased {sb : SuperBlock} : onlyFollows s (freeErased s B sb) := by
  unfold freeErased
  dsimp only
  generalize hf : List.foldl _ (s, true) _ = r
  have h : onlyFollows s r.1 := by
    rw [← hf]
    refine foldl_keeps (fun b : State × Bool => onlyFollows s b.1) _ (fun acc x hacc => ?_) _ _ (.refl s)
    split
    · exact hacc.trans (onlyFollows_ftl ..)
    · exact hacc
  have hretire : onlyFollows s (bumpF (updSb { r.1 with ftl := { r.1.ftl with
      sbErases := aPut r.1.ftl.sbErases B (aGetD r.1.ftl.sbErases B 0 + 1) } } B fun x => { x with state := 3 })
      Reg.FTL_SB Fld.FTL_SB_retired 1) :=
    ((h.trans (onlyFollows_ftl ..)).trans (onlyFollows_updSb _)).trans (onlyFollows_setReg (by decide) _)
  refine onlyFollows_ite ?_ (onlyFollows_ite ?_ hretire)
  · exact (h.trans (onlyFollows_ftl ..)).trans ((onlyFollows_setReg (by decide) _).trans onlyFollows_assignSlots)
  · exact hretire.trans ((onlyFollows_setReg (by decide) _).trans (onlyFollows_post ..))

theorem onlyFollows_sweepErased : onlyFollows s (sweepErased s) :=
  onlyFollows_foldl (fun t _ => onlyFollows_ite (.refl t) onlyFollows_freeErased) _ _

theorem onlyFollows_sweepReclaimed : onlyFollows s (sweepReclaimed s) := by
  refine onlyFollows_foldl (fun t e => onlyFollows_ite ?_ (.refl t)) _ _
  have hs : onlyFollows t (updSb t e.1 fun x => { x with state := 5 }) := onlyFollows_updSb _
  have hb := onlyFollows_foldl (fun u k => onlyFollows_ite (c := isGrown u k = true) (.refl u)
    (onlyFollows_updBlock (k := k) fun b => { b with needErase := true }))
  exact (hs.trans (hb _ _)).trans onlyFollows_sweepErased

theorem onlyFollows_startErase : onlyFollows s (startErase s k) := by
  refine (onlyFollows_setReg ?_ _).trans ⟨rfl, fun _ _ => rfl⟩
  simp only [followReg, Bool.or_eq_true, decide_eq_true_eq]
  exact .inl (by unfold chanPage standBase; omega)

theorem onlyFollows_kick : onlyFollows s (kick s) :=
  kick_keeps_of (fun _ _ _ h => h.trans onlyFollows_startErase) (.refl s)

theorem onlyFollows_countRebuild : onlyFollows s (countRebuild s) := by
  unfold countRebuild
  split
  · exact .refl s
  · exact onlyFollows_setReg (by decide) _

theorem onlyFollows_flashSettle : onlyFollows s (flashSettle s) :=
  ((show onlyFollows s (resumeDies s) from ⟨rfl, fun _ _ => rfl⟩).trans onlyFollows_countRebuild).trans
    (onlyFollows_sweepReclaimed.trans onlyFollows_kick)

/-- The follow-up work leaves the map, its journal and its checkpoint. -/
theorem onlyFollows.map_and_records (h : onlyFollows s t) : t.ftl.map = s.ftl.map ∧ t.ftl.journal = s.ftl.journal ∧
    t.ftl.ckpt = s.ftl.ckpt ∧ t.ftl.ckptNext = s.ftl.ckptNext ∧ t.ftl.sinceCkpt = s.ftl.sinceCkpt := by
  rw [h.1]
  exact ⟨rfl, rfl, rfl, rfl, rfl⟩

theorem map_flashSettle : (flashSettle s).ftl.map = s.ftl.map := congrArg Media.map media_flashSettle

theorem pages_flashSettle : (flashSettle s).ftl.pages = s.ftl.pages := congrArg Media.pages media_flashSettle

theorem relocs_flashSettle : (flashSettle s).ftl.relocs = s.ftl.relocs := congrArg Media.relocs media_flashSettle

theorem mapGet_flashSettle (i : Nat) : mapGet (flashSettle s) i = mapGet s i := congrArg (aGet? · i) map_flashSettle

theorem mapGet_mapSet (e : MapEntry) (j : Nat) :
    mapGet (mapSet s k (some e)) j = if j = k then some e else mapGet s j := aGet?_aPut ..

/-! ## Reclaim and wear levelling (R247, R249) -/

/-- One step of the choice of the super-block with the least number, the earlier on a tie. -/
def leastBy (num : Nat → Nat) (b : Option (Nat × Nat)) (e : Nat × SuperBlock) : Option (Nat × Nat) :=
  match b with
  | none => some (e.1, num e.1)
  | some x => if num e.1 < x.2 then some (e.1, num e.1) else b

/-- The super-block with the least number among the closed ones. -/
def leastClosed (s : State) (num : Nat → Nat) : Option Nat :=
  ((s.ftl.sbs.filter (·.2.state == 2)).foldl (leastBy num) none).map (·.1)

theorem leastBy_eq (num : Nat → Nat) (b : Option (Nat × Nat)) (e : Nat × SuperBlock) :
    leastBy num b e = some (e.1, num e.1) ∨ leastBy num b e = b := by
  unfold leastBy
  split
  · exact .inl rfl
  · exact ite_eq_or_eq ..

theorem isSome_of_mem {α : Type} {m : AMap α} {e : Nat × α} (h : e ∈ m) : (aGet? m e.1).isSome = true := by
  induction m with
  | nil => cases h
  | cons x m ih =>
    simp only [aGet?]
    split
    · rfl
    · rename_i hx
      rcases List.mem_cons.mp h with rfl | h
      · exact absurd rfl hx
      · exact ih h

/-- The choice is one of the module's super-blocks. -/
theorem isSome_of_leastClosed {num : Nat → Nat} (h : leastClosed s num = some B) : (getSb s B).isSome = true := by
  obtain ⟨x, hx, rfl⟩ := Option.map_eq_some_iff.mp h
  refine List.foldlRecOn (motive := fun b => ∀ x, b = some x → (getSb s x.1).isSome = true) _ (leastBy num)
    (fun x hx => by cases hx) (fun b hb e he x hx => ?_) x hx
  rcases leastBy_eq num b e with h | h
  · cases h.symm.trans hx
    exact isSome_of_mem (List.mem_filter.mp he).1
  · exact hb x (h.symm.trans hx)

theorem isSome_of_reclaimPick (h : reclaimPick s = some B) : (getSb s B).isSome = true :=
  isSome_of_leastClosed (num := fun B => (unitsInSb s B).length) h

theorem isSome_of_wearPick (h : wearPick s = some B) : (getSb s B).isSome = true :=
  isSome_of_leastClosed (num := sbEraseCount s) (Option.ite_none_left_eq_some.mp h).2

/-! ### A super-block taken for reclaim -/

theorem sbs_takeForReclaim : (takeForReclaim s B).ftl.sbs =
    aUpd s.ftl.sbs B fun x => { x with state := 4, nextSlot := (unitsInSb s B).length } := rfl

theorem getSb_takeForReclaim : getSb (takeForReclaim s B) B =
    (getSb s B).map fun x => { x with state := 4, nextSlot := (unitsInSb s B).length } := by
  rw [getSb, sbs_takeForReclaim, aGet?_aUpd, if_pos rfl]
  rfl

/-- Where the units of super-blocks lie depends on the map, the super-blocks' numbers and their members. -/
theorem unitsInSb_congr (hm : t.ftl.map = s.ftl.map) (hb : t.ftl.members = s.ftl.members)
    (hs : t.ftl.sbs.map (·.1) = s.ftl.sbs.map (·.1)) (B : Nat) : unitsInSb t B = unitsInSb s B := by
  have key : ∀ (u : State) k, sbOfBlock u k = (u.ftl.sbs.map (·.1)).find? fun b => b % 8 == addrDie (k * 4096) &&
      memberBlock u b (addrChan (k * 4096)) (addrBlock (k * 4096) % 4) == addrBlock (k * 4096) := fun u k => by
    rw [List.find?_map]
    rfl
  simp only [unitsInSb, hm, key, hs, memberBlock, hb]

theorem unitsInSb_takeForReclaim (i : Nat) : unitsInSb (takeForReclaim s B) i = unitsInSb s i := by
  refine unitsInSb_congr (s := s) (t := takeForReclaim s B) rfl rfl ?_ i
  rw [sbs_takeForReclaim, aUpd, List.map_map]
  refine List.map_congr_left fun e _ => ?_
  simp only [Function.comp]
  split <;> rfl

/-- Where none was being reclaimed, the one taken is the only one that is. -/
theorem key_of_takeForReclaim (h : ∀ e ∈ s.ftl.sbs, e.2.state ≠ 4) {e : Nat × SuperBlock}
    (he : e ∈ (takeForReclaim s B).ftl.sbs) (h4 : e.2.state = 4) : e.1 = B := by
  obtain ⟨x, hx, rfl⟩ := List.mem_map.mp he
  revert h4
  split
  · exact fun _ => ‹_›
  · exact fun h4 => absurd h4 (h x hx)

/-- While each super-block being reclaimed holds valid units, none goes on to its erase. -/
theorem sweepReclaimed_of_valid (h : ∀ e ∈ s.ftl.sbs, e.2.state = 4 → unitsInSb s e.1 ≠ []) : sweepReclaimed s = s := by
  refine List.foldlRecOn (motive := (· = s)) _ _ rfl fun t ht e he => ?_
  obtain ⟨hm, h4⟩ := List.mem_filter.mp he
  subst ht
  exact if_neg (by simpa using h e hm (by simpa using h4))

theorem ftl_countRebuild : (countRebuild s).ftl = s.ftl := by unfold countRebuild; split <;> rfl

/-- The super-blocks stay as they are through the follow-up work while none goes on to its erase. -/
theorem getSb_flashSettle_of_valid (h : ∀ e ∈ s.ftl.sbs, e.2.state = 4 → unitsInSb s e.1 ≠ []) (i : Nat) :
    getSb (flashSettle s) i = getSb s i := by
  have hf : (countRebuild (resumeDies s)).ftl = s.ftl := ftl_countRebuild
  have hu : ∀ i, unitsInSb (countRebuild (resumeDies s)) i = unitsInSb s i :=
    unitsInSb_congr (by rw [hf]) (by rw [hf]) (by rw [hf])
  have hk : (kick (countRebuild (resumeDies s))).ftl.sbs = s.ftl.sbs :=
    kick_keeps_of (P := fun t => t.ftl.sbs = s.ftl.sbs) (fun _ _ _ ht => ht) (by rw [hf])
  rw [flashSettle, sweepReclaimed_of_valid (by rw [hf]; simpa only [hu] using h), getSb, hk]
  rfl

/-- A super-block taken for reclaim is being reclaimed, and the relocation of its units is queued. -/
theorem takeForReclaim_takes (h4 : ∀ e ∈ s.ftl.sbs, e.2.state ≠ 4) (hv : unitsInSb s B ≠ []) (hB : (getSb s B).isSome = true)
    (ht : t = flashSettle (takeForReclaim s B)) : (∃ x, getSb t B = some x ∧ x.state = 4) ∧ t.ftl.map = s.ftl.map ∧
      ∀ e ∈ unitsInSb s B, (aGet? s.ftl.pages e.2.addr).isSome = true → ∃ r ∈ t.ftl.relocs, r.idx = e.1 := by
  have hvalid : ∀ e ∈ (takeForReclaim s B).ftl.sbs, e.2.state = 4 → unitsInSb (takeForReclaim s B) e.1 ≠ [] :=
    fun e he h => by rwa [unitsInSb_takeForReclaim, key_of_takeForReclaim h4 he h]
  have hrel : t.ftl.relocs = (takeForReclaim s B).ftl.relocs := ht ▸ relocs_flashSettle
  refine ⟨?_, ht ▸ map_flashSettle, hrel ▸ fun e he hp => queueRelocs_queues_all he hp⟩
  obtain ⟨x, hx⟩ := Option.isSome_iff_exists.mp hB
  rw [ht, getSb_flashSettle_of_valid hvalid, getSb_takeForReclaim, hx]
  exact ⟨_, rfl, rfl⟩

theorem reclaim_effect (ho : operational s = true)
    (hf : getF s Reg.FTL_SB Fld.FTL_SB_free < getF s Reg.FTL_GC_CFG Fld.FTL_GC_CFG_low_wm) (hp : reclaimPick s = some B) :
    Gives .reclaim s (flashSettle (takeForReclaim s B)) := by
  show execReclaim s = _
  rw [execReclaim, if_pos ⟨ho, hf⟩, hp]

theorem wearLevel_effect (ho : operational s = true) (hp : wearPick s = some B) :
    Gives .wearLevel s (flashSettle (takeForReclaim s B)) := by
  show execWearLevel s = _
  rw [execWearLevel, if_pos ho, hp]

/-! ## Relocation (R248) -/

variable {r : Reloc} {e : MapEntry}

/-- The page that a relocation writes. -/
def copiedPage (s : State) (r : Reloc) : NandPage :=
  { idx := r.idx, partition := r.partition, kind := r.kind, seq := s.ftl.seq + 1, val := r.val, rawData := none }

/-- The state once the unit of a relocation is copied to an address, before the map is looked at. -/
def copied (s : State) (r : Reloc) (a : Nat) : State :=
  bumpPair { s with ftl := { s.ftl with
    seq := s.ftl.seq + 1, sinceCkpt := s.ftl.sinceCkpt + 1, pages := aPut s.ftl.pages a (copiedPage s r)
    relocs := s.ftl.relocs.filter (·.idx != r.idx) } } Reg.FTL_MEDIA_UNITS_LO 1

/-- The map once a copied unit's entry was looked at: it moves to the copy, or the relocation is counted as lost. -/
def entryMoved (s : State) (r : Reloc) (a : Nat) : State :=
  match mapGet s r.idx with
  | some e => if e.addr = r.old ∧ e.state ≠ 3 then mapSet s r.idx (some { e with addr := a }) else bump s Reg.FTL_RELOC_LOST 1
  | none => bump s Reg.FTL_RELOC_LOST 1

section
variable {s1 : State} (ht : takeSlot s 2 = (s1, some n))
  (ha : a = slotAddr s1 (n / 2 ^ 20) (n % 2 ^ 20) ((getSb s1 (n / 2 ^ 20)).elim false (·.afterLoss)))
include ht

/-- A slot taken changes neither the map nor the count of lost relocations. -/
theorem takeSlot_leaves : s1.ftl.map = s.ftl.map ∧ regGet s1 Reg.FTL_RELOC_LOST = regGet s Reg.FTL_RELOC_LOST := by
  have hm : media (takeSlot s 2).1 = media s := media_takeSlot
  have hr := (onlySlots_takeSlot (s := s) 2).2 Reg.FTL_RELOC_LOST (by decide)
  rw [ht] at hm hr
  exact ⟨congrArg Media.map hm, hr⟩

theorem mapGet_of_takeSlot : mapGet s1 i = mapGet s i := congrArg (aGet? · i) (takeSlot_leaves ht).1

include ha

/-- With a slot to be had, the unit is copied there and the map is looked at. -/
theorem relocate_copies : relocate s r = entryMoved (copied s1 r a) r a := by
  subst ha
  rw [relocate, ht]
  rfl

/-- The entry that still holds the old address takes the new one. -/
theorem relocate_moves (hm : mapGet s r.idx = some e) (hadr : e.addr = r.old) (h3 : e.state ≠ 3) :
    relocate s r = mapSet (copied s1 r a) r.idx (some { e with addr := a }) := by
  have hm : mapGet (copied s1 r a) r.idx = some e := (mapGet_of_takeSlot ht).trans hm
  rw [relocate_copies ht ha, entryMoved, hm]
  exact if_pos ⟨hadr, h3⟩

/-- An entry that changed meanwhile stays, and the lost relocation is counted. -/
theorem relocate_loses (hm : ∀ e, mapGet s r.idx = some e → e.addr ≠ r.old ∨ e.state = 3) :
    relocate s r = bump (copied s1 r a) Reg.FTL_RELOC_LOST 1 := by
  rw [relocate_copies ht ha, entryMoved]
  split
  · rename_i e he
    exact if_neg fun h => (hm e ((mapGet_of_takeSlot ht).symm.trans he)).elim (· h.1) h.2
  · rfl

end

theorem relocation_effect (ho : operational s = true) (hr : s.ftl.relocs.find? (·.idx == i) = some r) :
    Gives (.relocation i) s (flashSettle (relocate s r)) ∧ r.idx = i := by
  refine ⟨?_, by simpa using List.find?_some hr⟩
  show execRelocation i s = _
  rw [execRelocation, hr]
  exact congrArg _ (if_pos ho)

theorem not_mem_relocs_copied : ∀ x ∈ (copied s r a).ftl.relocs, x.idx ≠ r.idx := fun x hx => by
  simpa using (List.mem_filter.mp hx).2

theorem page_copied : aGet? (copied s r a).ftl.pages a = some (copiedPage s r) := (aGet?_aPut ..).trans (if_pos rfl)

theorem regGet_copied {b : Nat} (h : b ≠ Reg.FTL_MEDIA_UNITS_LO) (h' : b ≠ Reg.FTL_MEDIA_UNITS_LO + 4) :
    regGet (copied s r a) b = regGet s b := regGet_bumpPair_ne h h'

/-- A relocation whose entry still holds the old address: the map entry moves to the copy. -/
theorem relocate_effect (ht : t = flashSettle (mapSet (copied s r a) r.idx (some { e with addr := a }))) :
    mapGet t r.idx = some { e with addr := a } ∧ (∀ j, j ≠ r.idx → mapGet t j = mapGet s j) ∧
      (∀ x ∈ t.ftl.relocs, x.idx ≠ r.idx) ∧ ∃ p, aGet? t.ftl.pages a = some p ∧ p.val = r.val ∧ p.idx = r.idx := by
  have hmap : ∀ j, mapGet t j = if j = r.idx then some { e with addr := a } else mapGet s j := fun j => by
    rw [ht, mapGet_flashSettle, mapGet_mapSet]
    rfl
  have hrel : t.ftl.relocs = (copied s r a).ftl.relocs := ht ▸ relocs_flashSettle
  have hpages : t.ftl.pages = (copied s r a).ftl.pages := ht ▸ pages_flashSettle
  refine ⟨(hmap _).trans (if_pos rfl), fun j hj => (hmap j).trans (if_neg hj), hrel ▸ not_mem_relocs_copied,
    copiedPage s r, ?_, rfl, rfl⟩
  rw [hpages]
  exact page_copied

theorem ftl_bump : (bump s a n).ftl = s.ftl := rfl

/-- A relocation whose entry changed meanwhile: the map stays, and the relocation is counted as lost. -/
theorem relocate_lost_effect (ht : t = flashSettle (bump (copied s r a) Reg.FTL_RELOC_LOST 1)) :
    t.ftl.map = s.ftl.map ∧ (∀ x ∈ t.ftl.relocs, x.idx ≠ r.idx) ∧
      (regGet t Reg.FTL_RELOC_LOST).toNat = min ((regGet s Reg.FTL_RELOC_LOST).toNat + 1) 0xFFFFFFFF := by
  subst ht
  rw [map_flashSettle, relocs_flashSettle, ftl_bump, onlyFollows_flashSettle.2 _ (by decide), regGet_bump,
    regGet_copied (by decide) (by decide)]
  exact ⟨rfl, not_mem_relocs_copied, rfl⟩

/-! ## Checkpoints (R244) -/

/-- The index lies in one of the 128 segments that are due. -/
abbrev segmentDue (s : State) (i : Nat) : Prop := (segmentOf i + 8192 - s.ftl.ckptNext) % 8192 < 128

/-- Entries put one after another in rising order of their keys: each is read, and what was there under other keys. -/
theorem aGet?_foldl_aPut {α : Type} {l : AMap α} (hl : l.Pairwise fun a b => a.1 < b.1) (m : AMap α) (k : Nat) :
    aGet? (l.foldl (fun m e => aPut m e.1 e.2) m) k = (aGet? l k).or (aGet? m k) := by
  induction l generalizing m with
  | nil => rfl
  | cons e l ih =>
    obtain ⟨hlt, hl⟩ := List.pairwise_cons.mp hl
    rw [List.foldl_cons, ih hl, aGet?_aPut, aGet?]
    by_cases h : e.1 = k
    · subst h
      rw [if_pos rfl, if_pos rfl, aGet?_none l e.1 fun x hx => Nat.ne_of_gt (hlt x hx)]
      rfl
    · rw [if_neg h, if_neg fun h' => h h'.symm]

theorem onlyFollows_slcRecycle : onlyFollows s (slcRecycle s) :=
  onlyFollows_foldl (fun t _ => onlyFollows_ite (.refl t) (onlyFollows_updBlock _)) _ _

/-- The state once the due segments of the map are durable, before the blocks that this frees are marked. -/
def checkpointed (s : State) : State :=
  { s with ftl := { s.ftl with
    ckpt := (s.ftl.map.filter fun e => decide (segmentDue s e.1)).foldl (fun m e => aPut m e.1 e.2)
      (s.ftl.ckpt.filter fun e => !decide (segmentDue s e.1))
    journal := s.ftl.journal.filter fun j => !decide (segmentDue s j.idx)
    ckptNext := (s.ftl.ckptNext + 128) % 8192
    sinceCkpt := s.ftl.sinceCkpt - 4194304 } }

theorem checkpoint_eq : checkpoint s = slcRecycle (setPair (checkpointed s) Reg.FTL_CKPT_SEQ_LO s.ftl.seq) := rfl

/-- A checkpoint holds the map of the segments due, and of the others what it held. -/
theorem aGet?_ckpt_checkpointed (hs : aSorted s.ftl.map = true) (i : Nat) :
    aGet? (checkpointed s).ftl.ckpt i = if segmentDue s i then mapGet s i else aGet? s.ftl.ckpt i := by
  have hl := (aSorted_iff _).mp (aSorted_filter _ (fun e => decide (segmentDue s e.1)) hs)
  refine (aGet?_foldl_aPut hl _ i).trans ?_
  rw [aGet?_filter_key _ fun k => decide (segmentDue s k), aGet?_filter_key _ fun k => !decide (segmentDue s k)]
  by_cases h : segmentDue s i <;> simp [h, mapGet]

theorem mem_journal_checkpointed (j : JournalRec) :
    j ∈ (checkpointed s).ftl.journal ↔ j ∈ s.ftl.journal ∧ ¬segmentDue s j.idx := by
  simp [checkpointed, List.mem_filter]

theorem checkpoint_effect (ho : operational s = true) (h : 4194304 ≤ s.ftl.sinceCkpt) :
    Gives .checkpoint s (flashSettle (checkpoint s)) := by
  show execCheckpoint s = _
  rw [execCheckpoint, if_pos ⟨ho, h⟩]

/-- The marks and the follow-up work leave what the checkpoint made durable. -/
theorem onlyFollows_checkpoint :
    onlyFollows (setPair (checkpointed s) Reg.FTL_CKPT_SEQ_LO s.ftl.seq) (flashSettle (checkpoint s)) :=
  onlyFollows_slcRecycle.trans onlyFollows_flashSettle

end

/-- Settles O53: reclaim and wear levelling take the super-block they picked (`takeForReclaim_takes`); a relocation copies and
then looks at the map (`entryMoved`); what follow-up work leaves is said once (`onlyFollows_flashSettle`). -/
theorem translationLayer : Obligations.TranslationLayer := by
  unfold Obligations.TranslationLayer
  refine fun s ho => ⟨fun B h4 hv => ⟨fun hf hp => ?_, fun hp => ?_⟩,
    fun i r s1 n hr ht => ⟨fun e hm hadr h3 => ?_, fun hm => ?_⟩, fun hn hs => ?_⟩
  · exact (reclaim_effect ho hf hp).runs (takeForReclaim_takes h4 hv (isSome_of_reclaimPick hp) rfl)
  · exact (wearLevel_effect ho hp).runs (takeForReclaim_takes h4 hv (isSome_of_wearPick hp) rfl)
  · obtain ⟨hg, rfl⟩ := relocation_effect ho hr
    rw [relocate_moves ht rfl hm hadr h3] at hg
    obtain ⟨hnew, hother, hrest⟩ := relocate_effect rfl
    exact hg.runs ⟨hnew, fun j hj => (hother j hj).trans (mapGet_of_takeSlot ht), hrest⟩
  · obtain ⟨hg, rfl⟩ := relocation_effect ho hr
    rw [relocate_loses ht rfl hm] at hg
    obtain ⟨hmap, hrest, hlost⟩ := relocate_lost_effect rfl
    obtain ⟨hmap1, hlost1⟩ := takeSlot_leaves ht
    exact hg.runs ⟨hmap.trans hmap1, hrest, hlost.trans (by rw [hlost1])⟩
  · obtain ⟨hmap, hjournal, hckpt, hnext, hsince⟩ := onlyFollows_checkpoint (s := s) |>.map_and_records
    refine (checkpoint_effect ho hn).runs ⟨hmap, hsince, hnext, fun i => ?_, fun j => ?_⟩
    · rw [hckpt]
      exact aGet?_ckpt_checkpointed hs i
    · rw [hjournal]
      exact mem_journal_checkpointed j

end Sys2Proof.Machine

namespace Sys2Proof.Machine

/-! # Vendor commands with an envelope that are answered -/

section
variable {s u v : State} {c : Cmd} {opcode : Nat} {a b classOk : Bool} {o : Opened} {q : Req}
  {body : State → Req → State × Option Reply}

theorem SealedBegins.cmd (h : SealedBegins s c opcode a b classOk o u q) : q.c = c := by
  obtain ⟨_, -, hq, -⟩ := h
  exact (openEnvelope_cmd hq).1

theorem runSealed_answers {r : Reply} (h : SealedBegins s c opcode a b classOk o u q) (hb : body u q = (v, some r))
    (hr : neverWindow r.st = false) : runSealed c opcode a b classOk o body s = .next (answered v q r) :=
  (runSealed_begins h body).trans (congrArg _ (runBody_answered hb hr))

theorem runForm_answers {form : Nat} {r : Reply} (h : SealedBegins s c opcode a b classOk o u q) (hf : c.form = form)
    (hb : body u q = (v, some r)) (hr : neverWindow r.st = false) :
    runForm c form (runSealed c opcode a b classOk o body) s = .next (answered v q r) :=
  (runForm_same hf _ s).trans (runSealed_answers h hb hr)

end

/-- Past the checks that all pass, the first that fails gives its status. -/
theorem guards_fails {s : State} {l l' : List (Bool × Status)} {st : Status} (h : ∀ x ∈ l, x.1 = false)
    (k : Unit → State × Option Reply) : guards s (l ++ (true, st) :: l') k = fail s st := by
  induction l with
  | nil => rfl
  | cons a r ih =>
    obtain ⟨b, x⟩ := a
    obtain rfl : b = false := h (b, x) (by simp)
    exact ih fun y hy => h y (by simp [hy])

/-! # Objects in pages: where their bytes lie, what frees and zeroes them (R165, R434) -/

section
variable {s : State} {m : Mem} {pages l : List Nat} {p x y off n : Nat}

/-- The key of byte x of an object that lies in pages. -/
def cell (pages : List Nat) (x : Nat) : Nat := locPage (pages.getD (x / 65536) 0) + x % 65536

/-- Pages do not overlap. -/
theorem locPage_apart {p q : Nat} (h : p ≠ q) : locPage p + 65536 ≤ locPage q ∨ locPage q + 65536 ≤ locPage p := by
  unfold locPage locBase
  omega

theorem getD_page_ne (hn : pages.Nodup) (hx : x < pages.length) (hy : y < pages.length) (h : x ≠ y) :
    pages.getD x 0 ≠ pages.getD y 0 := by
  rw [List.getD_eq_getElem _ _ hx, List.getD_eq_getElem _ _ hy]
  exact fun he => h ((hn.getElem_inj_iff).mp he)

/-- A run of bytes within one page of an object meets the object's bytes of the run and no other. -/
theorem cell_run (hn : pages.Nodup) (hoff : off / 65536 < pages.length) (hx : x / 65536 < pages.length)
    (hr : off % 65536 + n ≤ 65536) :
    (cell pages off ≤ cell pages x ∧ cell pages x < cell pages off + n ↔ off ≤ x ∧ x < off + n) ∧
      (off ≤ x → x < off + n → cell pages x - cell pages off = x - off) := by
  unfold cell
  by_cases h : off / 65536 = x / 65536
  · rw [h]
    omega
  · have := locPage_apart (getD_page_ne hn hoff hx h)
    omega

theorem aGet?_freePages (s : State) (l : List Nat) (p : Nat) : aGet? (freePages s l).mem.pages p =
    (aGet? s.mem.pages p).map fun u => { u with live := u.live && decide (p ∉ l) } := by
  have fold (l : List Nat) (m : AMap PageUse) : aGet? (l.foldl (fun m p => aUpd m p fun u => { u with live := false }) m) p =
      (aGet? m p).map fun u => { u with live := u.live && decide (p ∉ l) } := by
    induction l generalizing m with
    | nil => simp
    | cons q l ih =>
      rw [List.foldl_cons, ih, aGet?_aUpd]
      by_cases hq : p = q <;> simp [hq, Function.comp_def]
  exact fold l s.mem.pages

/-- A page that was freed is not live. -/
theorem releasePages_frees {part : Nat} {z : PageUse} (hp : p ∈ l)
    (h : aGet? (releasePages s part l).mem.pages p = some z) : z.live = false := by
  have h : aGet? (freePages s l).mem.pages p = some z := h
  rw [aGet?_freePages, Option.map_eq_some_iff] at h
  obtain ⟨w, -, rfl⟩ := h
  simp [hp]

/-- Pages filled with zeros, one after the other. -/
def zeroPages (s : State) (l : List Nat) : State := l.foldl (fun s p => memZero s (locPage p) 65536) s

theorem memZero_leaves (s : State) (a n : Nat) : (memZero s a n).tables = s.tables ∧ (memZero s a n).parts = s.parts :=
  ⟨rfl, rfl⟩

theorem zeroPages_leaves (s : State) (l : List Nat) : (zeroPages s l).tables = s.tables ∧ (zeroPages s l).parts = s.parts := by
  refine foldl_keeps (fun t : State => t.tables = s.tables ∧ t.parts = s.parts) _ (fun t p h => ?_) l s ⟨rfl, rfl⟩
  obtain ⟨htab, hpart⟩ := memZero_leaves t (locPage p) 65536
  exact ⟨htab.trans h.1, hpart.trans h.2⟩

theorem bGet_memZero (s : State) (a n x : Nat) :
    bGet (memZero s a n).mem.bytes x = if a ≤ x ∧ x < a + n then 0 else bGet s.mem.bytes x := bGet_bZero ..

theorem zeroPages_zeroes (hp : p ∈ l) (hx : x < 65536) : bGet (zeroPages s l).mem.bytes (locPage p + x) = 0 := by
  have stays (s : State) (l : List Nat) (h : bGet s.mem.bytes (locPage p + x) = 0) :
      bGet (zeroPages s l).mem.bytes (locPage p + x) = 0 :=
    foldl_keeps (fun t => bGet t.mem.bytes (locPage p + x) = 0) _ (fun t y ht => by rw [bGet_memZero, ht, ite_self]) l s h
  induction l generalizing s with
  | nil => cases hp
  | cons y l ih =>
    rcases List.mem_cons.mp hp with rfl | hp
    · exact stays _ l (by rw [bGet_memZero, if_pos (by omega)])
    · exact ih hp

/-- Pages are given out alike whatever the tables are. -/
theorem allocPages_tables (s : State) (part n : Nat) (tables : AMap Table) : allocPages { s with tables } part n =
    (allocPages s part n).map fun x => ({ x.1 with tables }, x.2) := by
  have first (s : State) (ks : List Nat) : firstPage { s with tables } ks = firstPage s ks := by
    induction ks with
    | nil => rfl
    | cons k r ih => simp only [firstPage, ih]
  have takes (ks : List Nat) (n : Nat) (s : State) : takePages part ks n { s with tables } =
      (takePages part ks n s).map fun x => ({ x.1 with tables }, x.2) := by
    induction n generalizing s with
    | zero => rfl
    | succ n ih =>
      have htake (p : Nat) : takePage { s with tables } part p = { takePage s part p with tables } := rfl
      simp only [takePages, first, htake, ih]
      cases firstPage s ks with
      | none => rfl
      | some p => rcases hx : takePages part ks n (takePage s part p) with _ | ⟨t, l⟩ <;> simp [hx]
  have hfits : fits { s with tables } part 3 (n * 65536) = fits s part 3 (n * 65536) := rfl
  have hlive : liveStacks { s with tables } = liveStacks s := rfl
  unfold allocPages
  rw [hfits, hlive, takes]
  split
  · rcases takePages part (liveStacks s) n s with _ | ⟨t, l⟩ <;> rfl
  · rfl

end

end Sys2Proof.Machine

namespace Sys2Proof.Machine

/-! # Embedding tables: versions and their pages (R310, R318 to R320, R329) -/

section
variable {s : State} {t : Table} {b : Building} {k fuel off x : Nat} {l : List Byte}

/-- A version has a page for every byte of its rows. -/
theorem rows_in_pages (t : Table) : t.rows * t.stride ≤ 65536 * t.npages := by
  unfold Table.npages pagesFor
  omega

theorem tabKey_part {p h : Nat} (hh : h < 256) : tabKey p h / 256 = p := by
  unfold tabKey
  omega

/-! ## Bytes into the building version (R320) -/

theorem copyBuildPage_copied {pg : Nat} (ht : aGet? s.tables k = some t) (hb : t.building = some b) (hc : pg ∈ b.copied) :
    copyBuildPage s k pg = some s := by
  unfold copyBuildPage
  rw [ht]
  dsimp only
  rw [hb]
  exact if_pos (by simpa using hc)

/-- One page's share of a write into a building version whose page is its own. -/
theorem writeBuild_step (ht : aGet? s.tables k = some t) (hb : t.building = some b) (hc : off / 65536 ∈ b.copied)
    (hl : l ≠ []) : writeBuild k (fuel + 1) s off l =
      writeBuild k fuel (memWrite s (cell b.pages off) (l.take (65536 - off % 65536))) (off + (65536 - off % 65536))
        (l.drop (65536 - off % 65536)) := by
  rw [writeBuild, if_neg (by simpa using hl), copyBuildPage_copied ht hb hc]
  dsimp only
  rw [ht]
  dsimp only
  rw [hb]
  rfl

theorem tables_memWrite (s : State) (a : Nat) (l : List Byte) : (memWrite s a l).tables = s.tables := rfl

theorem poison_memWrite (a : Nat) (h : s.mem.poison = []) : (memWrite s a l).mem.poison = [] := by
  simp [memWrite, clearWhole, countWrite, h]

/-- A write within one page of an object: the object holds the bytes there, and elsewhere what it held. -/
theorem bGet_memWrite_cell {pages : List Nat} (hp : s.mem.poison = []) (hn : pages.Nodup) (hoff : off / 65536 < pages.length)
    (hx : x / 65536 < pages.length) (hr : off % 65536 + l.length ≤ 65536) :
    bGet (memWrite s (cell pages off) l).mem.bytes (cell pages x) =
      if off ≤ x ∧ x < off + l.length then l.getD (x - off) 0 else bGet s.mem.bytes (cell pages x) := by
  obtain ⟨-, -, hin, hout⟩ := memWrite_clean (v := s) (cell pages off) l hp 0
  obtain ⟨hiff, hdist⟩ := cell_run hn hoff hx hr
  split
  · rename_i h
    obtain ⟨h1, h2⟩ := hiff.mpr h
    have hat := hin (cell pages x - cell pages off) (by omega)
    rwa [Nat.add_sub_cancel' h1, hdist h.1 h.2] at hat
  · rename_i h
    exact hout _ fun hc => h (hiff.mp hc)

/-- A write in two runs, one behind the other, is one write. -/
theorem write_split (l : List Byte) (room off x : Nat) (old : Byte) :
    (if off + room ≤ x ∧ x < off + room + (l.drop room).length then (l.drop room).getD (x - (off + room)) 0
      else if off ≤ x ∧ x < off + (l.take room).length then (l.take room).getD (x - off) 0 else old) =
      if off ≤ x ∧ x < off + l.length then l.getD (x - off) 0 else old := by
  simp only [List.length_drop, List.length_take, List.getD_eq_getElem?_getD, List.getElem?_drop]
  by_cases hlt : x < off + room
  · rw [if_neg (by omega), List.getElem?_take]
    by_cases hin : off ≤ x ∧ x < off + l.length
    · rw [if_pos (by omega), if_pos (by omega), if_pos hin]
    · rw [if_neg (by omega), if_neg hin]
  · by_cases hin : x < off + l.length
    · rw [if_pos (by omega), if_pos (by omega), show room + (x - (off + room)) = x - off by omega]
    · rw [if_neg (by omega), if_neg (by omega), if_neg (by omega)]

/-- A building version has its pages, and has copied each of them (R320). -/
def ownPages (t : Table) (b : Building) : Prop := b.pages.length = t.npages ∧ b.pages.Nodup ∧ ∀ i, i < t.npages → i ∈ b.copied

/-- A building version whose pages are all its own holds the bytes written into it, and elsewhere what it held. -/
theorem writeBuild_writes (ht : aGet? s.tables k = some t) (hb : t.building = some b) (hp : s.mem.poison = [])
    (ho : ownPages t b) (hfit : off + l.length ≤ 65536 * t.npages) (hfuel : l = [] ∨ off % 65536 + l.length ≤ fuel * 65536) :
    ∃ v, writeBuild k fuel s off l = some v ∧ v.tables = s.tables ∧ ∀ x, x < 65536 * t.npages →
      bGet v.mem.bytes (cell b.pages x) =
        if off ≤ x ∧ x < off + l.length then l.getD (x - off) 0 else bGet s.mem.bytes (cell b.pages x) := by
  obtain ⟨hpages, hn, hc⟩ := ho
  induction fuel generalizing s off l with
  | zero =>
    have hl : l = [] := hfuel.elim id fun h => List.eq_nil_of_length_eq_zero (by omega)
    subst hl
    exact ⟨s, rfl, rfl, fun x _ => by simp⟩
  | succ fuel ih =>
    by_cases hl : l = []
    · subst hl
      exact ⟨s, by simp [writeBuild], rfl, fun x _ => by simp⟩
    have hpos : 0 < l.length := List.length_pos_of_ne_nil hl
    rw [writeBuild_step ht hb (hc _ (by omega)) hl]
    generalize hroom : 65536 - off % 65536 = room
    have hfuel' : l.drop room = [] ∨ (off + room) % 65536 + (l.drop room).length ≤ fuel * 65536 := by
      rw [List.length_drop]
      by_cases hle : l.length ≤ room
      · exact .inl (List.drop_eq_nil_of_le hle)
      · have := hfuel.resolve_left hl
        right
        omega
    have hfit' : off + room + (l.drop room).length ≤ 65536 * t.npages := by
      rw [List.length_drop]
      omega
    have htab := tables_memWrite s (cell b.pages off) (l.take room)
    obtain ⟨v, hv, htab', hbytes⟩ := ih (by rw [htab, ht]) (poison_memWrite (cell b.pages off) hp) hfit' hfuel'
    refine ⟨v, hv, htab'.trans htab, fun x hx => ?_⟩
    have htake : (l.take room).length = min room l.length := List.length_take
    rw [hbytes x hx, bGet_memWrite_cell hp hn (by omega) (by omega) (by omega), write_split]

/-! ## Pages that a table no longer uses (R318, R329) -/

theorem shrinkTable_get (s : State) (k : Nat) (t t' : Table) (i : Nat) :
    aGet? (shrinkTable s k t t').tables i = if i = k then some t' else aGet? s.tables i := aGet?_aPut ..

theorem shrinkTable_frees {t' : Table} {p : Nat} {z : PageUse} (hp : p ∈ t.allPages) (hn : p ∉ t'.allPages)
    (h : aGet? (shrinkTable s k t t').mem.pages p = some z) : z.live = false :=
  releasePages_frees (List.mem_dedup.mpr (List.mem_filter.mpr ⟨hp, by simpa using hn⟩)) h

/-! ## CREATE (R310, R329) -/

/-- A table's building version begins as zeros in pages given out for it. -/
def startZeros (s : State) (k : Nat) (job : Option Nat) (pages : List Nat) : State :=
  updTable (zeroPages s pages) k fun t => { t with building := some ⟨pages, List.range t.npages, job⟩ }

theorem startZeros_get (s : State) (k : Nat) (job : Option Nat) (pages : List Nat) (i : Nat) :
    aGet? (startZeros s k job pages).tables i = if i = k then
      (aGet? s.tables i).map fun t => { t with building := some ⟨pages, List.range t.npages, job⟩ } else aGet? s.tables i := by
  rw [startZeros, updTable, aGet?_aUpd, (zeroPages_leaves s pages).1]

/-- A table that has no epoch starts a building version of zeros. -/
theorem startBuilding_zeros {e : Nat} {job : Option Nat} {s1 : State} {pages : List Nat} (ht : aGet? s.tables k = some t)
    (hv : aGet? t.versions e = none) (ha : allocPages s (k / 256) t.npages = some (s1, pages)) :
    startBuilding s k e job = some (startZeros s1 k job pages) := by
  unfold startBuilding
  rw [ht]
  dsimp only
  rw [hv]
  dsimp only
  rw [ha]
  rfl

/-- The table that a descriptor describes, before it has a version (R310). -/
def describedTable (pay : List Byte) : Table :=
  ⟨leAt pay 0 4, leAt pay 4 2, leAt pay 6 1, leAt pay 8 2, 0, 1, [], none, [], [], 0⟩

/-- The rules of R310 on a descriptor. -/
def descriptorRules (pay : List Byte) : Prop := pay.length = 64 ∧ allZero pay 7 1 = true ∧ allZero pay 10 54 = true ∧
  leAt pay 0 4 ≠ 0 ∧ 16 ≤ leAt pay 4 2 ∧ leAt pay 4 2 ≤ 4096 ∧ leAt pay 4 2 % 16 = 0 ∧ leAt pay 6 1 ≤ 1 ∧
  leAt pay 8 2 ≤ 4096 ∧ leAt pay 8 2 % 64 = 0

/-- The lowest handle that names no table of a partition. -/
def lowestHandle (s : State) (p : Nat) : Option Nat := ((List.range 255).map (· + 1)).find? fun h => !aHas s.tables (tabKey p h)

theorem lowestHandle_lt {p h : Nat} (hh : lowestHandle s p = some h) : h < 256 := by
  have hm := List.mem_of_find?_eq_some hh
  simp only [List.mem_map, List.mem_range] at hm
  omega

variable {q : Req}

theorem createTable_eq {v : State} {h : Nat} (h11 : q.c.cdw11 = 0) (h13 : bitsOf q.c.cdw13.toNat 15 4 = 0)
    (hd : descriptorRules q.pay) (hu : unsealed s q.part = false) (hh : lowestHandle s q.part = some h)
    (hv : startBuilding { s with tables := aPut s.tables (tabKey q.part h) (describedTable q.pay) } (tabKey q.part h) 0 none =
      some v) :
    createTable s q = done v h := by
  obtain ⟨hlen, hz7, hz10, hrows, hlo, hhi, hdim, hfmt, hhot, hhot'⟩ := hd
  unfold describedTable at hv
  unfold lowestHandle at hh
  unfold createTable
  dsimp only
  rw [hh, guards_pass]
  · dsimp only [Option.getD_some]
    rw [hv]
  · simp [h11, h13, hlen, hz7, hz10, hrows, hdim, hhot', hu]
    omega

/-- CREATE makes the table that the descriptor describes, with a building version of zeros. -/
theorem createTable_makes {h : Nat} {s1 : State} {pages : List Nat} (h11 : q.c.cdw11 = 0)
    (h13 : bitsOf q.c.cdw13.toNat 15 4 = 0) (hd : descriptorRules q.pay) (hu : unsealed s q.part = false)
    (hh : lowestHandle s q.part = some h) (ha : allocPages s q.part (describedTable q.pay).npages = some (s1, pages)) :
    ∃ v, createTable s q = done v h ∧ v.parts = s1.parts ∧ aGet? v.tables (tabKey q.part h) = some { describedTable q.pay with
        building := some ⟨pages, List.range (describedTable q.pay).npages, none⟩ } ∧
      (∀ i, i ≠ tabKey q.part h → aGet? v.tables i = aGet? s.tables i) ∧
      ∀ p ∈ pages, ∀ i, i < 65536 → bGet v.mem.bytes (locPage p + i) = 0 := by
  generalize htab : aPut s.tables (tabKey q.part h) (describedTable q.pay) = tables
  have hget (i : Nat) : aGet? tables i = if i = tabKey q.part h then some (describedTable q.pay) else aGet? s.tables i := by
    rw [← htab, aGet?_aPut]
  have halloc : allocPages { s with tables } (tabKey q.part h / 256) (describedTable q.pay).npages =
      some ({ s1 with tables }, pages) := by
    rw [tabKey_part (lowestHandle_lt hh), allocPages_tables, ha]
    rfl
  have hstart := startBuilding_zeros (s := { s with tables }) (e := 0) (job := none) ((hget _).trans (if_pos rfl)) rfl halloc
  refine ⟨startZeros { s1 with tables } (tabKey q.part h) none pages,
    createTable_eq h11 h13 hd hu hh (by rw [htab]; exact hstart), (zeroPages_leaves { s1 with tables } pages).2, ?_,
    fun i hi => ?_, fun p hp i hi => zeroPages_zeroes hp hi⟩
  · rw [startZeros_get, if_pos rfl, hget, if_pos rfl]
    rfl
  · rw [startZeros_get, if_neg hi, hget, if_neg hi]

/-! ## LOAD (R320) -/

/-- A row of a version: its bytes one by one. -/
theorem tableRow_eq (m : Mem) (t : Table) (pages : List Nat) (r : Nat) :
    tableRow m t pages r = (List.range t.stride).map fun j => bGet m.bytes (cell pages (r * t.stride + j)) := rfl

/-- The rules of a LOAD: whole rows, within the table. -/
def loadRules (q : Req) (t : Table) : Prop := 16 ≤ q.pay.length ∧ allZero q.pay 12 4 = true ∧
  q.pay.length = 16 + leAt q.pay 8 4 * t.stride ∧ leAt q.pay 0 8 + leAt q.pay 8 4 ≤ t.rows

theorem loadTable_writes (ht : tableOf s q = some t) (hf : formFields q.c = true) (hu : unsealed s q.part = false)
    (hb : t.building = some b) (hj : b.job = none) (hl : loadRules q t) (hp : s.mem.poison = []) (ho : ownPages t b) :
    ∃ v, loadTable s q = done v (leAt q.pay 8 4) ∧ v.tables = s.tables ∧ ∀ i, i < leAt q.pay 8 4 →
      tableRow v.mem t b.pages (leAt q.pay 0 8 + i) = sub q.pay (16 + i * t.stride) t.stride := by
  obtain ⟨h16, hz, hlen, hrows⟩ := hl
  unfold loadTable
  dsimp only
  rw [guards_pass (by simp [ht, hf, hu, hz, h16]), ht]
  dsimp only
  rw [guards_pass (by simp [hb, hj, hlen, hrows]), hb]
  generalize leAt q.pay 0 8 = first at *
  generalize leAt q.pay 8 4 = n at *
  have hin := rows_in_pages t
  have hend : (first + n) * t.stride ≤ t.rows * t.stride := Nat.mul_le_mul_right _ hrows
  rw [Nat.add_mul] at hend
  have hdrop : (q.pay.drop 16).length = n * t.stride := by
    rw [List.length_drop]
    omega
  obtain ⟨v, hv, htab, hbytes⟩ := writeBuild_writes (fuel := t.npages + 2) (off := first * t.stride) (l := q.pay.drop 16)
    ht hb hp ho (by omega) (.inr (by omega))
  refine ⟨v, ?_, htab, fun i hi => ?_⟩
  · rw [if_pos Option.isSome_some]
    dsimp only
    rw [hv]
  · have hrow : (i + 1) * t.stride ≤ n * t.stride := Nat.mul_le_mul_right _ hi
    rw [Nat.succ_mul] at hrow
    rw [tableRow_eq, sub]
    refine List.map_congr_left fun j hj => ?_
    rw [List.mem_range] at hj
    rw [Nat.add_mul, hbytes _ (by omega), if_pos (by omega)]
    simp only [List.getD_eq_getElem?_getD, List.getElem?_drop]
    congr 2
    omega

/-! ## INSTALL, DELETE, DISCARD (R318, R319, R329) -/

/-- The epochs of a table that a batch pins. -/
def pinnedEpochs (t : Table) : AMap TabVersion := t.versions.filter fun v => !v.2.pins.isEmpty

/-- A table once its building version is the next epoch and the current one, and the epochs that no batch pins are gone. -/
def installedTable (t : Table) (b : Building) : Table :=
  { t with versions := aPut (pinnedEpochs t) t.nextEpoch ⟨b.pages, []⟩, current := t.nextEpoch, nextEpoch := t.nextEpoch + 1
           building := none }

theorem installTable_installs (ht : aGet? s.tables k = some t) (hb : t.building = some b) (hk : (pinnedEpochs t).length ≤ 3) :
    installTable s k = some (shrinkTable s k t (installedTable t b), t.nextEpoch) := by
  unfold installTable
  rw [ht]
  dsimp only
  rw [hb]
  exact if_neg (by unfold pinnedEpochs at hk; omega)

/-- A fifth epoch is refused. -/
theorem installTable_refuses (ht : aGet? s.tables k = some t) (hb : t.building = some b) (hk : 4 ≤ (pinnedEpochs t).length) :
    installTable s k = none := by
  unfold installTable
  rw [ht]
  dsimp only
  rw [hb]
  exact if_pos (by unfold pinnedEpochs at hk; omega)

theorem discardTable_eq (ht : aGet? s.tables k = some t) :
    discardTable s k = shrinkTable s k t { t with building := none } := by
  unfold discardTable
  rw [ht]

section
variable (ht : tableOf s q = some t) (hf : formFields q.c = true) (hu : unsealed s q.part = false) (hpay : q.pay = [])
include ht hf hu hpay

theorem tableChecks_pass : ∀ x ∈ tableChecks s q, x.1 = false := by
  simp [tableChecks, ht, hf, hu, hpay]

/-- The checks of INSTALL, DELETE and DISCARD: the shared ones pass, the last decides. -/
theorem tableChecks_decide {bad : Bool} {st : Status} (body : Unit → State × Option Reply) :
    guards s (tableChecks s q ++ [(bad, st)]) body = if bad then fail s st else body () := by
  have hpass := tableChecks_pass ht hf hu hpay
  cases bad
  · exact guards_pass (List.forall_mem_append.mpr ⟨hpass, by simp⟩) body
  · exact guards_fails hpass body

theorem installCmd_installs (hb : t.building = some b) (hj : b.job = none) : installCmd s q =
    if (pinnedEpochs t).length ≤ 3 then
      done (shrinkTable s (tabKey q.part q.c.handle) t (installedTable t b)) t.nextEpoch
    else fail (bump s Reg.TBL_EPOCH_REFUSED 1) stEpoch := by
  have hbuild : noBuilding s q = false := by simp [noBuilding, ht, hb, hj]
  unfold installCmd
  rw [tableChecks_decide ht hf hu hpay, if_neg (by simp [hbuild])]
  by_cases hk : (pinnedEpochs t).length ≤ 3
  · rw [installTable_installs ht hb hk, if_pos hk]
  · rw [installTable_refuses ht hb (by omega), if_neg hk]

/-- DELETE of a table that nothing pins. -/
theorem deleteCmd_deletes (hpins : ∀ v ∈ t.versions, v.2.pins = []) : ∃ v, deleteCmd s q = done v 0 ∧
      (∀ i, aGet? v.tables i = if i = tabKey q.part q.c.handle then none else aGet? s.tables i) ∧
      ∀ p ∈ t.allPages, ∀ x, aGet? v.mem.pages p = some x → x.live = false := by
  unfold deleteCmd
  dsimp only
  rw [tableChecks_decide ht hf hu hpay, if_neg (by simpa [ht] using hpins),
    show aGet? s.tables (tabKey q.part q.c.handle) = some t from ht]
  refine ⟨_, rfl, fun i => ?_, fun p hp x hx => shrinkTable_frees hp (by simp [Table.allPages]) hx⟩
  rw [aGet?_aDel, shrinkTable_get]
  split <;> rfl

theorem deleteCmd_pinned (hpins : ∃ v ∈ t.versions, v.2.pins ≠ []) : deleteCmd s q = fail s stSequence := by
  unfold deleteCmd
  dsimp only
  rw [tableChecks_decide ht hf hu hpay, if_pos (by simpa [ht] using hpins)]

theorem discardCmd_discards (hj : ∀ b, t.building = some b → b.job = none) : discardCmd s q =
      done (shrinkTable s (tabKey q.part q.c.handle) t { t with building := none }) 0 := by
  unfold discardCmd
  rw [tableChecks_decide ht hf hu hpay, if_neg, discardTable_eq ht]
  rw [ht, Option.any_some]
  cases hb : t.building with
  | none => simp
  | some b => simp [hj b hb]

end

end

end Sys2Proof.Machine

namespace Sys2Proof.Machine

/-! # VZ-LOOKUP (R330) -/

section
variable {s v : State} {t : Table} {q : Req} {opt n r i : Nat} {l : List Nat} {pages : List Nat}

/-- An answer (R381): 64 bytes of envelope, then the payload. It changes a session's count of answers at most. -/
theorem answer_envelops (s : State) (q : Req) (pay : List Byte) : ∃ v head info, answer s q pay = (v, head ++ pay, info) ∧
    head.length = 64 ∧ v = { s with parts := v.parts } := by
  unfold answer
  dsimp only
  cases q.session with
  | none => exact ⟨_, _, _, rfl, by simp [envMagic, zeros], rfl⟩
  | some n => exact ⟨_, _, _, rfl, by simp [envMagic, zeros], rfl⟩

theorem answerReply_envelops (s : State) (q : Req) (st : Status) (dw0 dw1 : Nat) (pay : List Byte) :
    ∃ v head info, answerReply s q st dw0 dw1 pay =
        (v, some ⟨st, BitVec.ofNat 32 dw0, BitVec.ofNat 32 dw1, head ++ pay, info⟩) ∧
      head.length = 64 ∧ v = { s with parts := v.parts } := by
  obtain ⟨v, head, info, he, hlen, hv⟩ := answer_envelops s q pay
  refine ⟨v, head, info, ?_, hlen, hv⟩
  unfold answerReply
  rw [he]

/-! ## Rows beyond the table are counted -/

theorem lookupPage_mod (s : State) : lookupPage s % 0x1000 = 0 := by
  unfold lookupPage
  split
  · rename_i i _
    have := gladePage_mod i
    omega
  · rfl

/-- The rows of a lookup beyond the table are counted, and the first is posted. -/
def noteBeyond (s : State) (q : Req) (rows : Nat) (l : List Nat) : State :=
  match (l.filter fun r => decide (rows ≤ r)).head? with
  | some r => bump (post s (lookupPage s) 0x0509 q.part q.c.handle r) Reg.TBL_OOR (l.filter fun r => decide (rows ≤ r)).length
  | none => s

theorem noteBeyond_counts (s : State) (q : Req) (rows : Nat) (l : List Nat) :
    (noteBeyond s q rows l).tables = s.tables ∧ (noteBeyond s q rows l).mem = s.mem ∧
      (regGet (noteBeyond s q rows l) Reg.TBL_OOR).toNat =
        min ((regGet s Reg.TBL_OOR).toNat + (l.filter fun r => decide (rows ≤ r)).length) 0xFFFFFFFF := by
  unfold noteBeyond
  split
  · refine ⟨rfl, rfl, ?_⟩
    rw [regGet_bump, regGet_of_calm (calmRegs_post (lookupPage_mod s)) (by decide)]
  · rename_i h
    have := (regGet s Reg.TBL_OOR).isLt
    refine ⟨rfl, rfl, ?_⟩
    rw [List.head?_eq_none_iff.mp h, List.length_nil]
    omega

/-! ## The rows answered -/

/-- What a lookup answers for a row: the row in the format asked for, filled up to the spacing; a row beyond the table as
zeros. -/
def lookupRow (m : Mem) (t : Table) (pages : List Nat) (opt r : Nat) : List Byte :=
  if r < t.rows then
    (let b := rowOut t.dim t.fmt opt (tableRow m t pages r); b ++ zeros (rowSpacing t.dim t.fmt opt - b.length))
  else zeros (rowSpacing t.dim t.fmt opt)

theorem length_tableRow (m : Mem) : (tableRow m t pages r).length = t.stride := by simp [tableRow_eq]

theorem length_rowOut_le (m : Mem) (t : Table) (pages : List Nat) (opt r : Nat) :
    (rowOut t.dim t.fmt opt (tableRow m t pages r)).length ≤ rowSpacing t.dim t.fmt opt := by
  rw [length_rowOut, length_tableRow, rowSpacing]
  split
  · exact le_refl _
  · rw [Nat.mul_comm]
    omega

theorem length_lookupRow (m : Mem) (t : Table) (pages : List Nat) (opt r : Nat) :
    (lookupRow m t pages opt r).length = rowSpacing t.dim t.fmt opt := by
  have hle := length_rowOut_le m t pages opt r
  unfold lookupRow
  split
  · simp only [List.length_append, zeros, List.length_replicate]
    omega
  · simp [zeros]

/-- The rows that a lookup asks for. -/
def askedRows (q : Req) : List Nat := (List.range (leAt q.pay 0 4)).map fun i => leAt q.pay (16 + 4 * i) 4

/-- The format that a lookup asks for. -/
def askedFormat (q : Req) : Nat := bitsOf q.c.cdw13.toNat 1 0

/-- The checks of a lookup before it reads a row. -/
def lookupRules (s : State) (q : Req) (t : Table) : Prop := q.c.cdw11 = 0 ∧ bitsOf q.c.cdw13.toNat 15 2 = 0 ∧
  1 ≤ leAt q.pay 0 4 ∧ leAt q.pay 0 4 ≤ 1048576 ∧ allZero q.pay 4 12 = true ∧ q.pay.length = 16 + 4 * leAt q.pay 0 4 ∧
  roomFor q (64 + leAt q.pay 0 4 * rowSpacing t.dim t.fmt (askedFormat q)) = true ∧ t.current ≠ 0 ∧ unsealed s q.part = false

/-- The pages of a table's current epoch. -/
def currentPages (t : Table) : List Nat := (aGetD t.versions t.current ⟨[], []⟩).pages

/-- A row of the table that a lookup asks for has a poisoned line. -/
def asksPoisoned (s : State) (q : Req) (t : Table) : Prop :=
  ∃ r ∈ askedRows q, r < t.rows ∧ pagesPoisoned s.mem (currentPages t) (r * t.stride) t.stride = true

theorem lookup_poisoned (ht : tableOf s q = some t) (hr : lookupRules s q t) (hp : asksPoisoned s q t) :
    lookup s q = fail s stPoisoned := by
  obtain ⟨h11, h13, h1, hn, hz, hlen, hroom, hcur, hu⟩ := hr
  obtain ⟨r, hm, hlt, hpois⟩ := hp
  unfold askedFormat at hroom
  unfold lookup
  dsimp only
  rw [guards_pass (by simp [h11, h13, hn, hz, hlen, hu, ht]; omega), ht]
  dsimp only
  rw [guards_pass (by simp [hroom, hcur])]
  exact if_pos (List.any_eq_true.mpr ⟨r, mem_distinct.mpr (List.mem_filter.mpr ⟨hm, by simpa using hlt⟩), hpois⟩)

theorem lookup_answers (ht : tableOf s q = some t) (hr : lookupRules s q t) (hp : ¬asksPoisoned s q t) :
    ∃ nans, lookup s q =
      answerReply (bump (noteBeyond s q t.rows (askedRows q)) Reg.TBL_NAN nans) q stSuccess (leAt q.pay 0 4) 0
        (lookupHead (leAt q.pay 0 4) t.current ((askedRows q).filter fun r => decide (t.rows ≤ r)).length ++
          (askedRows q).flatMap (lookupRow s.mem t (currentPages t) (askedFormat q))) := by
  obtain ⟨h11, h13, h1, hn, hz, hlen, hroom, hcur, hu⟩ := hr
  unfold asksPoisoned askedRows currentPages at hp
  unfold askedFormat at hroom ⊢
  unfold lookup noteBeyond askedRows currentPages
  dsimp only
  rw [guards_pass (by simp [h11, h13, hn, hz, hlen, hu, ht]; omega), ht]
  dsimp only
  rw [guards_pass (by simp [hroom, hcur])]
  generalize (List.range _).map _ = l at hp ⊢
  generalize (aGetD t.versions t.current _).pages = pages at hp ⊢
  generalize bitsOf q.c.cdw13.toNat 1 0 = opt
  rw [if_neg ?_]
  · rw [List.flatMap_congr (l := l) (g := lookupRow s.mem t pages opt) fun r hm => ?_]
    · exact ⟨_, rfl⟩
    · rw [List.map_map, show ((fun r : Nat × List Byte => (r.1, rowOut t.dim t.fmt opt r.2)) ∘
          fun r => (r, tableRow s.mem t pages r)) = fun r => (r, rowOut t.dim t.fmt opt (tableRow s.mem t pages r)) from rfl,
        aGet?_graph, lookupRow]
      have hin : r ∈ (l.filter fun r => decide (r < t.rows)).foldr insertNat [] ↔ r < t.rows := by
        rw [← distinct, mem_distinct, List.mem_filter, decide_eq_true_eq, and_iff_right hm]
      by_cases hlt : r < t.rows <;> simp only [hin, hlt, if_true, if_false]
  · rw [List.any_eq_true]
    rintro ⟨r, hm, hpois⟩
    obtain ⟨hm, hlt⟩ := List.mem_filter.mp (mem_distinct.mp hm)
    exact hp ⟨r, hm, by simpa using hlt, hpois⟩

/-- A lookup answers its rows in order, counts those beyond the table, and changes nothing of tables or memory. -/
theorem lookup_effect (ht : tableOf s q = some t) (hr : lookupRules s q t) (hp : ¬asksPoisoned s q t) :
    ∃ v r, lookup s q = (v, some r) ∧ r.st = stSuccess ∧ r.dw0 = BitVec.ofNat 32 (leAt q.pay 0 4) ∧ v.tables = s.tables ∧
      v.mem = s.mem ∧ (regGet v Reg.TBL_OOR).toNat =
        min ((regGet s Reg.TBL_OOR).toNat + ((askedRows q).filter fun r => decide (t.rows ≤ r)).length) 0xFFFFFFFF ∧
      ∀ i, i < leAt q.pay 0 4 → sub r.data (128 + i * rowSpacing t.dim t.fmt (askedFormat q))
          (rowSpacing t.dim t.fmt (askedFormat q)) =
        lookupRow s.mem t (currentPages t) (askedFormat q) (leAt q.pay (16 + 4 * i) 4) := by
  obtain ⟨nans, he⟩ := lookup_answers ht hr hp
  obtain ⟨htab, hmem, hcount⟩ := noteBeyond_counts s q t.rows (askedRows q)
  generalize noteBeyond s q t.rows (askedRows q) = u at he htab hmem hcount
  generalize hhead : lookupHead _ _ _ = head at he
  have hhead64 : head.length = 64 := by rw [← hhead]; simp [lookupHead, zeros]
  obtain ⟨v, env, info, ha, henv, hv⟩ := answerReply_envelops (bump u Reg.TBL_NAN nans) q stSuccess (leAt q.pay 0 4) 0
    (head ++ (askedRows q).flatMap (lookupRow s.mem t (currentPages t) (askedFormat q)))
  refine ⟨v, _, he.trans ha, rfl, rfl, ?_, ?_, ?_, fun i hi => ?_⟩
  · exact (congrArg State.tables hv).trans htab
  · exact (congrArg State.mem hv).trans hmem
  · rw [hv, ← hcount]
    exact congrArg BitVec.toNat (regGet_bump_ne (by decide))
  · have hpre : (env ++ head).length = 128 := by rw [List.length_append, henv, hhead64]
    have hrow : (askedRows q)[i]? = some (leAt q.pay (16 + 4 * i) 4) := by simp [askedRows, hi]
    rw [← List.append_assoc, ← hpre, sub_append_right, sub_flatMap (fun r _ => length_lookupRow ..) hrow]

end

/-- Settles O47: what each command does to a table is said once (`createTable_makes`, `loadTable_writes`, `installCmd_installs`,
`deleteCmd_deletes`, `discardCmd_discards`, `lookup_effect`); a write into the building version goes page by page
(`writeBuild_writes`). -/
theorem embeddingTables : Obligations.EmbeddingTables := by
  unfold Obligations.EmbeddingTables
  refine fun s u c o q => ⟨fun hb hu => ?_, fun hb hu t0 ht => ?_⟩
  · obtain rfl := hb.cmd
    refine ⟨?_, fun t0 ht hf => ⟨?_, ?_, ?_, ?_⟩⟩
    · intro h s1 l hform h11 h13 hlen hz7 hz10 hrows hlo hhi hdim hfmt hhot hhot' hh _ ha
      obtain ⟨v, hv, heff⟩ := createTable_makes h11 h13 ⟨hlen, hz7, hz10, hrows, hlo, hhi, hdim, hfmt, hhot, hhot'⟩ hu hh ha
      exact ⟨_, runForm_answers hb hform hv rfl, v, rfl, heff⟩
    · intro b hform hbuild hj h16 hz hlen hrows hp hpages hn hc
      obtain ⟨v, hv, heff⟩ := loadTable_writes ht hf hu hbuild hj ⟨h16, hz, hlen, hrows⟩ hp ⟨hpages, hn, hc⟩
      exact ⟨_, runForm_answers hb hform hv rfl, v, rfl, heff⟩
    · intro b hform hpay hbuild hj
      have he := installCmd_installs ht hf hu hpay hbuild hj
      refine ⟨fun hk => ?_, fun hk => runForm_answers hb hform (he.trans (if_neg (Nat.not_le.mpr hk))) rfl⟩
      refine ⟨_, runForm_answers hb hform (he.trans (if_pos hk)) rfl, _, installedTable t0 b, rfl, ?_, rfl, ?_,
        fun e hne => ?_, rfl⟩
      · exact (shrinkTable_get ..).trans (if_pos rfl)
      · exact (aGet?_aPut ..).trans (if_pos rfl)
      · exact (aGet?_aPut ..).trans (if_neg hne)
    · intro hform hpay
      refine ⟨fun hpins => ?_, fun hpins => runForm_answers hb hform (deleteCmd_pinned ht hf hu hpay hpins) rfl⟩
      obtain ⟨v, hv, hget, hfree⟩ := deleteCmd_deletes ht hf hu hpay hpins
      exact ⟨_, runForm_answers hb hform hv rfl, v, rfl, (hget _).trans (if_pos rfl),
        fun i hi => (hget i).trans (if_neg hi), hfree⟩
    · intro hform hpay hj
      exact ⟨_, runForm_answers hb hform (discardCmd_discards ht hf hu hpay hj) rfl, _, rfl,
        (shrinkTable_get ..).trans (if_pos rfl), fun i hi => (shrinkTable_get ..).trans (if_neg hi)⟩
  · obtain rfl := hb.cmd
    intro opt n sp pages row h11 h13 h1 hn hz hlen hroom hcur
    have hr : lookupRules u q t0 := ⟨h11, h13, h1, hn, hz, hlen, hroom, hcur, hu⟩
    refine ⟨fun ⟨i, hi, hlt, hp⟩ => ?_, fun hclean => ?_⟩
    · have hp : asksPoisoned u q t0 := ⟨row i, List.mem_map_of_mem (List.mem_range.mpr hi), hlt, hp⟩
      exact runSealed_answers hb (lookup_poisoned ht hr hp) rfl
    · have hp : ¬asksPoisoned u q t0 := by
        rintro ⟨r, hm, hlt, hp⟩
        obtain ⟨i, hi, rfl⟩ := List.mem_map.mp hm
        exact Bool.false_ne_true ((hclean i (List.mem_range.mp hi) hlt).symm.trans hp)
      obtain ⟨v, r, he, hst, hdw, htab, hmem, hoor, hdata⟩ := lookup_effect ht hr hp
      refine ⟨_, runSealed_answers hb he (by rw [hst]; rfl), v, r, rfl, hst, hdw, htab, hmem, ?_, hdata⟩
      rw [hoor, askedRows, List.filter_map, List.length_map]
      rfl

end Sys2Proof.Machine

namespace Sys2Proof.Machine

/-! # The lowest free number of a map -/

section
variable {α : Type} {m : AMap α} {k i fuel : Nat}

/-- A search for a free number that ends on a listed one has passed listed ones only. -/
theorem aHas_passed (h : aHas m (aLowestFree m fuel k) = true) (hk : k ≤ i) (hi : i < k + fuel) : aHas m i = true := by
  induction fuel generalizing k with
  | zero => omega
  | succ fuel ih =>
    unfold aLowestFree at h
    by_cases hh : aHas m k = true
    · rw [if_pos hh] at h
      obtain rfl | hlt := Nat.eq_or_lt_of_le hk
      · exact hh
      · exact ih h hlt (by omega)
    · rw [if_neg hh] at h
      exact absurd h hh

theorem mem_keys_of_aHas (h : aHas m i = true) : i ∈ m.map Prod.fst := by
  by_contra hn
  have := aGet?_none m i fun e he hi => hn (List.mem_map.mpr ⟨e, he, hi⟩)
  simp [aHas, this] at h

/-- Of one number more than the map has entries, one is free. -/
theorem aGet?_aLowestFree : aGet? m (aLowestFree m (m.length + 1) k) = none := by
  by_contra hn
  have hall : aHas m (aLowestFree m (m.length + 1) k) = true := Option.isSome_iff_ne_none.mpr hn
  have hsub : List.range' k (m.length + 1) ⊆ m.map Prod.fst := fun i hi => by
    rw [List.mem_range'_1] at hi
    exact mem_keys_of_aHas (aHas_passed hall hi.1 hi.2)
  have hlen := (List.subperm_of_subset (List.nodup_range' (step := 1)) hsub).length_le
  simp at hlen

theorem freeAdapter_free {s : State} (h : freeAdapter s = some k) : aGet? s.adapters k = none := by
  unfold freeAdapter at h
  dsimp only at h
  split at h
  · cases h
    exact aGet?_aLowestFree
  · cases h

end

/-! # Lists of bytes put together of pieces of several lengths -/

section
variable {f : Nat → List Byte} {len : Nat → Nat} {l l' : List Byte} {n t off i j : Nat}

theorem length_zeros : (zeros n).length = n := List.length_replicate

theorem sub_whole (h : l.length = n) : sub l 0 n = l := h ▸ sub_all

theorem sub_add : sub l off (i + j) = sub l off i ++ sub l (off + i) j := by
  simp [sub, List.range_add, Nat.add_assoc]

theorem length_flatMap_range (h : ∀ i, (f i).length = len i) :
    ((List.range n).flatMap f).length = ((List.range n).map len).sum := by
  rw [List.length_flatMap, List.map_congr_left fun i _ => h i]

theorem sub_append_at (h : off = l.length + i) : sub (l ++ l') off n = sub l' i n := by rw [h, sub_append_right]

/-- A piece, or its beginning, is found behind the pieces before it. -/
theorem sub_flatMap_range (h : ∀ i, (f i).length = len i) (ht : t < n) (hi : i ≤ len t) :
    sub ((List.range n).flatMap f ++ l) (((List.range t).map len).sum) i = sub (f t) 0 i := by
  obtain ⟨k, rfl⟩ := Nat.exists_eq_add_of_lt ht
  rw [Nat.add_assoc, List.range_add, List.flatMap_append, List.append_assoc,
    sub_append_at (i := 0) (length_flatMap_range h).symm, List.range_succ_eq_map, List.map_cons, List.flatMap_cons,
    Nat.add_zero, List.append_assoc, sub_append_left (by rw [h]; omega)]

/-- A list cut into pieces and put together again. -/
theorem flatMap_sub : (List.range n).flatMap (fun t => sub l (((List.range t).map len).sum) (len t)) =
    sub l 0 (((List.range n).map len).sum) := by
  induction n with
  | zero => rfl
  | succ n ih =>
    rw [List.range_succ, List.flatMap_append, ih, List.map_append, List.sum_append, sub_add]
    simp

end

/-! # Objects in pages: bytes written are read back -/

section
variable {s : State} {pages : List Nat} {fuel off k n x : Nat} {l : List Byte}

theorem pagesWriteAux_step (hl : l ≠ []) : pagesWriteAux pages (fuel + 1) s off l =
    pagesWriteAux pages fuel (memWrite s (cell pages off) (l.take (65536 - off % 65536))) (off + (65536 - off % 65536))
      (l.drop (65536 - off % 65536)) := by
  rw [pagesWriteAux, if_neg (by simpa using hl)]
  rfl

theorem pagesWriteAux_nil : pagesWriteAux pages fuel s off [] = s := by cases fuel <;> rfl

/-- The object holds the bytes written into it, and elsewhere what it held. -/
theorem bGet_pagesWriteAux (hp : s.mem.poison = []) (hn : pages.Nodup) (hfit : off + l.length ≤ 65536 * pages.length)
    (hfuel : l = [] ∨ off % 65536 + l.length ≤ fuel * 65536) (hx : x < 65536 * pages.length) :
    bGet (pagesWriteAux pages fuel s off l).mem.bytes (cell pages x) =
      if off ≤ x ∧ x < off + l.length then l.getD (x - off) 0 else bGet s.mem.bytes (cell pages x) := by
  induction fuel generalizing s off l with
  | zero =>
    obtain rfl : l = [] := hfuel.elim id fun h => List.eq_nil_of_length_eq_zero (by omega)
    rw [pagesWriteAux_nil, if_neg (by rw [List.length_nil]; omega)]
  | succ fuel ih =>
    by_cases hl : l = []
    · subst hl
      rw [pagesWriteAux_nil, if_neg (by rw [List.length_nil]; omega)]
    have hpos : 0 < l.length := List.length_pos_of_ne_nil hl
    rw [pagesWriteAux_step hl]
    generalize hroom : 65536 - off % 65536 = room
    have hdrop : (l.drop room).length = l.length - room := List.length_drop
    have htake : (l.take room).length = min room l.length := List.length_take
    have hfuel' : l.drop room = [] ∨ (off + room) % 65536 + (l.drop room).length ≤ fuel * 65536 := by
      by_cases hle : l.length ≤ room
      · exact .inl (List.drop_eq_nil_of_le hle)
      · have := hfuel.resolve_left hl
        right
        omega
    by_cases hle : l.length ≤ room
    · rw [List.drop_eq_nil_of_le hle, pagesWriteAux_nil, List.take_of_length_le hle,
        bGet_memWrite_cell hp hn (by omega) (by omega) (by omega)]
    · rw [ih (poison_memWrite (cell pages off) hp) (by omega) hfuel',
        bGet_memWrite_cell hp hn (by omega) (by omega) (by omega), write_split]

theorem pagesRead_eq (m : Mem) : pagesRead m pages off n = (List.range n).map fun i => bGet m.bytes (cell pages (off + i)) := rfl

/-- A part of what was written is read back. -/
theorem pagesRead_pagesWrite (hp : s.mem.poison = []) (hn : pages.Nodup) (hfit : off + l.length ≤ 65536 * pages.length)
    (hk : k + n ≤ l.length) : pagesRead (pagesWrite s pages off l).mem pages (off + k) n = sub l k n := by
  rw [pagesRead_eq, sub]
  refine List.map_congr_left fun i hi => ?_
  rw [List.mem_range] at hi
  rw [pagesWrite, bGet_pagesWriteAux hp hn hfit (.inr (by omega)) (by omega), if_pos (by omega)]
  congr 1
  omega

end

/-! # What operations on memory leave unchanged -/

section
variable {s t : State} {a n k p q : Nat} {l : List Byte} {pages : List Nat}

/-- The state apart from memory, registers and the count of free choices. -/
def besideMemory (s : State) : State := { s with mem := Mem.empty, regs := [], fresh := 0 }

theorem besideMemory_foldl {β : Type} {g : State → β → State} (hg : ∀ s x, besideMemory (g s x) = besideMemory s) (l : List β)
    (s : State) : besideMemory (l.foldl g s) = besideMemory s :=
  foldl_keeps (fun t => besideMemory t = besideMemory s) g (fun _ x h => (hg _ x).trans h) l s rfl

theorem besideMemory_memWrite : besideMemory (memWrite s a l) = besideMemory s := rfl

theorem besideMemory_memZero : besideMemory (memZero s a n) = besideMemory s := rfl

theorem besideMemory_takePage : besideMemory (takePage s p q) = besideMemory s := rfl

theorem besideMemory_scramble : besideMemory (scramble s a n) = besideMemory s := by
  unfold scramble
  split <;> rfl

theorem besideMemory_pagesWrite : besideMemory (pagesWrite s pages a l) = besideMemory s := by
  unfold pagesWrite
  induction pages.length + 1 generalizing s a l with
  | zero => rfl
  | succ fuel ih =>
    by_cases hl : l = []
    · rw [hl, pagesWriteAux_nil]
    · rw [pagesWriteAux_step hl]
      exact ih.trans besideMemory_memWrite

/-- Pages whose content is not defined. -/
def scramblePages (s : State) (pages : List Nat) : State := pages.foldl (fun s p => scramble s (locPage p) 65536) s

theorem besideMemory_scramblePages : besideMemory (scramblePages s pages) = besideMemory s :=
  besideMemory_foldl (fun _ _ => besideMemory_scramble) _ _

theorem besideMemory_zeroPages : besideMemory (zeroPages s pages) = besideMemory s :=
  besideMemory_foldl (fun _ _ => besideMemory_memZero) _ _

theorem besideMemory_takePages {ks : List Nat} (h : takePages p ks n s = some (t, pages)) : besideMemory t = besideMemory s := by
  induction n generalizing s t pages with
  | zero =>
    cases h
    rfl
  | succ n ih =>
    unfold takePages at h
    split at h
    · cases h
    · split at h
      · cases h
      · cases h
        exact (ih ‹_›).trans besideMemory_takePage

/-- What of the state lies beside memory, by field. -/
theorem fields_of_besideMemory (h : besideMemory t = besideMemory s) : t.parts = s.parts ∧ t.life = s.life ∧ t.ftl = s.ftl ∧
    t.adapters = s.adapters ∧ t.evictions = s.evictions ∧ t.rowsets = s.rowsets :=
  ⟨(congrArg State.parts h :), (congrArg State.life h :), (congrArg State.ftl h :), (congrArg State.adapters h :),
    (congrArg State.evictions h :), (congrArg State.rowsets h :)⟩

/-- An allocation changes memory, registers and the charge. -/
theorem allocPages_leaves (h : allocPages s p n = some (t, pages)) : t.life = s.life ∧ t.ftl = s.ftl ∧
    t.adapters = s.adapters ∧ t.rowsets = s.rowsets := by
  unfold allocPages at h
  split at h
  · split at h
    · cases h
      obtain ⟨-, hlife, hftl, hadapters, -, hrowsets⟩ := fields_of_besideMemory (besideMemory_takePages ‹_›)
      exact ⟨hlife, hftl, hadapters, hrowsets⟩
    · cases h
  · cases h

end

/-! # What completions, messages and the write buffer leave unchanged -/

section
variable {s t : State} {p q n k ch u i idx kind stream : Nat} {r : Reply}

/-- The state apart from registers, the host interface, the partitions, the translation layer and the forest links. -/
def besideFlow (s : State) : State :=
  { s with regs := [], host := State.reset.host, parts := [], ftl := State.reset.ftl, forest := State.reset.forest }

/-- What of the state lies beside that, by field. -/
theorem fields_of_besideFlow (h : besideFlow t = besideFlow s) : t.mem = s.mem ∧ t.adapters = s.adapters ∧
    t.evictions = s.evictions := ⟨(congrArg State.mem h :), (congrArg State.adapters h :), (congrArg State.evictions h :)⟩

theorem besideFlow_foldl {β : Type} {g : State → β → State} (hg : ∀ s x, besideFlow (g s x) = besideFlow s) (l : List β)
    (s : State) : besideFlow (l.foldl g s) = besideFlow s :=
  foldl_keeps (fun t => besideFlow t = besideFlow s) g (fun _ x h => (hg _ x).trans h) l s rfl

theorem besideFlow_ite (c : Prop) [Decidable c] (s t : State) :
    besideFlow (if c then s else t) = if c then besideFlow s else besideFlow t := apply_ite ..

theorem besideFlow_queueMsgs : besideFlow (queueMsgs s) = besideFlow s := by
  refine besideFlow_foldl (fun t m => ?_) _ _
  split
  · rfl
  · split <;> rfl

theorem besideFlow_updAssoc {f : Assoc → Assoc} : besideFlow (updAssoc s p q f) = besideFlow s := rfl

theorem besideFlow_sendNumbered {f : SentFrame} : besideFlow (sendNumbered s p q f) = besideFlow s := rfl

theorem besideFlow_nextEpoch : besideFlow (nextEpoch s p q) = besideFlow s := by
  unfold nextEpoch
  split
  · rfl
  · split <;> rfl

theorem besideFlow_transmit : besideFlow (transmit p q n s) = besideFlow s := by
  induction n generalizing s with
  | zero => rfl
  | succ n ih =>
    have hnext : besideFlow (nextEpoch s p q) = besideFlow s := besideFlow_nextEpoch
    unfold transmit
    dsimp only
    split
    · exact hnext
    · split
      · exact hnext
      · split
        · exact hnext
        · rw [ih, besideFlow_sendNumbered, besideFlow_updAssoc, hnext]

theorem besideFlow_sendMsg {bytes : List Byte} {delta : Option Nat} :
    besideFlow (sendMsg s p ch bytes delta) = besideFlow s := by
  rw [sendMsg, pump, besideFlow_foldl fun _ _ => besideFlow_transmit, besideFlow_queueMsgs]
  rfl

theorem besideFlow_sendDelta {d : Delta} : besideFlow (sendDelta s d) = besideFlow s := besideFlow_sendMsg

theorem besideFlow_markStale : besideFlow (markStale s k) = besideFlow s := rfl

theorem besideFlow_noteContent {ident : Nat} {v : UnitVal} : besideFlow (noteContent s p u idx ident v) = besideFlow s := by
  unfold noteContent
  split
  · unfold noteChange
    split
    · rfl
    · split
      · rfl
      · split
        · rfl
        · dsimp only
          rw [besideFlow_ite, besideFlow_markStale, besideFlow_foldl, ite_self]
          exact fun _ _ => besideFlow_sendDelta
  · unfold noteStale
    split
    · rfl
    · split
      · rfl
      · rw [besideFlow_ite, besideFlow_markStale, ite_self]

theorem besideFlow_completeAt : besideFlow (completeAt s p q r) = besideFlow s := rfl

theorem besideFlow_settle : besideFlow (settle s) = besideFlow s := by
  unfold settle ackDeltas
  dsimp only
  rw [besideFlow_foldl fun _ _ => besideFlow_sendMsg]
  exact (besideFlow_foldl (fun _ _ => besideFlow_completeAt) _ _).trans rfl

theorem besideFlow_toldZeros : besideFlow (toldZeros s p u i) = besideFlow s := by
  unfold toldZeros
  split
  · rfl
  · exact besideFlow_noteContent

theorem besideFlow_dropUnit : besideFlow (dropUnit s i) = besideFlow s := by
  unfold dropUnit
  dsimp only
  split <;> rfl

theorem besideFlow_enterUnit {v : UnitVal} : besideFlow (enterUnit s p u idx kind stream v).1 = besideFlow s := by
  have h : besideFlow (takeSlot s stream).1 = besideFlow s := by
    obtain ⟨e, -⟩ := onlySlots_takeSlot (s := s) stream
    rw [e]
    rfl
  exact h

theorem besideFlow_whenDurable {c : Cmd} {l : List Nat} : besideFlow (whenDurable s c l r).1 = besideFlow s := by
  unfold whenDurable
  split <;> rfl

theorem besideFlow_runBody {x : Req} {body : State → Req → State × Option Reply} :
    besideFlow (runBody s x body) = besideFlow (body s x).1 := by
  unfold runBody
  rcases body s x with ⟨v, _ | r⟩
  · rfl
  · dsimp only
    split <;> split <;> rfl

end

end Sys2Proof.Machine

namespace Sys2Proof.Machine

/-! # Adapter images (R333, R334) -/

section
variable {s : State} {a : Adapter} {pay desc sites : List Byte} {t n k : Nat} {l : List Nat}

/-- Bytes of the masters of one site. -/
def mastersOf (a : Adapter) (t : Nat) : Nat := 4 * (matLen a.desc a.sites t 0 + matLen a.desc a.sites t 1)

theorem siteBytes_eq (a : Adapter) (t : Nat) : siteBytes a.desc a.sites t = mastersOf a t + 2 * mastersOf a t := by
  unfold siteBytes mastersOf matLen
  rw [if_pos rfl, if_neg (by decide), ← Nat.mul_add]
  ring

theorem siteImage_eq (a : Adapter) (pay : List Byte) (t : Nat) :
    siteImage a pay t = sub pay (mastersAt a t) (mastersOf a t) ++ zeros (2 * mastersOf a t) := rfl

theorem length_siteImage (a : Adapter) (pay : List Byte) (t : Nat) : (siteImage a pay t).length = siteBytes a.desc a.sites t := by
  rw [siteImage_eq, List.length_append, length_sub, length_zeros, siteBytes_eq]

theorem length_imageHead (desc sites : List Byte) : (imageHead desc sites).length = 4096 := by
  simp only [imageHead, List.length_append, length_sub, length_toLe, length_zeros]

/-- The image that LOAD writes: the head, no scale records, the sites, the rest of its last page. -/
def loadedImage (a : Adapter) (pay : List Byte) : List Byte :=
  let body := (List.range (descSites a.desc)).flatMap (siteImage a pay)
  imageHead a.desc a.sites ++ zeros (0x20000 - 4096) ++ body ++ zeros (a.size - 0x20000 - body.length)

theorem loadMasters_eq : loadMasters s a l pay = pagesWrite s l 0 (loadedImage a pay) := rfl

theorem length_sites (a : Adapter) (pay : List Byte) : ((List.range (descSites a.desc)).flatMap (siteImage a pay)).length =
    ((List.range (descSites a.desc)).map (siteBytes a.desc a.sites)).sum := length_flatMap_range (length_siteImage a pay)

theorem imageSize_mod (desc sites : List Byte) : imageSize desc sites % 65536 = 0 := Nat.mul_mod_left ..

theorem sites_in_image (desc sites : List Byte) :
    0x20000 + ((List.range (descSites desc)).map (siteBytes desc sites)).sum ≤ imageSize desc sites := by
  unfold imageSize siteBase
  omega

theorem length_loadedImage (hs : a.size = imageSize a.desc a.sites) : (loadedImage a pay).length = a.size := by
  have hin := sites_in_image a.desc a.sites
  have hbody := length_sites a pay
  unfold loadedImage
  simp only [List.length_append, length_imageHead, length_zeros, hbody]
  omega

theorem stepCount_loadedImage : leNat (sub (loadedImage a pay) 0x240 8) = 0 := by
  have hpre : (sub a.desc 0 64 ++ sub a.sites 0 512).length = 0x240 := by rw [List.length_append, length_sub, length_sub]
  unfold loadedImage imageHead
  simp only [List.append_assoc]
  rw [← List.append_assoc (sub a.desc 0 64), sub_append_at (i := 0) (by rw [hpre]), sub_append_left (by rw [length_toLe]),
    sub_whole (length_toLe ..),
    toLe_zero, leNat_zeros]

/-- The masters of a site lie at their place in the image. -/
theorem masters_loadedImage (ht : t < descSites a.desc) :
    sub (loadedImage a pay) (siteBase a.desc a.sites t) (mastersOf a t) = sub pay (mastersAt a t) (mastersOf a t) := by
  have hpre : (imageHead a.desc a.sites ++ zeros (0x20000 - 4096)).length = 0x20000 := by
    rw [List.length_append, length_imageHead, length_zeros]
  have hsite := siteBytes_eq a t
  unfold loadedImage
  dsimp only
  rw [List.append_assoc _ (List.flatMap ..), sub_append_at (i := _) (by rw [hpre]; rfl),
    sub_flatMap_range (length_siteImage a pay) ht (by omega), siteImage_eq, sub_append_left (by rw [length_sub]; omega),
    sub_whole length_sub]

/-- Where masters end, the image has not. -/
theorem masters_in_image (hs : a.size = imageSize a.desc a.sites) (ht : t < descSites a.desc) :
    siteBase a.desc a.sites t + mastersOf a t ≤ a.size := by
  have hin := sites_in_image a.desc a.sites
  have hsite := siteBytes_eq a t
  obtain ⟨k, hk⟩ := Nat.exists_eq_add_of_lt ht
  rw [hk, Nat.add_assoc, List.range_add, List.map_append, List.sum_append, List.range_succ_eq_map, List.map_cons, List.map_cons,
    List.sum_cons, Nat.add_zero] at hin
  unfold siteBase
  omega

variable (hs : a.size = imageSize a.desc a.sites) (hpages : a.pages = some l) (hn : l.Nodup)
  (hl : l.length = a.size / 65536) (hp : s.mem.poison = [])
include hs hpages hn hl hp

/-- What of the image that LOAD wrote is read. -/
theorem imgRead_loadMasters (hk : k + n ≤ a.size) :
    imgRead (loadMasters s a l pay).mem a k n = sub (loadedImage a pay) k n := by
  have hsize := length_loadedImage (pay := pay) hs
  have hmod := imageSize_mod a.desc a.sites
  rw [imgRead, hpages, Option.getD_some, loadMasters_eq, ← Nat.zero_add k,
    pagesRead_pagesWrite hp hn (by omega) (by omega), Nat.zero_add]

theorem imgSteps_loadMasters : imgSteps (loadMasters s a l pay).mem a = 0 := by
  have hin := sites_in_image a.desc a.sites
  rw [imgSteps, imgNat, imgRead_loadMasters hs hpages hn hl hp (by omega), stepCount_loadedImage]

theorem masterBytes_loadMasters (hpay : pay.length = mastersLen a) : masterBytes (loadMasters s a l pay).mem a = pay := by
  have hsites : masterBytes (loadMasters s a l pay).mem a = (List.range (descSites a.desc)).flatMap fun t =>
      sub pay (mastersAt a t) (mastersOf a t) := by
    refine List.flatMap_congr fun t ht => ?_
    rw [List.mem_range] at ht
    exact (imgRead_loadMasters hs hpages hn hl hp (masters_in_image hs ht)).trans (masters_loadedImage ht)
  rw [hsites]
  exact flatMap_sub.trans (sub_whole hpay)

end

end Sys2Proof.Machine

namespace Sys2Proof.Machine

/-! # Pages given back, units unmapped and entered: adapters and freed pages stay (R336, R434) -/

section
variable {s t : State} {a : Adapter} {k p pg u n : Nat} {l : List Nat}

/-- A page is given to no one. -/
def notLive (s : State) (p : Nat) : Prop := ∀ x, aGet? s.mem.pages p = some x → x.live = false

theorem notLive_freePages (h : notLive s p) : notLive (freePages s l) p := fun x hx => by
  rw [aGet?_freePages, Option.map_eq_some_iff] at hx
  obtain ⟨y, hy, rfl⟩ := hx
  simp [h y hy]

theorem notLive_of_mem (hm : t.mem = s.mem) (h : notLive s p) : notLive t p := fun x hx => h x (by rwa [← hm])

theorem notLive_dropCopy (h : notLive s p) : notLive (dropCopy s k) p := by
  unfold dropCopy
  split
  · exact h
  · rename_i c _
    exact notLive_of_mem rfl (notLive_freePages (s := { s with mem := { s.mem with resident := aDel s.mem.resident k } })
      (l := [c.place]) h)

theorem notLive_staleCopy (h : notLive s p) : notLive (staleCopy s n k) p := by
  unfold staleCopy
  dsimp only
  split
  · exact h
  · split
    · exact notLive_dropCopy h
    · exact h

theorem dropCopy_leaves : (dropCopy s k).adapters = s.adapters ∧ (dropCopy s k).evictions = s.evictions := by
  unfold dropCopy
  split <;> exact ⟨rfl, rfl⟩

theorem staleCopy_leaves : (staleCopy s n k).adapters = s.adapters ∧ (staleCopy s n k).evictions = s.evictions := by
  unfold staleCopy
  dsimp only
  split
  · exact ⟨rfl, rfl⟩
  · split
    · exact dropCopy_leaves
    · exact ⟨rfl, rfl⟩

theorem unmapUnit_leaves (s : State) (p u pg : Nat) :
    (unmapUnit s p u).adapters = s.adapters ∧ (notLive s pg → notLive (unmapUnit s p u) pg) := by
  cases hu : unitIdx s p u with
  | none =>
    rw [unmapUnit_of_none hu]
    exact ⟨rfl, id⟩
  | some i =>
    rw [unmapUnit_of_idx hu]
    obtain ⟨hmem, hadapters, -⟩ := fields_of_besideFlow
      (besideFlow_dropUnit.trans (besideFlow_toldZeros (s := s) (p := p) (u := u) (i := i)))
    generalize dropUnit (toldZeros s p u i) i = v at hmem hadapters
    obtain ⟨hmem', hadapters', -⟩ := fields_of_besideFlow (besideFlow_settle (s := staleCopy v p (u / 4)))
    exact ⟨hadapters'.trans (staleCopy_leaves.1.trans hadapters),
      fun h => notLive_of_mem hmem' (notLive_staleCopy (notLive_of_mem hmem h))⟩

theorem unmapUnits_leaves (s : State) (p : Nat) (l : List Nat) (pg : Nat) :
    (unmapUnits s p l).adapters = s.adapters ∧ (notLive s pg → notLive (unmapUnits s p l) pg) :=
  foldl_keeps (fun t => t.adapters = s.adapters ∧ (notLive s pg → notLive t pg)) _
    (fun t u ⟨ha, hl⟩ => ⟨(unmapUnit_leaves t p u pg).1.trans ha, fun h => (unmapUnit_leaves t p u pg).2 (hl h)⟩) _ _ ⟨rfl, id⟩

/-- An image's units enter the write buffer; the counts of evictions stay. -/
theorem evictions_writeImageHome : (writeImageHome s k n a).1.evictions = s.evictions := by
  refine foldl_keeps (fun b : State × List Nat => b.1.evictions = s.evictions) _ (fun b x he => ?_) _ _ rfl
  split
  · exact he
  · obtain ⟨-, -, hevictions⟩ := fields_of_besideFlow besideFlow_enterUnit
    exact staleCopy_leaves.2.trans (hevictions.trans he)

/-- The answer of EVICT waits for the units where it must. -/
theorem besideFlow_sent {c : Cmd} {os : List Nat} : besideFlow (if c.durable = true ∨ bankWeak s = true then
    whenDurable s c os replyOk else (s, some replyOk)).1 = besideFlow s := by
  split
  · exact besideFlow_whenDurable
  · rfl

/-! ## An image dropped -/

theorem dropImage_resident (h : a.pages = some l) : dropImage s k a = releasePages
    { zeroPages s l with adapters := aPut (zeroPages s l).adapters k { a with pages := none } } a.partition l := by
  unfold dropImage
  rw [h]
  rfl

theorem aGet?_dropImage (i : Nat) (hi : i ≠ k) : aGet? (dropImage s k a).adapters i = aGet? s.adapters i := by
  cases h : a.pages with
  | none => rw [dropImage, h]
  | some l =>
    rw [dropImage_resident h]
    obtain ⟨-, -, -, hadapters, -⟩ := fields_of_besideMemory (besideMemory_zeroPages (s := s) (pages := l))
    exact (aGet?_aPut ..).trans ((if_neg hi).trans (by rw [hadapters]))

theorem aGet?_dropImage_same (h : a.pages = some l) : aGet? (dropImage s k a).adapters k = some { a with pages := none } := by
  rw [dropImage_resident h]
  exact (aGet?_aPut ..).trans (if_pos rfl)

theorem notLive_dropImage (h : a.pages = some l) (hp : p ∈ l) : notLive (dropImage s k a) p := by
  rw [dropImage_resident h]
  exact fun x hx => releasePages_frees hp hx

theorem evictions_dropImage : (dropImage s k a).evictions = s.evictions := by
  cases h : a.pages with
  | none => rw [dropImage, h]
  | some l =>
    rw [dropImage_resident h]
    obtain ⟨-, -, -, -, hevictions, -⟩ := fields_of_besideMemory (besideMemory_zeroPages (s := s) (pages := l))
    exact hevictions

end

end Sys2Proof.Machine

namespace Sys2Proof.Machine

/-! # The commands on adapters (R332 to R336, R361) -/

section
variable {s s1 : State} {q : Req} {a : Adapter} {k : Nat} {l pages : List Nat}

/-! ## CREATE -/

/-- The adapter that a descriptor with its site table describes, resident in pages. -/
def describedAdapter (q : Req) (pages : List Nat) : Adapter :=
  ⟨q.part, q.pay.take 64, q.pay.drop 64, leAt q.pay 8 8, imageSize (q.pay.take 64) (q.pay.drop 64), some pages, false, none⟩

theorem adapterCreate_makes (hop : operatorPart q.c = false) (hf : formFields q.c = true) (hh : q.c.handle = 0)
    (hok : adapterOk q.pay = true) (hu : unsealed s q.part = false)
    (hhome : homeFree s q.part (leAt q.pay 8 8) (imageSize (q.pay.take 64) (q.pay.drop 64)) = true)
    (hk : freeAdapter s = some k) (hres : residentCount s < 4096)
    (ha : allocPages s q.part (imageSize (q.pay.take 64) (q.pay.drop 64) / 65536) = some (s1, pages)) :
    ∃ v, adapterCreateCmd s q = done v k ∧ v.parts = s1.parts ∧ v.adapters = aPut s.adapters k (describedAdapter q pages) := by
  rw [show adapterCreateCmd s q = guards s _ _ from rfl,
    guards_pass (by simp [hop, hf, hh, hok, hu, hhome, hk, hres]), ha, hk]
  obtain ⟨hparts, -, -, hadapters, -⟩ := fields_of_besideMemory
    (besideMemory_pagesWrite.trans (besideMemory_scramblePages (s := s1) (pages := pages)))
  obtain ⟨-, -, hadapters', -⟩ := allocPages_leaves ha
  exact ⟨_, rfl, hparts, congrArg (aPut · k (describedAdapter q pages)) (hadapters.trans hadapters')⟩

/-! ## The forms on one adapter -/

theorem namedAdapter_own (ha : aGet? s.adapters q.c.handle = some a) (hp : a.partition = q.part) :
    namedAdapter s q = some a := by
  unfold namedAdapter
  rw [ha]
  exact if_pos (.inl hp)

/-- An image brought up lies in the pages given out for it. -/
theorem resideImage_brings {vals : List UnitVal} (halloc : allocPages s a.partition (a.size / 65536) = some (s1, pages)) :
    ∃ v, resideImage s k a vals = some v ∧ aGet? v.adapters k = some { a with pages := some pages } ∧ v.ftl = s.ftl ∧
      v.life = s.life := by
  obtain ⟨-, hlife, hftl, -⟩ := fields_of_besideMemory besideMemory_pagesWrite
  obtain ⟨hlife', hftl', -⟩ := allocPages_leaves halloc
  rw [resideImage, halloc]
  exact ⟨_, rfl, (aGet?_aPut ..).trans (if_pos rfl), hftl.trans hftl', hlife.trans hlife'⟩

section
variable (hu : unsealed s q.part = false) (hf : formFields q.c = true) (ha : namedAdapter s q = some a)
include hu hf ha

theorem adapterChecks_pass {noPay : Bool} (hpay : noPay = true → q.pay = []) : ∀ x ∈ adapterChecks s q noPay, x.1 = false := by
  cases noPay
  · simp [adapterChecks, hu, hf, ha]
  · simp [adapterChecks, hu, hf, ha, hpay]

theorem tenantChecks_pass {noPay : Bool} (hop : operatorPart q.c = false) (hpay : noPay = true → q.pay = []) :
    ∀ x ∈ (operatorPart q.c, stInvalidField) :: adapterChecks s q noPay, x.1 = false :=
  List.forall_mem_cons.mpr ⟨hop, adapterChecks_pass hu hf ha hpay⟩

theorem adapterLoad_loads (hop : operatorPart q.c = false) (hlen : q.pay.length = mastersLen a) (hpages : a.pages = some l)
    (hpin : a.pinnedBy = none) : adapterLoadCmd s q = done (loadMasters s a l q.pay) 0 := by
  unfold adapterLoadCmd
  rw [guards_pass (tenantChecks_pass hu hf ha hop (by simp)), ha]
  dsimp only
  rw [guards_pass (by simp [hlen, hpages, hpin]), hpages]
  rfl

variable (hpay : q.pay = [])
include hpay

theorem adapterExport_answers (hop : operatorPart q.c = false) (hpages : a.pages = some l)
    (hroom : roomFor q (8 + mastersLen a) = true) (hclean : pagesPoisoned s.mem l 0 a.size = false) : adapterExportCmd s q =
      answerReply s q stSuccess (imgSteps s.mem a) 0 (toLe 8 (imgSteps s.mem a) ++ masterBytes s.mem a) := by
  unfold adapterExportCmd
  rw [guards_pass (tenantChecks_pass hu hf ha hop fun _ => hpay), ha]
  dsimp only
  rw [guards_pass (by simp [hroom, hpages, hclean])]

theorem adapterDelete_pinned (hop : operatorPart q.c = false) (hpin : a.pinnedBy.isSome = true) :
    adapterDeleteCmd s q = fail s stSequence := by
  unfold adapterDeleteCmd
  rw [guards_pass (tenantChecks_pass hu hf ha hop fun _ => hpay), ha]
  exact if_pos hpin

theorem adapterDelete_deletes (hop : operatorPart q.c = false) (hpin : a.pinnedBy = none) : ∃ v,
    adapterDeleteCmd s q = done v 0 ∧
      (∀ i, aGet? v.adapters i = if i = q.c.handle then none else aGet? s.adapters i) ∧
      ∀ l, a.pages = some l → ∀ p ∈ l, notLive v p := by
  unfold adapterDeleteCmd
  rw [guards_pass (tenantChecks_pass hu hf ha hop fun _ => hpay), ha]
  dsimp only
  rw [if_neg (by simp [hpin])]
  refine ⟨unmapUnits { dropImage s q.c.handle a with adapters := aDel (dropImage s q.c.handle a).adapters q.c.handle } a.partition
    (homeUnits a), rfl, fun i => ?_, fun l hl p hp => (unmapUnits_leaves _ _ _ p).2 (notLive_dropImage hl hp)⟩
  rw [(unmapUnits_leaves _ _ _ 0).1, aGet?_aDel]
  split
  · rfl
  · exact aGet?_dropImage i ‹_›

/-! ## RESIDE and EVICT -/

section
variable {vals : List UnitVal} {ok : Bool} (hgone : a.pages = none) (hwritten : a.homeWritten = true)
  (hres : residentCount s < 4096) (hfits : fits s a.partition 3 a.size = true) (hvals : homeVals s a = some vals)
include hgone hwritten hres hfits hvals

theorem reside_brings (hok : ok = true) (hform : ∀ v ∈ vals, v.form = 2)
    (halloc : allocPages s a.partition (a.size / 65536) = some (s1, pages)) : ∃ v, resideCmd ok s q = done v 0 ∧
      aGet? v.adapters q.c.handle = some { a with pages := some pages } ∧ v.ftl = s.ftl ∧ v.life = s.life := by
  unfold resideCmd
  rw [guards_pass (adapterChecks_pass hu hf ha fun _ => hpay), ha]
  dsimp only
  rw [guards_pass (by simp [hgone, hwritten, hres, hfits]), hvals]
  dsimp only
  obtain ⟨v, hv, hafter⟩ := resideImage_brings (k := q.c.handle) (vals := vals) halloc
  rw [if_neg (by simpa [hok] using hform), hv]
  exact ⟨v, rfl, hafter⟩

theorem reside_fails : resideCmd false s q = fail (bump s Reg.ADPT_SEAL_FAIL 1) stSeal := by
  unfold resideCmd
  rw [guards_pass (adapterChecks_pass hu hf ha fun _ => hpay), ha]
  dsimp only
  rw [guards_pass (by simp [hgone, hwritten, hres, hfits]), hvals]
  exact if_pos (.inl rfl)

end

/-- EVICT counts the eviction, writes the units home and drops the image; its answer may wait for them. -/
theorem evict_drops (hpages : a.pages = some l) (hpin : a.pinnedBy = none)
    (hcount : aGetD s.evictions q.c.handle 0 < 0xFFFFFFFF) (hclean : pagesPoisoned s.mem l 0 a.size = false)
    (hprot : writeProtected s = false) :
    aGet? (evictCmd s q).1.adapters q.c.handle = some { a with pages := none, homeWritten := true } ∧
      aGetD (evictCmd s q).1.evictions q.c.handle 0 = aGetD s.evictions q.c.handle 0 + 1 ∧
      ∀ p ∈ l, notLive (evictCmd s q).1 p := by
  unfold evictCmd
  dsimp only
  rw [guards_pass (adapterChecks_pass hu hf ha fun _ => hpay), ha]
  dsimp only
  rw [guards_pass (by simp [hpages, hpin, hclean, hprot]; omega)]
  generalize hn : aGetD s.evictions q.c.handle 0 + 1 = n
  have hevictions := evictions_writeImageHome (s := { s with evictions := aPut s.evictions q.c.handle n }) (k := q.c.handle)
    (n := n) (a := a)
  generalize writeImageHome _ _ _ _ = sent at hevictions ⊢
  obtain ⟨v, os⟩ := sent
  dsimp only at hevictions ⊢
  have hget := aGet?_dropImage_same (s := v) (k := q.c.handle) (a := { a with homeWritten := true }) hpages
  have hcounts := evictions_dropImage (s := v) (k := q.c.handle) (a := { a with homeWritten := true })
  have hfree (p) := notLive_dropImage (s := v) (k := q.c.handle) (a := { a with homeWritten := true }) (p := p) hpages
  generalize dropImage v q.c.handle { a with homeWritten := true } = w at hget hcounts hfree
  obtain ⟨hmem, hadapters', hevictions'⟩ := fields_of_besideFlow (besideFlow_sent (s := w) (c := q.c) (os := os))
  refine ⟨by rw [hadapters', hget], ?_, fun p hp => notLive_of_mem hmem (hfree p hp)⟩
  rw [hevictions', hcounts, hevictions, aGetD_aPut, if_pos rfl]

end

end

end Sys2Proof.Machine

namespace Sys2Proof.Machine

/-! # Row sets (R339) -/

section
variable {s s1 : State} {q : Req} {r : RowSet} {h : Nat} {l : List Nat}

/-- The rules of a new row set's descriptor. -/
def rowSetRules (pay : List Byte) : Prop := pay.length = 64 ∧ allZero pay 8 56 = true ∧ leAt pay 0 4 ≠ 0 ∧
  64 ≤ leAt pay 4 4 ∧ leAt pay 4 4 ≤ 65536 ∧ leAt pay 4 4 % 64 = 0

theorem rowsetCreate_makes (hop : operatorPart q.c = false) (hf : rowFieldsOk q.c = true) (h0 : rowHandle q.c = 0)
    (hd : rowSetRules q.pay) (hu : unsealed s q.part = false)
    (hh : ((List.range 255).map (· + 1)).find? (fun h => !aHas s.rowsets (tabKey q.part h)) = some h)
    (ha : allocPages s q.part (pagesFor (leAt q.pay 0 4 * leAt q.pay 4 4)) = some (s1, l)) :
    ∃ v, rowsetCreateCmd s q = done v h ∧ v.parts = s1.parts ∧
      v.rowsets = aPut s.rowsets (tabKey q.part h) ⟨leAt q.pay 0 4, leAt q.pay 4 4, l⟩ := by
  obtain ⟨hlen, hz, hrows, hlo, hhi, hmod⟩ := hd
  rw [show rowsetCreateCmd s q = guards s _ _ from rfl, hh,
    guards_pass (by simp [hop, hf, h0, hlen, hz, hrows, hmod, hu]; omega), ha]
  obtain ⟨hparts, -, -, -, -, hrowsets⟩ := fields_of_besideMemory (besideMemory_scramblePages (s := s1) (pages := l))
  obtain ⟨-, -, -, hrowsets'⟩ := allocPages_leaves ha
  exact ⟨_, rfl, hparts, congrArg (aPut · (tabKey q.part h) _) (hrowsets.trans hrowsets')⟩

/-- Rows loaded are read back. -/
theorem pagesRead_loadedRows {first n : Nat} {pay : List Byte} (hp : s.mem.poison = []) (hn : r.pages.Nodup)
    (hl : r.pages.length = pagesFor (r.rows * r.rowBytes)) (hrows : first + n ≤ r.rows) (hlen : pay.length = n * r.rowBytes) :
    pagesRead (pagesWrite s r.pages (first * r.rowBytes) pay).mem r.pages (first * r.rowBytes) (n * r.rowBytes) = pay := by
  have hend : (first + n) * r.rowBytes ≤ r.rows * r.rowBytes := Nat.mul_le_mul_right _ hrows
  rw [Nat.add_mul] at hend
  have hread := pagesRead_pagesWrite (off := first * r.rowBytes) (k := 0) (n := n * r.rowBytes) (l := pay) hp hn
    (by unfold pagesFor at hl; omega) (by omega)
  rwa [Nat.add_zero, sub_whole hlen] at hread

section
variable (hop : operatorPart q.c = false) (hf : rowFieldsOk q.c = true) (hu : unsealed s q.part = false)
  (hr : rowSetOf s q = some r)
include hop hf hu hr

theorem rowsetChecks_pass : ∀ x ∈ rowsetChecks s q, x.1 = false := by
  simp [rowsetChecks, hop, hf, hu, hr]

theorem rowsetLoad_loads (hlen : q.pay.length = 16 + leAt q.pay 8 4 * r.rowBytes) (hz : allZero q.pay 12 4 = true)
    (hrows : leAt q.pay 0 8 + leAt q.pay 8 4 ≤ r.rows) (hused : rowSetUsed s q.part (rowHandle q.c) = false) :
    rowsetLoadCmd s q = done (pagesWrite s r.pages (leAt q.pay 0 8 * r.rowBytes) (q.pay.drop 16)) (leAt q.pay 8 4) := by
  unfold rowsetLoadCmd
  dsimp only
  rw [guards_pass (rowsetChecks_pass hop hf hu hr), hr]
  dsimp only
  rw [guards_pass (by simp [hlen, hz, hrows, hused])]

theorem rowsetRead_answers (hlen : q.pay.length = 16) (hz : allZero q.pay 12 4 = true)
    (hrows : leAt q.pay 0 8 + leAt q.pay 8 4 ≤ r.rows) (hroom : roomFor q (leAt q.pay 8 4 * r.rowBytes) = true)
    (hclean : pagesPoisoned s.mem r.pages (leAt q.pay 0 8 * r.rowBytes) (leAt q.pay 8 4 * r.rowBytes) = false) :
    rowsetReadCmd s q = answerReply s q stSuccess (leAt q.pay 8 4) 0
      (pagesRead s.mem r.pages (leAt q.pay 0 8 * r.rowBytes) (leAt q.pay 8 4 * r.rowBytes)) := by
  unfold rowsetReadCmd
  dsimp only
  rw [guards_pass (rowsetChecks_pass hop hf hu hr), hr]
  dsimp only
  rw [guards_pass (by simp [hlen, hz, hrows, hroom, hclean])]

/-- DELETE of a row set: its pages are given back, unless a STEP uses it. -/
theorem rowsetDelete_eq (hpay : q.pay = []) : rowsetDeleteCmd s q =
    if rowSetUsed s q.part (rowHandle q.c) then fail s stSequence
    else done { releasePages s q.part r.pages with
      rowsets := aDel (releasePages s q.part r.pages).rowsets (tabKey q.part (rowHandle q.c)) } 0 := by
  unfold rowsetDeleteCmd
  rw [guards_pass (List.forall_mem_cons.mpr ⟨by simp [hpay], rowsetChecks_pass hop hf hu hr⟩), hr]

end

end

/-- An answer with data carries its payload behind the envelope, and changes nothing of what is answered. -/
theorem answerReply_carries (s : State) (q : Req) (st : Status) (dw0 dw1 : Nat) (pay : List Byte) :
    ∃ v r, answerReply s q st dw0 dw1 pay = (v, some r) ∧ r.st = st ∧ r.dw0 = BitVec.ofNat 32 dw0 ∧ r.data.drop 64 = pay ∧
      v.mem = s.mem ∧ v.adapters = s.adapters ∧ v.rowsets = s.rowsets := by
  obtain ⟨v, head, info, he, hhead, hv⟩ := answerReply_envelops s q st dw0 dw1 pay
  exact ⟨v, _, he, rfl, rfl, List.drop_left' hhead, by rw [hv], by rw [hv], by rw [hv]⟩

/-! # Forms that both the operator and a tenant may send -/

section
variable {s u : State} {c : Cmd} {opcode form : Nat} {a b classOk : Bool} {o : Opened} {q : Req}
  {body : State → Req → State × Option Reply}

/-- What a form's meaning does to memory, adapters and counts of evictions, whether its answer waits or not. -/
theorem runForm_leads (h : SealedBegins s c opcode a b classOk o u q) (hf : c.form = form) :
    ∃ t, runForm c form (runSealed c opcode a b classOk o body) s = .next t ∧ t.mem = (body u q).1.mem ∧
      t.adapters = (body u q).1.adapters ∧ t.evictions = (body u q).1.evictions :=
  ⟨_, (runForm_same hf _ s).trans (runSealed_begins h body), fields_of_besideFlow besideFlow_runBody⟩

end

/-- Settles O48: what each command does is said once (`adapterCreate_makes`, `adapterLoad_loads`, `adapterExport_answers`,
`adapterDelete_deletes`, `reside_brings`, `evict_drops`, `rowsetCreate_makes`, `rowsetLoad_loads`, `rowsetRead_answers`,
`rowsetDelete_eq`); an object in pages reads what was written into it (`pagesRead_pagesWrite`). -/
theorem adaptersAndRowSets : Obligations.AdaptersAndRowSets := by
  unfold Obligations.AdaptersAndRowSets
  refine fun s u c o q => ⟨fun hb hop hu => ?_, fun hb hu hf hpay a ha => ?_⟩
  · obtain rfl := hb.cmd
    refine ⟨?_, fun a hget hpart hf => ⟨?_, ?_, fun hform hpay => ⟨fun hpin => ?_, fun hpin => ?_⟩⟩, ?_,
      fun r hr hf => ⟨?_, ?_, fun hform hpay => ⟨fun hused => ?_, fun hused => ?_⟩⟩⟩
    · intro k s1 pages hform hf h0 hok size hhome hk hres halloc
      obtain ⟨v, hv, hparts, hadapters⟩ := adapterCreate_makes hop hf h0 hok hu hhome hk hres halloc
      refine ⟨_, runForm_answers hb hform hv rfl, v, rfl, freeAdapter_free hk, ?_, fun i hi => ?_, hparts⟩
      · rw [hadapters, aGet?_aPut, if_pos rfl]
        rfl
      · rw [hadapters, aGet?_aPut, if_neg hi]
    · intro l hform hlen hpages hpin hn hp hs hl
      have hv := adapterLoad_loads hu hf (namedAdapter_own hget hpart) hop hlen hpages hpin
      obtain ⟨-, -, -, hadapters, -⟩ := fields_of_besideMemory (besideMemory_pagesWrite (s := u) (pages := l) (a := 0))
      exact ⟨_, runForm_answers hb hform hv rfl, _, rfl, hadapters, imgSteps_loadMasters hs hpages hn hl hp,
        masterBytes_loadMasters hs hpages hn hl hp hlen⟩
    · intro l hform hpay hpages hroom hclean
      obtain ⟨v, r, he, hst, hdw, hdata, hmem, hadapters, -⟩ := answerReply_carries u q stSuccess (imgSteps u.mem a) 0 _
      have hv := (adapterExport_answers hu hf (namedAdapter_own hget hpart) hpay hop hpages hroom hclean).trans he
      exact ⟨_, runForm_answers hb hform hv (by rw [hst]; rfl), v, r, rfl, hst, hdw, hadapters, hmem, hdata⟩
    · obtain ⟨v, hv, hadapters, hfree⟩ := adapterDelete_deletes hu hf (namedAdapter_own hget hpart) hpay hop hpin
      exact ⟨_, runForm_answers hb hform hv rfl, (hadapters _).trans (if_pos rfl),
        fun i hi => (hadapters i).trans (if_neg hi), hfree⟩
    · exact runForm_answers hb hform (adapterDelete_pinned hu hf (namedAdapter_own hget hpart) hpay hop hpin) rfl
    · intro h s1 l hform hf h0 hlen hz hrows hlo hhi hmod hh halloc
      obtain ⟨v, hv, hparts, hrowsets⟩ := rowsetCreate_makes hop hf h0 ⟨hlen, hz, hrows, hlo, hhi, hmod⟩ hu hh halloc
      refine ⟨_, runForm_answers hb hform hv rfl, v, rfl, hparts, ?_, fun i hi => ?_⟩
      · rw [hrowsets, aGet?_aPut, if_pos rfl]
      · rw [hrowsets, aGet?_aPut, if_neg hi]
    · intro hform hlen hz hrows hused hn hl hp
      have hv := rowsetLoad_loads hop hf hu hr hlen hz hrows hused
      obtain ⟨-, -, -, -, -, hrowsets⟩ := fields_of_besideMemory besideMemory_pagesWrite
      exact ⟨_, runForm_answers hb hform hv rfl, _, rfl, hrowsets,
        pagesRead_loadedRows hp hn hl hrows (by rw [List.length_drop, hlen]; omega)⟩
    · intro hform hlen hz hrows hroom hclean
      obtain ⟨v, x, he, hst, hdw, hdata, hmem, -, hrowsets⟩ := answerReply_carries u q stSuccess (leAt q.pay 8 4) 0 _
      have hv := (rowsetRead_answers hop hf hu hr hlen hz hrows hroom hclean).trans he
      exact ⟨_, runForm_answers hb hform hv (by rw [hst]; rfl), v, x, rfl, hst, hdw, hmem, hrowsets, hdata⟩
    · have hv := (rowsetDelete_eq hop hf hu hr hpay).trans (if_neg (by simp [hused]))
      exact ⟨_, runForm_answers hb hform hv rfl, _, rfl, (aGet?_aDel ..).trans (if_pos rfl),
        fun p hp x hx => releasePages_frees (part := q.part) hp hx⟩
    · exact runForm_answers hb hform ((rowsetDelete_eq hop hf hu hr hpay).trans (if_pos hused)) rfl
  · obtain rfl := hb.cmd
    refine ⟨fun ok hform hgone hwritten hres hfits l hl => ⟨fun s1 pages hok hforms halloc => ?_, fun hok => ?_⟩,
      fun l hform hpages hpin hcount hclean hprot => ?_⟩
    · obtain ⟨v, hv, hget, hftl, hlife⟩ := reside_brings hu hf ha hpay hgone hwritten hres hfits hl hok hforms halloc
      exact ⟨_, runForm_answers hb hform hv rfl, hget, hftl, hlife⟩
    · subst hok
      have hv := reside_fails hu hf ha hpay hgone hwritten hres hfits hl
      refine (runForm_same hform _ s).trans ((runSealed_begins hb _).trans ?_)
      rw [runBody, hv]
      rfl
    · obtain ⟨hget, hcounts, hfree⟩ := evict_drops hu hf ha hpay hpages hpin hcount hclean hprot
      obtain ⟨t, ht, hmem, hadapters, hevictions⟩ := runForm_leads (body := evictCmd) hb hform
      exact ⟨t, ht, by rw [hadapters, hget], by rw [hevictions, hcounts], fun p hp => notLive_of_mem hmem (hfree p hp)⟩

end Sys2Proof.Machine
